-- ==== Sys2Proof/Word.lean ====
section
/-! DEFINITION. The bit-vector widths the manual names (R5): byte, half, word, dword, and the
instruction word of 64 bits. -/

namespace Sys2Proof

/-- A byte, the smallest addressable unit (R5). -/
abbrev Byte := BitVec 8
/-- A half, 16 bits (R5). -/
abbrev Half := BitVec 16
/-- A word, 32 bits: a v register or a uniform register (R5, R66). -/
abbrev Word := BitVec 32
/-- A dword, 64 bits: a register pair or a lane mask (R5, R66). -/
abbrev Dword := BitVec 64
/-- An instruction word, always 64 bits (R5, R36). -/
abbrev IWord := BitVec 64
/-- A 56-bit virtual address of a context (R36, R101). -/
abbrev VAddr := BitVec 56

end Sys2Proof
end

