-- ==== Sys2Proof/Syntax.lean ====
section
/-! DEFINITION. The instruction words and the events of the opcode table as one inductive type, with
the field formats of the encoding chapter (R36 to R57). A constructor of a word keeps the manual's
own fields; what a field value means is read in Machine/Operands.lean and which values are legal in
WellFormed.lean. A constructor of an event (a step of an agent other than an issuing bundle) has no
fields: its operands, the choices that the manual leaves to that agent or to the outside world, stand
in the state beside it (EvArg). -/

namespace Sys2Proof

/-- The fields of a PFX word (R55): each override bit with its group. -/
structure Pfx where
  /-- OVO: the ordering and scope below override the defaults. -/
  ovo : Bool
  /-- ORD: 0 relaxed, 1 acquire, 2 release, 3 acq_rel. -/
  ord : BitVec 2
  /-- SCOPE: 0 wave to 6 system, 7 reserved. -/
  scope : BitVec 3
  /-- OVS: SPACE overrides the address space. -/
  ovs : Bool
  /-- SPACE: 0 global, 1 scratchpad, 2 cluster scratchpad. -/
  space : BitVec 3
  /-- OVP: POL overrides the cache policy. -/
  ovp : Bool
  /-- POL: cache policy 0 to 5. -/
  pol : BitVec 4
  /-- OVX: OFF32 replaces OFF18. -/
  ovx : Bool
  /-- OFF32: signed byte offset. -/
  off32 : BitVec 32
  deriving DecidableEq, Repr, Inhabited

/-- The header of a full word (R37) together with the prefixes of its issue unit (R57). -/
structure Hdr where
  /-- The PFX word before the instruction, if there is one. -/
  pfx : Option Pfx
  /-- The value of the IMX word before the instruction, if there is one. -/
  imx : Option Word
  /-- C: the next word belongs to the same chain. -/
  chain : Bool
  /-- N: guard negate. -/
  neg : Bool
  /-- P: guard predicate, 7 always true. -/
  pred : BitVec 3
  deriving DecidableEq, Repr, Inhabited

/-- Format F, three operands (R43). -/
structure FmtF where
  d : BitVec 8
  a : BitVec 8
  b : BitVec 8
  c : BitVec 8
  w : Bool
  ua : Bool
  ub : Bool
  uc : Bool
  mod : BitVec 12
  deriving DecidableEq, Repr, Inhabited

/-- Format I, immediate (R45). -/
structure FmtI where
  d : BitVec 8
  a : BitVec 8
  w : Bool
  ua : Bool
  mod : BitVec 6
  imm : BitVec 24
  deriving DecidableEq, Repr, Inhabited

/-- Format M, memory (R46). -/
structure FmtM where
  d : BitVec 8
  ar : BitVec 8
  b : BitVec 8
  w : Bool
  ua : Bool
  sz : BitVec 4
  off : BitVec 18
  deriving DecidableEq, Repr, Inhabited

/-- Format J, jump (R47). -/
structure FmtJ where
  ld : BitVec 8
  a : BitVec 8
  rel : BitVec 32
  deriving DecidableEq, Repr, Inhabited

/-- Format X, engine (R48). -/
structure FmtX where
  u0 : BitVec 6
  u1 : BitVec 6
  u2 : BitVec 6
  u3 : BitVec 6
  u4 : BitVec 6
  u5 : BitVec 6
  xmod : BitVec 12
  deriving DecidableEq, Repr, Inhabited

/-- Format S (R49): the 48 field bits, which each instruction lays out itself. -/
structure FmtS where
  body : BitVec 48
  deriving DecidableEq, Repr, Inhabited

/-- One half of a paired word (R38). -/
structure PHalf where
  p : BitVec 3
  op6 : BitVec 6
  d : BitVec 8
  s : BitVec 8
  imm6 : BitVec 6
  deriving DecidableEq, Repr, Inhabited

/-- A thread: the model's number of its wave or sprout thread, and its wave index (R77, R98). -/
structure TRef where
  u : Nat
  i : Nat
  deriving DecidableEq, Repr, Inhabited

/-- An L2-level agent of the sector protocol (R25, R247): the L2 of a C-die, or the host's
caching agent. -/
inductive Agent where
  | l2 (die : Nat)
  | host
  deriving DecidableEq, Repr, Inhabited

/-- The operands of an event; each event's meaning says which it reads. -/
structure EvArg where
  /-- Numbers: a place in a list, a context, a core, a queue, a sector, an offset. -/
  n : Nat
  k : Nat
  m : Nat
  /-- A thread. -/
  t : TRef
  /-- An L2-level agent. -/
  a : Agent
  /-- Data that the host's caching agent sends with its message, if it sends any. -/
  d : Option (BitVec 512)
  /-- A sector that the agent's L2 evicts in the same step, if it evicts one (R251). -/
  e : Option Nat
  /-- A value written to a register. -/
  v : Dword
  /-- Bytes that the outside world sends. -/
  bytes : List Byte
  deriving DecidableEq, Repr, Inhabited

/-- The opcode table: one constructor per row. -/
inductive Instr where
  /-- PAIRED_WORD (R39). Issues the two restricted halves of a paired word together for one bundle, reading all sources before either half writes. -/
  | pairedWord (chain : Bool) (h0 h1 : PHalf)
  /-- NOP (R103). Does nothing. -/
  | nop (h : Hdr) (f : FmtS)
  /-- BRA (R101). Branches each active thread to a PC-relative target. -/
  | bra (h : Hdr) (f : FmtJ)
  /-- BRX (R101). Branches each active thread through a register pair plus displacement. -/
  | brx (h : Hdr) (f : FmtJ)
  /-- CALL (R101). Writes the return address to a link pair and branches PC-relative. -/
  | call (h : Hdr) (f : FmtJ)
  /-- CALLX (R101). Writes the return address to a link pair and branches through a register pair. -/
  | callx (h : Hdr) (f : FmtJ)
  /-- RET (R101). Returns through a register pair, as BRX with zero displacement. -/
  | ret (h : Hdr) (f : FmtJ)
  /-- EXIT (R102). Ends the thread, removing it from masks and abandoning its wave's held locks when the wave exits. -/
  | exit (h : Hdr) (f : FmtS)
  /-- YIELD (R104). Gives each active thread a new ready time and continues. -/
  | yield (h : Hdr) (f : FmtS)
  /-- SLEEP (R105). Puts each active thread to sleep until an absolute ptb deadline. -/
  | sleep (h : Hdr) (f : FmtI)
  /-- MWAIT (R108). Reads a memory word and, if it equals the expected value, arms a monitor and waits for a change. -/
  | mwait (h : Hdr) (f : FmtM)
  /-- BRK (R106). Raises DEBUG precisely with a 16-bit code. -/
  | brk (h : Hdr) (f : FmtS)
  /-- JOIN (R109). Sets the bits of the active threads in a wave mask. -/
  | join (h : Hdr) (f : FmtS)
  /-- LEAVE (R109). Clears the bits of the active threads in a wave mask. -/
  | leave (h : Hdr) (f : FmtS)
  /-- WAITM (R95). Makes each named thread wait until every thread named in the mask waits on it. -/
  | waitm (h : Hdr) (f : FmtS)
  /-- MSET_NONE (R110). Sets a wave mask to zero. -/
  | msetNone (h : Hdr) (f : FmtI)
  /-- MSET_LIVE (R110). Sets a wave mask to every thread of the wave that has not exited. -/
  | msetLive (h : Hdr) (f : FmtI)
  /-- MSET_HERE (R110). Sets a wave mask to the wave's active threads in this bundle. -/
  | msetHere (h : Hdr) (f : FmtI)
  /-- MSET_IMM (R110). Sets a wave mask from an immediate or IMX value. -/
  | msetImm (h : Hdr) (f : FmtI)
  /-- MSET_SREG (R110). Sets a wave mask from a uniform register pair. -/
  | msetSreg (h : Hdr) (f : FmtI)
  /-- MOV (R128). Copies a 32- or 64-bit source to a v destination. -/
  | mov (h : Hdr) (f : FmtF)
  /-- MOVI (R129). Loads an extended immediate into a v register or pair. -/
  | movi (h : Hdr) (f : FmtI)
  /-- MOVS (R130). Writes a uniform register once per wave from its lowest active thread. -/
  | movs (h : Hdr) (f : FmtF)
  /-- IADD (R132). Integer add with optional saturation. -/
  | iadd (h : Hdr) (f : FmtF)
  /-- IADDI (R131). Integer add of a signed immediate with optional saturation. -/
  | iaddi (h : Hdr) (f : FmtI)
  /-- ISUB (R132). Integer subtract with optional saturation. -/
  | isub (h : Hdr) (f : FmtF)
  /-- IADDC (R133). Integer add with carry-in and carry-out predicates. -/
  | iaddc (h : Hdr) (f : FmtF)
  /-- ISUBB (R133). Integer subtract with borrow-in and borrow-out predicates. -/
  | isubb (h : Hdr) (f : FmtF)
  /-- IMIN (R132). Signed or natural integer minimum. -/
  | imin (h : Hdr) (f : FmtF)
  /-- IMAX (R132). Signed or natural integer maximum. -/
  | imax (h : Hdr) (f : FmtF)
  /-- IABS (R132). Integer absolute value with optional saturation. -/
  | iabs (h : Hdr) (f : FmtF)
  /-- ICMP (R134). Integer compare writing a predicate pair. -/
  | icmp (h : Hdr) (f : FmtF)
  /-- ICMPI (R134). Integer compare with an immediate writing a predicate pair. -/
  | icmpi (h : Hdr) (f : FmtI)
  /-- ISEL (R135). Selects one of two values by a predicate. -/
  | isel (h : Hdr) (f : FmtF)
  /-- LEA (R136). Forms base plus shifted index plus offset. -/
  | lea (h : Hdr) (f : FmtF)
  /-- AND (R137). Bitwise AND. -/
  | and (h : Hdr) (f : FmtF)
  /-- OR (R137). Bitwise OR. -/
  | or (h : Hdr) (f : FmtF)
  /-- XOR (R137). Bitwise XOR. -/
  | xor (h : Hdr) (f : FmtF)
  /-- ANDN (R137). Bitwise A AND NOT B. -/
  | andn (h : Hdr) (f : FmtF)
  /-- ANDI (R137). Bitwise AND with an extended immediate. -/
  | andi (h : Hdr) (f : FmtI)
  /-- ORI (R137). Bitwise OR with an extended immediate. -/
  | ori (h : Hdr) (f : FmtI)
  /-- XORI (R137). Bitwise XOR with an extended immediate. -/
  | xori (h : Hdr) (f : FmtI)
  /-- SHL (R138). Logical shift left. -/
  | shl (h : Hdr) (f : FmtF)
  /-- SHR (R138). Logical shift right. -/
  | shr (h : Hdr) (f : FmtF)
  /-- SHA (R138). Arithmetic shift right. -/
  | sha (h : Hdr) (f : FmtF)
  /-- ROT (R138). Rotate left. -/
  | rot (h : Hdr) (f : FmtF)
  /-- BFE (R139). Bit-field extract with sign or zero extension. -/
  | bfe (h : Hdr) (f : FmtF)
  /-- BFI (R139). Bit-field insert. -/
  | bfi (h : Hdr) (f : FmtF)
  /-- POPC (R140). Counts the 1 bits of a source. -/
  | popc (h : Hdr) (f : FmtF)
  /-- CLZ (R140). Counts leading zero bits. -/
  | clz (h : Hdr) (f : FmtF)
  /-- BREV (R140). Reverses the bit order. -/
  | brev (h : Hdr) (f : FmtF)
  /-- IMUL (R141). Integer multiply, low half, optional saturation. -/
  | imul (h : Hdr) (f : FmtF)
  /-- IMULH (R141). High half of the exact integer product. -/
  | imulh (h : Hdr) (f : FmtF)
  /-- IMAD (R141). Integer multiply-add with optional saturation. -/
  | imad (h : Hdr) (f : FmtF)
  /-- IMADW (R141). 32 by 32 multiply plus 64-bit addend to a 64-bit result. -/
  | imadw (h : Hdr) (f : FmtF)
  /-- IDIV (R142). Integer divide with an exception-flag predicate, never trapping. -/
  | idiv (h : Hdr) (f : FmtF)
  /-- IREM (R142). Integer remainder with an exception-flag predicate. -/
  | irem (h : Hdr) (f : FmtF)
  /-- FADD (R201). f32 or f32-pair add rounded once. -/
  | fadd (h : Hdr) (f : FmtF)
  /-- FSUB (R201). f32 or f32-pair subtract rounded once. -/
  | fsub (h : Hdr) (f : FmtF)
  /-- FMUL (R201). f32 or f32-pair multiply rounded once. -/
  | fmul (h : Hdr) (f : FmtF)
  /-- FFMA (R201). f32 or f32-pair fused multiply-add rounded once. -/
  | ffma (h : Hdr) (f : FmtF)
  /-- FMIN (R202). f32 minimum with NaN rules. -/
  | fmin (h : Hdr) (f : FmtF)
  /-- FMAX (R202). f32 maximum with NaN rules. -/
  | fmax (h : Hdr) (f : FmtF)
  /-- FCMP (R206). f32, f16 or bf16 compare writing a predicate pair. -/
  | fcmp (h : Hdr) (f : FmtF)
  /-- FSEL (R203). Selects one of two operands by a predicate. -/
  | fsel (h : Hdr) (f : FmtF)
  /-- FCLAMP (R202). Clamps a value as FMIN(FMAX(a, b), c). -/
  | fclamp (h : Hdr) (f : FmtF)
  /-- FRND (R208). Rounds an f32 to an integral value. -/
  | frnd (h : Hdr) (f : FmtF)
  /-- FFRAC (R209). Computes the fractional part of an f32. -/
  | ffrac (h : Hdr) (f : FmtF)
  /-- FCLASS (R210). Classifies a value into a one-hot class mask. -/
  | fclass (h : Hdr) (f : FmtF)
  /-- FCLASS_RDSW (R211). Reads the wave's FPSW. -/
  | fclassRdsw (h : Hdr) (f : FmtF)
  /-- FCLASS_CLRSW (R211). Clears sticky FPSW flags. -/
  | fclassClrsw (h : Hdr) (f : FmtF)
  /-- FCLASS_WREN (R211). Writes the FPSW MATH enable bits. -/
  | fclassWren (h : Hdr) (f : FmtF)
  /-- FRCP (R212). Correctly rounded reciprocal. -/
  | frcp (h : Hdr) (f : FmtF)
  /-- FRSQ (R212). Correctly rounded reciprocal square root. -/
  | frsq (h : Hdr) (f : FmtF)
  /-- FSQRT (R212). Correctly rounded square root. -/
  | fsqrt (h : Hdr) (f : FmtF)
  /-- FDIV (R201). f32 divide rounded once on the shared divider. -/
  | fdiv (h : Hdr) (f : FmtF)
  /-- FEXP2 (R212). Correctly rounded base-2 exponential. -/
  | fexp2 (h : Hdr) (f : FmtF)
  /-- FLOG2 (R212). Correctly rounded base-2 logarithm. -/
  | flog2 (h : Hdr) (f : FmtF)
  /-- FSIN (R212). Correctly rounded sine of pi times a. -/
  | fsin (h : Hdr) (f : FmtF)
  /-- FCOS (R212). Correctly rounded cosine of pi times a. -/
  | fcos (h : Hdr) (f : FmtF)
  /-- FTANH (R212). Correctly rounded hyperbolic tangent. -/
  | ftanh (h : Hdr) (f : FmtF)
  /-- HADD2 (R204). Packed f16 or bf16 add. -/
  | hadd2 (h : Hdr) (f : FmtF)
  /-- HMUL2 (R204). Packed f16 or bf16 multiply. -/
  | hmul2 (h : Hdr) (f : FmtF)
  /-- HFMA2 (R204). Packed f16 or bf16 fused multiply-add. -/
  | hfma2 (h : Hdr) (f : FmtF)
  /-- HMIN2 (R204). Packed f16 or bf16 minimum. -/
  | hmin2 (h : Hdr) (f : FmtF)
  /-- HMAX2 (R204). Packed f16 or bf16 maximum. -/
  | hmax2 (h : Hdr) (f : FmtF)
  /-- HCMP2 (R207). Packed half compare writing one predicate per half. -/
  | hcmp2 (h : Hdr) (f : FmtF)
  /-- DADD (R201). f64 add. -/
  | dadd (h : Hdr) (f : FmtF)
  /-- DMUL (R201). f64 multiply. -/
  | dmul (h : Hdr) (f : FmtF)
  /-- DFMA (R201). f64 fused multiply-add. -/
  | dfma (h : Hdr) (f : FmtF)
  /-- DCMP (R206). f64 compare writing a predicate pair. -/
  | dcmp (h : Hdr) (f : FmtF)
  /-- CVT (R216). Converts one value between number formats. -/
  | cvt (h : Hdr) (f : FmtF)
  /-- CVTP (R217). Rounds two f32 values into a packed 16- or 8-bit pair. -/
  | cvtp (h : Hdr) (f : FmtF)
  /-- CVTX (R218). Widens a packed pair exactly to two f32 values. -/
  | cvtx (h : Hdr) (f : FmtF)
  /-- QENC (R221). Encodes eight f32 values into a block-scaled package. -/
  | qenc (h : Hdr) (f : FmtF)
  /-- QDEC (R222). Decodes a block-scaled package into eight f32 values. -/
  | qdec (h : Hdr) (f : FmtF)
  /-- BSCL_ENC (R223). Computes the scale byte QENC would choose for a given maximum. -/
  | bsclEnc (h : Hdr) (f : FmtF)
  /-- BSCL_DEC (R223). Decodes a scale byte to f32. -/
  | bsclDec (h : Hdr) (f : FmtF)
  /-- PRMT (R220). Permutes bytes of two registers by selector nibbles. -/
  | prmt (h : Hdr) (f : FmtF)
  /-- PACK2 (R219). Packs two integers into 16- or 8-bit containers. -/
  | pack2 (h : Hdr) (f : FmtF)
  /-- UNPK2 (R219). Unpacks two 16- or 8-bit integers into a register pair. -/
  | unpk2 (h : Hdr) (f : FmtF)
  /-- BALLOT (R115). Gathers participants' predicates into a 64-bit value or mask. -/
  | ballot (h : Hdr) (f : FmtF)
  /-- VOTE (R116). Forms any, all or uniform over participants' predicates. -/
  | vote (h : Hdr) (f : FmtF)
  /-- SHFL (R117). Exchanges values among participants by index, up, down or xor. -/
  | shfl (h : Hdr) (f : FmtF)
  /-- BCAST (R117). Broadcasts one participant's value to all or to a uniform register. -/
  | bcast (h : Hdr) (f : FmtF)
  /-- RDX (R119). Reduces participants' values in ascending wave index. -/
  | rdx (h : Hdr) (f : FmtF)
  /-- SCAN (R119). Inclusive or exclusive prefix fold over participants. -/
  | scan (h : Hdr) (f : FmtF)
  /-- MATCH (R120). Gives each participant the set of participants with equal value. -/
  | matchLanes (h : Hdr) (f : FmtF)
  /-- MMOV (R121). Moves a mask between masks, uniform pairs and v pairs. -/
  | mmov (h : Hdr) (f : FmtF)
  /-- MAND (R121). Mask AND. -/
  | mand (h : Hdr) (f : FmtF)
  /-- MOR (R121). Mask OR. -/
  | mor (h : Hdr) (f : FmtF)
  /-- MXOR (R121). Mask XOR. -/
  | mxor (h : Hdr) (f : FmtF)
  /-- MANDN (R121). Mask AND NOT. -/
  | mandn (h : Hdr) (f : FmtF)
  /-- MPOPC (R121). Counts mask bits, or those below the thread's index. -/
  | mpopc (h : Hdr) (f : FmtF)
  /-- LD (R173). Loads from global memory, or scratchpad with a space override. -/
  | ld (h : Hdr) (f : FmtM)
  /-- ST (R173). Stores to global memory, or scratchpad with a space override. -/
  | st (h : Hdr) (f : FmtM)
  /-- LDW (R176). Group load: each thread reads its element of a block at the group base. -/
  | ldw (h : Hdr) (f : FmtM)
  /-- STW (R176). Group store: each thread writes its element of a block. -/
  | stw (h : Hdr) (f : FmtM)
  /-- LDS (R173). Loads from the block's scratchpad. -/
  | lds (h : Hdr) (f : FmtM)
  /-- STS (R173). Stores to the block's scratchpad. -/
  | sts (h : Hdr) (f : FmtM)
  /-- LDC (R173). Loads from a cluster member's scratchpad. -/
  | ldc (h : Hdr) (f : FmtM)
  /-- STC (R173). Stores to a cluster member's scratchpad. -/
  | stc (h : Hdr) (f : FmtM)
  /-- LDU (R177). Loads into a uniform register once per wave. -/
  | ldu (h : Hdr) (f : FmtM)
  /-- STU (R177). Stores a uniform register once per wave. -/
  | stu (h : Hdr) (f : FmtM)
  /-- PREF (R178). Requests a sector be brought to a cache level, never faulting. -/
  | pref (h : Hdr) (f : FmtM)
  /-- CCTL_INV1 (R179). Drops a sector from this core's L1, including an untracked copy. -/
  | cctlInv1 (h : Hdr) (f : FmtM)
  /-- CCTL_EV2 (R179). Writes back and removes a sector from the die L2 and named L1s. -/
  | cctlEv2 (h : Hdr) (f : FmtM)
  /-- CCTL_UNP3 (R179). Clears a line's persistent mark in L3. -/
  | cctlUnp3 (h : Hdr) (f : FmtM)
  /-- CCTL_ZERO (R179). Stores 64 zero bytes to a sector. -/
  | cctlZero (h : Hdr) (f : FmtM)
  /-- FENCE (R241). Orders the thread's earlier accesses against later ones at a scope. -/
  | fence (h : Hdr) (f : FmtS)
  /-- ATOM_ADD (R268). Atomic add returning the old value. -/
  | atomAdd (h : Hdr) (f : FmtM)
  /-- ATOM_AND (R268). Atomic AND returning the old value. -/
  | atomAnd (h : Hdr) (f : FmtM)
  /-- ATOM_OR (R268). Atomic OR returning the old value. -/
  | atomOr (h : Hdr) (f : FmtM)
  /-- ATOM_XOR (R268). Atomic XOR returning the old value. -/
  | atomXor (h : Hdr) (f : FmtM)
  /-- ATOM_MIN (R268). Atomic minimum returning the old value. -/
  | atomMin (h : Hdr) (f : FmtM)
  /-- ATOM_MAX (R268). Atomic maximum returning the old value. -/
  | atomMax (h : Hdr) (f : FmtM)
  /-- ATOM_XCHG (R268). Atomic exchange returning the old value. -/
  | atomXchg (h : Hdr) (f : FmtM)
  /-- ATOM_INCW (R269). Atomic wrapping increment against a bound. -/
  | atomIncw (h : Hdr) (f : FmtM)
  /-- ATOM_ADDB (R269). Atomic bounded add with a failure predicate. -/
  | atomAddb (h : Hdr) (f : FmtM)
  /-- ATOM_FADD (R270). Atomic floating-point add. -/
  | atomFadd (h : Hdr) (f : FmtM)
  /-- ATOM_FMIN (R270). Atomic floating-point minimum. -/
  | atomFmin (h : Hdr) (f : FmtM)
  /-- ATOM_FMAX (R270). Atomic floating-point maximum. -/
  | atomFmax (h : Hdr) (f : FmtM)
  /-- ACAS (R271). 64-bit atomic compare-and-swap. -/
  | acas (h : Hdr) (f : FmtM)
  /-- ACAS2 (R271). 128-bit atomic compare-and-swap. -/
  | acas2 (h : Hdr) (f : FmtM)
  /-- RED_ADD (R268). Atomic add returning nothing. -/
  | redAdd (h : Hdr) (f : FmtM)
  /-- RED_AND (R268). Atomic AND returning nothing. -/
  | redAnd (h : Hdr) (f : FmtM)
  /-- RED_OR (R268). Atomic OR returning nothing. -/
  | redOr (h : Hdr) (f : FmtM)
  /-- RED_XOR (R268). Atomic XOR returning nothing. -/
  | redXor (h : Hdr) (f : FmtM)
  /-- RED_MIN (R268). Atomic minimum returning nothing. -/
  | redMin (h : Hdr) (f : FmtM)
  /-- RED_MAX (R268). Atomic maximum returning nothing. -/
  | redMax (h : Hdr) (f : FmtM)
  /-- RED_INCW (R269). Atomic wrapping increment returning nothing. -/
  | redIncw (h : Hdr) (f : FmtM)
  /-- RED_FADD (R270). Atomic float add returning nothing. -/
  | redFadd (h : Hdr) (f : FmtM)
  /-- RED_FMIN (R270). Atomic float minimum returning nothing. -/
  | redFmin (h : Hdr) (f : FmtM)
  /-- RED_FMAX (R270). Atomic float maximum returning nothing. -/
  | redFmax (h : Hdr) (f : FmtM)
  /-- LOCK (R291). Requests a line lock for the wave and waits for the reply. -/
  | lock (h : Hdr) (f : FmtX)
  /-- LOCKT (R291). Requests a line lock with a deadline. -/
  | lockt (h : Hdr) (f : FmtX)
  /-- TRYLK (R291). Tries a line lock without queueing. -/
  | trylk (h : Hdr) (f : FmtX)
  /-- UNLOCK (R292). Removes a sector from the held list and sends a release once earlier accesses are performed. -/
  | unlock (h : Hdr) (f : FmtX)
  /-- LKQRY (R293). Reads the lock state of a sector into a uniform register. -/
  | lkqry (h : Hdr) (f : FmtX)
  /-- SPRD (R345). Issues a linear sprout read request. -/
  | sprd (h : Hdr) (f : FmtX)
  /-- SPRD2 (R345). Issues a 2-D sprout read request. -/
  | sprd2 (h : Hdr) (f : FmtX)
  /-- SPRX (R346). Issues a sprout request of one burst per active thread. -/
  | sprx (h : Hdr) (f : FmtM)
  /-- SPCTX (R347). Replaces the wave's sprout context. -/
  | spctx (h : Hdr) (f : FmtX)
  /-- SPWAIT (R348). Waits until a sprout request is no longer outstanding. -/
  | spwait (h : Hdr) (f : FmtX)
  /-- SPCAN (R334). Cancels unborn bursts of a request. -/
  | spcan (h : Hdr) (f : FmtX)
  /-- SPQRY (R348). Reads a sprout request's status. -/
  | spqry (h : Hdr) (f : FmtX)
  /-- SPEND (R349). Ends a sprout thread, or acts as EXIT elsewhere. -/
  | spend (h : Hdr) (f : FmtS)
  /-- COPY (R303). Issues a linear asynchronous copy. -/
  | copy (h : Hdr) (f : FmtX)
  /-- COPY2 (R304). Issues a 2-D tile copy. -/
  | copy2 (h : Hdr) (f : FmtX)
  /-- COPYM (R306). Issues a multicast copy to cluster members, taking credit slots. -/
  | copym (h : Hdr) (f : FmtX)
  /-- COPYX (R305). Issues a copy into scratchpad carrying a matrix command. -/
  | copyx (h : Hdr) (f : FmtX)
  /-- BSEAL (R309). Seals the open batch and opens the next number when done. -/
  | bseal (h : Hdr) (f : FmtS)
  /-- BWAIT (R309). Waits until a batch is done, sealing it first if open. -/
  | bwait (h : Hdr) (f : FmtS)
  /-- BQRY (R310). Reads the batch done and error bits. -/
  | bqry (h : Hdr) (f : FmtS)
  /-- SLOTQ (R318). Reads the core's multicast slot counters and clears the flags. -/
  | slotq (h : Hdr) (f : FmtX)
  /-- SLOTRET (R318). Returns multicast slots to a sender's counter. -/
  | slotret (h : Hdr) (f : FmtX)
  /-- BARI (R316). Initialises a barrier object. -/
  | bari (h : Hdr) (f : FmtX)
  /-- BARA (R316). Arrives at a barrier object, optionally returning a phase token. -/
  | bara (h : Hdr) (f : FmtX)
  /-- BARX (R316). Adds expected bytes to a barrier object. -/
  | barx (h : Hdr) (f : FmtX)
  /-- BARW (R316). Waits until a barrier object's phase differs from a token. -/
  | barw (h : Hdr) (f : FmtX)
  /-- BART (R316). Tests whether a barrier object's phase differs from a token. -/
  | bart (h : Hdr) (f : FmtX)
  /-- MMA (R357). Issues a matrix product command into an accumulator tile. -/
  | mma (h : Hdr) (f : FmtX)
  /-- MMAS (R360). Issues a block-scaled matrix product command. -/
  | mmas (h : Hdr) (f : FmtX)
  /-- MMAT (R361). Issues a triangle-masked matrix product command. -/
  | mmat (h : Hdr) (f : FmtX)
  /-- MZERO (R362). Issues a command filling tiles with zero or a value. -/
  | mzero (h : Hdr) (f : FmtX)
  /-- MLDA (R363). Issues a command loading a tile from memory. -/
  | mlda (h : Hdr) (f : FmtX)
  /-- MSTA (R363). Issues a command storing a tile to memory. -/
  | msta (h : Hdr) (f : FmtX)
  /-- MCVT (R364). Issues a command converting a tile through a destination descriptor. -/
  | mcvt (h : Hdr) (f : FmtX)
  /-- MEPI (R365). Issues an epilogue command applying scale, bias and activation. -/
  | mepi (h : Hdr) (f : FmtX)
  /-- MDRAIN (R366). Issues a tile all-reduce across domain devices. -/
  | mdrain (h : Hdr) (f : FmtX)
  /-- MSEQ (R368). Issues a sequenced K loop of staged copies and products. -/
  | mseq (h : Hdr) (f : FmtX)
  /-- MSTAT (R370). Reads matrix engine status. -/
  | mstat (h : Hdr) (f : FmtX)
  /-- MFENCE (R371). Waits until the wave's earlier matrix commands complete. -/
  | mfence (h : Hdr) (f : FmtX)
  /-- TBAR (R395). Arrives at a team barrier and waits for the phase to change. -/
  | tbar (h : Hdr) (f : FmtX)
  /-- TARR (R395). Arrives at a team and returns the phase token. -/
  | tarr (h : Hdr) (f : FmtX)
  /-- TWAIT (R395). Waits until a team's phase differs from a token. -/
  | twait (h : Hdr) (f : FmtX)
  /-- TQRY (R395). Reads team status and optionally arms its watchdog. -/
  | tqry (h : Hdr) (f : FmtX)
  /-- RESHAPE (R396). Changes the block's pool shares at a whole-block barrier. -/
  | reshape (h : Hdr) (f : FmtX)
  /-- LAUNCH (R397). Enqueues a launch record into a device queue. -/
  | launch (h : Hdr) (f : FmtX)
  /-- LWAIT (R398). Waits until a launch ticket completes. -/
  | lwait (h : Hdr) (f : FmtX)
  /-- MSGS (R400). Sends each active thread's 64-byte message. -/
  | msgs (h : Hdr) (f : FmtX)
  /-- MSGR (R400). Pops messages from a mailbox. -/
  | msgr (h : Hdr) (f : FmtX)
  /-- MSGQ (R401). Reads mailbox and outbound status. -/
  | msgq (h : Hdr) (f : FmtX)
  /-- COLL (R403). Starts a collective among devices. -/
  | coll (h : Hdr) (f : FmtX)
  /-- COLLW (R405). Waits for a collective to complete. -/
  | collw (h : Hdr) (f : FmtX)
  /-- EVSIG (R406). Adds to an event counter as a release. -/
  | evsig (h : Hdr) (f : FmtX)
  /-- EVWAIT (R406). Waits until an event counter reaches a target. -/
  | evwait (h : Hdr) (f : FmtX)
  /-- TRAP (R448). Raises DEBUG precisely with a code. -/
  | trap (h : Hdr) (f : FmtS)
  /-- TRET_RETRY (R449). Returns from a handler, or resumes trapped threads, at TPC. -/
  | tretRetry (h : Hdr) (f : FmtS)
  /-- TRET_SKIP (R449). Returns from a handler, or resumes trapped threads, after the unit. -/
  | tretSkip (h : Hdr) (f : FmtS)
  /-- TRET_END (R449). Ends the handler's own or the target's trapped threads as EXIT. -/
  | tretEnd (h : Hdr) (f : FmtS)
  /-- PDONE (R450). Signals the end of a pre-emption handler so the wave stops. -/
  | pdone (h : Hdr) (f : FmtS)
  /-- SRD (R451). Reads a special register. -/
  | srd (h : Hdr) (f : FmtS)
  /-- SWR (R451). Writes a writable special register. -/
  | swr (h : Hdr) (f : FmtS)
  /-- CSAVE (R452). Saves registers or a stopped wave's whole image to memory. -/
  | csave (h : Hdr) (f : FmtS)
  /-- CREST (R452). Restores registers or a stopped wave's image from memory. -/
  | crest (h : Hdr) (f : FmtS)
  /-- OPLR (R453). Reads an operand-log entry into uniform registers. -/
  | oplr (h : Hdr) (f : FmtS)
  /-- FRESUME (R454). Marks a waiting operand-log entry READY, or FAILED with .fail. -/
  | fresume (h : Hdr) (f : FmtS)
  /-- TLBINV (R455). Drops a context's TLB entries over a range or all. -/
  | tlbinv (h : Hdr) (f : FmtS)
  /-- TLBSYNC (R457). Waits until the wave's earlier TLBINVs meet the invalidation guarantee. -/
  | tlbsync (h : Hdr) (f : FmtS)
  /-- HALT_HALT (R456). Requests a debug halt of a target wave. -/
  | haltHalt (h : Hdr) (f : FmtS)
  /-- HALT_REL (R456). Releases a halted wave. -/
  | haltRel (h : Hdr) (f : FmtS)
  /-- HALT_STEP (R446). Releases a halted wave for exactly one bundle. -/
  | haltStep (h : Hdr) (f : FmtS)
  /-- IDRD (R522). Reads a fuse or identity item. -/
  | idrd (h : Hdr) (f : FmtS)
  /-- SECCALL (R523). Submits a request block to the security controller. -/
  | seccall (h : Hdr) (f : FmtS)
  /-- SECWAIT (R524). Waits for a security request's status. -/
  | secwait (h : Hdr) (f : FmtS)
  /-- ATTEST (R523). Submits an attestation request for a report buffer. -/
  | attest (h : Hdr) (f : FmtS)
  /-- RECMARK (R501). Writes or checks a MARK record depending on recording mode. -/
  | recmark (h : Hdr) (f : FmtS)
  /-- RECST (R502). Reads recording status. -/
  | recst (h : Hdr) (f : FmtS)
  /-- CKPTREQ (R503). Requests a checkpoint cut and waits for it. -/
  | ckptreq (h : Hdr) (f : FmtS)
  /-- SAMPARM (R504). Arms the die's streaming sampler from an arming block. -/
  | samparm (h : Hdr) (f : FmtS)
  /-- SAMPSTOP (R504). Stops the die's streaming sampler. -/
  | sampstop (h : Hdr) (f : FmtS)
  /-- PERFRD (R505). Reads a performance counter. -/
  | perfrd (h : Hdr) (f : FmtS)
  /-- HISTRD (R505). Reads a lifetime histogram bin. -/
  | histrd (h : Hdr) (f : FmtS)
  /-- TELRD (R506). Removes and returns the oldest telemetry record. -/
  | telrd (h : Hdr) (f : FmtS)
  /-- WAITM_RELEASE (R95). End-of-cycle check finds every named thread waiting on the mask and releases them together. -/
  | waitmRelease
  /-- STARVATION_PROMOTION (R85). A thread ready for 4,096 clk has its entry promoted, evicting a way if needed. -/
  | starvationPromotion
  /-- LOAD_DATA_RETURN (R152). Miss data arrives and is written, freeing miss entries and readying parked threads. -/
  | loadDataReturn
  /-- MWAIT_MONITOR_FIRE (R108). A monitored sector is written or evicted, and the waiting thread rereads and returns. -/
  | mwaitMonitorFire
  /-- MWAIT_TIMEOUT (R108). An MWAIT wait of 65,536 ticks, or 1,024 without a monitor, expires. -/
  | mwaitTimeout
  /-- SLEEP_WAKE (R105). A sleeping thread's deadline passes and it becomes ready. -/
  | sleepWake
  /-- RDS (R249). Read-shared request handled by the home in a stable state. -/
  | rds
  /-- RDX_REQUEST (R249). Read-for-ownership request handled by the home. -/
  | rdxRequest
  /-- UPG (R249). Upgrade request handled by the home, converted to RdX if the sender lost the sector. -/
  | upg
  /-- WBD (R249). Dirty write-back arriving at the home. -/
  | wbd
  /-- EVC (R249). Clean eviction notice from E arriving at the home. -/
  | evc
  /-- INVACK (R249). Invalidation acknowledgement arriving at the home in a transient state. -/
  | invack
  /-- FWDDATA (R252). Forwarded sector arriving at the home, completing the forward and serving the requester. -/
  | fwddata
  /-- PEEKDATA (R253). Peeked sector arriving at the home for a reading home-side operation. -/
  | peekdata
  /-- DATAS (R251). Shared data arriving at an agent, serving waiting loads. -/
  | datas
  /-- DATAE (R251). Exclusive data arriving at an agent, serving waiting loads and stores. -/
  | datae
  /-- CMP (R251). Upgrade completion arriving at an agent, performing waiting stores. -/
  | cmp
  /-- INV (R251). Invalidation arriving at an agent, answered with InvAck. -/
  | invMsg
  /-- FWDS (R251). Forward-shared arriving at an owner, answered with FwdData. -/
  | fwds
  /-- FWDX (R251). Forward-exclusive arriving at an owner, answered with FwdData and dropping the copy. -/
  | fwdx
  /-- RECALL (R251). Recall arriving at an agent, supplying dirty data and dropping. -/
  | recallMsg
  /-- PEEK (R251). Peek arriving at an agent, supplying data and keeping state. -/
  | peek
  /-- WBACK (R251). Write-back acknowledgement freeing the agent's buffer. -/
  | wback
  /-- RETRY_RESEND (R250). An agent resends a retried request after 64 clk. -/
  | retryResend
  /-- SECTOR_QUEUE_NEXT (R250). The home takes the next queued request once the sector's entry is stable. -/
  | sectorQueueNext
  /-- HOME_SIDE_OPERATION (R253). The home slice performs a far atomic, grant, host, nal2, aperture or scrub operation in H.OP. -/
  | homeSideOperation
  /-- HOSTCOH (R255). The host agent leaves a message unanswered for 20 µs and is treated as a clean drop. -/
  | hostcoh
  /-- PAGE_WALK_COMPLETE (R160). A page walk ends, filling the TLB and updating A, D and owner by compare-and-swap, or faulting. -/
  | pageWalkComplete
  /-- P_TO_S_TRANSITION (R164). A P page touched by another core is turned S. -/
  | pToSTransition
  /-- COLLAPSE (R165). The collapse engine turns an R page S and releases the waiting writes. -/
  | collapse
  /-- COLLAPSE_RETRY (R165). A write that found the collapse queue full retries after 1 µs. -/
  | collapseRetry
  /-- LOCK_ACQUIRE_ARRIVAL (R278). An acquire reaches the lock unit and is granted, queued or answered FULL. -/
  | lockAcquireArrival
  /-- LOCK_TRY_ARRIVAL (R278). A try reaches the lock unit and is granted or answered TIMEOUT or FULL. -/
  | lockTryArrival
  /-- LOCK_RELEASE_ARRIVAL (R278). A holder's release reaches the lock unit, freeing the sector or granting the head. -/
  | lockReleaseArrival
  /-- LOCK_ABANDON_ARRIVAL (R278). An abandon at exit or kill reaches the lock unit. -/
  | lockAbandonArrival
  /-- LOCK_REPLY (R291). The lock unit's reply reaches the waiting wave, which records status and resumes. -/
  | lockReply
  /-- LOCK_HEAD_RETURN (R282). An absent reserved head is resumed and granted. -/
  | lockHeadReturn
  /-- LOCK_GRACE_EXPIRY (R278). 50,000 ticks of grace pass for an absent head, which is passed. -/
  | lockGraceExpiry
  /-- LOCK_DEADLINE_EXPIRY (R281). A LOCKT waiter's deadline passes and it is removed with TIMEOUT. -/
  | lockDeadlineExpiry
  /-- LOCK_FULL_RETRY (R280). A core resends a FULL acquire every 1,000 ticks with its original stamp. -/
  | lockFullRetry
  /-- DEADLOCK_SCAN (R284). Every 65,536 ticks the scanner collects wait-for edges and finds cycles. -/
  | deadlockScan
  /-- DEADLOCK_CONFIRM (R285). The scanner re-queries a cycle's edges and reports, posts and fails the newest waiter. -/
  | deadlockConfirm
  /-- COPY_UNIT_PERFORMED (R303). A copy destination unit lands, or is discarded on a changed generation. -/
  | copyUnitPerformed
  /-- COPY_COMPLETE (R300). A copy completes, writing its stamp, releasing pins and freeing its entry. -/
  | copyComplete
  /-- COPYX_HANDOVER (R305). A COPYX's carried command is handed to the matrix engine in order. -/
  | copyxHandover
  /-- CARRIED_COMMAND_TRAP (R305). A pending trap of a carried command is delivered to the wave. -/
  | carriedCommandTrap
  /-- BURST_ARRIVAL (R332). A sprout burst read returns and is born or buffered. -/
  | burstArrival
  /-- SPROUT_END (R336). A sprout thread's end is counted once its accesses are performed, freeing its frame. -/
  | sproutEnd
  /-- MATRIX_COMMAND_EXECUTE (R352). The matrix engine executes the command at the head of its order. -/
  | matrixCommandExecute
  /-- MSEQ_STEP (R368). An MSEQ step's staged data lands and its product runs. -/
  | mseqStep
  /-- MDRAIN_REDUCTION (R366). All ranks' tiles arrive and the reduction result is written on each device. -/
  | mdrainReduction
  /-- QTAIL_DOORBELL (R381). A host write to QTAIL submits records to a queue. -/
  | qtailDoorbell
  /-- QUEUE_FETCH (R381). The primary command processor fetches, checks and tickets a record. -/
  | queueFetch
  /-- LAUNCH_READY (R382). A launch's dependences complete and it becomes ready. -/
  | launchReady
  /-- BLOCK_DISPATCH (R386). A die places a block, or a cluster's blocks, on eligible cores. -/
  | blockDispatch
  /-- BLOCK_SLOT_FREE (R391). A block's slot is freed once its waves retire and its work ends. -/
  | blockSlotFree
  /-- LAUNCH_COMPLETE (R384). A launch completes, releasing its accesses and posting MSI-X. -/
  | launchComplete
  /-- COMPLETION_ENTRY_WRITE (R384). A completion entry is written when the completion ring has room. -/
  | completionEntryWrite
  /-- TEAM_WATCHDOG_CHECK (R394). Every 1,024 ticks armed watchdogs are checked and may fire WATCHDOG. -/
  | teamWatchdogCheck
  /-- MESSAGE_DELIVERY (R399). A message arrives at a mailbox and is stored or dropped. -/
  | messageDelivery
  /-- MAILBOX_FULL_RETRY (R399). A held head message is retried every 1,000 ticks. -/
  | mailboxFullRetry
  /-- COLLECTIVE_COMPLETE (R404). All ranks' contributions arrive and the collective result is written. -/
  | collectiveComplete
  /-- FENCE_MARKER_ANSWER (R412). A switch answers a fence marker, completing a domain release when all are answered. -/
  | fenceMarkerAnswer
  /-- FABTO (R412). A fence marker unanswered for 100 µs completes the release anyway. -/
  | fabto
  /-- FABRIC_ERROR_PATH (R411). An access or message whose target became unreachable after issue fails. -/
  | fabricErrorPath
  /-- APERTURE_ACCESS_ARRIVAL (R146). An aperture access from another device arrives at this device's home slice. -/
  | apertureAccessArrival
  /-- HOST_CXL_MEM_READ (R238). A host CXL.mem read performed at the home slice. -/
  | hostCxlMemRead
  /-- HOST_CXL_MEM_WRITE (R238). A host CXL.mem write performed at the home slice. -/
  | hostCxlMemWrite
  /-- EVENT_COUNTER_HOST_WRITE (R406). A host write to an event counter that EVWAIT may observe. -/
  | eventCounterHostWrite
  /-- CTXCTL_KILL (R416). Writing KILL stops and kills a context's work and launches. -/
  | ctxctlKill
  /-- DIE_LOST (R409). A link failure splits the dies and the continuing group fences and kills the others. -/
  | dieLost
  /-- TRAP_RECORD_RETRY (R427). A faulting bundle retries posting its record every 1,000 ticks. -/
  | trapRecordRetry
  /-- OPERAND_LOG_REISSUE (R432). A READY operand-log entry is reissued with its logged values. -/
  | operandLogReissue
  /-- OPLOG_FAILED_DELIVERY (R432). A FAILED entry's trap is delivered to every logged thread. -/
  | oplogFailedDelivery
  /-- DEFERRED_MCHK (R437). A deferred machine check is delivered at the first qualifying point. -/
  | deferredMchk
  /-- PCTL_PRE (R439). Writing PRE starts pre-emption of a context. -/
  | pctlPre
  /-- PREEMPT (R439). A thread takes PREEMPT at its next boundary by vector entry 11. -/
  | preempt
  /-- FORCED_SAVE (R441). A wave not stopped 100,000 ticks after PRE is saved whole. -/
  | forcedSave
  /-- PSAVED (R440). The last wave, block and request are saved and PST becomes 2. -/
  | psaved
  /-- PCTL_RES (R445). Writing RES restores and runs a saved context. -/
  | pctlRes
  /-- PRESUMED (R445). The restore completes and PST returns to 0. -/
  | presumed
  /-- HALT_EFFECT (R446). A requested halt or step takes effect at the wave's next boundary. -/
  | haltEffect
  /-- RCTL_MODE_RECORD (R459). Writing MODE 1 starts recording with checkpoint 0, or posts RECFAIL. -/
  | rctlModeRecord
  /-- RCTL_MODE_OFF (R459). Writing MODE 0 ends recording at a final cut. -/
  | rctlModeOff
  /-- CONFLICT_PROBE (R466). A probe hits a unit's signature and closes its chunk. -/
  | conflictProbe
  /-- CLOCK_FORCED_CHECKPOINT (R467). A unit clock reaching 2^39 forces a checkpoint. -/
  | clockForcedCheckpoint
  /-- CUT (R479). The checkpoint timer or a request cuts the context and writes images. -/
  | cut
  /-- UNDO_COPY (R480). The recorder services a first write to a page by copying it to the checkpoint store. -/
  | undoCopy
  /-- SEGMENT_CLOSE_TIMEOUT (R475). A segment open for 100 µs with a record is closed. -/
  | segmentCloseTimeout
  /-- DOMAIN_CUT_MARKER (R482). A domain cut marker arrives, taking the cut and logging messages in flight. -/
  | domainCutMarker
  /-- RPCTL_GO (R485). Writing GO rolls back and starts a replay from a checkpoint. -/
  | rpctlGo
  /-- RPCTL_STOP (R490). Writing STOP ends a replay. -/
  | rpctlStop
  /-- REPLAY (R489). A replay diverges from its log and raises REPLAY. -/
  | replay
  /-- RPEND (R490). Every unit runs past the log's end and the replay halts. -/
  | rpend
  /-- REPLAY_BREAKPOINT (R491). A replay reaches a breakpoint's bundle and halts with DEBUG. -/
  | replayBreakpoint
  /-- SAMPLER_ROW (R494). Every INT ticks the sampler writes or drops a row. -/
  | samplerRow
  /-- LIFETIME_HISTOGRAM_UPDATE (R498). Once per second the lifetime histograms are updated. -/
  | lifetimeHistogramUpdate
  /-- DBGUNLOCK (R516). The controller serves a debug-unlock token command. -/
  | dbgunlock
  /-- LCSET (R511). The controller serves a lifecycle-change token command. -/
  | lcset
  /-- NONCE (R514). The controller draws and returns a fresh nonce. -/
  | nonce
  /-- KEYGEN (R517). The controller redraws a tenant key slot, crypto-erasing it. -/
  | keygen
  /-- KEYMAP (R518). The controller maps frames to a key id. -/
  | keymap
  /-- MREXT (R519). The controller extends MR5 or MR6. -/
  | mrext
  /-- CERT (R514). The controller returns the device certificate chain. -/
  | cert
  /-- ATTEST_REPORT (R521). The controller fills and signs an attestation report. -/
  | attestReport
  /-- RESET (R525). A reset verifies firmware, activates spares, wipes and trains the package. -/
  | resetPackage
  /-- FREQUENCY_CHANGE (R17). The F-die steps the core frequency through the four-step handshake. -/
  | frequencyChange
  /-- THERMAL_TRIP (R528). A die at trip temperature for 1 ms at 0.6 GHz trips the package. -/
  | thermalTrip
  /-- PATROL_SCRUB (R527). The patrol scrub reads and corrects a sector as a home-side operation. -/
  | patrolScrub
  /-- REGISTER_WRITE (R8). A write to a register with no behaviour of its own sets its fields. -/
  | registerWrite
  /-- LANE_RETRAIN (R526). A UCIe or fabric lane retrains; the event is counted in histogram 7, and at 16 retrains in 24 hours the lane is marked worn and SPAREPEND is posted. -/
  | laneRetrain
  /-- RANK_LOST (R404). A device named in a pending COLL or MDRAIN is lost, or its context is killed, before it contributes, so every remaining rank completes with its error flag set and its destination unchanged. -/
  | rankLost
  /-- PROXY_HOME_HOST_RESPONSE (R246). The host answers the proxy home's CXL.cache request for a host-memory sector, granting the sector or exclusive ownership so that the waiting L2 requests can be served. -/
  | proxyHomeHostResponse
  deriving DecidableEq, Repr, Inhabited

/-- RECALL (R251) under the opcode table's own spelling: Mathlib makes that word a command, so the constructor carries
a longer name. -/
abbrev Instr.recall : Instr := .recallMsg

/-- A step of an agent, with its operands: what the manual leaves to that agent or to the outside
world (which message, which sector, what the host writes). The model holds such steps in the state,
and the state says which comes next. -/
structure Event where
  op : Instr
  arg : EvArg
  deriving DecidableEq, Repr, Inhabited

end Sys2Proof
end

