-- ==== Sys2Proof/Config.lean ====
section
/-! DEFINITION. What the manual leaves to the device or to the outside world, as opaque constants
(no proof can see a value of them), and the fixed sizes of the package. -/

namespace Sys2Proof.Config

/-! ## Free values: no body, so nothing can be proved of a value -/

/-- Free value (log entry 4): how many ticks of the timebase pass in the n-th step of the model. The
manual fixes no duration of a step, except inside chains, whose timing the model leaves out. -/
opaque ticksOf : Nat → Nat
/-- Free value (log entry 4): how many core cycles are counted in the n-th step. -/
opaque clksOf : Nat → Nat
/-- Free value (log entry 8): what the host's own dirty copy of sector x holds at step n. The host
writes its copy without telling the device (R238, R255). -/
opaque hostDirty : Nat → Nat → BitVec 512
/-- Free value (log entry 8): the data of the host's memory at a sector, as the host returns it. -/
opaque hostData : Nat → Nat → BitVec 512
/-- Free value (log entry 8): what the host has written to a sector of its own memory since the device last wrote or read
it, by step; none where it has not written it. -/
opaque hostWrote : Nat → Nat → Option (BitVec 512)
/-- Free value (log entry 9): the data that another device of the domain returns for an access. -/
opaque remoteData : Nat → Nat → BitVec 512
/-- Free value (log entry 10): the n-th value of the security controller's random generator (R514). -/
opaque random : Nat → BitVec 256
/-- Free values (log entry 10): whether a signature of bytes verifies under a public key, RSASSA-PSS or SLH-DSA (R509): the key, the
bytes and the signature. -/
opaque rsaVerifies : List Byte → List Byte → List Byte → Bool
opaque slhVerifies : List Byte → List Byte → List Byte → Bool
/-- Free value (log entry 10): Kilern's public keys as the controller holds them, 0 the RSA key, 1 the SLH-DSA key. A token carries
none (R516). -/
opaque kilernKey : Nat → List Byte
/-- Free value (log entry 10): the public keys that a firmware image carries, by image and as above; none where it carries none. -/
opaque imageKey : Nat → Nat → Option (List Byte)
/-- Free value (log entry 10): the signatures that the device makes over bytes (R521). -/
opaque signatureOf : List Byte → List Byte
/-- Free value (log entry 10): the device's certificate chain (R514, R521). -/
opaque certChain : List Byte
/-- Free value (log entry 10): the firmware images that a reset loads: of the security controller, the F-die and the
command processors (R519, R525). -/
opaque firmware : Nat → List Byte
/-- Free value (log entry 11): the XTS key with a number, drawn inside the controller (R517). -/
opaque tenantKey : Nat → BitVec 512
/-- Free value (log entry 12): the fuse items of R507 that only the individual device fixes. -/
opaque fuse : Nat → BitVec 64
/-- Free value (log entry 13): what the device's sensors give at a step: the value of a device-scope counter (R493), by
its event number; from 16 on, the lifetime store's readings. -/
opaque sensor : Nat → Nat → BitVec 64
/-- Free values (log entry 13): what package power in mW, and the hottest die's temperature in °C, come to at a step for a core
frequency in MHz (R528). -/
opaque power : Nat → Nat → Nat
opaque hottest : Nat → Nat → Nat
/-- Free value (log entry 91): the junction temperature in °C, at a step, that the histogram 0 or 1 counts (R498). -/
opaque junction : Nat → Nat → Nat
/-- Free values (log entry 92): the channel of a stack's HBM4 row, and the row of a sector in its stack; and how many spare rows a
stack has (R526). -/
opaque rowChannel : Nat → Nat → Nat
opaque sectorRow : Nat → Nat
opaque spareRows : Nat → Nat
/-- Free value (log entry 13): the core of a die that a row of its sampler is seen by (R494). -/
opaque sampleCore : Nat → Nat
/-- Free value (log entry 13): cycles that a core's matrix engine has been busy (R493). -/
opaque busyClk : Nat → Nat → BitVec 64
/-- Free value (log entry 14): the L3 set of a line; the manual gives no set mapping (R155). -/
opaque l3Set : Nat → Nat
/-- Free value (log entry 6): the L1 set of a line; the manual gives no set mapping (R148). -/
opaque l1Set : Nat → Nat
/-- Free value (log entry 6): which of a full L2's sectors makes room, by step and die (R22). -/
opaque l2Victim : Nat → Nat → Nat
/-- Free value (log entry 17): the cluster-TLB set of a page, by context, first address and size (R161). -/
opaque ctlbSet : Nat → Nat → Nat → Nat
/-- Free value (log entry 14): the L2 slice of a sector in its die, and its placement-predictor counter among those of the
slice; the manual gives no hash (R261). -/
opaque l2Slice : Nat → Nat
opaque predIndex : Nat → Nat
/-- Free value (log entry 15): where the hardware puts an image in a save area or store (R443, R481). -/
opaque imagePlace : Nat → Nat → Nat
/-- Free value (log entry 18): the lane of the sprout thread that is born as the n-th of its core (R327). -/
opaque sproutLane : Nat → Nat

/-- Free value (log entry 9): element `e` of the tile that device `d` of the domain contributes to the reduction
with number `n` (R366). -/
opaque drainTile : Nat → Nat → Nat → BitVec 32

/-- Free value (log entry 9): element `e` that device `d` of the domain contributes to the collective with number
`n` (R403). -/
opaque collElem : Nat → Nat → Nat → BitVec 64
/-- Free value (log entry 9): whether device `dev` of the domain had contributed to the reduction or collective with
number `n` before it, or its context there, was lost (R367, R407). -/
opaque contributed : Nat → Nat → Bool
/-- Free value (log entry 26): what a byte reads as whose newest value stood in a cache of a lost die (R409). -/
opaque lostByte : Nat → Nat → BitVec 8

/-- Free value (log entry 15): a byte of a wave image whose layout the manual leaves to the device (R443): step,
wave, offset. -/
opaque imageByte : Nat → Nat → Nat → BitVec 8

/-! ## Sizes of the package (R14, R18, R20, R22) -/

/-- Enabled cores of the package (R18). -/
def nCores : Nat := 160
/-- C-dies (R14). -/
def nDies : Nat := 4
/-- Home slices (R14). -/
def nSlices : Nat := 64
/-- Contexts (R161). -/
def nContexts : Nat := 64
/-- Sectors of an L2, 64 MiB for each C-die (R22). -/
def l2Sectors : Nat := 0x100000
/-- L3 sets of a home slice: 16 MiB in 16 ways of 256-byte lines (R22, R155). -/
def l3Sets : Nat := 4096
/-- Bytes of device memory, 512 GiB (R145). -/
def hbmBytes : Nat := 0x8000000000

end Sys2Proof.Config
end

