-- ==== Sys2Proof/Machine/Sha384.lean ====
section
/-! DEFINITION. SHA-384 (R519), as FIPS 180-4 defines it: the manual names it and gives no steps of its own. -/

namespace Sys2Proof.Machine

/-- The round constants: the first 64 fraction bits of the cube roots of the first 80 primes, eight a row. -/
def shaRows : List (List Dword) :=
  [[0x428A2F98D728AE22, 0x7137449123EF65CD, 0xB5C0FBCFEC4D3B2F, 0xE9B5DBA58189DBBC, 0x3956C25BF348B538, 0x59F111F1B605D019, 0x923F82A4AF194F9B, 0xAB1C5ED5DA6D8118]] ++
  [[0xD807AA98A3030242, 0x12835B0145706FBE, 0x243185BE4EE4B28C, 0x550C7DC3D5FFB4E2, 0x72BE5D74F27B896F, 0x80DEB1FE3B1696B1, 0x9BDC06A725C71235, 0xC19BF174CF692694]] ++
  [[0xE49B69C19EF14AD2, 0xEFBE4786384F25E3, 0x0FC19DC68B8CD5B5, 0x240CA1CC77AC9C65, 0x2DE92C6F592B0275, 0x4A7484AA6EA6E483, 0x5CB0A9DCBD41FBD4, 0x76F988DA831153B5]] ++
  [[0x983E5152EE66DFAB, 0xA831C66D2DB43210, 0xB00327C898FB213F, 0xBF597FC7BEEF0EE4, 0xC6E00BF33DA88FC2, 0xD5A79147930AA725, 0x06CA6351E003826F, 0x142929670A0E6E70]] ++
  [[0x27B70A8546D22FFC, 0x2E1B21385C26C926, 0x4D2C6DFC5AC42AED, 0x53380D139D95B3DF, 0x650A73548BAF63DE, 0x766A0ABB3C77B2A8, 0x81C2C92E47EDAEE6, 0x92722C851482353B]] ++
  [[0xA2BFE8A14CF10364, 0xA81A664BBC423001, 0xC24B8B70D0F89791, 0xC76C51A30654BE30, 0xD192E819D6EF5218, 0xD69906245565A910, 0xF40E35855771202A, 0x106AA07032BBD1B8]] ++
  [[0x19A4C116B8D2D0C8, 0x1E376C085141AB53, 0x2748774CDF8EEB99, 0x34B0BCB5E19B48A8, 0x391C0CB3C5C95A63, 0x4ED8AA4AE3418ACB, 0x5B9CCA4F7763E373, 0x682E6FF3D6B2B8A3]] ++
  [[0x748F82EE5DEFB2FC, 0x78A5636F43172F60, 0x84C87814A1F0AB72, 0x8CC702081A6439EC, 0x90BEFFFA23631E28, 0xA4506CEBDE82BDE9, 0xBEF9A3F7B2C67915, 0xC67178F2E372532B]] ++
  [[0xCA273ECEEA26619C, 0xD186B8C721C0C207, 0xEADA7DD6CDE0EB1E, 0xF57D4F7FEE6ED178, 0x06F067AA72176FBA, 0x0A637DC5A2C898A6, 0x113F9804BEF90DAE, 0x1B710B35131C471B]] ++
  [[0x28DB77F523047D84, 0x32CAAB7B40C72493, 0x3C9EBE0A15C9BEBC, 0x431D67C49C100D4C, 0x4CC5D4BECB3E42B6, 0x597F299CFC657E2A, 0x5FCB6FAB3AD6FAEC, 0x6C44198C4A475817]]

/-- The round constants in order. -/
def shaK : List Dword := shaRows.flatten

/-- The initial value of SHA-384: the square roots of the ninth to the sixteenth prime. -/
def shaInit : List Dword :=
  [0xCBBB9D5DC1059ED8, 0x629A292A367CD507, 0x9159015A3070DD17, 0x152FECD8F70E5939,
   0x67332667FFC00B31, 0x8EB44A8768581511, 0xDB0C2E0D64F98FA7, 0x47B5481DBEFA4FA4]

/-- Rotation to the right. -/
def shaRot (x : Dword) (n : Nat) : Dword := x.rotateRight n

/-- A big-endian number of `n` bytes. -/
def beBytes (v : Nat) : Nat → List Byte
  | 0 => []
  | n + 1 => BitVec.ofNat 8 (v >>> (8 * n)) :: beBytes v n

/-- The number that bytes are, the first the most significant. -/
def beNat (l : List Byte) : Nat := l.foldl (fun n b => n * 256 + b.toNat) 0

/-- A message with its padding: a 1 bit, zeros, and the length in bits, to a multiple of 128 bytes. -/
def shaPad (l : List Byte) : List Byte :=
  l ++ [0x80] ++ List.replicate ((239 - l.length % 128) % 128) 0 ++ beBytes (8 * l.length) 16

/-- The next word of the message schedule before those that stand there, newest first. -/
def shaNext (w : List Dword) : Dword :=
  let a := w.getD 14 0
  let b := w.getD 1 0
  (shaRot b 19 ^^^ shaRot b 61 ^^^ (b >>> 6)) + w.getD 6 0 + (shaRot a 1 ^^^ shaRot a 8 ^^^ (a >>> 7)) + w.getD 15 0

/-- `n` more words of the schedule. -/
def shaGrow : Nat → List Dword → List Dword
  | 0, w => w
  | n + 1, w => shaGrow n (shaNext w :: w)

/-- The 80 words of a block's schedule. -/
def shaSchedule (block : List Byte) : List Dword :=
  let w := (List.range 16).map fun j => BitVec.ofNat 64 (beNat ((block.drop (8 * j)).take 8))
  (shaGrow 64 w.reverse).reverse

/-- One round: its constant and its word. -/
def shaRound (h : List Dword) (k w : Dword) : List Dword :=
  match h with
  | [a, b, c, d, e, f, g, x] =>
    let t := x + (shaRot e 14 ^^^ shaRot e 18 ^^^ shaRot e 41) + ((e &&& f) ^^^ (~~~e &&& g)) + k + w
    let u := (shaRot a 28 ^^^ shaRot a 34 ^^^ shaRot a 39) + ((a &&& b) ^^^ (a &&& c) ^^^ (b &&& c))
    [t + u, a, b, c, d + t, e, f, g]
  | h => h

/-- A block is taken into the chaining value. -/
def shaBlock (h : List Dword) (block : List Byte) : List Dword :=
  let r := (shaK.zip (shaSchedule block)).foldl (fun r e => shaRound r e.1 e.2) h
  List.zipWith (· + ·) h r

/-- The blocks of a padded message, `n` of them. -/
def shaRun : Nat → List Byte → List Dword → List Dword
  | 0, _, h => h
  | n + 1, l, h => shaRun n (l.drop 128) (shaBlock h (l.take 128))

/-- SHA-384 of bytes: 48 bytes. -/
def sha384 (l : List Byte) : List Byte :=
  let m := shaPad l
  ((shaRun (m.length / 128) m shaInit).take 6).flatMap fun w => beBytes w.toNat 8

/-- A measurement register of zeros (R519). -/
def mrZero : List Byte := List.replicate 48 0

/-- A measurement register extended with bytes (R519). -/
def mrExtend (m data : List Byte) : List Byte := sha384 (m ++ data)

end Sys2Proof.Machine
end

