-- ==== Sys2Proof/Machine/Aes.lean ====
section
/-! DEFINITION. AES-256 and the XTS mode (R517), as FIPS 197 and IEEE 1619 define them: the manual names them and gives no steps
of its own. A block is its 16 bytes as numbers, in order. -/

namespace Sys2Proof.Machine

/-! ## The field of 2^8 elements -/

/-- Multiplication by x modulo x^8 + x^4 + x^3 + x + 1. -/
def aesTwice (a : Nat) : Nat := if a < 128 then 2 * a else (2 * a) % 256 ^^^ 0x1B

/-- The product of two elements. -/
def aesMul (a b : Nat) : Nat :=
  ((List.range 8).foldl (fun (r : Nat × Nat) k => (if b.testBit k then r.1 ^^^ r.2 else r.1, aesTwice r.2)) (0, a)).1

/-- The inverse of an element, its power 254; 0 for 0. -/
def aesInv (a : Nat) : Nat :=
  let sq := fun x => aesMul x x
  ((List.range 7).foldl (fun (r : Nat × Nat) _ => (aesMul r.1 (sq r.2), sq r.2)) (1, a)).1

/-- A byte rotated to the left. -/
def aesRot (a k : Nat) : Nat := (a * 2 ^ k) % 256 + a / 2 ^ (8 - k)

/-- The substitution of a byte, and its inverse. -/
def aesSub (a : Nat) : Nat :=
  let b := aesInv a
  b ^^^ aesRot b 1 ^^^ aesRot b 2 ^^^ aesRot b 3 ^^^ aesRot b 4 ^^^ 0x63
def aesUnsub (a : Nat) : Nat := aesInv (aesRot a 1 ^^^ aesRot a 3 ^^^ aesRot a 6 ^^^ 0x05)

/-! ## Rounds -/

/-- Two lists of bytes added. -/
def aesXor (a b : List Nat) : List Nat := a.zipWith (· ^^^ ·) b

/-- The `n` next words of a key schedule of 8 words, the newest first. -/
def aesSchedule : Nat → List (List Nat) → List (List Nat)
  | 0, w => w
  | n + 1, w =>
    let i := w.length
    let t := w.headD []
    let t := if i % 8 == 0 then
        aesXor ((t.drop 1 ++ t.take 1).map aesSub) [(List.range (i / 8 - 1)).foldl (fun r _ => aesTwice r) 1, 0, 0, 0]
      else if i % 8 == 4 then t.map aesSub else t
    aesSchedule n (aesXor (w.getD 7 []) t :: w)

/-- The 15 round keys of a key of 32 bytes. -/
def aesKeys (key : List Nat) : List (List Nat) :=
  let w := (aesSchedule 52 ((List.range 8).map fun i => (key.drop (4 * i)).take 4).reverse).reverse
  (List.range 15).map fun r => ((w.drop (4 * r)).take 4).flatten

/-- The rows of a block rotated by their numbers; `back` undoes it. -/
def aesShift (back : Bool) (b : List Nat) : List Nat :=
  (List.range 16).map fun k => b.getD ((if back then k + 16 * (k % 4) - 4 * (k % 4) else k + 4 * (k % 4)) % 16) 0

/-- Every column multiplied by the circulant matrix whose first row is given. -/
def aesMix (row : List Nat) (b : List Nat) : List Nat :=
  (List.range 16).map fun k =>
    (List.range 4).foldl (fun x j => x ^^^ aesMul (row.getD ((j + 4 - k % 4) % 4) 0) (b.getD (k / 4 * 4 + j) 0)) 0

/-- A block encrypted under 15 round keys. -/
def aesEncrypt (keys : List (List Nat)) (b : List Nat) : List Nat :=
  let k := fun n => keys.getD n []
  let b := (List.range 13).foldl (fun b n => aesXor (aesMix [2, 3, 1, 1] (aesShift false (b.map aesSub))) (k (n + 1))) (aesXor b (k 0))
  aesXor (aesShift false (b.map aesSub)) (k 14)

/-- A block decrypted under 15 round keys. -/
def aesDecrypt (keys : List (List Nat)) (b : List Nat) : List Nat :=
  let k := fun n => keys.getD n []
  let b := (aesShift true (aesXor b (k 14))).map aesUnsub
  let b := (List.range 13).foldl (fun b n => (aesShift true (aesMix [14, 11, 13, 9] (aesXor b (k (13 - n))))).map aesUnsub) b
  aesXor b (k 0)

/-! ## The mode (R517) -/

/-- A tweak multiplied by x in the field of 2^128 elements: the bytes are a little-endian number. -/
def xtsTwice (t : Nat) : Nat := if t < 2 ^ 127 then 2 * t else (2 * t) % 2 ^ 128 ^^^ 0x87

/-- The 16 bytes of a number, the lowest first, and the number of bytes. -/
def xtsBytes (v : Nat) : List Nat := (List.range 16).map fun k => v / 256 ^ k % 256
def xtsNat (l : List Nat) : Nat := l.foldr (fun b v => b + 256 * v) 0

/-- A data unit of 64 bytes under a key of 512 bits, the first half of its bytes for the data and the second for the tweak. -/
def xtsUnit (decrypt : Bool) (key : BitVec 512) (tweak : Nat) (d : BitVec 512) : BitVec 512 :=
  let bytes := (List.range 4).flatMap fun k => xtsBytes (key.toNat / 2 ^ (128 * k) % 2 ^ 128)
  let k1 := aesKeys (bytes.take 32)
  let t := xtsNat (aesEncrypt (aesKeys (bytes.drop 32)) (xtsBytes tweak))
  let r := (List.range 4).foldl (fun (r : Nat × Nat) j =>
    let x := xtsBytes (r.2 ^^^ (d.toNat / 2 ^ (128 * j) % 2 ^ 128))
    let y := xtsNat (if decrypt then aesDecrypt k1 x else aesEncrypt k1 x) ^^^ r.2
    (r.1 + y * 2 ^ (128 * j), xtsTwice r.2)) (0, t)
  BitVec.ofNat 512 r.1

end Sys2Proof.Machine
end

