-- ==== Sys2Proof/Machine/State.lean ====
section
/-! DEFINITION. The state of the package as plain data: every register, table, queue and memory that
the manual gives the machine, and the state after reset (R525). Maps from numbers are sorted lists
in which an unlisted key holds the map's default. -/

namespace Sys2Proof.Machine

/-- A map from numbers, sorted strictly by key; an unlisted key holds the default of its use. -/
abbrev FMap (α : Type) := List (Nat × α)

/-- Memory: the listed bytes, sorted strictly by address, none equal to the byte that an unlisted
address reads as (0, log entry 2). -/
abbrev Memory := List Host.Cell

/-- One 64-byte sector of data (R22), byte 0 in bits [7:0]. -/
abbrev SectorData := BitVec 512

/-! ## Stops of the model -/

/-- The reasons for which the machine stops. -/
inductive Fault where
  /-- Raised by a word's meaning when no bundle is issuing; step never does this. Safe. -/
  | noBundle
  deriving DecidableEq, Repr

/-- The reasons for which the model has no meaning to give. -/
inductive Refusal where
  /-- Raised by exec for an instruction whose meaning the model does not give. Safe. -/
  | notModelled (mnemonic : String)
  deriving DecidableEq, Repr

/-! ## Threads and waves (R77 to R79, R419 to R432) -/

/-- The trap causes of R419, in order of code from 1. -/
inductive Cause where
  | illegal | priv | memfault | align | bounds | latch | lockfault | math
  | watchdog | debug | preempt | replay | mchk
  deriving DecidableEq, Repr, Inhabited

/-- A destination of a pending result. -/
inductive Dest where
  /-- No register. -/
  | none
  /-- `n` v registers from `r` on. -/
  | vreg (r n : Nat)
  /-- `n` uniform registers of the wave from `r` on. -/
  | sreg (r n : Nat)
  deriving DecidableEq, Repr, Inhabited

/-- What a thread in the waiting state of R79 waits for. -/
inductive Wait where
  /-- Waiting at a WAITM on the mask (R95). -/
  | waitm (k : Nat)
  /-- Asleep until the tick (R105). -/
  | sleep (deadline : Nat)
  /-- In MWAIT, whose access has this number (R108). -/
  | mwait (id : Nat)
  /-- A miss in both TLBs: a page walk is in progress (R156). -/
  | walk
  /-- Waiting for a line lock or a lock unit's reply (R291). -/
  | lock
  /-- No place for a trap record; retried every 1,000 ticks from the tick (R427). -/
  | record (retry : Nat)
  /-- Waiting for a team phase to complete (R393, R395, R396). -/
  | team (k : Nat) (phase : Nat)
  /-- Behind its PDONE, until every live thread of its wave has executed PDONE (R450). -/
  | gather
  /-- Arrived at the participant rendezvous of the word or chain that it stands before (R97, R113, R352). -/
  | rdv
  /-- The word that it stands before cannot act yet (a full queue, an open batch, a phase that is not over, a full operand
  log): it is tried again, and holds no place in the PC-merge table (R297, R352, R431). -/
  | word
  /-- Waiting for the answer of the security controller or the recorder. -/
  | service (ticket : Nat)
  deriving DecidableEq, Repr, Inhabited

/-- The states of a thread that the model stores. Operand wait and parked (R79) follow from the
outstanding accesses and log entries. -/
inductive TState where
  | ready
  | waiting (w : Wait)
  | trapped
  | exited
  deriving DecidableEq, Repr, Inhabited

/-- An asynchronous cause pending for a thread (R420). -/
structure Async where
  cause : Cause
  /-- DET and DSRC of R422. -/
  info : Word
  /-- A deferred MCHK's registers, the access that keeps them pending until it is delivered (0 for none), and the erring
  PC (R437). -/
  dest : Dest
  acc : Nat
  pc : Nat
  /-- Physical address for MCHK (R430). -/
  pa : Nat
  deriving DecidableEq, Repr, Inhabited

/-- A fence that a thread has executed (R242): KIND, SCOPE, the number of the first access after it, and the number below which it
no longer waits for aperture writes (R412). -/
structure Fence where
  kind : Nat
  scope : Nat
  before : Nat
  past : Nat
  deriving DecidableEq, Repr, Inhabited

/-- A marker that the releases which came to wait in one step have sent for the aperture writes with numbers below `upto` (R412): of
threads, at the word they stand at or, with a number, at the fence before that access; and of lock messages. -/
structure FenceMark where
  threads : List (TRef × Option Nat)
  locks : List Nat
  upto : Nat
  /-- The tick at which it was sent. -/
  since : Nat
  deriving DecidableEq, Repr, Inhabited

/-- A thread of a wave, or the one thread of a sprout (R77, R78, R444). -/
structure Thread where
  /-- PC: address of the next word. -/
  pc : Nat
  st : TState
  /-- Ready time (R79), in steps of the model. -/
  readyAt : Nat
  /-- v0 to v239. -/
  v : FMap Word
  /-- p0 to p6; p7 is not stored. -/
  p : BitVec 7
  /-- The valid yard latches, y0 first (R59). -/
  y : List Word
  /-- Draw counter (R191). -/
  draw : Dword
  /-- sr.trapcause, sr.trapaddr, sr.trapinfo (R419, R421, R422). -/
  tcause : Word
  taddr : Dword
  tinfo : Word
  /-- Resume PC and SKIP (R444). -/
  tpc : Nat
  skip : Nat
  /-- INH, and whether PREEMPT set it (R425, R450). -/
  inh : Bool
  inhPre : Bool
  /-- PDN: has executed PDONE (R444). -/
  pdn : Bool
  /-- Pages (of 64 KiB) whose walk for this thread ended in a fault, with its code, until the
  thread's next word has taken it (R162). -/
  wfault : FMap Nat
  /-- Asynchronous causes pending (R420). -/
  async : List Async
  /-- The address of the burst that a sprout thread was born from, while its error is to be raised, and whether its device or
  home is lost (R330). -/
  burst : Option (Nat × Bool)
  /-- How many threads have been released together, this one among them, from the rendezvous of the word or chain that it
  stands before (R95, R97, R113); 0 where it has not been released from one. -/
  go : Nat
  /-- Its next word could issue at the end of the last step: its ready time is the step in which that became so (R79). -/
  able : Bool
  /-- It was in the paddock at the end of the last step (R152, R493). -/
  parked : Bool
  /-- Address of the first word of the unit that it issued last: an abandoned wait issues it again (R439). -/
  at_ : Nat
  /-- The step of the model in which it issued that unit. -/
  step : Nat
  /-- Deadlines of SLEEPs whose wait was abandoned, by 2 times the address, plus 1 in a handler (R105). -/
  slept : FMap Nat
  /-- The batch that its BSEAL or BWAIT at an address has sealed, until that word is over (R309). -/
  sealed : Option (Nat × Nat)
  /-- Fences that it has executed and whose earlier accesses are not all performed (R242). -/
  fences : List Fence
  /-- The release that it stands at no longer waits for aperture writes with lower numbers: a switch left its marker unanswered
  (R412). -/
  past : Nat
  deriving DecidableEq, Repr, Inhabited

/-- States of an operand-log entry (R432). -/
inductive LogState where
  | free | wait | ready | failed
  deriving DecidableEq, Repr, Inhabited

/-- What one lane of a logged unit read (R431). -/
structure LogLane where
  i : Nat
  ea : Nat
  index : Dword
  data : BitVec 128
  data2 : BitVec 128
  deriving DecidableEq, Repr, Inhabited

/-- An operand-log entry (R431). -/
structure LogEntry where
  st : LogState
  /-- The unit's instruction and the address of its first word and of the word after it. -/
  unit : Instr
  pc : Nat
  next : Nat
  lanes : List LogLane
  /-- The uniform registers that the unit read, for a unit that acts once a wave. -/
  regs : FMap Word
  /-- The rows of register operands that a matrix unit read, by the field that names them (R354). -/
  rows : FMap (List Nat)
  /-- MEMFAULT code, DET, address and thread of the last fault (R430). -/
  code : Nat
  det : Word
  va : Nat
  lane : Nat
  /-- The faulting address of its lowest lane, 0 where that lane's own access did not fault (R453). -/
  low : Nat
  /-- Cause with which a FAILED entry is delivered. -/
  cause : Cause
  /-- Order in which the entry became READY (R432). -/
  order : Nat
  /-- The model's number of the unit's place in program order: that of its entry. -/
  num : Nat
  deriving DecidableEq, Repr, Inhabited

/-- A recorded unit's open chunk and its identity (R458, R463 to R473). Kept for every wave; only
the units of a recorded context change it. -/
structure RecUnit where
  /-- UNIT number within the cluster (R463). -/
  unit : Nat
  /-- Read and write signatures (R464). -/
  rsig : BitVec 512
  wsig : BitVec 512
  /-- The entries of the bundle that has not retired, what it has written, by wave index with address and bytes (R473), and its
  threads where it waits for its accesses (log entry 25): 2^64 stands for a unit that was reissued from the operand log. -/
  newR : BitVec 512
  newW : BitVec 512
  writes : List (Nat × Nat × List Byte)
  late : Nat
  /-- The 40-bit clock (R467). -/
  clock : Nat
  /-- sr.chunk, and bundles retired in the open chunk. -/
  chunk : Nat
  len : Nat
  /-- Bundles of the chunk that closed last: the BIDX of an input that comes once the unit has exited (R471). -/
  last : Nat
  /-- Flags that close the chunk at the end of the bundle or chain in progress (R62, R466, R469). -/
  close : Nat
  /-- Object clock that the closing instruction acts on (R468). -/
  obj : Option Nat
  /-- HASH of the open chunk so far (R473). -/
  hash : BitVec 16
  /-- The open chunk's bundles (0, the mask) and records (1, the record), in order (R472). -/
  pend : List (Nat × BitVec 128)
  deriving DecidableEq, Repr, Inhabited

/-- A sprout thread's own data (R322, R327, R429). -/
structure SproutInfo where
  /-- The block's request, and the burst's ordinal. -/
  req : Nat
  ordinal : Nat
  /-- sr.spoff, sr.sprow, sr.spcol, sr.spfin. -/
  off : Word
  row : Word
  col : Word
  fin : Bool
  /-- Order of birth in the core. -/
  birth : Nat
  /-- The thread has executed SPEND or EXIT and its accesses are not all performed (R336). -/
  ended : Bool
  deriving DecidableEq, Repr, Inhabited

/-- A thread at a lock instruction that has asked a lock unit (R291): the unit's first word, PS, the physical sector, the opcode, the
scope, the request's number, and the step in which the instruction issued, which tells the instructions of a wave that share a request
apart. `late` marks one that was reissued from the operand log: its thread has gone past the instruction, and issues nothing more
until the reply has come (R290). One whose thread has left its wait meets the request's outcome when the thread issues the
instruction again (R282). -/
structure Locker where
  i : Nat
  pc : Nat
  ps : Nat
  x : Nat
  op : Nat
  scope : Nat
  req : Nat
  n : Nat
  late : Bool
  deriving DecidableEq, Repr, Inhabited

/-- A register that carries an uncorrectable error: 0 a v register or 1 a predicate of the thread with wave index `i`, 2 a uniform
register (R527). -/
structure RegErr where
  kind : Nat
  i : Nat
  reg : Nat
  deriving DecidableEq, Repr, Inhabited

/-- A wave, or a sprout thread as a wave of width 1 (R28, R77, R98). The map of waves is keyed by a
number that the model never uses twice. -/
structure Wave where
  ctx : Nat
  core : Nat
  block : Nat
  /-- Wave slot 0 to 31; 32 for a sprout thread, which has none. -/
  slot : Nat
  wid : Nat
  width : Nat
  /-- Lane of thread 0. -/
  lane : Nat
  /-- Declared v registers (R53). -/
  regs : Nat
  /-- Its threads run at level H (R417). -/
  high : Bool
  /-- Wave tag (R276), or the sprout thread's handle tag (R429). -/
  tag : Word
  sprout : Option SproutInfo
  threads : FMap Thread
  /-- s0 to s63 and m0 to m11 (R66). -/
  s : FMap Word
  m : FMap Dword
  /-- FPSW (R196). -/
  fpsw : Word
  /-- sr.lkstat, sr.savearea (R67). -/
  lkstat : Word
  savearea : Dword
  /-- Held line locks, physical sectors, oldest first (R276). -/
  held : List Nat
  /-- Sectors whose held-list entry was dropped with their lost home, until an UNLOCK of them (R410). -/
  dropped : List Nat
  /-- The sector whose lock the wave waits for, and the number of its request (R276). -/
  lockWait : Option (Nat × Nat)
  /-- Its threads at lock instructions that have asked a lock unit (R291). -/
  lockers : List Locker
  /-- By request, the status that it has ended with, for those of `lockers` that did not wait for it then (R282). -/
  lockPost : FMap Nat
  /-- sr.batch, and the error flags of the 16 batches by number (R307). -/
  batch : Nat
  batchErr : Nat
  /-- The batch that was open is sealed, and the next number is not yet done (R309). -/
  sealed : Bool
  /-- The sprout context s0 to s7 of later requests (R342). -/
  spctx : FMap Word
  /-- Matrix error flag, and NEXT of the wave's most recent MSEQ (R370). -/
  merr : Bool
  mseqNext : Nat
  /-- Number of its most recent MSEQ. -/
  mseqId : Nat
  /-- Operand log, 4 entries, or 1 for a sprout thread (R431). -/
  log : FMap LogEntry
  logOrder : Nat
  /-- Halted by HALT; a step lets one bundle retire (R446). -/
  halted : Bool
  haltReq : Bool
  stepping : Bool
  /-- Threads of a stepped bundle, or of one before a breakpoint, whose record has still to be posted, and 2^64 times DSRC. -/
  stepped : Nat
  /-- Where its image stands in the save area, while it is saved there (R443). -/
  image : Option Nat
  /-- The wave has been saved and is not on a core (R443); a wave whose image omits v (R441). -/
  saved : Bool
  noV : Bool
  /-- All threads have exited and the wave has retired (R390). -/
  retired : Bool
  /-- Collective handles in use, each with the collective it names (R403). -/
  colls : FMap Nat
  /-- TLBINVs issued and not yet met by R257: the context, the range from its first address up to before its last, and
  the model's number at which it was issued. -/
  invs : List (Nat × Nat × Nat × Nat)
  /-- The teams in which a TBAR or RESHAPE has arrived whose wait is not over, with the phase (R395). -/
  tbar : FMap Nat
  /-- Destination register and new shares of a RESHAPE that has arrived (R396). -/
  reshape : Option (Nat × Word)
  /-- How the wave has stopped for a pre-emption (R439, R441, R443): 0 it has not, 3 by PDONE, 4 by the forced save, 5 whole at
  once. -/
  stop : Nat
  /-- Its registers that carry an uncorrectable error, until they are written (R527). -/
  errs : List RegErr
  recd : RecUnit
  deriving DecidableEq, Repr, Inhabited

/-! ## Memory accesses on their way (R151, R152, R228, R251) -/

/-- Operations of the atomics (R64, R268 to R271). -/
inductive AOp where
  | add | and | or | xor | min | max | xchg | incw | addb | fadd | fmin | fmax | cas | cas2
  deriving DecidableEq, Repr, Inhabited

/-- What an outstanding access does at the data. -/
inductive AccKind where
  /-- A load of `n` bytes, sign-extended if `sx`. -/
  | load (sx : Bool)
  /-- A store of the access's data. -/
  | store
  /-- An atomic on the format code `ty`. -/
  | rmw (op : AOp) (ty : Nat)
  /-- MWAIT's second read, or its first (R108). -/
  | mwait (first : Bool)
  /-- A prefetch to level 1, 2 or 3 (R178). -/
  | pref (level : Nat)
  deriving DecidableEq, Repr, Inhabited

/-- How far an access has come. -/
inductive AccState where
  /-- In the order of its sector at the die's L2. -/
  | atL2
  /-- A home-side operation, not yet performed (R253). -/
  | atHome
  /-- On its way to another device of the domain, marker not yet answered (R239, R412). -/
  | remote
  /-- Waiting for a collapse of its page (R165). -/
  | collapse
  /-- Performed: the value that goes to the destination, and whether a bounded atomic failed. -/
  | done (v : BitVec 128) (fail : Bool)
  /-- An MWAIT whose first read equalled B waits until the tick, with a monitor or with none (R108). -/
  | watching (mon : Bool) (deadline : Nat)
  /-- The data carries an uncorrectable error (R180), or its home is lost (R410, R411). -/
  | poisoned (store lost : Bool)
  /-- Its error has been reported, or waits to be: its destination stays pending until then (R180, R437). -/
  | failed
  deriving DecidableEq, Repr, Inhabited

/-- What a chain has written of a thread, as it was before: v registers, the predicates of a mask, the draw counter (R61). The flags of
FPSW stay (log entry 82). -/
structure ChainUndo where
  v : FMap Word
  pm : BitVec 7
  p : BitVec 7
  draw : Dword
  deriving DecidableEq, Repr, Inhabited

/-- An outstanding access of a thread (R152, R172 to R174). The list of accesses is in order of
issue. -/
structure Access where
  id : Nat
  /-- Its place in program order: its number, or that of the operand-log entry whose unit it is. -/
  prog : Nat
  t : TRef
  /-- Wave indices of the threads whose access it is: that thread, or for LDU and STU every active thread of the wave (R177). -/
  who : List Nat
  core : Nat
  /-- Addresses of the unit's first word, of its chain's first word (the unit's, outside a chain) and of the word after it. -/
  pc : Nat
  start : Nat
  next : Nat
  /-- It was reissued from the operand log: its threads have issued past it (R437). -/
  late : Bool
  /-- INCH and CPOS of its word (R422), and by wave index what its chain has written: a precise MCHK takes it back (R61, log
  entry 82). -/
  inch : Nat
  undo : FMap ChainUndo
  /-- The step in which it issued. -/
  step : Nat
  kind : AccKind
  /-- It is a RED's (R273). -/
  red : Bool
  pa : Nat
  va : Nat
  /-- Page class of the translation (R163). -/
  cls : Nat
  /-- A scratchpad access of this block, at offset `pa`. -/
  scr : Option Nat
  n : Nat
  data : BitVec 128
  data2 : BitVec 128
  dest : Dest
  /-- Predicate that receives the failure flag of addb (R266). -/
  pf : Option Nat
  /-- Cache policy (R153). -/
  pol : Nat
  /-- Scope of its acquire, if it has one (R225). -/
  acq : Option Nat
  /-- The monitor of an MWAIT has fired: the sector has been written, or given up, since its first read (R108). -/
  fired : Bool
  /-- It missed the L1: it holds a miss entry of its core for its sector, which accesses of its bundle share (R152). -/
  missed : Bool
  st : AccState
  deriving DecidableEq, Repr, Inhabited

/-! ## Caches, directory and messages (R247 to R255) -/

/-- States of an agent's copy (R251). -/
inductive CSt where
  | i | s | e | o | m | isD | imD | smA | omA | miA
  deriving DecidableEq, Repr, Inhabited

/-- A sector in a die's L2 (R251). -/
structure L2Copy where
  st : CSt
  data : SectorData
  /-- For MI_A: the buffered data is dirty. -/
  dirty : Bool
  /-- The data carries an uncorrectable error (R301, R527). -/
  poison : Bool
  /-- It was allocated at the eviction end (R153). -/
  early : Bool
  deriving DecidableEq, Repr, Inhabited

/-- A sector in a core's L1: tracked by the die directory, or an untracked ro copy (R151, R154). -/
structure L1Copy where
  data : SectorData
  tracked : Bool
  deriving DecidableEq, Repr, Inhabited

/-- Messages of the sector protocol (R247). -/
inductive MsgKind where
  | rdS | rdX | upg | wbD | evC | invAck | fwdData | peekData
  | dataS | dataE | cmp | inv | fwdS | fwdX | recallMsg | peek | wbAck
  deriving DecidableEq, Repr, Inhabited

/-- A message between an L2-level agent and a home slice. -/
structure Msg where
  kind : MsgKind
  agent : Agent
  x : Nat
  data : SectorData
  dirty : Bool
  /-- WBP of FwdData, or the ok of WBAck. -/
  flag : Bool
  poison : Bool
  /-- Largest TS of the chunks that the message's probes closed (R466). -/
  ts : Nat
  /-- Tick at which it was sent (R255). -/
  sent : Nat
  deriving DecidableEq, Repr, Inhabited

/-- Directory states (R248). -/
inductive DSt where
  | i | s | e | o | hRd | hInv | hFwd | hFwdInv | hWb | hOp
  deriving DecidableEq, Repr, Inhabited

/-- What a directory entry in a transient state will do when its answers are in. -/
inductive DirTask where
  | none
  /-- Serve the request `k` of agent `q`. -/
  | serve (k : MsgKind) (q : Agent)
  /-- Perform the home-side operation with this number (R253). -/
  | homeOp (n : Nat)
  /-- Read the sector from the host first (R246). -/
  | host (k : MsgKind) (q : Agent)
  deriving DecidableEq, Repr, Inhabited

/-- A request in a sector queue (R250). -/
structure QReq where
  msg : Msg
  deriving DecidableEq, Repr, Inhabited

/-- A directory entry (R248) with its sector queue (R250). -/
structure DirEntry where
  st : DSt
  own : Option Agent
  sh : List Agent
  /-- InvAcks awaited; agents whose FwdData or PeekData is awaited. -/
  acks : List Agent
  fwd : Option Agent
  task : DirTask
  /-- The state to return to. -/
  back : DSt
  queue : List QReq
  /-- The answering data and its dirty and poison flags. -/
  data : SectorData
  dirty : Bool
  bad : Bool
  /-- Largest TS answered so far (R466). -/
  ts : Nat
  deriving DecidableEq, Repr, Inhabited

/-- Home-side operations (R253). -/
inductive HomeOp where
  /-- An access of a thread: a far atomic, or a load or store of policy nal2. -/
  | access (id : Nat)
  /-- A lock grant to a wave (R253, R279): its die, the wave, the status and the request's number. -/
  | grant (die : Nat) (u : Nat) (status : Nat) (req : Nat)
  /-- Host CXL.mem read and write (R238). -/
  | hostRead (n : Nat)
  | hostWrite (bytes : List Byte)
  /-- An aperture access of another device: a load, a store or an atomic (R146). -/
  | apRead (dev n : Nat)
  | apWrite (dev : Nat) (bytes : List Byte)
  | apRmw (dev : Nat) (op : AOp) (ty data data2 : Nat)
  /-- A patrol scrub (R527). -/
  | scrub
  /-- The collapse engine's invalidation of a replica's sector (R165). -/
  | invalidate
  deriving DecidableEq, Repr, Inhabited

/-- A home-side operation waiting for its sector or in progress. -/
structure HomeReq where
  n : Nat
  x : Nat
  pa : Nat
  op : HomeOp
  deriving DecidableEq, Repr, Inhabited

/-! ## Translation (R156 to R167) -/

/-- A TLB entry: the PTE fields as they were at the fill (R161). -/
structure TlbEntry where
  ctx : Nat
  /-- First address, and log2 of the page size (16, 21 or 29). -/
  va : Nat
  log : Nat
  pte : Dword
  /-- Address of the entry it was filled from. -/
  at_ : Nat
  deriving DecidableEq, Repr, Inhabited

/-- A page walk in progress (R160, R161). -/
structure Walk where
  id : Nat
  core : Nat
  ctx : Nat
  va : Nat
  write : Bool
  /-- It is for an access at level H (R417). -/
  high : Bool
  /-- The walk waits for step 4 of a P-to-S transition (R164). -/
  ptos : Bool
  /-- The threads that wait for it. -/
  who : List TRef
  deriving DecidableEq, Repr, Inhabited

/-- A collapse of an R page (R165): the context and page of the first write, the entry's address, whether the engine
runs it (its steps 2 and 3 are then made), the slot, and the model's number when it started: step 4 waits for the reads
numbered below that. -/
structure Collapse where
  ctx : Nat
  va : Nat
  pte : Nat
  running : Bool
  slot : Nat
  before : Nat
  /-- The invalidations of step 5 have been sent to the homes. -/
  inv : Bool
  deriving DecidableEq, Repr, Inhabited

/-- A P-to-S transition in progress (R164). -/
structure PtoS where
  ctx : Nat
  va : Nat
  log : Nat
  owner : Nat
  /-- Address of the entry, and the page's frame. -/
  pte : Nat
  frame : Nat
  deriving DecidableEq, Repr, Inhabited

/-! ## Line locks (R276 to R288) -/

/-- A waiter of a lock unit's queue (R277): its wave, its arrival stamp (tick, order within the tick), its
deadline, its passed flag and its request's number. A waiter is absent while its wave is saved. -/
structure LockWaiter where
  u : Nat
  req : Nat
  tick : Nat
  order : Nat
  deadline : Option Nat
  passed : Bool
  deriving DecidableEq, Repr, Inhabited

/-- The lock record of a sector (R277, R278): its holder, its queue with the head first, the tick at which the
grace of an absent head started, and an abandoned status pending for the head. -/
structure LockRec where
  holder : Option Nat
  queue : List LockWaiter
  grace : Option Nat
  aband : Bool
  deriving DecidableEq, Repr, Inhabited

/-- What a core sends a lock unit (R278). -/
inductive LockKind where
  | acquire (deadline : Option Nat) (stamp : Option (Nat × Nat))
  | try_
  | release
  | abandon
  deriving DecidableEq, Repr, Inhabited

/-- A message to a lock unit. It is sent once the wave's accesses numbered below `after` are performed at the
scope (R283, R292). -/
structure LockMsg where
  n : Nat
  u : Nat
  x : Nat
  kind : LockKind
  /-- The number that the core gave the request of an acquire or a try; its reply carries it. -/
  req : Nat
  after : Nat
  scope : Nat
  /-- It no longer waits for aperture writes with lower numbers (R412). -/
  past : Nat
  deriving DecidableEq, Repr, Inhabited

/-- A reply of a lock unit to a wave (R291), and the stamp and deadline of an acquire answered FULL. -/
structure LockReply where
  n : Nat
  u : Nat
  x : Nat
  status : Nat
  /-- Number of the request that it answers. -/
  req : Nat
  again : Option (Nat × Nat × Option Nat)
  deriving DecidableEq, Repr, Inhabited

/-- An acquire that is sent again every 1,000 ticks (R280). -/
structure LockRetry where
  u : Nat
  x : Nat
  req : Nat
  stamp : Nat × Nat
  deadline : Option Nat
  next : Nat
  deriving DecidableEq, Repr, Inhabited


/-! ## Copies (R297 to R307) -/

/-- A command that a COPYX carries (R305): the word, and the uniform registers that it names as they were at
the COPYX. -/
structure Carried where
  unit : Instr
  regs : FMap Word
  /-- The copy's data has landed; the command has been handed over. -/
  landed : Bool
  deriving DecidableEq, Repr, Inhabited

/-- A block's scratchpad that an engine writes or counts on, as it was at acceptance: the block, its core and member, the
generation of its allocation and the granules that it holds (R319). -/
structure ScrDst where
  block : Nat
  core : Nat
  member : Nat
  gen : Nat
  grans : List Nat
  deriving DecidableEq, Repr, Inhabited

/-- A copy from acceptance to completion. Unit `k` of it is 16 bytes: column `k` modulo the row length of row
`k` divided by it. -/
structure Copy where
  id : Nat
  u : Nat
  ctx : Nat
  core : Nat
  block : Nat
  batch : Nat
  /-- Address of the instruction. -/
  pc : Nat
  /-- Cache policy of its reads and writes (R299). -/
  pol : Nat
  /-- Spaces: 0 global, 1 scratchpad, 2 cluster scratchpad. -/
  dsp : Nat
  ssp : Nat
  /-- First addresses, pitches of rows, and units of a row. -/
  src : Nat
  dst : Nat
  srcPitch : Nat
  dstPitch : Nat
  rowUnits : Nat
  /-- Pages of both ranges, with their physical first addresses (R167). -/
  srcPins : FMap Nat
  dstPins : FMap Nat
  /-- The block whose scratchpad it reads, those that it writes or counts on, and those that its stamp is written to (R319). -/
  srcBlock : Nat
  targets : List ScrDst
  stampTo : List ScrDst
  multicast : Bool
  /-- Units still to be performed, as ranges from the first up to before the second. -/
  left : List (Nat × Nat)
  /-- Address and value of its stamp; the physical address for a global destination. -/
  stamp : Option (Nat × Dword)
  /-- Offset of its barrier object, and the units performed that are still to be counted on it: the last of them are as the
  copy completes (R313). -/
  bar : Option Nat
  owed : Nat
  /-- Error flag, and members whose share was discarded (R301, R319). -/
  err : Bool
  lost : List Nat
  carried : Option Carried
  deriving DecidableEq, Repr, Inhabited

/-! ## Sprout requests (R322 to R335) -/

/-- An outstanding sprout request (R323). -/
structure SprReq where
  id : Nat
  u : Nat
  ctx : Nat
  core : Nat
  block : Nat
  /-- The block's number of it. -/
  n : Nat
  /-- The handler's PC. -/
  pc : Nat
  /-- CM, STS, and the barrier-object offset or the stamp: its address, physical if global, and value. -/
  cm : Nat
  sts : Bool
  bar : Nat
  stamp : Nat × Dword
  /-- The sprout context (R342). -/
  regs : FMap Word
  /-- Source, pitch and bursts of a row; for SPRX the address of each ordinal instead. -/
  src : Nat
  pitch : Nat
  rowBursts : Nat
  addrs : FMap Nat
  /-- Pages of its source, until its last burst is read for a save (R341), and the page of its stamp (R167). -/
  pins : FMap Nat
  stPins : FMap Nat
  /-- Cache policy of its reads (R326). -/
  pol : Nat
  /-- Bursts in all, and ordinals not yet read, as ranges from the first up to before the second. -/
  total : Nat
  left : List (Nat × Nat)
  /-- Bursts born, threads ended, bursts discarded. -/
  born : Nat
  ended : Nat
  dropped : Nat
  err : Bool
  cancelled : Bool
  deriving DecidableEq, Repr, Inhabited

/-- A burst in a core's sprout buffer (R332). -/
structure Burst where
  req : Nat
  ordinal : Nat
  /-- Its physical address. -/
  pa : Nat
  data : SectorData
  /-- It carries an error, and its device or home is lost (R330). -/
  bad : Bool
  lost : Bool
  deriving DecidableEq, Repr, Inhabited

/-- A completed request that its block still knows (R348). -/
structure SprDone where
  block : Nat
  n : Nat
  err : Bool
  cancelled : Bool
  born : Nat
  deriving DecidableEq, Repr, Inhabited

/-! ## Matrix engines (R351 to R377) -/

/-- An accepted matrix command (R352). -/
structure MCmd where
  id : Nat
  u : Nat
  core : Nat
  block : Nat
  unit : Instr
  pc : Nat
  /-- Wave indices of the contributing threads. -/
  who : List Nat
  /-- The uniform registers that the unit names, and for each register operand, by the field that names it, its
  64 rows (R354). -/
  regs : FMap Word
  rows : FMap (List Nat)
  /-- Pages of its global ranges: of the first and of the second address (R167). -/
  pins : FMap Nat
  pins2 : FMap Nat
  /-- It holds a copy entry of the core. -/
  entry : Bool
  /-- First draw number of an MCVT under rst (R364). -/
  draw : Dword
  /-- NEXT of an MSEQ (R369), and whether an uncorrectable unit was staged. -/
  next : Nat
  err : Bool
  deriving DecidableEq, Repr, Inhabited

/-- An MDRAIN whose tile has been read, waiting for the other ranks (R366): the tile, and how many MDRAINs of
this context's device named its mask and tag before. -/
structure Drain where
  id : Nat
  u : Nat
  core : Nat
  mask : Dword
  tag : Word
  nth : Nat
  tile : FMap Word
  dst : Nat
  pitch : Nat
  pins : FMap Nat
  deriving DecidableEq, Repr, Inhabited

/-! ## Teams (R392 to R394) -/

/-- An entry of a core's team table (R392). -/
structure Team where
  core : Nat
  block : Nat
  members : List Nat
  /-- PH, 32 bits, and the waves that have arrived in it. -/
  ph : Nat
  arrived : List Nat
  /-- Watchdog period, 0 when disarmed; the tick at which a member retired a bundle last, or every member was there
  again; none while a member is halted or absent (R394). -/
  wdPeriod : Nat
  wdSince : Option Nat
  /-- The tick since which some member has had a waiting thread all the time; none while none has. -/
  wdWait : Option Nat
  deriving DecidableEq, Repr, Inhabited

/-! ## Queues, launches, messages and collectives (R378 to R406) -/

/-- A queue's registers (R381), the launches that issued the LAUNCHes of its records, by count, the last 256
completed launches with their status (R398), and the completion entries that wait for room. -/
structure Queue where
  base : Dword
  ctl : Dword
  tail : Nat
  head : Nat
  cb : Dword
  cp : Nat
  cc : Nat
  issuers : FMap Nat
  done : List (Nat × Nat)
  pend : List (BitVec 128)
  deriving DecidableEq, Repr, Inhabited

/-- A launch in the dependence unit (R382): its queue and ticket, its record (R378), the launches it depends on,
the blocks still to be dispatched as ranges (first, after the last, die), and how it will complete. -/
structure Launch where
  id : Nat
  q : Nat
  ticket : Nat
  ctx : Nat
  record : Nat
  deps : List Nat
  ready : Bool
  left : List (Nat × Nat × Nat)
  /-- The blocks dispatched so far. -/
  blocks : List Nat
  status : Nat
  detail : Nat
  /-- Its number in the context since the last cut (R471). -/
  lnum : Nat
  deriving DecidableEq, Repr, Inhabited

/-- A mailbox's ring head, the sources of the messages in it, oldest first, and the arrivals counted since the
last cut of its context, in all and by source (R399, R471). -/
structure Box where
  head : Nat
  srcs : List Nat
  aseq : Nat
  sseq : FMap Nat
  deriving DecidableEq, Repr, Inhabited

/-- A message accepted and not delivered (R399): from this device, with the sending context and launch, or held for a
mailbox of this device after its arrival. It is tried again from the tick on. -/
structure OutMsg where
  id : Nat
  src : Nat
  ctx : Nat
  launch : Nat
  block : Nat
  dev : Nat
  box : Nat
  data : SectorData
  retry : Nat
  deriving DecidableEq, Repr, Inhabited

/-- What a recorder sends to another device of its domain (R482): the marker of a cut, or with no cut number a CKPTREQ, which goes to the
DCO device. It goes ahead of the messages and aperture writes with numbers from `before` on. -/
structure DomSent where
  ctx : Nat
  cut : Option Nat
  dev : Option Nat
  before : Nat
  deriving DecidableEq, Repr, Inhabited

/-- A collective of a wave (R402, R403): its k-th with its mask and tag on this device. -/
structure CollOp where
  id : Nat
  u : Nat
  ctx : Nat
  core : Nat
  block : Nat
  pc : Nat
  mask : Dword
  tag : Nat
  root : Nat
  kind : Nat
  op : Nat
  ty : Nat
  n : Nat
  nth : Nat
  src : Nat
  dst : Nat
  srcPins : FMap Nat
  dstPins : FMap Nat
  done : Bool
  err : Bool
  /-- UNIT of the wave that issued it and the BIDX of its last chunk, once the wave is gone (R407). -/
  unit : Nat
  bidx : Nat
  deriving DecidableEq, Repr, Inhabited

/-! ## Recording (R458 to R484) -/

/-- A silo's open segment and counters (R475, R477). -/
structure Silo where
  /-- Records of the open segment. -/
  recs : List (BitVec 128)
  /-- Tick at which the open segment took its first record. -/
  opened : Nat
  /-- WSEG and RSEG (R477), and the first segment of the current interval. -/
  wseg : Nat
  rseg : Nat
  first : Nat
  /-- The writer holds its records until a forced cut (R478). -/
  held : Bool
  deriving DecidableEq, Repr, Inhabited

/-- A probe of a home slice's probe table on its way to a core (R465). -/
structure Probe where
  x : Nat
  core : Nat
  ctx : Nat
  write : Bool
  deriving DecidableEq, Repr, Inhabited

/-- An entry of a home slice's probe table (R465). -/
structure ProbeEntry where
  slice : Nat
  x : Nat
  core : Nat
  ctx : Nat
  deriving DecidableEq, Repr, Inhabited

/-- A C-die's streaming sampler (R494, R496): the context and core that armed it, the ring's first address, its pages'
physical addresses and size, the counters of a row, whether rows carry stall samples, the interval, the tick of the last row, and where the rotation
over the die's cores stands. -/
structure Sampler where
  ctx : Nat
  core : Nat
  ring : Nat
  pins : FMap Nat
  rsz : Nat
  ids : List Nat
  sb : Bool
  int : Nat
  last : Nat
  turn : Nat
  deriving DecidableEq, Repr, Inhabited

/-- A chunk of a unit as the log holds it (R471, R472): the cluster whose silo holds it, the unit, the chunk number,
TS, hash and flags, the masks of its bundles, its records with their bundle index, the cause of the
asynchronous trap that ended it, and those of asynchronous traps taken before its first bundle, which no CHUNK record
ends. -/
structure LogChunk where
  cluster : Nat
  unit : Nat
  chunk : Nat
  ts : Nat
  hash : Nat
  flags : Nat
  masks : List Nat
  recs : List (Nat × List (BitVec 128))
  trap : Option Nat
  lead : List Nat
  deriving DecidableEq, Repr, Inhabited

/-- A replay of a context (R485 to R491): the interval that it is in and the last one, the chunks of each unit that it
has not finished, in log order, by 512 times the cluster plus the unit, the births of each cluster, the wave
records, the mailbox arrivals of each box in ASEQ order, the home-side operations of each slice in SEQ order,
the launch records and host writes, and the breakpoints that waves have passed, as 4 times the wave plus the breakpoint. -/
structure Replay where
  interval : Nat
  last : Nat
  chunks : FMap (List LogChunk)
  births : FMap (List (Nat × Nat × Nat))
  /-- By unit as the chunks, the INPUT records that came after a wave of it had exited, each with its payload (R407). -/
  late : FMap (List (List (BitVec 128)))
  waves : List (BitVec 128)
  msgs : FMap (List (Nat × List Byte))
  homes : FMap (List (BitVec 128))
  inputs : List (BitVec 128 × List Byte)
  /-- Counts of the LAUNCHes to each queue (R397). -/
  tails : FMap Nat
  passed : List Nat
  deriving DecidableEq, Repr, Inhabited
/-! ## The security controller and the memory's keys (R507 to R528) -/

/-- An accepted request (R513, R515): a SECCALL, or an ATTEST. -/
structure SecReq where
  ticket : Nat
  ctx : Nat
  attest : Bool
  /-- CMD of a request block; it breaks a rule of R513 itself. -/
  cmd : Nat
  bad : Bool
  /-- The model's number at its acceptance. -/
  num : Nat
  /-- Payload, and response or report: address, length and pinned pages. -/
  paddr : Nat
  plen : Nat
  ppins : FMap Nat
  raddr : Nat
  rlen : Nat
  rpins : FMap Nat
  deriving DecidableEq, Repr, Inhabited

/-- A completed request that the controller remembers (R515). -/
structure SecDone where
  ticket : Nat
  attest : Bool
  status : Nat
  deriving DecidableEq, Repr, Inhabited

/-- The memory's keys (R517, R518). No instruction reads a key, so a key is known by a number of its own. -/
structure Crypt where
  /-- The key in each slot; slot k holds key k where unlisted. -/
  keys : FMap Nat
  /-- Number of the next key. -/
  next : Nat
  /-- Slots that KEYGEN has drawn since the last reset or wipe. -/
  drawn : List Nat
  /-- Key ids of the 2 MiB frames, 0 where unlisted. -/
  frames : FMap Nat
  /-- The key that each sector was last written under; that of `sealed` where unlisted. -/
  sectors : FMap Nat
  /-- By frame, the key of the sectors that `sectors` does not list, since the last wipe (R512); `base` where unlisted. -/
  sealed : FMap Nat
  base : Nat
  deriving DecidableEq, Repr, Inhabited

/-- The keys after the first reset (log entry 11). -/
def Crypt.reset : Crypt :=
  { keys := [], next := 64, drawn := [], frames := [], sectors := [], sealed := [], base := 0 }

/-- The measurement registers after a reset with spare map `m` in lifecycle state `l` (R519, R525). -/
def bootMrs (m l : Nat) : FMap (List Byte) :=
  [(0, mrExtend mrZero (Config.firmware 0)), (1, mrExtend mrZero (Config.firmware 1)), (2, mrExtend mrZero (Config.firmware 2)),
   (3, mrExtend mrZero (beBytes m 8).reverse), (4, mrExtend mrZero (beBytes l 8).reverse)]


/-! ## Cores and blocks (R20, R28, R80, R386) -/

/-- An entry of a core's PC-merge table (R80): its set and way, its key and whether it is promoted
(R85). Its threads are the block's ready threads at the PC. -/
structure MergeEntry where
  set : Nat
  way : Nat
  block : Nat
  pc : Nat
  promoted : Bool
  deriving DecidableEq, Repr, Inhabited

/-- A core's own state. -/
structure CoreState where
  /-- PC-merge table (R80). -/
  table : List MergeEntry
  /-- Port that issued last: the memory/engine port if true (R82). -/
  memPort : Bool
  /-- Partition word in force (R147). -/
  part : Dword
  /-- L1 sectors (R148, R151). -/
  l1 : FMap L1Copy
  /-- Lines of 256 bytes with sectors in the L1: the first of a set goes first (R148, R153). -/
  l1Lines : List Nat
  /-- L1 TLB, newest first (R161). -/
  tlb : List TlbEntry
  /-- Scratchpad generation of the core's last allocation, and of the last allocation of each granule of its pool (R319). -/
  gen : Nat
  pool : FMap Nat
  /-- Products completed by the matrix engine (R376). -/
  products : Nat
  deriving DecidableEq, Repr, Inhabited

/-- A resident block (R28, R386, R388). -/
structure Block where
  ctx : Nat
  launch : Nat
  core : Nat
  die : Nat
  /-- Block index, grid extent and linear index (R67, R387). -/
  bx : Nat
  by_ : Nat
  bz : Nat
  lin : Nat
  /-- Cluster of blocks: first linear index and member (R150). -/
  gang : Nat
  member : Nat
  /-- Scratchpad size and bytes (R149), poisoned 16-byte units (R437), generation (R319). -/
  scratch : Nat
  scr : Memory
  scrPoison : List Nat
  /-- Elements of accumulator tiles that carry an uncorrectable error, by 4096 times the tile plus the element (R527). -/
  tileBad : List Nat
  gen : Nat
  /-- Granules of its core's pool that the scratchpad holds (R319). -/
  grans : List Nat
  /-- Declared accumulator tiles and sprouts (R75). -/
  acc : Nat
  sprouts : Nat
  /-- Number of its launch since the last cut (R471). -/
  lnum : Nat
  /-- From the launch record: rounding seed (R191), MATH enables (R196), grid extent (R67). -/
  seed : Dword
  en : Nat
  nbx : Nat
  nby : Nat
  nbz : Nat
  /-- Multicast credit C0, the slot counters by receiver member (C0 where unlisted), and the OVER and GONE
  flags of SLOTQ (R317, R318). -/
  credit : Nat
  slots : FMap Nat
  overs : Nat
  gone : Nat
  /-- Accumulator tiles by number; the elements by 64 times the row plus the column, 0 where unlisted (R351). -/
  tiles : FMap (FMap Word)
  /-- Next sprout request number (R323), and the matrix draw counter (R364). -/
  nextReq : Nat
  mdraw : Dword
  /-- Every wave has retired (R390); the slot is freed (R391). -/
  ended : Bool
  /-- Saved to the save area (R442), and the partition word that its core ran under then. -/
  saved : Bool
  part : Dword
  /-- Where its scratchpad image stands then (R442). -/
  image : Nat
  deriving DecidableEq, Repr, Inhabited

/-- A retained checkpoint of a context (R479, R480): images of its waves and blocks as the store
holds them, the object clocks, the pages' undo copies by virtual page, and each silo's first segment
of the interval. -/
structure Ckpt where
  waves : FMap Wave
  blocks : FMap Block
  oc : FMap Nat
  /-- Undo copies: physical first address of the page, and its 65,536 bytes as listed memory. -/
  undo : FMap Memory
  segs : FMap Nat
  tick : Nat
  /-- The launches in the dependence unit, the requests, copies, buffered bursts, teams and cores of its blocks, and the
  tails of the context's queues, as they were (R479). -/
  launches : List Launch
  sprReqs : List SprReq
  sprBuf : List Burst
  copies : List Copy
  mcmds : List MCmd
  teams : FMap Team
  tails : FMap Nat
  lcount : Nat
  /-- The line locks that its waves hold or wait for, its collectives and reductions under way, the completed requests that
  its blocks know, and the units of its sectors' previous home-side operations. -/
  locks : FMap LockRec
  colls : List CollOp
  drains : List Drain
  sprDone : List SprDone
  homeLast : FMap Nat
  /-- The messages in the context's mailboxes, oldest first. -/
  boxes : FMap (List (Nat × List Byte))
  deriving DecidableEq, Repr, Inhabited

/-! ## Registers of the supervisor block (R414, R415, R428, R440, R458) -/

/-- A context register block (R415). -/
structure CtxRegs where
  hwb : Dword
  hwl : Dword
  hwo : Dword
  ptroot : Dword
  memdef : Dword
  /-- CTXCTL: V and KDONE; KILL is write-only (R415). -/
  ctxctl : Dword
  msgerr : Dword
  evie : FMap Dword
  tctl : Dword
  tvb : Dword
  psa : Dword
  /-- PST of PCTL; PRE and RES are write-only (R440). -/
  pst : Nat
  /-- Tick of the PRE write that is being served (R441). -/
  preTick : Nat
  fqb : FMap Dword
  rctl : Dword
  silot : Dword
  cksb : Dword
  ckst : Dword
  rpctl : Dword
  /-- FROM as it was at the GO that is being served (R485). -/
  rpFrom : Nat
  /-- Breakpoint words, 8 (R491). -/
  bp : FMap Dword
  /-- 256 event counters (R406, R415). -/
  evc : FMap Word
  deriving DecidableEq, Repr, Inhabited

/-- A context register block after reset: every field 0 but MEMDEF.SCOPE, which is 4 (R226). -/
def CtxRegs.reset : CtxRegs :=
  { hwb := 0, hwl := 0, hwo := 0, ptroot := 0, memdef := 4, ctxctl := 0, msgerr := 0, evie := [],
    tctl := 0, tvb := 0, psa := 0, pst := 0, preTick := 0, fqb := [], rctl := 0, silot := 0, cksb := 0, ckst := 0,
    rpctl := 0, rpFrom := 0, bp := [], evc := [] }

/-- Something the device posts to the supervisor or the host: an MSI-X vector, the event and its
datum. -/
structure Post where
  vector : Nat
  event : String
  datum : Dword
  deriving DecidableEq, Repr, Inhabited

/-! ## The issuing bundle -/

/-- The chain that is running (R58 to R62): what it restores on a trap. -/
structure Chain where
  core : Nat
  block : Nat
  threads : List TRef
  /-- PC of the chain's first word and of the word after the chain. -/
  start : Nat
  stop : Nat
  /-- Position of the next word, counting prefixes. -/
  pos : Nat
  /-- The waves before the chain. -/
  saved : FMap Wave
  /-- Flags raised so far by each wave's words (R197). -/
  flags : FMap Word
  /-- The threads that were released from its rendezvous together (R97, R113). -/
  gang : List TRef
  /-- The units of the chain that are still to run, as they were fetched (R162): address, instruction (none for
  an undecodable unit), words. -/
  rest : List (Nat × Option Instr × Nat)
  deriving DecidableEq, Repr, Inhabited

/-- The bundle that exec acts on: formed by the issue logic (R82, R83) before each word. -/
structure Issue where
  core : Nat
  block : Nat
  threads : List TRef
  /-- Address of the unit's first word, of the instruction's own word, and of the word after it. -/
  unitPc : Nat
  wordPc : Nat
  nextPc : Nat
  /-- Address of the chain's first word (the unit's, outside a chain), and of the word after the
  chain (R444's SKIP). -/
  chainPc : Nat
  skipPc : Nat
  /-- In a chain, and the position of the word in it (R61). -/
  inChain : Bool
  pos : Nat
  /-- The units of its chain after this one. -/
  rest : List (Nat × Option Instr × Nat)
  /-- The threads that were released from the rendezvous before it together (R113). -/
  gang : List TRef
  deriving DecidableEq, Repr, Inhabited

/-! ## The package -/

/-- The state of the package. -/
structure State where
  /-- Steps taken: the model's own count, which orders ready times and numbers free values. -/
  steps : Nat
  /-- The timebase, and the core cycles counted, of R17. -/
  ptb : Nat
  cycle : Nat
  /-- Steps of the outside world and of the package's own agents that come next: plain data that
  says who moves. -/
  agenda : List Event
  /-- The operands of the event that exec runs. -/
  arg : EvArg
  /-- The bundle of the word that exec runs, and the chain in progress. -/
  issue : Option Issue
  chain : Option Chain
  /-- The word that exec ran has had to wait and had no effect: the issue logic tries another. -/
  stalled : Bool
  /-- Core that issued last. -/
  lastCore : Nat
  /-- Next number of a wave, block, access, walk or command. -/
  next : Nat
  waves : FMap Wave
  blocks : FMap Block
  cores : FMap CoreState
  /-- Cluster TLBs (R161). -/
  ctlb : FMap (List TlbEntry)
  ctxs : FMap CtxRegs
  /-- Device memory and the L3 copies of it (R22, R145): the home's own data. -/
  mem : Memory
  /-- Sectors of memory with an uncorrectable error or the poison mark (R301, R527). -/
  poison : List Nat
  /-- L2 copies, by die and sector (key 2^52 times die plus sector). -/
  l2 : FMap L2Copy
  /-- Directory entries (R248) by sector. -/
  dir : FMap DirEntry
  /-- Messages under way to the homes and to the agents, oldest first (R247). -/
  toHome : List Msg
  toAgent : List Msg
  /-- Requests turned away with Retry, to be sent again (R250). -/
  retries : List Msg
  homeOps : List HomeReq
  /-- Sectors of the host's memory that the proxy homes have had: their last value as the device knows it stands in `mem` (R246). -/
  hostHad : List Nat
  /-- Lines of which L3 holds sectors, and those of them that are marked persistent, least recently used first (R22, R155). -/
  l3 : List Nat
  pers : List Nat
  accs : List Access
  walks : List Walk
  ptos : List PtoS
  collapses : List Collapse
  posts : List Post
  /-- Replica regions RRB0 to RRB3 (R163). -/
  rrb : FMap Dword
  /-- DOMID (R414). -/
  domid : Dword
  /-- Devices that the fabric's reachability table holds (R146). -/
  reach : List Nat
  /-- Placement predictor: two-bit counters by die and place (R261). -/
  pred : FMap Nat
  /-- Core cycle of the last near atomic to a sector in a die's L2 (R261). -/
  nearLast : FMap Nat
  /-- Lock records by sector (R277). -/
  locks : FMap LockRec
  /-- Sectors with the abandoned mark (R277). -/
  lockMarks : List Nat
  /-- Messages to the lock units, oldest first (R278). -/
  lockMsgs : List LockMsg
  /-- Replies of the lock units, oldest first (R291). -/
  lockReplies : List LockReply
  /-- Acquires answered FULL (R280). -/
  lockRetries : List LockRetry
  /-- Last tick at which each lock unit stamped an arrival, and the stamps of that tick (R277). -/
  lockStamps : FMap (Nat × Nat)
  /-- LKCTL (R286). -/
  lkctl : Dword
  /-- DLRB (R287). -/
  dlrb : Dword
  /-- DLRP (R287). -/
  dlrp : Dword
  /-- DLRC (R287). -/
  dlrc : Dword
  /-- Cycles reported since reset (R288). -/
  dlCyc : Nat
  /-- A cycle was not written: the next record carries overflow (R287). -/
  dlOver : Bool
  /-- Tick of the deadlock scanner's last collection (R284). -/
  scanTick : Nat
  /-- Cycles to confirm: waves with the sectors they wait for (R284). -/
  scanCand : List (List (Nat × Nat))
  /-- The last 64 cycles reported (R284). -/
  dlSeen : List (List (Nat × Nat))
  /-- Copies not complete, oldest first (R297). -/
  copies : List Copy
  /-- Outstanding sprout requests, oldest first (R324). -/
  sprReqs : List SprReq
  /-- Bursts in the sprout buffers, oldest first (R332). -/
  sprBuf : List Burst
  /-- Completed requests that their blocks know, oldest first (R348). -/
  sprDone : List SprDone
  /-- Sprout requests (block, number) with the error flag set by a handler that ended a sprout thread (R340). -/
  reqErr : List (Nat × Nat)
  /-- Accepted matrix commands that the engines have not executed, in order of acceptance (R352). -/
  mcmds : List MCmd
  /-- MDRAINs that wait for their reduction (R366). -/
  drains : List Drain
  /-- MDRAINs begun with a mask and tag (R366). -/
  drainCount : List ((Dword × Word) × Nat)
  /-- TELCTL: EN 1, LOGN 12 (R376). -/
  telctl : Dword
  /-- Telemetry ring of the F-die, oldest first (R499). -/
  telRing : List (BitVec 256)
  /-- Traps of carried commands pending for waves: number, wave, cause (R305). -/
  carriedTraps : List (Nat × Nat × Async)
  /-- Team tables of the cores, by 32 times the block plus the team number (R392). -/
  teams : FMap Team
  /-- Queues 0 to 63 (R381). -/
  queues : FMap Queue
  /-- The dependence unit, in entry order (R382). -/
  launches : List Launch
  /-- Launches that each context has fetched since its last cut (R471). -/
  launchCount : FMap Nat
  /-- MBTB, mailbox table base (R414). -/
  mbtb : Dword
  /-- Mailboxes of the F-die (R399). -/
  boxes : FMap Box
  /-- Messages accepted and not delivered, oldest first (R399). -/
  outbound : List OutMsg
  /-- Messages of other devices held for a full mailbox, oldest first (R399). -/
  inbound : List OutMsg
  /-- Fence markers under way (R412). -/
  fenceMarks : List FenceMark
  /-- Collectives, oldest first, until their handle is freed (R403). -/
  colls : List CollOp
  /-- Collectives begun with a mask and tag (R403). -/
  collCount : List ((Dword × Nat) × Nat)
  /-- C-dies lost (R409). -/
  deadDies : List Nat
  /-- M-dies lost (R409). -/
  deadM : List Nat
  /-- Devices of the domain lost (R410). -/
  lostDevs : List Nat
  /-- Contexts killed on other devices: the device, and this device's context that they reduce with (R367, R404). -/
  lostCtxs : List (Nat × Nat)
  /-- Silos by 64 times the context plus the silo-table entry (R474, R477). -/
  silos : FMap Silo
  /-- Probes sent by home slices (R465). -/
  probes : List Probe
  /-- Probe tables of the home slices, oldest first (R465). -/
  probeTab : List ProbeEntry
  /-- Object clocks OC by 64 times the object number plus the context (R468). -/
  objClock : FMap Nat
  /-- HOME sequence counters by 64 times the context plus the slice (R531). -/
  homeSeq : FMap Nat
  /-- Unit of a sector's previous home-side operation, by 2^52 times the context plus the sector (R470). -/
  homeLast : FMap Nat
  /-- Retained checkpoints by 2^32 times the context plus the number (R479, R481). -/
  ckpts : FMap Ckpt
  /-- Performance counters of the cores, clusters and C-dies by scope, unit and event (R493). -/
  perf : FMap Dword
  /-- Contexts for which a cut has been requested and not yet taken (R479). -/
  cutReq : List Nat
  /-- Messages that have arrived since the last cut, by 256 times (64 times the context plus the source device) plus the mailbox (R483). -/
  flight : FMap Nat
  /-- Devices whose marker for a context's current cut has arrived, as 64 times the context plus the device; 4096 more for the cut that is awaited (R482, R483). -/
  markers : List Nat
  /-- What the recorder has sent to other devices of the domain, oldest first (R482). -/
  domSent : List DomSent
  /-- Contexts whose recording ends at the cut that is awaited (R459). -/
  recOff : List Nat
  /-- Streaming samplers of the C-dies (R494). -/
  samplers : FMap Sampler
  /-- Lifetime histograms by 256 times the id plus the bin (R498). -/
  hist : FMap Dword
  /-- Replays in progress, by context (R485). -/
  replays : FMap Replay
  /-- Aperture accesses that follow a marker on their path, until the cut is taken (R482). -/
  heldIn : List Event
  /-- Lifecycle state, in the lifetime store (R510). -/
  lcs : Nat
  /-- SECST (R508). -/
  secst : Dword
  /-- Requests that the security controller holds, in order of acceptance (R515). -/
  secReqs : List SecReq
  /-- Ticket of the next request (R515). -/
  secTicket : Nat
  /-- The last 64 completed requests, oldest first (R515). -/
  secDone : List SecDone
  /-- The current nonce (R514). -/
  nonce : Option (BitVec 256)
  /-- Values drawn from the controller's random generator (R514). -/
  randCount : Nat
  /-- Key slots and the frames' key map (R517, R518). -/
  crypt : Crypt
  /-- Measurement registers MR0 to MR7, 48 bytes each, zeros where unlisted (R519). -/
  mr : FMap (List Byte)
  /-- Item 6, the spare map (R507). -/
  spareMap : Nat
  /-- The tick up to which the seconds of residence have been counted (R498). -/
  histTick : Nat
  /-- Units marked worn whose spare is pending: the kind, 0 cluster, 1 HBM4 channel, 2 lane, 3 L3 way, 4 HBM4 row, 5 a unit without
  spares, and the unit (R526, log entry 92). -/
  worn : List (Nat × Nat)
  /-- Corrected errors and retrains of a unit within 24 hours: tick and count, by 8 times the unit plus the kind (R526). -/
  wear : FMap (List (Nat × Nat))
  /-- Spare rows in use, by stack (R526). -/
  rowSpares : FMap Nat
  /-- PCAP (R508). -/
  pcap : Dword
  /-- FREQ [15:0], the frequency cap in MHz (R508). -/
  freqCap : Nat
  /-- FREQ [31:16], the current core frequency in MHz (R508). -/
  freqNow : Nat
  /-- The frequency that the handshake of R17 changes to: issue stands still on every core until the links have drained. -/
  freqNext : Option Nat
  /-- THERMCAP has been posted, and the limits have been exceeded at 0.6 GHz ever since (R35). -/
  thermCap : Bool
  /-- THERM [15:8], the throttle temperature (R508). -/
  throttle : Nat
  /-- The tick since which a die has stood at the trip temperature while the package runs at 0.6 GHz (R528). -/
  hotSince : Option Nat
  /-- The package has tripped and stands still until a reset (R528). -/
  tripped : Bool
  /-- Trips written to the lifetime store (R528). -/
  trips : Nat
  /-- Silo rings and checkpoint stores configured since the last reset: first 2 MiB frame and number of frames (R525). -/
  wipes : List (Nat × Nat)
  deriving DecidableEq, Repr, Inhabited

/-- The package right after reset (R525): every field at the value the manual states, and every
register for which it states none at the value the log names. Memory lists nothing. -/
def State.reset : State :=
  { steps := 0, ptb := 0, cycle := 0, agenda := [], arg := default, issue := none, chain := none, stalled := false,
    lastCore := 0, next := 1, waves := [], blocks := [], cores := [], ctlb := [], ctxs := [],
    mem := [], poison := [], l2 := [], dir := [], toHome := [], toAgent := [], retries := [],
    homeOps := [], hostHad := [], l3 := [], pers := [], accs := [], walks := [], ptos := [], collapses := [], posts := []
    , rrb := [],
    domid := 0,
    reach := [],
    pred := [],
    nearLast := [],
    locks := [],
    lockMarks := [],
    lockMsgs := [],
    lockReplies := [],
    lockRetries := [],
    lockStamps := [],
    lkctl := 3,
    dlrb := 0,
    dlrp := 0,
    dlrc := 0,
    dlCyc := 0,
    dlOver := false,
    scanTick := 0,
    scanCand := [],
    dlSeen := [],
    copies := [],
    sprReqs := [],
    sprBuf := [],
    sprDone := [],
    reqErr := [],
    mcmds := [],
    drains := [],
    drainCount := [],
    telctl := 44,
    telRing := [],
    carriedTraps := [],
    teams := [],
    queues := [],
    launches := [],
    launchCount := [],
    mbtb := 0,
    boxes := [],
    outbound := [],
    inbound := [],
    fenceMarks := [],
    colls := [],
    collCount := [],
    deadDies := [],
    deadM := [],
    lostDevs := [], lostCtxs := [],
    silos := [],
    probes := [],
    probeTab := [],
    objClock := [],
    homeSeq := [],
    homeLast := [],
    ckpts := [],
    perf := [],
    cutReq := [],
    flight := [],
    markers := [],
    domSent := [],
    recOff := [],
    samplers := [],
    hist := [],
    replays := [],
    heldIn := [],
    lcs := 2,
    secst := 0,
    secReqs := [],
    secTicket := 1,
    secDone := [],
    nonce := none,
    randCount := 0,
    crypt := Crypt.reset,
    mr := bootMrs 0 2,
    spareMap := 0,
    histTick := 0,
    worn := [],
    wear := [],
    rowSpares := [],
    pcap := 2400000,
    freqCap := 3000,
    freqNow := 3000,
    freqNext := none,
    thermCap := false,
    throttle := 100,
    hotSince := none,
    tripped := false,
    trips := 0,
    wipes := []
  }

end Sys2Proof.Machine
end

