-- ==== Sys2Proof/Machine/Maps.lean ====
section
/-! DEFINITION. The operations on maps from numbers and on lists that the whole machine uses. -/

namespace Sys2Proof.Machine

/-- The value listed at a key. -/
def fget {α : Type} : FMap α → Nat → Option α
  | [], _ => none
  | (k, v) :: r, j => if k = j then some v else fget r j

/-- The map with a value listed at a key, in sorted place. -/
def fput {α : Type} : FMap α → Nat → α → FMap α
  | [], j, w => [(j, w)]
  | (k, v) :: r, j, w =>
    if j < k then (j, w) :: (k, v) :: r
    else if j = k then (j, w) :: r
    else (k, v) :: fput r j w

/-- The map with a key no longer listed. -/
def fdel {α : Type} : FMap α → Nat → FMap α
  | [], _ => []
  | (k, v) :: r, j => if k = j then fdel r j else (k, v) :: fdel r j

/-- The value at a key, `d` where unlisted. -/
def fgetD {α : Type} (m : FMap α) (k : Nat) (d : α) : α := (fget m k).getD d

/-- The map whose value at a key is `v`, unlisted if that is the default `d`. -/
def fsetD {α : Type} [DecidableEq α] (m : FMap α) (k : Nat) (v d : α) : FMap α :=
  if v = d then fdel m k else fput m k v

/-- The listed value at a key, changed. -/
def fmod {α : Type} (m : FMap α) (k : Nat) (f : α → α) : FMap α :=
  match fget m k with
  | some v => fput m k (f v)
  | none => m

/-- The keys listed. -/
def fkeys {α : Type} (m : FMap α) : List Nat := m.map Prod.fst

/-- Every listed value, changed by a function of its key. -/
def fmapAll {α : Type} (f : Nat → α → α) (m : FMap α) : FMap α := m.map fun e => (e.1, f e.1 e.2)

/-- The map is sorted strictly by key. -/
def fsorted {α : Type} : FMap α → Bool
  | [] => true
  | [_] => true
  | (a, _) :: (b, w) :: r => decide (a < b) && fsorted ((b, w) :: r)

/-- A memory's canonical form: sorted strictly, no byte listed that equals the unlisted byte 0. -/
def Memory.wf (m : Memory) : Bool := fsorted m && m.all fun c => decide (c.2 ≠ 0)

/-- The byte at an address; an unlisted byte reads as 0 (log entry 2). -/
def Memory.get (m : Memory) (a : Nat) : Byte := fgetD m a 0

/-- The memory with one byte written. -/
def Memory.set (m : Memory) (a : Nat) (b : Byte) : Memory := fsetD m a b 0

/-- The memory with bytes written from an address on. -/
def Memory.setList (m : Memory) (a : Nat) : List Byte → Memory
  | [] => m
  | b :: bs => Memory.setList (Memory.set m a b) (a + 1) bs

/-- `n` bytes from an address on. -/
def Memory.getList (m : Memory) (a : Nat) : Nat → List Byte
  | 0 => []
  | n + 1 => Memory.get m a :: Memory.getList m (a + 1) n

/-- The little-endian value of bytes (R5). -/
def leNat : List Byte → Nat
  | [] => 0
  | b :: bs => b.toNat + 256 * leNat bs

/-- The `n` little-endian bytes of a value. -/
def leBytes (v : Nat) : Nat → List Byte
  | 0 => []
  | n + 1 => BitVec.ofNat 8 v :: leBytes (v / 256) n

/-- A field [hi:lo] of a value as a number. -/
def bits (x : Nat) (hi lo : Nat) : Nat := (x >>> lo) % 2 ^ (hi + 1 - lo)

/-- The value with its field [hi:lo] replaced. -/
def setBits (x hi lo v : Nat) : Nat :=
  x - bits x hi lo * 2 ^ lo + (v % 2 ^ (hi + 1 - lo)) * 2 ^ lo

/-- The first `n` numbers from `a`. -/
def upto (a : Nat) : Nat → List Nat
  | 0 => []
  | n + 1 => a :: upto (a + 1) n

/-- Insertion sort by a key, stable. -/
def insertBy {α : Type} (key : α → Nat) (x : α) : List α → List α
  | [] => [x]
  | y :: ys => if key x < key y then x :: y :: ys else y :: insertBy key x ys

/-- The list in ascending key order; equal keys keep their order. -/
def sortBy {α : Type} (key : α → Nat) (l : List α) : List α := l.foldl (fun acc x => insertBy key x acc) []

/-- The list without repeats, first places kept. -/
def dedup {α : Type} [DecidableEq α] (l : List α) : List α :=
  l.foldl (fun acc x => if acc.contains x then acc else acc ++ [x]) []

/-- The list without the first element that meets a test. -/
def eraseFirst {α : Type} (p : α → Bool) : List α → List α
  | [] => []
  | x :: xs => if p x then xs else x :: eraseFirst p xs

end Sys2Proof.Machine
end

