-- ==== Sys2Proof/Machine/Mem.lean ====
section
/-! DEFINITION. Physical memory as the package's agents see it: sectors, the current value of a
sector among its copies (R228, R247), accesses that are performed at once at the home (R253), L1
copies, MWAIT monitors, and the scratchpads. -/

namespace Sys2Proof.Machine

/-! ## What a physical address names (R145, R146) -/

/-- The targets of R145. -/
inductive Target where
  | hbm | host | aperture (dev : Nat) | nothing
  deriving DecidableEq, Repr

/-- This device's number in its domain: DOMID [5:0], or 0 outside a domain (R19, R414). -/
def State.devid (s : State) : Nat :=
  if s.domid.getLsbD 6 then bits s.domid.toNat 5 0 else 0

/-- The target of a physical address, and the address of the access there. An aperture that names this device is
served locally (R146), as any access to that address of the device's own memory is: cached, under its policy, prefetched and
recorded the same (log entry 78). -/
def State.target (s : State) (pa : Nat) : Target × Nat :=
  if bits pa 51 51 == 1 then
    let dev := bits pa 50 45
    if dev == s.devid then
      (if pa % 2 ^ 45 < Config.hbmBytes then .hbm else .nothing, pa % 2 ^ 45)
    else if s.reach.contains dev then (.aperture dev, pa) else (.nothing, pa)
  else if bits pa 50 50 == 1 then (.host, pa)
  else if pa < Config.hbmBytes then (.hbm, pa) else (.nothing, pa)

/-! ## Sectors -/

/-- The sector of a physical address (R22). -/
def sectorOf (pa : Nat) : Nat := pa / 64

/-- Key of die `d`'s L2 copy of sector `x`. -/
def l2Key (d x : Nat) : Nat := d * 2 ^ 52 + x

/-- The C-die of a core (R19). -/
def dieOf (core : Nat) : Nat := core / 40
/-- The cluster of a core (R19). -/
def clusterOf (core : Nat) : Nat := core / 4

/-- A core's own state; all of it at reset where unlisted. -/
def State.core (s : State) (c : Nat) : CoreState := fgetD s.cores c default
/-- The state with a core's own state changed. -/
def State.setCore (s : State) (c : Nat) (k : CoreState) : State := { s with cores := fput s.cores c k }

/-- The version of the key that a slot holds (R517). -/
def Crypt.key (c : Crypt) (slot : Nat) : Nat := fgetD c.keys slot slot
/-- The key of a sector's frame (R518). -/
def Crypt.now (c : Crypt) (x : Nat) : Nat := c.key (fgetD c.frames (x / 32768) 0)
/-- The key that a frame's sectors were last written under together. -/
def Crypt.whole (c : Crypt) (x : Nat) : Nat := fgetD c.sealed (x / 32768) c.base
/-- The key that a sector was last written under. -/
def Crypt.old (c : Crypt) (x : Nat) : Nat := fgetD c.sectors x (c.whole x)
/-- A sector of device memory (R145): only those are encrypted. -/
def inHbm (x : Nat) : Bool := decide (64 * x < Config.hbmBytes)
/-- A sector is written under its frame's key. -/
def Crypt.write (c : Crypt) (x : Nat) : Crypt :=
  if inHbm x then { c with sectors := fsetD c.sectors x (c.now x) (c.whole x) } else c

/-- What a sector written under one key reads as under another (R517): the data unit is the sector, the tweak its address over 64. -/
def recrypt (old new x : Nat) (d : SectorData) : SectorData :=
  xtsUnit true (Config.tenantKey new) x (xtsUnit false (Config.tenantKey old) x d)

/-- The home's data of a sector: the L3 copy or memory (R248), decrypted under its frame's key (R517). -/
def State.homeSector (s : State) (x : Nat) : SectorData :=
  let d := BitVec.ofNat 512 (leNat (Memory.getList s.mem (64 * x) 64))
  if inHbm x && s.crypt.old x != s.crypt.now x then recrypt (s.crypt.old x) (s.crypt.now x) x d else d

/-- The state with the home's data of a sector written. -/
def State.setHomeSector (s : State) (x : Nat) (d : SectorData) : State :=
  { s with mem := Memory.setList s.mem (64 * x) (leBytes d.toNat 64), crypt := s.crypt.write x,
           hostHad := if inHbm x || s.hostHad.contains x then s.hostHad else s.hostHad ++ [x] }

/-- A sector of the host's memory at the host (R246, log entry 8): what the host has written there last, or else what the
device knows of it. -/
def State.hostValue (s : State) (x : Nat) : SectorData :=
  (Config.hostWrote s.steps x).getD (if s.hostHad.contains x then s.homeSector x else Config.hostData s.steps x)

/-- A sector with bytes written from an offset on. -/
def patch (d : SectorData) (off : Nat) (bytes : List Byte) : SectorData :=
  BitVec.ofNat 512 (setBits d.toNat (8 * off + 8 * bytes.length - 1) (8 * off) (leNat bytes))

/-- `n` bytes of a sector from an offset on, as a number. -/
def pick (d : SectorData) (off n : Nat) : Nat := (d.toNat >>> (8 * off)) % 2 ^ (8 * n)

/-- The copy of a sector in a die's L2, if it has one. -/
def State.l2copy (s : State) (d x : Nat) : Option L2Copy := fget s.l2 (l2Key d x)

/-- The state of a sector in a die's L2, I where it has none. -/
def State.l2st (s : State) (d x : Nat) : CSt := ((s.l2copy d x).map L2Copy.st).getD .i

/-- The state with a die's copy of a sector. -/
def State.setL2 (s : State) (d x : Nat) (c : L2Copy) : State := { s with l2 := fput s.l2 (l2Key d x) c }

/-- The state with a die's copy of a sector dropped. -/
def State.dropL2 (s : State) (d x : Nat) : State := { s with l2 := fdel s.l2 (l2Key d x) }

/-- A line of L3 is used: it is there, and the most recent of its set, from which the least recent line without a persistent
mark makes room in 16 ways (R22, R155). -/
def State.useL3 (s : State) (line : Nat) (slice : Nat → Nat) : State :=
  let set := fun (l : Nat) => (slice l, Config.l3Set l % Config.l3Sets)
  let rest := s.l3.filter (· != line)
  let rest := if (rest.filter fun l => set l == set line).length < 16 then rest
    else (match rest.find? (fun l => set l == set line && !s.pers.contains l) with
      | some old => rest.filter (· != old)
      | none => rest)
  { s with l3 := rest ++ [line], pers := if s.pers.contains line then s.pers.filter (· != line) ++ [line] else s.pers }

/-- A sector's directory entry; state I with nothing queued where unlisted (R248). -/
def State.dirOf (s : State) (x : Nat) : DirEntry :=
  fgetD s.dir x { st := .i, own := none, sh := [], acks := [], fwd := none, task := .none, back := .i,
                  queue := [], data := 0, dirty := false, bad := false, ts := 0 }

/-- The state with a sector's directory entry. -/
def State.setDir (s : State) (x : Nat) (e : DirEntry) : State := { s with dir := fput s.dir x e }

/-- A directory state that is stable (R248). -/
def DSt.stable : DSt → Bool
  | .i | .s | .e | .o => true
  | _ => false

/-- The dies whose copy is the sector's newest, if one is: M, O, or an upgrade from O (R251). -/
def CSt.dirtyOwner : CSt → Bool
  | .m | .o | .omA => true
  | _ => false

/-- A message that carries the sector's newest data. -/
def Msg.carriesDirty (m : Msg) (x : Nat) : Bool :=
  m.x == x && m.dirty && (m.kind == .fwdData || m.kind == .dataE || m.kind == .cmp)

/-- Data of a sector newer than the home's, wherever it stands: a dirty L2 copy, a message on its way, a write-back buffer of the
owner, or the host's copy (a free value, log entry 8). -/
def State.newer (s : State) (x : Nat) : Option SectorData :=
  match (upto 0 4).find? (fun d => (s.l2st d x).dirtyOwner) with
  | some d => some (((s.l2copy d x).map L2Copy.data).getD 0)
  | none =>
    if !(s.dirOf x).st.stable && (s.dirOf x).dirty then some (s.dirOf x).data
    else match (s.toHome ++ s.toAgent).find? (fun m => m.carriesDirty x) with
    | some m => some m.data
    | none =>
      match (s.dirOf x).own with
      | some (.l2 d) => (s.l2copy d x).bind fun c => if c.st == .miA && c.dirty then some c.data else none
      | some .host => some (Config.hostDirty s.steps x)
      | none => if (s.target (64 * x)).1 == .host && (s.dirOf x).st == .i then some (s.hostValue x) else none

/-- The newest data of a sector: such data, or the home's. -/
def State.latest (s : State) (x : Nat) : SectorData := (s.newer x).getD (s.homeSector x)

/-- No message about the sector is on its way and its entry is stable. -/
def State.quiet (s : State) (x : Nat) : Bool :=
  (s.dirOf x).st.stable && !(s.toHome ++ s.toAgent).any (fun m => m.x == x)

/-- The newest byte at a physical address. -/
def State.byteAt (s : State) (pa : Nat) : Byte :=
  BitVec.ofNat 8 (pick (s.latest (sectorOf pa)) (pa % 64) 1)

/-- The newest `n` bytes from a physical address on, as a number. -/
def State.peek (s : State) (pa n : Nat) : Nat :=
  if pa % 64 + n ≤ 64 then pick (s.latest (sectorOf pa)) (pa % 64) n else leNat ((upto pa n).map s.byteAt)

/-! ## Effects of a write that is performed -/

/-- The number of the sector that an access's monitor watches; scratchpad sectors stand above 2^58. -/
def Access.watched (a : Access) : Nat :=
  match a.scr with
  | some b => 2 ^ 58 + b * 2 ^ 20 + a.pa / 64
  | none => sectorOf a.pa

/-- The first read of an MWAIT has been performed: from then on no write to its sector is missed (R108). -/
def Access.armed (a : Access) : Bool :=
  match a.kind, a.st with
  | .mwait true, .done _ _ | .mwait true, .watching _ _ => true
  | _, _ => false

/-- Every monitor on a sector fires (R108). -/
def State.fireMonitors (s : State) (x : Nat) : State :=
  { s with accs := s.accs.map fun a => { a with fired := a.fired || (a.armed && a.watched == x) } }

/-- The monitors of a die's cores on a sector fire: their L2 slice has given it up (R108). -/
def State.fireMonitorsAt (s : State) (die x : Nat) : State :=
  { s with accs := s.accs.map fun a => { a with fired := a.fired || (a.armed && a.watched == x && dieOf a.core == die) } }

/-- The monitor of an MWAIT has fired. A sector that the host's agent owns may be written by it at any moment, so that it
fires at once there: a write is never missed (R108, R255, log entry 8). -/
def State.monitorFired (s : State) (a : Access) : Bool :=
  a.fired || (a.scr.isNone && (s.dirOf (sectorOf a.pa)).own == some .host && (s.dirOf (sectorOf a.pa)).st != .o)

/-- A core's L1 without a sector, unless its copy is untracked and only tracked ones go. -/
def CoreState.dropL1 (k : CoreState) (x : Nat) (untracked : Bool) : CoreState :=
  match fget k.l1 x with
  | some c => if c.tracked || untracked then { k with l1 := fdel k.l1 x } else k
  | none => k

/-- Every L1 of a die drops its tracked copy of a sector (R254); core `but` keeps it. -/
def State.dropL1s (s : State) (die x : Nat) (but : Option Nat) : State :=
  { s with cores := fmapAll (fun c k => if dieOf c == die && some c != but then k.dropL1 x false else k) s.cores }

/-- Every untracked copy of a core is dropped: the effect of an acquire (R154). -/
def State.dropUntracked (s : State) (core : Nat) : State :=
  let k := s.core core
  s.setCore core { k with l1 := k.l1.filter fun e => e.2.tracked }

/-- A request of the protocol (R247). -/
def MsgKind.isRequest : MsgKind → Bool
  | .rdS | .rdX | .upg => true
  | _ => false

/-- A message without data. -/
def bareMsg (k : MsgKind) (a : Agent) (x : Nat) : Msg :=
  { kind := k, agent := a, x := x, data := 0, dirty := false, flag := false, poison := false, ts := 0, sent := 0 }

/-- The requests of the host's agent for a sector that are under way, waiting or being served. -/
def State.hostRequests (s : State) (x : Nat) : List Msg :=
  let e := s.dirOf x
  let cur := match e.task with
    | .serve k .host => [bareMsg k .host x]
    | .host k .host => [bareMsg k .host x]
    | _ => []
  cur ++ ((e.queue.map QReq.msg ++ s.toHome ++ s.retries).filter fun m => m.x == x && m.agent == .host && m.kind.isRequest)

/-- A die that waits for a sector waits on, with its request sent anew; a write-back buffer waits for the WBAck that the home
sends it, stale (R252); any other copy of it goes. -/
def State.recallDie (s : State) (x d : Nat) : State :=
  let s := s.dropL1s d x none
  match s.l2copy d x with
  | none => s
  | some c =>
    match c.st with
    | .isD => { s with toHome := s.toHome ++ [bareMsg .rdS (.l2 d) x] }
    | .imD | .smA | .omA =>
      { s.setL2 d x { c with st := .imD } with toHome := s.toHome ++ [bareMsg .rdX (.l2 d) x] }
    | .miA => { s.setL2 d x { c with dirty := false } with toAgent := s.toAgent ++ [bareMsg .wbAck (.l2 d) x] }
    | _ => s.dropL2 d x

/-- Every L2 gives the sector up and the home's entry is I: the end of a writing operation (R253). Requests
for the sector are served after it. -/
def State.recallAll (s : State) (x : Nat) : State :=
  let host := s.hostRequests x
  let other := fun (m : Msg) => m.x != x
  let s := { s with toHome := s.toHome.filter other ++ host, toAgent := s.toAgent.filter other,
                    retries := s.retries.filter other, dir := fdel s.dir x }
  (upto 0 4).foldl (fun s d => s.recallDie x d) s

/-- A poison mark on a sector of memory, set or cleared (R301, R527). -/
def State.setPoison (s : State) (x : Nat) (b : Bool) : State :=
  { s with poison := if b then (if s.poison.contains x then s.poison else s.poison ++ [x])
                     else s.poison.filter (· != x) }

/-- The sector carries an uncorrectable error at the home or in a copy. -/
def State.poisoned (s : State) (x : Nat) : Bool :=
  s.poison.contains x || (upto 0 4).any fun d => ((s.l2copy d x).map L2Copy.poison).getD false

/-- A write performed at the home at once (R253): the newest data with bytes written, every copy
recalled or invalidated. Bytes of one sector. -/
def State.homeWrite (s : State) (pa : Nat) (bytes : List Byte) : State :=
  let x := sectorOf pa
  let d := patch (s.latest x) (pa % 64) bytes
  let bad := s.poisoned x
  let s := (s.recallAll x).setHomeSector x d
  let s := s.setPoison x (bad && bytes.length < 64)
  s.fireMonitors x

/-- A run of bytes cut at sector boundaries: the address and bytes of each piece. -/
def cutSectors (pa : Nat) (bytes : List Byte) : List (Nat × List Byte) :=
  bytes.foldl (fun acc b =>
    match acc with
    | (a, r) :: rest => if (a + r.length) % 64 == 0 then (a + r.length, [b]) :: acc else (a, r ++ [b]) :: rest
    | [] => [(pa, [b])]) [] |>.reverse

/-- A write of any length by an agent of the package, performed at the homes. -/
def State.agentWrite (s : State) (pa : Nat) (bytes : List Byte) : State :=
  (cutSectors pa bytes).foldl (fun s c => s.homeWrite c.1 c.2) s

/-- A little-endian value of `n` bytes written by an agent of the package. -/
def State.agentPut (s : State) (pa v n : Nat) : State := s.agentWrite pa (leBytes v n)

/-! ## Home slices (R244, R245) -/

/-- A context's registers; those after reset where unlisted. -/
def State.ctx (s : State) (c : Nat) : CtxRegs := fgetD s.ctxs c CtxRegs.reset
/-- The state with a context's registers. -/
def State.setCtx (s : State) (c : Nat) (r : CtxRegs) : State := { s with ctxs := fput s.ctxs c r }

/-- The XOR of the eight 6-bit chunks of a line number (R244). -/
def lineHash (pa : Nat) : Nat :=
  (upto 0 8).foldl (fun h k => h ^^^ bits (pa / 256) (6 * k + 5) (6 * k)) 0

/-- The lowest-numbered valid replica region that holds an address (R245). -/
def State.regionOf (s : State) (pa : Nat) : Option Nat :=
  (upto 0 4).find? fun n =>
    let r := (fgetD s.rrb n 0).toNat
    r % 2 == 1 && bits r 51 32 == bits pa 51 32

/-- Home(a) of R244, 8 times the M-die plus the slice; an aperture address is homed by its low 45
bits, and a host address by the general hash (R246). -/
def State.homeOf (s : State) (pa : Nat) : Nat :=
  let a := if bits pa 51 51 == 1 then pa % 2 ^ 45 else pa
  let h := lineHash a
  match (if bits a 51 50 == 1 then none else s.regionOf a) with
  | some n => 8 * (2 * n + bits h 3 3) + bits h 2 0
  | none => h

/-- The home's L3 serves a sector (R22, R155). -/
def State.touchL3 (s : State) (x : Nat) : State := s.useL3 (x / 4) fun l => s.homeOf (256 * l)

/-- The address is homed on an M-die that is lost (R409, R410). -/
def State.lostHome (s : State) (pa : Nat) : Bool :=
  !s.deadM.isEmpty && (match (s.target pa).1 with
    | .hbm | .host => s.deadM.contains (s.homeOf pa / 8)
    | _ => false)

/-- Nothing answers at the address. -/
def State.unreached (s : State) (pa : Nat) : Bool := (s.target pa).1 == .nothing || s.lostHome pa

/-! ## Waves, threads and blocks -/

/-- A wave; an empty one where unlisted. -/
def State.wave (s : State) (u : Nat) : Wave := fgetD s.waves u default
/-- The state with a wave. -/
def State.setWave (s : State) (u : Nat) (w : Wave) : State := { s with waves := fput s.waves u w }
/-- The thread of a wave. -/
def Wave.thread (w : Wave) (i : Nat) : Thread := fgetD w.threads i default
/-- The wave with a thread. -/
def Wave.setThread (w : Wave) (i : Nat) (t : Thread) : Wave := { w with threads := fput w.threads i t }
/-- A thread of the package. -/
def State.thread (s : State) (t : TRef) : Thread := (s.wave t.u).thread t.i
/-- The state with a thread. -/
def State.setThread (s : State) (t : TRef) (th : Thread) : State :=
  s.setWave t.u ((s.wave t.u).setThread t.i th)
/-- The state with a thread changed. -/
def State.modThread (s : State) (t : TRef) (f : Thread → Thread) : State :=
  s.setThread t (f (s.thread t))
/-- The state with a wave changed. -/
def State.modWave (s : State) (u : Nat) (f : Wave → Wave) : State := s.setWave u (f (s.wave u))
/-- A block; an empty one where unlisted. -/
def State.block (s : State) (b : Nat) : Block := fgetD s.blocks b default
/-- The state with a block. -/
def State.setBlock (s : State) (b : Nat) (k : Block) : State := { s with blocks := fput s.blocks b k }

/-- An asynchronous cause with no register (R420). -/
def bareAsync (cause : Cause) (info : Word) (pc : Nat) : Async :=
  { cause := cause, info := info, dest := .none, acc := 0, pc := pc, pa := 0 }

/-- The access is the thread's: its own, or its wave's (R177, R231). -/
def Access.isOf (a : Access) (t : TRef) : Bool := a.t.u == t.u && a.who.contains t.i

/-- A step of an agent put first among those that come next. -/
def State.soon (s : State) (op : Instr) (arg : EvArg) : State := { s with agenda := { op := op, arg := arg } :: s.agenda }

/-- The event goes to the supervisor or host on an MSI-X vector. -/
def State.post (s : State) (vector : Nat) (event : String) (datum : Dword) : State :=
  { s with posts := s.posts ++ [{ vector := vector, event := event, datum := datum }] }

/-- A performance counter's place: scope, unit of the scope, event (R493). -/
def perfKey (scope unit ev : Nat) : Nat := (scope * 256 + unit) * 256 + ev

/-- A performance counter moves on. -/
def State.count (s : State) (scope unit ev n : Nat) : State :=
  { s with perf := fsetD s.perf (perfKey scope unit ev) (fgetD s.perf (perfKey scope unit ev) 0 + BitVec.ofNat 64 n) 0 }

/-! ## Scratchpads (R149, R150) -/

/-- `n` bytes of a block's scratchpad, as a number. -/
def State.scrRead (s : State) (b off n : Nat) : Nat := leNat (Memory.getList (s.block b).scr off n)

/-- Bytes written to a block's scratchpad; a store of a whole 16-byte unit clears its poison mark
(R437), and monitors on the bank's unit fire. Scratchpad sectors are numbered from 2^58 upward for
the monitors, by block. -/
def State.scrWrite (s : State) (b off : Nat) (bytes : List Byte) : State :=
  let k := s.block b
  let k := { k with
    scr := Memory.setList k.scr off bytes,
    scrPoison := k.scrPoison.filter fun p => !(decide (off ≤ 16 * p) && decide (16 * p + 16 ≤ off + bytes.length)) }
  (s.setBlock b k).fireMonitors (2 ^ 58 + b * 2 ^ 20 + off / 64)

/-- The block at member `m` of the cluster of block `b` (R150). -/
def State.memberBlock (s : State) (b m : Nat) : Option Nat :=
  let k := s.block b
  (s.blocks.find? fun e => e.2.launch == k.launch && e.2.gang == k.gang && e.2.member == m).map Prod.fst

end Sys2Proof.Machine
end

