-- ==== Sys2Proof/Machine/Translate.lean ====
section
/-! DEFINITION. Translation of global addresses (R156 to R165): the heap window, the TLBs, the page
walk with its updates, and the page classes. -/

namespace Sys2Proof.Machine

/-- What an access wants of a page (R162). -/
inductive Want where
  | read | write | fetch
  deriving DecidableEq, Repr

/-- The answer of a translation. -/
inductive TRes where
  /-- Physical address, page class, page number base and log2 of the page's size; `pte` is the
  entry's address where a page table gave it. -/
  | ok (pa : Nat) (cls : Nat)
  /-- A fault of R162 by its code. -/
  | fault (code : Nat)
  /-- Neither TLB holds the translation: a walk is needed. -/
  | miss
  deriving DecidableEq, Repr

/-- The context runs at level H (R417, R428). -/
def State.levelH (s : State) (c : Nat) : Bool := (s.ctx c).tctl.getLsbD 0

/-- Permission codes in the order of R172: PRIVILEGE, NOMEM, then WRITEPROT or NOACCESS. -/
def permCode (s : State) (uo x w rd high : Bool) (want : Want) (pa : Nat) : Option Nat :=
  if !uo && !high then some 4
  else if (s.target pa).1 == .nothing then some 6
  else match want with
    | .read => if rd then none else some 3
    | .write => if w then none else some 2
    | .fetch => if x then none else some 3

/-- The heap window holds the address (R156, R157). -/
def CtxRegs.inWindow (r : CtxRegs) (va : Nat) : Bool :=
  let base := bits r.hwb.toNat 55 16 * 65536
  let lim := bits r.hwl.toNat 55 16 * 65536
  decide (lim ≠ 0) && decide (base ≤ va) && decide (va < min (base + lim) (2 ^ 56))

/-- The window's physical address: (ea + OFFSET) mod 2^52 (R156). -/
def CtxRegs.windowPa (r : CtxRegs) (va : Nat) : Nat := (va + bits r.hwo.toNat 51 16 * 65536) % 2 ^ 52

/-- Translation through the heap window (R156, R157). -/
def State.windowTrans (s : State) (c va : Nat) (want : Want) (high : Bool) : TRes :=
  let r := s.ctx c
  let pa := r.windowPa va
  match permCode s (r.hwb.getLsbD 3) (r.hwb.getLsbD 2) (r.hwb.getLsbD 1) (r.hwb.getLsbD 0) high want pa with
  | some k => .fault k
  | none => .ok (s.target pa).2 1

/-! ## Page-table entries (R159) -/

/-- V of an entry. -/
def pteV (p : Nat) : Bool := p.testBit 0
/-- L: the entry is a leaf. -/
def pteL (p : Nat) : Bool := p.testBit 1
/-- CLS of an entry. -/
def pteCls (p : Nat) : Nat := bits p 53 52
/-- ADDR of an entry as an address. -/
def pteAddr (p : Nat) : Nat := bits p 51 8 * 256

/-- log2 of the alignment that ADDR needs: of the page a leaf maps, or of the next level's table
(R158). -/
def addrLog (level : Nat) (leaf : Bool) : Nat :=
  if leaf then (match level with | 1 => 29 | 2 => 21 | _ => 16)
  else (match level with | 0 => 16 | 1 => 11 | _ => 8)

/-- A valid entry breaks a rule of R159 or R163. -/
def State.pteBad (s : State) (level p : Nat) : Bool :=
  p.testBit 63 || pteCls p == 3
  || (pteL p && level == 0) || (!pteL p && level == 3)
  || (!pteL p && (bits p 62 52 != 0 || bits p 7 2 != 0))
  || pteAddr p % 2 ^ addrLog level (pteL p) != 0
  || (pteL p && pteCls p == 2 && level != 3)
  || (p.testBit 54 && (pteCls p != 0 || bits p 62 55 > 159))
  || (pteL p && pteCls p == 2 && (upto 0 4).any fun n => !(fgetD s.rrb n 0).getLsbD 0)

/-- Where a walk ended. -/
inductive WalkEnd where
  /-- The leaf's address, value and page size as log2. -/
  | leaf (at_ p log : Nat)
  | fault (code : Nat)
  deriving DecidableEq, Repr

/-- The index of an address at a level (R158). -/
def vaIndex (va : Nat) : Nat → Nat
  | 0 => bits va 55 42
  | 1 => bits va 41 29
  | 2 => bits va 28 21
  | _ => bits va 20 16

/-- `n` bytes of one sector that an agent of the device reads: of another device's memory they are what it answers, a free
value (R146, log entry 9). -/
def State.readAny (s : State) (pa n : Nat) : Nat :=
  match (s.target pa).1 with
  | .aperture _ => pick (Config.remoteData s.steps (sectorOf pa)) (pa % 64) n
  | _ => s.peek pa n

/-- An entry of a table as the walker reads it; a table that no target of R145 holds, or whose home is lost, has none. -/
def State.pteAt (s : State) (at_ : Nat) : Option Nat := if s.unreached at_ then none else some (s.readAny at_ 8)

/-- A walk from a table at a level, at most `fuel` levels (R158, R159, R161); NOMEM where the table is at no target of R145
(R162). -/
def State.walkFrom (s : State) (va table level : Nat) : Nat → WalkEnd
  | 0 => .fault 7
  | fuel + 1 =>
    let at_ := table + 8 * vaIndex va level
    match s.pteAt at_ with
    | none => .fault 6
    | some p =>
      if !pteV p then .fault 1
      else if s.pteBad level p then .fault 7
      else if pteL p then .leaf at_ p (addrLog level true)
      else s.walkFrom va (pteAddr p) (level + 1) fuel

/-- The walk rooted at PTROOT; NOTRANS where paging is off (R157). -/
def State.walk (s : State) (c va : Nat) : WalkEnd :=
  let r := (s.ctx c).ptroot.toNat
  if r % 2 == 0 then .fault 8 else s.walkFrom va (bits r 51 17 * 2 ^ 17) 0 4

/-- The physical address that a leaf gives a core's access: an R page is read at the die's own
region (R163). -/
def State.leafPa (s : State) (core va p log : Nat) : Nat :=
  let base := if pteCls p == 2
    then bits (fgetD s.rrb (dieOf core) 0).toNat 51 16 * 65536 + bits p 51 16 * 65536
    else pteAddr p
  base + va % 2 ^ log

/-- What a leaf's fields say of an access. -/
def State.leafTrans (s : State) (core va p log : Nat) (want : Want) (high : Bool) : TRes :=
  let pa := s.leafPa core va p log
  match permCode s (p.testBit 5) (p.testBit 4) (p.testBit 3) (p.testBit 2) high want pa with
  | some k => .fault k
  | none => .ok (s.target pa).2 (pteCls p)

/-! ## TLBs (R161) -/

/-- An entry holds an address of a context. -/
def TlbEntry.covers (e : TlbEntry) (c va : Nat) : Bool :=
  e.ctx == c && decide (e.va ≤ va) && decide (va < e.va + 2 ^ e.log)

/-- The entry of the core's L1 TLB, or else of its cluster's TLB. -/
def State.tlbFind (s : State) (core c va : Nat) : Option TlbEntry :=
  match (s.core core).tlb.find? (fun e => e.covers c va) with
  | some e => some e
  | none => (fgetD s.ctlb (clusterOf core) []).find? (fun e => e.covers c va)

/-- An entry put in front, the oldest of those that share its set dropped beyond the ways (log entry 17). -/
def tlbPush (l : List TlbEntry) (e : TlbEntry) (ways : Nat) (set : TlbEntry → Nat) : List TlbEntry :=
  let rest := l.filter fun x => !(x.covers e.ctx e.va)
  let mine := rest.filter fun x => set x == set e
  e :: if mine.length < ways then rest else (match mine.getLast? with
    | some old => eraseFirst (· == old) rest
    | none => rest)

/-- The set of an entry among the 256 of a cluster TLB (R161, log entry 17). -/
def TlbEntry.set (e : TlbEntry) : Nat := Config.ctlbSet e.ctx e.va e.log % 256

/-- A fill of the core's L1 TLB, of 64 entries, and its cluster's TLB, of 8 ways. -/
def State.tlbFill (s : State) (core : Nat) (e : TlbEntry) : State :=
  let k := s.core core
  let s := s.setCore core { k with tlb := tlbPush k.tlb e 64 fun _ => 0 }
  { s with ctlb := fput s.ctlb (clusterOf core) (tlbPush (fgetD s.ctlb (clusterOf core) []) e 8 TlbEntry.set) }

/-- Every TLB of the device keeps some entries only. -/
def State.tlbKeep (s : State) (keep : TlbEntry → Bool) : State :=
  { s with cores := fmapAll (fun _ k => { k with tlb := k.tlb.filter keep }) s.cores,
           ctlb := fmapAll (fun _ l => l.filter keep) s.ctlb }

/-- Every TLB of the device drops the context's entries that meet [lo, hi). -/
def State.tlbDrop (s : State) (c lo hi : Nat) : State :=
  s.tlbKeep fun e => !(e.ctx == c && decide (e.va < hi) && decide (lo < e.va + 2 ^ e.log))

/-- Every TLB of the device drops the entries of a page, in whatever context: those filled from its entry (R164, R165). -/
def State.tlbDropPage (s : State) (pte : Nat) : State := s.tlbKeep fun e => e.at_ != pte

/-- A P-to-S transition of the address's page is in progress (R164). -/
def State.inPtoS (s : State) (c va : Nat) : Bool :=
  match s.walk c va with
  | .leaf at_ _ _ => s.ptos.any fun p => p.pte == at_
  | .fault _ => false

/-- Translation of an access of a core (R156): the window, then the TLBs. `wf` holds the walk faults
that the thread has still to take. A write whose entry has D = 0, and a P page of another owner,
need a walk (R160, R164). -/
def State.translate (s : State) (core c va : Nat) (want : Want) (high : Bool) (wf : FMap Nat) : TRes :=
  if (s.ctx c).inWindow va then s.windowTrans c va want high
  else if (s.ctx c).ptroot.getLsbD 0 == false then .fault 8
  else match fget wf (va / 65536) with
    | some code => .fault code
    | none =>
      match s.tlbFind core c va with
        | none => .miss
        | some e =>
          let p := e.pte.toNat
          if (s.ptos.any fun q => q.pte == e.at_) || (pteCls p == 0 && bits p 62 55 != core) then .miss
          else match s.leafTrans core va p e.log want high with
            | .ok pa cls =>
              if want == .write && !p.testBit 7 && cls != 2 then .miss else .ok pa cls
            | r => r

/-! ## Walks that complete (R160, R164) -/

/-- An entry that the walker updates by compare-and-swap at its home (R160); another device's is its own (log entry 9). -/
def State.putPte (s : State) (at_ p : Nat) : State :=
  match (s.target at_).1 with
  | .aperture _ => s
  | _ => s.agentPut at_ p 8

/-- The leaf as the walker leaves it for a fill by a core: A set, D set for a write that uses the translation, and the
first touch of a P page taken (R160). -/
def leafUpdate (p core : Nat) (write : Bool) : Nat :=
  let p := setBits p 6 6 1
  let p := if write && pteCls p != 2 then setBits p 7 7 1 else p
  if pteCls p == 0 && !p.testBit 54 then setBits (setBits p 54 54 1) 62 55 core else p

/-- A write may use the leaf (R162). -/
def State.leafWrites (s : State) (core va p log : Nat) (high : Bool) : Bool :=
  match s.leafTrans core va p log .write high with
  | .ok _ _ => true
  | _ => false

/-- The leaf is a P page of another core: its fill makes it S (R164). -/
def leafForeign (p core : Nat) : Bool := pteCls p == 0 && p.testBit 54 && bits p 62 55 != core

/-- Step 1 of R164: the entry turns S, OV and OWNER cleared. -/
def leafToS (p : Nat) : Nat := setBits (setBits (setBits p 53 52 1) 54 54 0) 62 55 0

/-- Steps 2 and 3 of R164: the owner's L1 drops the page, and no TLB holds it. -/
def State.finishPtoS (s : State) (p : PtoS) : State :=
  let k := s.core p.owner
  let keep := fun (e : Nat × L1Copy) => !(decide (p.frame ≤ 64 * e.1) && decide (64 * e.1 < p.frame + 2 ^ p.log))
  (s.setCore p.owner { k with l1 := k.l1.filter keep }).tlbDropPage p.pte

/-- The first address of the page that holds an address. -/
def pageBase (va log : Nat) : Nat := va / 2 ^ log * 2 ^ log

/-- A foreign P page: step 1 of the transition makes the entry S, and the walk waits for the others (R164). -/
def State.walkForeign (s : State) (w : Walk) (at_ p log : Nat) : State :=
  let s := s.putPte at_ (leafUpdate (leafToS p) w.core (w.write && s.leafWrites w.core w.va p log w.high))
  { s with ptos := s.ptos ++ [{ ctx := w.ctx, va := pageBase w.va log, log := log, owner := bits p 62 55, pte := at_, frame := pteAddr p }],
           walks := s.walks.map fun x => if x.id == w.id then { x with ptos := true } else x }

/-! ## Collapses (R165) -/

/-- The frame of a slot in region `n` (R163). -/
def State.slotFrame (s : State) (n j : Nat) : Nat := bits (fgetD s.rrb n 0).toNat 51 16 * 65536 + j * 65536

/-- A collapse that the engine starts: the entry turns S on region 0's frame, and the page leaves every TLB (steps 2 and 3). -/
def State.openCollapse (s : State) (k : Collapse) : State × Collapse :=
  let k := { k with running := true, before := s.next }
  match s.walk k.ctx k.va with
  | .leaf at_ p _ =>
    if pteCls p == 2 then
      let j := bits p 51 16
      let s := s.putPte at_ (setBits (setBits p 53 52 1) 51 8 (s.slotFrame 0 j / 256))
      (s.tlbDropPage at_, { k with pte := at_, slot := j })
    else (s, k)
  | .fault _ => (s, k)

/-- Every collapse that has come among the first 8 of the queue starts. -/
def State.startCollapses (s : State) : State :=
  let l := s.collapses
  let r := (l.take 8).foldl (fun (a : State × List Collapse) k =>
    if k.running then (a.1, a.2 ++ [k]) else let o := a.1.openCollapse k; (o.1, a.2 ++ [o.2])) (s, [])
  { r.1 with collapses := r.2 ++ l.drop 8 }

/-- The collapse that a write to a context's page joins. -/
def State.collapseOf (s : State) (c va : Nat) : Option Collapse :=
  match s.walk c va with
  | .leaf at_ _ _ => s.collapses.find? fun k => k.pte == at_
  | .fault _ => none

/-- A page's collapse is asked for (R165): further writes join it, and one that finds the queue full asks again. -/
def State.askCollapse (s : State) (c va : Nat) : State :=
  match s.walk c va with
  | .leaf at_ p _ =>
    if (s.collapses.any fun k => k.pte == at_) || s.collapses.length ≥ 72 then s
    else
      let k : Collapse := { ctx := c, va := pageBase va 16, pte := at_, running := false, slot := bits p 51 16, before := 0, inv := false }
      ({ s with collapses := s.collapses ++ [k] } : State).startCollapses
  | .fault _ => s

/-- A physical address lies on the new frame of a collapse that is not over: a write to it joins the collapse (R165). -/
def State.collapsing (s : State) (pa : Nat) : Bool :=
  s.collapses.any fun k => k.running && pa / 65536 * 65536 == s.slotFrame 0 k.slot

/-- A sector lies on a slot's frame of regions 1 to 3 (R165). -/
def State.onReplica (s : State) (j x : Nat) : Bool :=
  (upto 1 3).any fun n => 64 * x / 65536 * 65536 == s.slotFrame n j

/-- Step 5 (R165): the sectors of the page's frames in regions 1 to 3 that an agent holds, or asks for. -/
def State.replicaSectors (s : State) (j : Nat) : List Nat := ((s.dir.filter fun e => s.onReplica j e.1).map Prod.fst)

/-- The page's lines of regions 1 to 3 leave L3 (R165). -/
def State.dropReplica (s : State) (j : Nat) : State :=
  let keep := fun (l : Nat) => !s.onReplica j (4 * l)
  { s with l3 := s.l3.filter keep, pers := s.pers.filter keep }

/-! ## Translations made at once -/

/-- A translation made at once, walk and all, for a pin, a log reissue or a hardware reader (R167, R424, R432). It misses
while the page has first to turn S, or, for a pin that writes, to collapse; a logged write waits for the collapse in its access. -/
def State.translateNow (s : State) (core c va : Nat) (want : Want) (high pin : Bool) : TRes × State :=
  if (s.ctx c).inWindow va then (s.windowTrans c va want high, s)
  else match s.walk c va with
    | .fault k => (.fault k, s)
    | .leaf at_ p log =>
      match s.leafTrans core va p log want high with
      | .fault k => (.fault k, s)
      | .miss => (.miss, s)
      | .ok pa cls =>
        if leafForeign p core || s.ptos.any (fun q => q.pte == at_) then (.miss, s)
        else if want == .write && pin && (cls == 2 || s.collapsing pa) then (.miss, s)
        else
          let q := leafUpdate p core (want == .write)
          (.ok pa cls, if q == p then s else s.putPte at_ q)

/-- What a translation made at once waits for is set going: the transition of a foreign P page, or the collapse of an R page
that is to be written (R164, R165, R167). -/
def State.askPage (s : State) (core c va : Nat) (write high : Bool) : State :=
  match s.walk c va with
  | .fault _ => s
  | .leaf at_ p log =>
    if leafForeign p core then
      let w : Walk := { id := s.next, core := core, ctx := c, va := va, write := write, high := high, ptos := false, who := [] }
      ({ s with next := s.next + 1, walks := s.walks ++ [w] } : State).walkForeign w at_ p log
    else if write && pteCls p == 2 then s.askCollapse c va
    else s

/-- There is something to set going. -/
def State.asksPage (s : State) (core c va : Nat) (write : Bool) : Bool :=
  match s.walk c va with
  | .fault _ => false
  | .leaf at_ p _ => leafForeign p core || (write && pteCls p == 2 && !(s.collapses.any fun k => k.pte == at_) && decide (s.collapses.length < 72))

/-- The first physical address and the length up to the end of the 64 KiB page: a run of bytes is
translated page by page. -/
def pagesOf (va n : Nat) : List Nat :=
  if n == 0 then [] else (upto (va / 65536) ((va + n - 1) / 65536 + 1 - va / 65536)).map fun p => max va (p * 65536)

/-- Bytes read by a hardware reader at a virtual address, at level H (R424); none on any fault. -/
def State.vread (s : State) (core c va n : Nat) : Option Nat :=
  let bytes := (upto va n).map fun a =>
    let a := a % 2 ^ 56
    match (if (s.ctx c).inWindow a then s.windowTrans c a .read true else match s.walk c a with
      | .fault k => .fault k
      | .leaf _ p log => s.leafTrans core a p log .read true) with
    | .ok pa _ => some (BitVec.ofNat 8 (s.readAny pa 1))
    | _ => none
  if bytes.all Option.isSome then some (leNat (bytes.map fun b => b.getD 0)) else none

end Sys2Proof.Machine
end

