-- ==== Sys2Proof/Machine/ReplayLog.lean ====
section
/-! DEFINITION. What a replay reads of its log while units run (R485 to R489): the chunk that a unit is in, the
bundle that it is at, and the values logged there. -/

namespace Sys2Proof.Machine

/-- RCTL.MODE of a context (R458). -/
def State.recMode (s : State) (c : Nat) : Nat := bits (s.ctx c).rctl.toNat 1 0

/-- The context's units are recorded (R458). -/
def State.recording (s : State) (c : Nat) : Bool := s.recMode c == 1

/-- The context is replayed (R485). -/
def State.replaying (s : State) (c : Nat) : Bool := s.recMode c == 2

/-- Chunks are counted and hashed: the context is recorded or replayed. -/
def State.tracking (s : State) (c : Nat) : Bool := s.recording c || s.replaying c

/-- A unit's place in the log: its cluster and its UNIT number (R463, R474). -/
def Wave.unitKey (w : Wave) : Nat := clusterOf w.core * 512 + w.recd.unit % 512

/-- A unit has left its log: after a divergence (STATE 4 of RPCTL) it has taken REPLAY, and is trapped or in its
handler (R485, R489). -/
def State.strayed (s : State) (u : Nat) : Bool :=
  let w := s.wave u
  bits (s.ctx w.ctx).rpctl.toNat 39 36 == 4 && w.threads.any fun e => (e.2.inh || e.2.st == .trapped) && e.2.tcause == 12

/-- The chunk of the log that a unit is in; a unit that has left its log is in none. -/
def State.curChunk (s : State) (u : Nat) : Option LogChunk :=
  let w := s.wave u
  if s.strayed u then none else (fget s.replays w.ctx).bind fun p => (fgetD p.chunks w.unitKey []).head?

/-- The records that the log holds at the bundle that a unit is at. -/
def State.logAt (s : State) (u : Nat) : List (BitVec 128) :=
  match s.curChunk u with
  | none => []
  | some k => (k.recs.filter fun e => e.1 == (s.wave u).recd.len).flatMap Prod.snd

/-- LANE, opcode and VALUE of a VAL record (R471). -/
def valLane (r : BitVec 128) : Nat := bits r.toNat 31 25
def valOp (r : BitVec 128) : Nat := bits r.toNat 41 32
def valSr (r : BitVec 128) : Nat := bits r.toNat 49 42
def valOf (r : BitVec 128) : Dword := BitVec.ofNat 64 (bits r.toNat 127 64)

/-- The VAL records of an opcode that the log holds at a unit's bundle, in order. -/
def State.logVals (s : State) (u op : Nat) : List (BitVec 128) :=
  (s.logAt u).filter fun r => r.toNat % 16 == 3 && valOp r == op

/-- The value that the log holds for a lane of a unit's bundle. -/
def State.logVal (s : State) (u lane op : Nat) : Option Dword :=
  if s.replaying (s.wave u).ctx then ((s.logVals u op).find? fun r => valLane r == lane).map valOf else none

/-- The first logged entry of a chunk's unit that meets a test, taken out of the chunks. -/
def takeEntry (p : BitVec 128 → Bool) : List LogChunk → Option (List (BitVec 128)) × List LogChunk
  | [] => (none, [])
  | k :: ks =>
    let t := fun (e : Nat × List (BitVec 128)) => match e.2 with
      | r :: _ => p r
      | [] => false
    match k.recs.find? t with
    | some e => (some e.2, { k with recs := eraseFirst t k.recs } :: ks)
    | none => let q := takeEntry p ks; (q.1, k :: q.2)

/-- The next logged entry of a unit that meets a test, which is used up. -/
def State.takeLog (s : State) (u : Nat) (p : BitVec 128 → Bool) : Option (List (BitVec 128)) × State :=
  let w := s.wave u
  match (if s.strayed u then none else fget s.replays w.ctx) with
  | none => (none, s)
  | some r =>
    let q := takeEntry p (fgetD r.chunks w.unitKey [])
    (q.1, { s with replays := fput s.replays w.ctx { r with chunks := fput r.chunks w.unitKey q.2 } })

/-- A value that reaches a unit after its instruction has retired: the computed one, or in a replay the next
logged one of the lane and opcode (R486). -/
def State.lateVal (s : State) (u lane op v : Nat) : Nat × State :=
  if s.replaying (s.wave u).ctx then
    let q := s.takeLog u fun r => r.toNat % 16 == 3 && valOp r == op && valLane r == lane
    match q.1.bind List.head? with
    | some r => ((valOf r).toNat, q.2)
    | none => (v, s)
  else (v, s)

/-- The bytes of an INPUT record's DATA records, as a number of `n` bytes (R471). -/
def inputValue (l : List (BitVec 128)) (n : Nat) : Nat :=
  leNat ((l.flatMap fun r => leBytes (bits r.toNat 127 8) (bits r.toNat 7 4 + 1)).take n)

/-- A replay cannot follow its log in a unit: the code of R489. A unit that has left its log raises nothing more. -/
def State.diverge (s : State) (u code : Nat) : State :=
  if s.strayed u then s else s.soon .replay { (default : EvArg) with n := u, k := code }

/-- UNIT and tag that the log of a replay gives the sprout thread of a burst (R471, R486). -/
def State.loggedSprout (s : State) (r : SprReq) (k : Nat) : Option (BitVec 128) :=
  (fget s.replays r.ctx).bind fun p => p.waves.find? fun w =>
    w.getLsbD 13 && bits w.toNat 95 64 == r.n && bits w.toNat 127 112 == k % 65536 && bits w.toNat 103 96 == r.core

/-- The next birth of a cluster that the log of a replay has is of an accepted request with a free frame, and its thread's first chunk
has a TS below `ts`: it comes first (R486). -/
def State.birthFirst (s : State) (c ts : Nat) : Bool :=
  (fget s.replays c).any fun p => p.births.any fun e => e.2.head?.any fun b =>
    s.sprReqs.any fun r => r.ctx == c && r.n == b.2.1 && clusterOf r.core == e.1 && (s.wave r.u).recd.unit == b.1
      && decide ((s.waves.filter fun w => w.2.block == r.block && w.2.sprout.isSome).length < (s.block r.block).sprouts)
      && (s.loggedSprout r b.2.2).any fun w =>
        (fgetD p.chunks (e.1 * 512 + bits w.toNat 12 4) []).head?.any fun k => decide (k.ts < ts)

/-- LEN of a chunk: its bundles. -/
def LogChunk.len (k : LogChunk) : Nat := k.masks.length

/-- The chunk ended in a synchronous trap (R469, R472): its last bundle trapped and did not retire. -/
def LogChunk.trapped (k : LogChunk) : Bool := k.flags.testBit 1 && k.trap.isNone

/-- The cause of a code (R419). -/
def causeOf (n : Nat) : Cause :=
  ([.illegal, .priv, .memfault, .align, .bounds, .latch, .lockfault, .math, .watchdog, .debug, .preempt, .replay, .mchk]
    : List Cause).getD (n - 1) .debug

/-- An asynchronous trap of the log comes to a unit's live threads, but for those that have it already (R486). -/
def Wave.giveTrap (w : Wave) (c : Nat) : Wave :=
  if c == 10 then { w with halted := true }
  else { w with threads := fmapAll (fun _ th =>
      if th.st == .exited || th.st == .trapped || th.async.any (fun a => a.cause == causeOf c) || (causeOf c == .preempt && th.inhPre) then th
      else { th with async := th.async ++ [bareAsync (causeOf c) 0 th.pc] }) w.threads }

/-- The asynchronous trap that a chunk of the log ended in. -/
def LogChunk.atrap (k : LogChunk) (w : Wave) : Wave := k.trap.toList.foldl Wave.giveTrap w

/-- A chunk of a loaded log that has no CHUNK record: it only holds traps that stood at the end of its unit's log. -/
def LogChunk.unended (k : LogChunk) : Bool := k.flags.testBit 6

/-- A logged input of a unit (R486): its value, or none where the log does not hold it. -/
def State.takeInput (s : State) (u what addr lane n : Nat) : Option Nat × State :=
  let q := s.takeLog u fun r => r.toNat % 16 == 10 && bits r.toNat 7 4 == what && bits r.toNat 63 8 == addr && bits r.toNat 107 101 == lane
  (q.1.map fun l => inputValue (l.drop 1) n, if q.1.isSome then q.2 else s)

/-- A logged result that came after its wave had exited (R407), by the place of its unit in the log. -/
def State.takeLate (s : State) (c key what addr n : Nat) : Option Nat × State :=
  match fget s.replays c with
  | none => (none, s)
  | some p =>
    let t := fun (l : List (BitVec 128)) => match l with
      | r :: _ => bits r.toNat 7 4 == what && bits r.toNat 63 8 == addr % 2 ^ 56
      | [] => false
    let l := fgetD p.late key []
    match l.find? t with
    | some e => (some (inputValue (e.drop 1) n), { s with replays := fput s.replays c { p with late := fput p.late key (eraseFirst t l) } })
    | none => (none, s)

/-- Chunks of no bundle at the head of a unit's log are over at once; the asynchronous traps that stand with them, and before the
chunk that is then the unit's own, are taken. -/
def State.skipBare (s : State) (u : Nat) : State :=
  let w := s.wave u
  match fget s.replays w.ctx with
  | none => s
  | some p =>
    let l := fgetD p.chunks w.unitKey []
    let bare := l.takeWhile fun k => k.len == 0 && !k.trapped
    let ended := bare.filter fun k => !k.unended
    let own := match l.drop bare.length with
      | k :: rest => (k.lead, { k with lead := [] } :: rest)
      | [] => ([], [])
    if bare.isEmpty && own.1.isEmpty then s
    else
      let w := match ended.getLast? with
        | some k => { w with recd := { w.recd with clock := k.ts + 1, chunk := w.recd.chunk + ended.length, hash := 0 } }
        | none => w
      let w := own.1.foldl Wave.giveTrap (bare.foldl (fun w k => k.atrap (k.lead.foldl Wave.giveTrap w)) w)
      { s.setWave u w with replays := fput s.replays w.ctx { p with chunks := fput p.chunks w.unitKey own.2 } }

/-- The unit's chunk of the log is over: its clock follows TS, the trap that ended it is taken, and the next chunk is its
own. -/
def State.popChunk (s : State) (u : Nat) : State :=
  let w := s.wave u
  match fget s.replays w.ctx, s.curChunk u with
  | some p, some k =>
    let s := if w.recd.hash.toNat == k.hash then s else s.diverge u 1
    let w := { w with recd := { w.recd with
      clock := k.ts + 1, chunk := w.recd.chunk + 1, len := 0, close := 0, obj := none, hash := 0 } }
    let s := s.setWave u (k.atrap w)
    ({ s with replays := fput s.replays w.ctx { p with chunks := fput p.chunks w.unitKey (fgetD p.chunks w.unitKey []).tail } }).skipBare u
  | _, _ => s

end Sys2Proof.Machine
end

