-- ==== Sys2Proof/Machine/Record.lean ====
section
/-! DEFINITION. The recorder's parts that ordinary words use (R462 to R478): signatures, conflicts,
chunks, records, segments and silos. -/

namespace Sys2Proof.Machine

/-! ## The generator of R191 -/

/-- Mix64 of R191. -/
def mix64 (z : Dword) : Dword :=
  let z := (z ^^^ (z >>> 30)) * 0xBF58476D1CE4E5B9
  let z := (z ^^^ (z >>> 27)) * 0x94D049BB133111EB
  z ^^^ (z >>> 31)

/-! ## Chunk flags -/

/-- The flag bits of a CHUNK record (R471). -/
def flgSync : Nat := 1
def flgTrap : Nat := 2
def flgFull : Nat := 4
def flgConf : Nat := 8
def flgExit : Nat := 16
def flgCut : Nat := 32

/-! ## Segments (R475, R476) -/

/-- The state of the segment encoder: the previous record of each kind, the previous token's kind
and difference, and the bytes, with a run token open at the end. -/
structure SegEnc where
  prev : FMap Nat
  kind : Nat
  d : Nat
  run : Nat
  out : List Byte
  deriving DecidableEq, Repr

/-- Bytes of the open run token: F + 1 further records (R476). -/
def SegEnc.flush (e : SegEnc) : SegEnc :=
  if e.run == 0 then e else { e with run := 0, out := e.out ++ [BitVec.ofNat 8 ((e.run - 1) * 16 + 14)] }

/-- One record encoded (R476). -/
def SegEnc.push (e : SegEnc) (r : BitVec 128) : SegEnc :=
  let k := r.toNat % 16
  let d := (r.toNat + 2 ^ 128 - fgetD e.prev k 0) % 2 ^ 128
  let prev := fput e.prev k r.toNat
  if k == e.kind && d == e.d && e.run < 16 && !e.out.isEmpty then { e with prev := prev, run := e.run + 1 }
  else
    let e := e.flush
    let db := leBytes d 16
    let mask := (db.zipIdx.filter fun b => b.1 ≠ 0).foldl (fun m b => m + 2 ^ b.2) 0
    { prev := prev, kind := k, d := d, run := 0,
      out := e.out ++ [BitVec.ofNat 8 k] ++ leBytes mask 2 ++ db.filter (fun b => b ≠ 0) }

/-- The body of a segment (R476). -/
def segBody (recs : List (BitVec 128)) : List Byte :=
  (recs.foldl SegEnc.push { prev := [], kind := 16, d := 0, run := 0, out := [] }).flush.out

/-- One step of the CRC-16 of R475 on a bit. -/
def crcBit (c : Nat) (b : Bool) : Nat :=
  let top := c.testBit 15 != b
  let c := (c * 2) % 65536
  if top then c ^^^ 0x1021 else c

/-- CRC-16, polynomial 0x1021, initial 0xFFFF, most significant bit first (R475). -/
def crc16 (l : List Byte) : Nat :=
  l.foldl (fun c b => (upto 0 8).foldl (fun c i => crcBit c (b.getLsbD (7 - i))) c) 0xFFFF

/-- A whole segment of 4,096 bytes (R475). -/
def segment (recs : List (BitVec 128)) (segno ckpt tick : Nat) : List Byte :=
  let body := segBody recs
  leBytes 0x5345474B 4 ++ leBytes recs.length 4 ++ leBytes segno 8 ++ leBytes ckpt 4
    ++ leBytes (32 + body.length) 2 ++ leBytes (crc16 body) 2 ++ leBytes tick 8 ++ body
    ++ List.replicate (4096 - 32 - body.length) 0

/-! ## Silos (R474, R477, R478) -/

/-- A silo's place in the map of silos. -/
def siloKey (c k : Nat) : Nat := c * 64 + k
/-- The state of a silo. -/
def State.silo (s : State) (c k : Nat) : Silo := fgetD s.silos (siloKey c k) default
/-- The state with a silo. -/
def State.setSilo (s : State) (c k : Nat) (o : Silo) : State := { s with silos := fput s.silos (siloKey c k) o }

/-- The low dword of silo-table entry `k` of a context (R477). -/
def State.siloEntry (s : State) (c k : Nat) : Nat :=
  s.peek (bits (s.ctx c).silot.toNat 51 12 * 4096 + 32 * k) 8

/-- Ring size in segments from an entry's SZ field (R477). -/
def siloCap (entry : Nat) : Nat :=
  match bits entry 2 0 with
  | 0 => 65536 | 1 => 16384 | 2 => 32768 | 3 => 65536 | 4 => 131072 | 5 => 262144 | _ => 524288

/-- Oldest retained and latest checkpoint of CKST (R481). -/
def State.ckOldest (s : State) (c : Nat) : Nat := bits (s.ctx c).ckst.toNat 63 32
def State.ckCur (s : State) (c : Nat) : Nat := bits (s.ctx c).ckst.toNat 31 0

/-- GO is accepted for checkpoint `n` (R485). -/
def State.mayGo (s : State) (c n : Nat) : Bool :=
  (s.recMode c == 0 || (s.ctx c).pst == 2) && decide (s.ckOldest c ≤ n) && decide (n ≤ s.ckCur c) && (fget s.ckpts (c * 2 ^ 32 + n)).isSome

/-- The state with OLDEST and CUR of CKST. -/
def State.setCkst (s : State) (c old cur : Nat) : State :=
  s.setCtx c { s.ctx c with ckst := BitVec.ofNat 64 (old * 2 ^ 32 + cur) }

/-- The oldest retained checkpoint is dropped from the whole context, its undo pages freed, and
REC_WRAP posted (R478). -/
def State.dropOldest (s : State) (c silo : Nat) : State :=
  let old := s.ckOldest c
  let s := s.setCkst c (old + 1) (s.ckCur c)
  let next := fgetD s.ckpts (c * 2 ^ 32 + old + 1) default
  let s := (upto 0 41).foldl (fun s k =>
    s.setSilo c k { s.silo c k with rseg := fgetD next.segs k 0 }) s
  let s := { s with ckpts := fdel s.ckpts (c * 2 ^ 32 + old) }
  s.post 0 "REC_WRAP" (BitVec.ofNat 64 (c * 2 ^ 40 + silo * 2 ^ 32 + old % 2 ^ 32))

/-- The page of an address is kept as it is, once an interval, before a write of the context to it (R480). -/
def State.undoPage (s : State) (c pa : Nat) : State :=
  let k := c * 2 ^ 32 + s.ckCur c
  if !s.recording c || (s.target pa).1 != .hbm then s
  else match fget s.ckpts k with
    | none => s
    | some ck =>
      let page := pa / 65536 * 65536
      if (fget ck.undo page).isSome then s
      else
        let old : Memory := ((upto page 65536).map fun a => (a, s.byteAt a)).filter fun e => decide (e.2 ≠ 0)
        ({ s with ckpts := fput s.ckpts k { ck with undo := fput ck.undo page old } }).soon .undoCopy { (default : EvArg) with n := c, k := page }

/-- The open segment of a silo is written to its ring (R475, R478). A full ring first drops the
oldest checkpoint, or asks for a forced cut and holds the records. -/
def State.closeSegment (s : State) (c k : Nat) : State :=
  let o := s.silo c k
  if o.recs.isEmpty || o.held then s
  else
    let e := s.siloEntry c k
    let cap := siloCap e
    let s := if o.wseg - o.rseg == cap && s.ckOldest c < s.ckCur c then s.dropOldest c k else s
    let o := s.silo c k
    if o.wseg - o.rseg == cap then
      let s := s.setSilo c k { o with held := true }
      s.soon .cut { (default : EvArg) with n := c }
    else
      let at_ := bits e 51 12 * 4096 + (o.wseg % cap) * 4096
      let s := s.agentWrite at_ (segment o.recs o.wseg (s.ckCur c) s.ptb)
      let s := s.setSilo c k { o with recs := [], wseg := o.wseg + 1 }
      let s := if k < 40 then s.count 1 k 2 1 else s
      if 8 * (o.wseg + 1 - o.first) == 7 * cap then s.soon .cut { (default : EvArg) with n := c } else s

/-- A record goes to a silo of the context; a segment in which it does not fit is closed first
(R475). -/
def State.emit (s : State) (c k : Nat) (r : BitVec 128) : State :=
  let o := s.silo c k
  let s := if 32 + (segBody (o.recs ++ [r])).length > 4096 then s.closeSegment c k else s
  let o := s.silo c k
  let s := if k < 40 then s.count 1 k 1 1 else s
  s.setSilo c k { o with recs := o.recs ++ [r], opened := if o.recs.isEmpty then s.ptb else o.opened }

/-- DATA records that carry a payload (R471). -/
def dataRecs (fuel : Nat) (l : List Byte) : List (BitVec 128) :=
  match fuel with
  | 0 => []
  | fuel + 1 =>
    if l.isEmpty then []
    else
      let p := l.take 15
      BitVec.ofNat 128 (15 + (p.length - 1) * 16 + 256 * leNat p) :: dataRecs fuel (l.drop 15)

/-- Records go to a silo in order. -/
def State.emitAll (s : State) (c k : Nat) (l : List (BitVec 128)) : State :=
  l.foldl (fun s r => s.emit c k r) s

/-! ## Chunks (R466 to R472) -/

/-- The schedule and value records of a chunk in order, equal masks of adjoining bundles counted
together (R472). -/
def schedRecs (unit : Nat) : List (Nat × BitVec 128) → List (BitVec 128)
  | [] => []
  | (1, r) :: l => r :: schedRecs unit l
  | (_, m) :: l =>
    match schedRecs unit l with
    | r :: rest =>
      if r.toNat % 16 == 1 && r.toNat / 2 ^ 64 == m.toNat && bits r.toNat 24 13 < 4095
      then BitVec.ofNat 128 (r.toNat + 2 ^ 13) :: rest
      else BitVec.ofNat 128 (1 + unit * 16 + m.toNat * 2 ^ 64) :: r :: rest
    | [] => [BitVec.ofNat 128 (1 + unit * 16 + m.toNat * 2 ^ 64)]

/-- The place of a context's clock of an object (R468). -/
def ocKey (c o : Nat) : Nat := o * 64 + c

/-- The CHUNK record of a unit's open chunk (R471). -/
def RecUnit.chunkRec (r : RecUnit) (flags : Nat) : BitVec 128 :=
  BitVec.ofNat 128 (0 + r.unit % 512 * 2 ^ 4 + r.len % 8192 * 2 ^ 13 + flags % 64 * 2 ^ 26 + r.hash.toNat * 2 ^ 32
    + r.clock % 2 ^ 40 * 2 ^ 48 + r.chunk % 2 ^ 32 * 2 ^ 96)

/-- The unit after its chunk has closed (R464, R467, R468): signatures cleared, sr.chunk counted, and
the clock after TS and the object's clock. -/
def RecUnit.next (r : RecUnit) (oc : Nat) : RecUnit :=
  { r with rsig := 0, wsig := 0, clock := max (r.clock + 1) oc, chunk := r.chunk + 1, len := 0, last := r.len, close := 0,
           obj := none, hash := 0, pend := [] }

/-- A recorded unit's chunk closes with flags, and its records go to the silo of its cluster (R469,
R474). A clock that reaches 2^39 forces a checkpoint (R467). What a bundle that has still to retire closes its chunk for, and the
object that it acts on, stay with it (R468, R469). -/
def State.closeChunk (s : State) (u flags : Nat) : State :=
  let w := s.wave u
  if s.replaying w.ctx then
    (match s.curChunk u with
     | some k =>
       if w.recd.len == k.len then s.popChunk u
       else if flags % 8 == 0 && !flags.testBit 4 then s.modWave u fun w => { w with recd := { w.recd with close := 0, obj := none } }
       else (s.modWave u fun w => { w with recd := { w.recd with close := 0, obj := none } }).diverge u 5
     | none => s.modWave u fun w => { w with recd := { w.recd with close := 0, obj := none } })
  else if !s.recording w.ctx then
    s.setWave u { w with recd := { w.recd with close := 0, obj := none } }
  else
    let r := w.recd
    let s := s.emitAll w.ctx (clusterOf w.core) (schedRecs r.unit r.pend ++ [r.chunkRec flags])
    let obj := if r.late == 0 then r.obj else none
    let oc := match obj with
      | some o => max (fgetD s.objClock (ocKey w.ctx o) 0) r.clock
      | none => r.clock
    let s := match obj with
      | some o => { s with objClock := fput s.objClock (ocKey w.ctx o) oc }
      | none => s
    let next := r.next (oc + 1)
    let next := if r.late == 0 then next else { next with close := r.close, obj := r.obj }
    let s := (s.setWave u { w with recd := next }).count 0 w.core 9 1
    if r.clock + 1 == 2 ^ 39 then s.soon .clockForcedCheckpoint { (default : EvArg) with n := w.ctx } else s

/-- A trap, or the end of a unit from outside, ends the unit's chunk; one with no bundle yet goes on instead, since such a chunk has no
CHUNK record (R469, R471). -/
def State.endChunk (s : State) (u flags : Nat) : State :=
  if s.tracking (s.wave u).ctx && (s.wave u).recd.len == 0 then s else s.closeChunk u flags

/-- The records of a chunk that no bundle will end, as its unit exits or the interval ends (R471). -/
def State.flushPend (s : State) (u : Nat) : State :=
  let w := s.wave u
  if !s.recording w.ctx || w.recd.pend.isEmpty then s
  else (s.emitAll w.ctx (clusterOf w.core) (schedRecs w.recd.unit w.recd.pend)).setWave u { w with recd := { w.recd with pend := [] } }

/-- The chunk closes with these flags once the bundle or chain in progress has retired (R466). -/
def State.markClose (s : State) (u flags : Nat) : State :=
  s.modWave u fun w => { w with recd := { w.recd with close := w.recd.close ||| flags } }

/-- The number of an object of R468: 0 a team, 1 a mailbox, 2 an event counter, 3 a batch, 4 a sprout request, 5 a
lock sector, 6 a barrier object, 7 a collective handle, 8 a launch. -/
def objKey (kind a b : Nat) : Option Nat := some ((kind * 2 ^ 64 + a) * 2 ^ 64 + b)

/-- The synchronisation instruction in progress acts on an object (R468). -/
def State.markSync (s : State) (u : Nat) (obj : Option Nat) : State :=
  s.modWave u fun w => { w with recd := { w.recd with close := w.recd.close ||| flgSync, obj := obj } }

/-- Accesses of a unit that are not performed yet. -/
def State.openAccs (s : State) (u : Nat) : Bool :=
  s.accs.any fun a => a.t.u == u
    && (match a.st with
        | .atL2 | .atHome | .remote | .collapse => true
        | _ => false)
    && (match a.kind with
        | .pref _ => false
        | _ => true)

/-- Rotl16 of R473. -/
def rotl16 (h : BitVec 16) (n : Nat) : BitVec 16 := h.rotateLeft n

/-- The halfwords of written bytes, ascending; a single byte is zero-extended (R473). -/
def halves : List Byte → List (BitVec 16)
  | a :: b :: r => BitVec.ofNat 16 (a.toNat + 256 * b.toNat) :: halves r
  | [a] => [BitVec.ofNat 16 a.toNat]
  | [] => []

/-- A write in a HASH (R473). -/
def hashWrite (h : BitVec 16) (x : Nat × Nat × List Byte) : BitVec 16 :=
  (halves x.2.2).foldl (fun h y => rotl16 h 5 ^^^ y) (rotl16 h 5 ^^^ BitVec.ofNat 16 x.2.1)

/-- A unit's bundle has made all its accesses: its entries join the signatures, and its writes the HASH in ascending wave index
(R464, R473). -/
def RecUnit.settled (r : RecUnit) : RecUnit :=
  { r with late := 0, rsig := r.rsig ||| r.newR, wsig := r.wsig ||| r.newW, newR := 0, newW := 0,
           hash := (sortBy Prod.fst r.writes).foldl hashWrite r.hash, writes := [] }

/-- A bundle's part of a unit retires: its mask joins the schedule, its entries the signatures, the count rises, and a
chunk that is due closes (R469, R471, R472). `hold` is set inside a chain, where nothing closes. -/
def State.recCommit (s : State) (u : Nat) (mask : Nat) (hold : Bool) : State :=
  let w := s.wave u
  if s.replaying w.ctx then
    let s := s.setWave u { w with recd := { w.recd.settled with len := w.recd.len + 1 } }
    match s.curChunk u with
    | none => s
    | some k =>
      if w.recd.len + 1 > k.len then (if k.trapped then { s with stalled := true } else s.diverge u 5)
      else if hold then s
      else if w.recd.len + 1 == k.len && !k.trapped then s.closeChunk u w.recd.close
      else if w.recd.close == 0 || w.recd.len + 1 == k.len then s else s.closeChunk u w.recd.close
  else if !s.recording w.ctx then (if hold then s else s.closeChunk u 0)
  else
    let r := w.recd.settled
    let r := { r with len := r.len + 1, pend := r.pend ++ [(0, BitVec.ofNat 128 mask)] }
    let s := s.setWave u { w with recd := r }
    let flags := r.close ||| (if r.len ≥ 4096 then flgFull else 0)
    if hold || flags == 0 then s else s.closeChunk u flags

/-- A bundle's part of a unit is over. In a recording or a replay it retires once its accesses have been performed, so
that its chunk holds them and their writes (log entry 25). -/
def State.recRetire (s : State) (u : Nat) (mask : Nat) (hold : Bool) : State :=
  if !hold && s.tracking (s.wave u).ctx && s.openAccs u then s.modWave u fun w => { w with recd := { w.recd with late := mask } }
  else s.recCommit u mask hold

/-- A unit is about to be reissued: what it enters and writes stays apart until its accesses are performed. -/
def State.recReopen (s : State) (u : Nat) : State :=
  if s.tracking (s.wave u).ctx then s.modWave u fun w => { w with recd := { w.recd with late := 2 ^ 64 } } else s

/-- A reissued unit has made its accesses; a chunk that is due closes. -/
def State.recReissued (s : State) (u : Nat) : State :=
  let s := s.modWave u fun w => { w with recd := w.recd.settled }
  let c := (s.wave u).recd.close
  if c == 0 || s.replaying (s.wave u).ctx then s else s.closeChunk u c

/-- The bundles whose accesses have been performed retire. -/
def State.recSettle (s : State) : State :=
  (s.waves.filter fun e => e.2.recd.late != 0).foldl (fun s e =>
    let late := (s.wave e.1).recd.late
    if s.openAccs e.1 then s else if late == 2 ^ 64 then s.recReissued e.1 else s.recCommit e.1 late false) s

/-- Opcodes whose logged value reaches the unit after the instruction has retired: MWAIT, the line locks
and RESHAPE. -/
def lateOps : List Nat := [0x009, 0x1E0, 0x1E1, 0x1E2, 0x1E3, 0x2C4]

/-- A VAL record of the unit's bundle in progress (R471); in a replay it says which value the word takes from the log. -/
def State.recVal (s : State) (u lane opcode sr : Nat) (v : Dword) : State :=
  let w := s.wave u
  if !s.recording w.ctx && !(s.replaying w.ctx && !lateOps.contains opcode) then s
  else
    let r := w.recd
    let x := BitVec.ofNat 128 (3 + r.unit % 512 * 2 ^ 4 + r.len * 2 ^ 13 + lane % 128 * 2 ^ 25 + opcode * 2 ^ 32
      + sr * 2 ^ 42 + v.toNat * 2 ^ 64)
    s.setWave u { w with recd := { r with pend := r.pend ++ [(1, x)] } }

/-- A ready-made record of the unit's open chunk. -/
def State.recPend (s : State) (u : Nat) (f : Nat → Nat → Nat) : State :=
  let w := s.wave u
  if !s.recording w.ctx then s
  else
    let r := w.recd
    s.setWave u { w with recd := { r with pend := r.pend ++ [(1, BitVec.ofNat 128 (f (r.unit % 512) r.len))] } }

/-- An INPUT record of a unit with its DATA records (R471). -/
def inputRecs (unit bidx what addr lane : Nat) (l : List Byte) : List (BitVec 128) :=
  BitVec.ofNat 128 (10 + what * 2 ^ 4 + addr % 2 ^ 56 * 2 ^ 8 + (l.length - 1) * 2 ^ 64 + unit % 512 * 2 ^ 80
    + bidx * 2 ^ 89 + lane % 128 * 2 ^ 101) :: dataRecs l.length l

/-- An input reaches a unit (R462): its record joins the open chunk, or the log itself once the unit's last chunk has closed. -/
def State.recInput (s : State) (u what addr lane : Nat) (l : List Byte) : State :=
  let w := s.wave u
  let r := w.recd
  if !s.recording w.ctx then s
  else if w.retired && r.len == 0 then s.emitAll w.ctx (clusterOf w.core) (inputRecs r.unit r.last what addr lane l)
  else s.setWave u { w with recd := { r with pend := r.pend ++ ((inputRecs r.unit r.len what addr lane l).map fun y => (1, y)) } }

/-! ## Signatures and conflicts (R464 to R466) -/

/-- X of a sector of device or host memory (R464). -/
def recXMem (pa : Nat) : Nat := pa % 2 ^ 52 / 64
/-- X of a scratchpad sector (R464). -/
def recXScr (core off : Nat) : Nat := 2 ^ 63 + (clusterOf core * 4 + core % 4) * 2 ^ 16 + off / 64
/-- X of an accumulator tile (R464). -/
def recXTile (core t : Nat) : Nat := 2 ^ 63 + 2 ^ 62 + core * 32 + t

/-- The four bits that a sector sets in a signature (R464). -/
def sigBits (x : Nat) : BitVec 512 :=
  let g := (mix64 (BitVec.ofNat 64 x)).toNat
  BitVec.ofNat 512 (2 ^ bits g 8 0 ||| 2 ^ bits g 17 9 ||| 2 ^ bits g 26 18 ||| 2 ^ bits g 35 27)

/-- A sector tests as present in a signature (R464). -/
def sigHas (sig : BitVec 512) (x : Nat) : Bool := sig &&& sigBits x == sigBits x

/-- The waves of the bundle that is issuing. -/
def State.issuing (s : State) (u : Nat) : Bool :=
  match s.issue with
  | some b => b.threads.any fun t => t.u == u
  | none => false

/-- An access enters its unit's signature (R464): with its bundle, where one is issuing. -/
def State.recEnter (s : State) (u x : Nat) (read write : Bool) : State :=
  let w := s.wave u
  if !s.recording w.ctx then s
  else
    let r := w.recd
    let e := fun (on : Bool) (g : BitVec 512) => if on then g ||| sigBits x else g
    if s.issuing u || r.late != 0 then s.setWave u { w with recd := { r with newR := e read r.newR, newW := e write r.newW } }
    else s.setWave u { w with recd := { r with rsig := e read r.rsig, wsig := e write r.wsig } }

/-- The entries of a unit's bundles that have retired conflict with an access (R466). -/
def RecUnit.hitOld (r : RecUnit) (x : Nat) (write : Bool) : Bool := sigHas r.wsig x || (write && sigHas r.rsig x)

/-- The entries of a unit's bundle that has not retired conflict with an access (R466). -/
def RecUnit.hitNew (r : RecUnit) (x : Nat) (write : Bool) : Bool := sigHas r.newW x || (write && sigHas r.newR x)

/-- A unit's signatures conflict with an access (R466). -/
def RecUnit.conflicts (r : RecUnit) (x : Nat) (write : Bool) : Bool := r.hitOld x write || r.hitNew x write

/-- An access conflicts with a bundle of another unit of its context that has issued and not retired: it waits until that bundle has
retired (R466, log entry 25). -/
def State.lateConflict (s : State) (u x : Nat) (write : Bool) : Bool :=
  let c := (s.wave u).ctx
  s.recording c && s.waves.any fun e => e.1 != u && e.2.ctx == c && !e.2.saved && !e.2.retired && e.2.recd.late != 0 && e.2.recd.hitNew x write

/-- The units of a context on the cores that pass a test, other than `but`, that an access conflicts
with. -/
def State.conflictUnits (s : State) (c : Nat) (onCore : Nat → Bool) (but x : Nat) (write : Bool) : List Nat :=
  (s.waves.filter fun e => e.1 != but && e.2.ctx == c && onCore e.2.core && !e.2.saved && !e.2.retired
    && e.2.recd.conflicts x write).map Prod.fst

/-- The chunks of the conflicting units close (R466); a unit of the bundle that is issuing, or one whose bundle that has not retired is
all that conflicts, closes its chunk after the bundle. The answer carries the largest TS closed, plus one, 0 for none. -/
def State.recProbe (s : State) (c : Nat) (onCore : Nat → Bool) (but x : Nat) (write : Bool) : State × Nat :=
  if !s.recording c then (s, 0)
  else
    (s.conflictUnits c onCore but x write).foldl (fun a u =>
      let t := (a.1.wave u).recd.clock + 1
      if s.issuing u || !(a.1.wave u).recd.hitOld x write then (a.1.markClose u flgConf, max a.2 t)
      else (a.1.closeChunk u flgConf, max a.2 t)) (s, 0)

/-- The unit's clock follows an answer (R467); `t` is TS plus one, or 0. -/
def State.recClock (s : State) (u t : Nat) : State :=
  s.modWave u fun w => { w with recd := { w.recd with clock := max w.recd.clock t } }

/-- How far an access is checked as it issues (R465): within its core; for a scratchpad access, its cluster; and for the memory that an
engine reads or writes for a unit at the homes, everywhere, since it leaves no access of the unit's own for the L2 slices to probe with. -/
inductive Reach where
  | core | cluster | all
  deriving DecidableEq, Repr

/-- A core lies within the reach of an access from another. -/
def Reach.takes (r : Reach) (from_ k : Nat) : Bool :=
  match r with
  | .core => k == from_
  | .cluster => clusterOf k == clusterOf from_
  | .all => true

/-- A unit's access at issue: checked against the other units in its reach, then entered (R464, R465). -/
def State.recAccess (s : State) (u x : Nat) (read write : Bool) (reach : Reach) : State :=
  let w := s.wave u
  if !s.recording w.ctx then s
  else
    let (s, t) := s.recProbe w.ctx (reach.takes w.core) u x write
    (s.recClock u t).recEnter u x read write

/-- A write of a thread is kept for the HASH of its unit's bundle (R473). -/
def State.recHash (s : State) (t : TRef) (ea : Nat) (l : List Byte) : State :=
  let w := s.wave t.u
  if !s.tracking w.ctx then s
  else s.setWave t.u { w with recd := { w.recd with writes := w.recd.writes ++ [(t.i, ea, l)] } }

/-! ## Home-side operations (R465, R470, R531) -/

/-- A home-side operation enters its slice's probe table; a full table first probes the oldest
entry's core (R465). -/
def State.probeEnter (s : State) (x core c : Nat) : State :=
  if !s.recording c then s
  else
    let slice := s.homeOf (64 * x)
    let mine := s.probeTab.filter fun p => p.slice == slice
    let s := if mine.length ≥ 1024 then
        match mine.head? with
        | some p => { s with probes := s.probes ++ [{ x := p.x, core := p.core, ctx := p.ctx, write := true }],
                             probeTab := eraseFirst (· == p) s.probeTab }
        | none => s
      else s
    { s with probeTab := s.probeTab ++ [{ slice := slice, x := x, core := core, ctx := c }] }

/-- A HOME record with the slice's next sequence number (R471, R531). -/
def State.homeRecord (s : State) (c x op tag core : Nat) : State :=
  if !s.recording c then s
  else
    let slice := s.homeOf (64 * x)
    let k := siloKey c slice
    let q := fgetD s.homeSeq k 0
    let s := { s with homeSeq := fput s.homeSeq k (q + 1) }
    s.emit c 40 (BitVec.ofNat 128 (7 + slice * 2 ^ 4 + op * 2 ^ 10 + q * 2 ^ 12 + tag * 2 ^ 64 + core * 2 ^ 96))

/-- The next home-side operation that the log of a replay names at a slice (R486). -/
def State.homeHead (s : State) (c slice : Nat) : Option (BitVec 128) :=
  (fget s.replays c).bind fun p => (fgetD p.homes slice []).head?

/-- That operation has been performed. -/
def State.homeNext (s : State) (c slice : Nat) : State :=
  { s with replays := fmod s.replays c fun p => { p with homes := fmod p.homes slice List.tail } }

/-- A logged write of a replay has been performed: its INPUT record is used up. -/
def State.inputNext (s : State) (c what pa : Nat) : State :=
  { s with replays := fmod s.replays c fun p => { p with
      inputs := eraseFirst (fun e => bits e.1.toNat 7 4 == what && bits e.1.toNat 63 8 == pa % 2 ^ 52) p.inputs } }

/-- The log of a replay has a grant to this wave as the next operation of the sector's home slice (R295, R486). -/
def State.grantDue (s : State) (u x : Nat) : Bool :=
  match s.homeHead (s.wave u).ctx (s.homeOf (64 * x)) with
  | some h => bits h.toNat 11 10 == 1 && bits h.toNat 95 64 == (s.wave u).tag.toNat
  | none => false

/-- A request for a line lock that a replay keeps from its lock unit until the log has its grant next, so that the unit grants
in the logged order; a try waits until the sector is free too (R295). -/
def State.heldBack (s : State) (m : LockMsg) : Bool :=
  s.replaying (s.wave m.u).ctx && !s.strayed m.u && (match m.kind with
    | .acquire _ _ => !s.grantDue m.u m.x
    | .try_ => !s.grantDue m.u m.x || (fget s.locks m.x).isSome
    | _ => false)

/-- The sector's previous home-side operation of the context came from another unit; the outside world counts as one (R470, log
entry 85). -/
def State.homeOther (s : State) (u x : Nat) : Bool :=
  match fget s.homeLast ((s.wave u).ctx * 2 ^ 52 + x) with
  | some v => v != u
  | none => false

/-- A unit of a recorded or replayed context has performed a home-side operation on a sector (R470). -/
def State.homeTouch (s : State) (c u x : Nat) : State :=
  if s.tracking c then { s with homeLast := fput s.homeLast (c * 2 ^ 52 + x) u } else s

/-- A far atomic or grant at the home for a unit: recorded for a grant every time, for an atomic when
the sector's previous home-side operation came from another unit (R470, R531). -/
def State.homeRecUnit (s : State) (u x : Nat) (grant : Bool) : State :=
  let w := s.wave u
  if s.replaying w.ctx then
    let logs := grant || s.homeOther u x
    let s := s.homeTouch w.ctx u x
    let slice := s.homeOf (64 * x)
    let op := if grant then 1 else 0
    match s.homeHead w.ctx slice with
    | some h => if logs && bits h.toNat 11 10 == op && bits h.toNat 95 64 == w.tag.toNat then s.homeNext w.ctx slice else s
    | none => s
  else if !s.recording w.ctx then s
  else
    let logs := grant || s.homeOther u x
    let s := s.homeTouch w.ctx u x
    let s := if logs then s.homeRecord w.ctx x (if grant then 1 else 0) w.tag.toNat w.core else s
    s.probeEnter x w.core w.ctx

end Sys2Proof.Machine
end

