-- ==== Sys2Proof/Machine/FloatNum.lean ====
section
/-! DEFINITION. Number formats, exact values, and the one rounding procedure (R181 to R195). A value
on its way to a result is exact: a dyadic number, with a sticky mark where the exact real lies
strictly between it and its successor in the last place held. -/

namespace Sys2Proof.Machine

/-! ## Flags (R195, R196) -/

/-- The bits of NX, UF, OF, DZ and IV. -/
def fNX : Nat := 1
def fUF : Nat := 2
def fOF : Nat := 4
def fDZ : Nat := 8
def fIV : Nat := 16

/-! ## Formats (R181) -/

/-- A binary floating-point format: exponent and mantissa bits, bias, whether it has infinities, and
its NaNs: 0 none, 1 the single code S.1111.111, 2 as in IEEE 754. -/
structure FFmt where
  eb : Nat
  mb : Nat
  bias : Nat
  inf : Bool
  nan : Nat
  deriving DecidableEq, Repr

/-- The floating-point format of a TYPE code (R44, R181). -/
def ffmt (t : Nat) : FFmt :=
  match t with
  | 11 => ⟨11, 52, 1023, true, 2⟩
  | 12 => ⟨5, 10, 15, true, 2⟩
  | 13 => ⟨8, 7, 127, true, 2⟩
  | 14 => ⟨5, 2, 15, true, 2⟩
  | 15 => ⟨4, 3, 7, false, 1⟩
  | 16 => ⟨3, 2, 3, false, 0⟩
  | 17 => ⟨2, 3, 1, false, 0⟩
  | 18 => ⟨2, 1, 1, false, 0⟩
  | _ => ⟨8, 23, 127, true, 2⟩

/-- The TYPE code is a floating-point format. -/
def isFloatTy (t : Nat) : Bool := decide (10 ≤ t) && decide (t ≤ 18)

/-- The format of f32. -/
def f32 : FFmt := ffmt 10

/-- An operand or result. -/
inductive FVal where
  /-- A NaN: sign, mantissa field and its width. -/
  | nan (s : Bool) (m mb : Nat)
  | inf (s : Bool)
  /-- (-1)^s times m times 2^e. -/
  | num (s : Bool) (m : Nat) (e : Int)
  deriving DecidableEq, Repr

/-- The value of a code of a format (R181). -/
def FFmt.decode (f : FFmt) (c : Nat) : FVal :=
  let s := c.testBit (f.eb + f.mb)
  let e := bits c (f.eb + f.mb - 1) f.mb
  let m := c % 2 ^ f.mb
  let top := 2 ^ f.eb - 1
  if f.nan == 2 && e == top then (if m == 0 then .inf s else .nan s m f.mb)
  else if f.nan == 1 && e == top && m == 2 ^ f.mb - 1 then .nan s m f.mb
  else if e == 0 then .num s m (1 - (f.bias : Int) - f.mb)
  else .num s (2 ^ f.mb + m) ((e : Int) - f.bias - f.mb)

/-- A NaN is signalling (R181). The one NaN of e4m3 is quiet. -/
def FVal.signalling : FVal → Bool
  | .nan _ m mb => !(m.testBit (mb - 1)) && mb != 3
  | _ => false

/-- The value is a NaN. -/
def FVal.isNan : FVal → Bool
  | .nan _ _ _ => true
  | _ => false

/-- The value with its sign flipped if asked (R199). -/
def FVal.negIf (v : FVal) (b : Bool) : FVal :=
  if b then
    match v with
    | .nan s m mb => .nan (!s) m mb
    | .inf s => .inf (!s)
    | .num s m e => .num (!s) m e
  else v

/-- The sign bit of a format's code at its place. -/
def FFmt.sign (f : FFmt) (s : Bool) : Nat := if s then 2 ^ (f.eb + f.mb) else 0

/-- The code of infinity. -/
def FFmt.infCode (f : FFmt) (s : Bool) : Nat := f.sign s + (2 ^ f.eb - 1) * 2 ^ f.mb

/-- The code of the largest finite value. -/
def FFmt.maxCode (f : FFmt) (s : Bool) : Nat :=
  f.sign s + (match f.nan with
    | 2 => (2 ^ f.eb - 1) * 2 ^ f.mb - 1
    | 1 => 2 ^ (f.eb + f.mb) - 2
    | _ => 2 ^ (f.eb + f.mb) - 1)

/-- The default NaN (R193). -/
def FFmt.defNan (f : FFmt) : Nat :=
  if f.nan == 1 then 2 ^ (f.eb + f.mb) - 1 else (2 ^ f.eb - 1) * 2 ^ f.mb + 2 ^ (f.mb - 1)

/-- A NaN made quiet and converted to the format (R193, R194). Only for formats with NaNs. -/
def FFmt.nanCode (f : FFmt) (s : Bool) (m mb : Nat) : Nat :=
  if f.nan == 1 then f.sign s + (2 ^ (f.eb + f.mb) - 1)
  else
    let q := if mb ≤ f.mb then m * 2 ^ (f.mb - mb) else m / 2 ^ (mb - f.mb)
    f.sign s + (2 ^ f.eb - 1) * 2 ^ f.mb + q % 2 ^ f.mb % 2 ^ (f.mb - 1) + 2 ^ (f.mb - 1)

/-! ## Exact values -/

/-- A magnitude m times 2^e with a sign; `st` if the exact magnitude is larger, by less than 2^e. -/
structure Ex where
  s : Bool
  m : Nat
  e : Int
  st : Bool
  deriving DecidableEq, Repr

/-- Number of bits of a magnitude. -/
def bitLen (m : Nat) : Nat := if m == 0 then 0 else m.log2 + 1

/-- m times 2^e as an integer, for e not below 0; else the floor. -/
def shiftNat (m : Nat) (e : Int) : Nat := if e ≥ 0 then m <<< e.toNat else m >>> (-e).toNat

/-- The sum of two dyadic numbers: sign and magnitude at the smaller exponent. -/
def exAdd (s1 : Bool) (m1 : Nat) (e1 : Int) (s2 : Bool) (m2 : Nat) (e2 : Int) : Ex :=
  let e := min e1 e2
  let a := m1 <<< (e1 - e).toNat
  let b := m2 <<< (e2 - e).toNat
  if s1 == s2 then ⟨s1, a + b, e, false⟩
  else if a ≥ b then ⟨s1, a - b, e, false⟩ else ⟨s2, b - a, e, false⟩

/-- The exact quotient m1/m2 to 200 bits below its leading bit, with its sticky mark. -/
def exDiv (s : Bool) (m1 : Nat) (e1 : Int) (m2 : Nat) (e2 : Int) : Ex :=
  let k := 200 + bitLen m2
  let n := m1 <<< k
  ⟨s, n / m2, e1 - e2 - k, n % m2 != 0⟩

/-- Integer square root, one bit a step from bit `k` down. -/
def isqrtFrom (n : Nat) : Nat → Nat → Nat
  | 0, r => r
  | k + 1, r => let c := r + 2 ^ k
                isqrtFrom n k (if c * c ≤ n then c else r)

/-- Floor of the square root. -/
def isqrt (n : Nat) : Nat := isqrtFrom n (bitLen n / 2 + 1) 0

/-! ## Rounding (R188 to R190) -/

/-- What rounding chose: the multiple of 2^q, and whether it is inexact. -/
structure Rnd where
  k : Nat
  q : Int
  inexact : Bool
  deriving DecidableEq, Repr

/-- Hi is chosen over lo (R188): `odd` says that lo's mantissa is odd, `rem` and `half` place the value
between them at a scale of 2 half, `g` is the draw. -/
def chooseHi (mode : Nat) (neg odd : Bool) (rem half : Nat) (st : Bool) (g : Nat) : Bool :=
  match mode with
  | 0 => if rem > half then true else if rem == half then st || odd else false
  | 1 => false
  | 2 => neg
  | 3 => !neg
  | _ => decide (g < rem * 2 ^ 32 / (2 * half))

/-- A value rounded to a multiple of 2^q. -/
def roundAt (x : Ex) (q : Int) (mode g : Nat) : Rnd :=
  if q ≤ x.e then ⟨x.m <<< (x.e - q).toNat, q, x.st⟩
  else
    let d := (q - x.e).toNat
    let k := x.m >>> d
    let rem := x.m % 2 ^ d
    if rem == 0 && !x.st then ⟨k, q, false⟩
    else ⟨if chooseHi mode x.s (k % 2 == 1) rem (2 ^ (d - 1)) x.st g then k + 1 else k, q, true⟩

/-- The exponent of the last place of a value with `mb` mantissa bits, exponents unbounded. -/
def Ex.ulp (x : Ex) (mb : Nat) : Int := x.e + bitLen x.m - 1 - mb

/-- The code of k times 2^q, which is at most the largest finite value and a value of the format. -/
def FFmt.encode (f : FFmt) (s : Bool) (k : Nat) (q : Int) : Nat :=
  let emin : Int := 1 - (f.bias : Int) - f.mb
  if k == 0 then f.sign s
  else
    let l := bitLen k
    let top : Int := q + l - 1
    if top < 1 - (f.bias : Int) then f.sign s + shiftNat k (q - emin)
    else f.sign s + (top + f.bias).toNat * 2 ^ f.mb + (shiftNat k (q - (top - f.mb)) - 2 ^ f.mb)

/-- Overflow of a result of a sign (R189). -/
def FFmt.overflow (f : FFmt) (s : Bool) (mode : Nat) (sat : Bool) : Nat :=
  if sat || f.nan == 0 then f.maxCode s
  else if f.nan == 1 then f.sign s + (2 ^ (f.eb + f.mb) - 1)
  else match mode with
    | 1 => f.maxCode s
    | 2 => if s then f.infCode true else f.maxCode false
    | 3 => if s then f.maxCode true else f.infCode false
    | _ => f.infCode s

/-- k times 2^q is larger than the format's largest finite value. -/
def FFmt.tooBig (f : FFmt) (k : Nat) (q : Int) : Bool :=
  match f.decode (f.maxCode false) with
  | .num _ m e =>
    let lo := min q e
    decide (m <<< (e - lo).toNat < k <<< (q - lo).toNat)
  | _ => false

/-- Round(x, mode) into a floating-point format, with its flags (R188 to R190, R195). `x` is not an
exact zero. -/
def FFmt.round (f : FFmt) (mode : Nat) (sat : Bool) (g : Nat) (x : Ex) : Nat × Nat :=
  let emin : Int := 1 - (f.bias : Int) - f.mb
  let q := max (x.ulp f.mb) emin
  let r := roundAt x q mode g
  if f.tooBig r.k r.q then (f.overflow x.s mode sat, fOF ||| fNX)
  else
    let u := roundAt x (x.ulp f.mb) mode g
    let tiny := decide (u.k ≠ 0) && decide ((u.q + bitLen u.k - 1 : Int) < 1 - (f.bias : Int))
    (f.encode x.s r.k r.q, if r.inexact then fNX ||| (if tiny then fUF else 0) else 0)

/-- A zero result of a sign. -/
def FFmt.zero (f : FFmt) (s : Bool) : Nat := f.sign s

/-- An infinite result (R189): the largest finite value under SAT. -/
def FFmt.infinite (f : FFmt) (sat s : Bool) : Nat := if sat then f.maxCode s else f.infCode s

/-- A result of an exact computation: an exact zero takes the sign `z`. -/
def FFmt.finish (f : FFmt) (mode : Nat) (sat : Bool) (g : Nat) (z : Bool) (x : Ex) : Nat × Nat :=
  if x.m == 0 && !x.st then (f.zero z, 0) else f.round mode sat g x

/-! ## NaN operands (R193) -/

/-- IV if any operand is a signalling NaN (R195). -/
def snanFlag (l : List FVal) : Nat := if l.any FVal.signalling then fIV else 0

/-- The first NaN among the operands, as the result (R193); else the default NaN with IV. -/
def FFmt.nanResult (f : FFmt) (l : List FVal) : Nat × Nat :=
  match l.find? FVal.isNan with
  | some (.nan s m mb) => (f.nanCode s m mb, snanFlag l)
  | _ => (f.defNan, fIV)

/-! ## Arithmetic (R201) -/

/-- a + b. -/
def FFmt.add (f : FFmt) (mode : Nat) (sat : Bool) (g : Nat) (a b : FVal) : Nat × Nat :=
  match a, b with
  | .num s1 m1 e1, .num s2 m2 e2 =>
    let z := if m1 == 0 && m2 == 0 && s1 == s2 then s1 else mode == 2
    f.finish mode sat g z (exAdd s1 m1 e1 s2 m2 e2)
  | .inf s1, .inf s2 => if s1 == s2 then (f.infinite sat s1, 0) else (f.defNan, fIV)
  | .inf s1, .num _ _ _ => (f.infinite sat s1, 0)
  | .num _ _ _, .inf s2 => (f.infinite sat s2, 0)
  | a, b => f.nanResult [a, b]

/-- a times b. -/
def FFmt.mul (f : FFmt) (mode : Nat) (sat : Bool) (g : Nat) (a b : FVal) : Nat × Nat :=
  match a, b with
  | .num s1 m1 e1, .num s2 m2 e2 => f.finish mode sat g (s1 != s2) ⟨s1 != s2, m1 * m2, e1 + e2, false⟩
  | .inf s1, .inf s2 => (f.infinite sat (s1 != s2), 0)
  | .inf s1, .num s2 m2 _ => if m2 == 0 then (f.defNan, fIV) else (f.infinite sat (s1 != s2), 0)
  | .num s1 m1 _, .inf s2 => if m1 == 0 then (f.defNan, fIV) else (f.infinite sat (s1 != s2), 0)
  | a, b => f.nanResult [a, b]

/-- The product of two values is invalid: 0 times infinity. -/
def mulInvalid (a b : FVal) : Bool :=
  match a, b with
  | .inf _, .num _ m _ => m == 0
  | .num _ m _, .inf _ => m == 0
  | _, _ => false

/-- The sign of a value. -/
def FVal.sgn : FVal → Bool
  | .nan s _ _ => s
  | .inf s => s
  | .num s _ _ => s

/-- The value is infinite. -/
def FVal.isInf : FVal → Bool
  | .inf _ => true
  | _ => false

/-- a times b plus c with one rounding; an invalid product raises IV even beside a NaN c (R193). -/
def FFmt.fma (f : FFmt) (mode : Nat) (sat : Bool) (g : Nat) (a b c : FVal) : Nat × Nat :=
  let iv := if mulInvalid a b then fIV else 0
  if a.isNan || b.isNan || c.isNan then
    let r := f.nanResult [a, b, c]
    (r.1, r.2 ||| iv)
  else if iv != 0 then (f.defNan, fIV)
  else
    match a, b, c with
    | .num s1 m1 e1, .num s2 m2 e2, .num s3 m3 e3 =>
      let s := s1 != s2
      let z := if m1 * m2 == 0 && m3 == 0 && s == s3 then s else mode == 2
      f.finish mode sat g z (exAdd s (m1 * m2) (e1 + e2) s3 m3 e3)
    | .num _ _ _, .num _ _ _, .inf s3 => (f.infinite sat s3, 0)
    | a, b, .inf s3 => if (a.sgn != b.sgn) == s3 then (f.infinite sat s3, 0) else (f.defNan, fIV)
    | a, b, _ => (f.infinite sat (a.sgn != b.sgn), 0)

/-- a / b (R201, R213). -/
def FFmt.div (f : FFmt) (mode : Nat) (sat : Bool) (g : Nat) (a b : FVal) : Nat × Nat :=
  match a, b with
  | .num s1 m1 e1, .num s2 m2 e2 =>
    if m2 == 0 then (if m1 == 0 then (f.defNan, fIV) else (f.infinite sat (s1 != s2), fDZ))
    else f.finish mode sat g (s1 != s2) (exDiv (s1 != s2) m1 e1 m2 e2)
  | .inf _, .inf _ => (f.defNan, fIV)
  | .inf s1, .num s2 _ _ => (f.infinite sat (s1 != s2), 0)
  | .num s1 _ _, .inf s2 => (f.zero (s1 != s2), 0)
  | a, b => f.nanResult [a, b]

/-- The exact square root of m times 2^e to over 200 bits. -/
def exSqrt (m : Nat) (e : Int) : Ex :=
  let k : Nat := 420 + (if (e % 2) == 0 then 0 else 1)
  let n := m <<< k
  let r := isqrt n
  ⟨false, r, (e - k) / 2, r * r != n⟩

/-- sqrt(a) (R213). -/
def FFmt.sqrt (f : FFmt) (mode : Nat) (sat : Bool) (g : Nat) (a : FVal) : Nat × Nat :=
  match a with
  | .num s m e => if m == 0 then (f.zero s, 0) else if s then (f.defNan, fIV) else f.finish mode sat g false (exSqrt m e)
  | .inf s => if s then (f.defNan, fIV) else (f.infinite sat false, 0)
  | a => f.nanResult [a]

/-- 1/a (R213). -/
def FFmt.rcp (f : FFmt) (mode : Nat) (sat : Bool) (g : Nat) (a : FVal) : Nat × Nat :=
  match a with
  | .num s m e => if m == 0 then (f.infinite sat s, fDZ) else f.finish mode sat g s (exDiv s 1 0 m e)
  | .inf s => (f.zero s, 0)
  | a => f.nanResult [a]

/-- The exact 1/sqrt(m times 2^e) to over 200 bits. -/
def exRsq (m : Nat) (e : Int) : Ex :=
  let m := if (e % 2) == 0 then m else 2 * m
  let e := if (e % 2) == 0 then e else e - 1
  let k := 260 + bitLen m
  let n := 2 ^ (2 * k)
  let r := isqrt (n / m)
  ⟨false, r, -(e / 2) - k, r * r * m != n⟩

/-- 1/sqrt(a) (R213). -/
def FFmt.rsq (f : FFmt) (mode : Nat) (sat : Bool) (g : Nat) (a : FVal) : Nat × Nat :=
  match a with
  | .num s m e =>
    if m == 0 then (f.infinite sat s, fDZ) else if s then (f.defNan, fIV) else f.finish mode sat g false (exRsq m e)
  | .inf s => if s then (f.defNan, fIV) else (f.zero false, 0)
  | a => f.nanResult [a]

/-! ## Minimum, maximum and comparison (R202, R206) -/

/-- a < b for numbers and infinities, with -0 below +0 if `z`. -/
def FVal.lt (z : Bool) (a b : FVal) : Bool :=
  match a, b with
  | .nan _ _ _, _ => false
  | _, .nan _ _ _ => false
  | .inf s1, .inf s2 => s1 && !s2
  | .inf s1, .num _ _ _ => s1
  | .num _ _ _, .inf s2 => !s2
  | .num s1 m1 e1, .num s2 m2 e2 =>
    let e := min e1 e2
    let x := m1 <<< (e1 - e).toNat
    let y := m2 <<< (e2 - e).toNat
    if x == 0 && y == 0 then z && s1 && !s2
    else if s1 then (if s2 then decide (y < x) else true) else (if s2 then false else decide (x < y))

/-- FMIN or FMAX: the code of the result and the flags (R202). -/
def FFmt.minmax (f : FFmt) (max_ : Bool) (ca cb : Nat) (a b : FVal) : Nat × Nat :=
  if a.isNan && b.isNan then f.nanResult [a, b]
  else
    let iv := snanFlag [a, b]
    if a.isNan then (cb, iv) else if b.isNan then (ca, iv)
    else ((if max_ then (if a.lt true b then cb else ca) else (if b.lt true a then cb else ca)), 0)

/-- The compare codes of R206: the result, the unordered flag and the flags. -/
def fcompare (cmp : Nat) (a b : FVal) : Bool × Bool × Nat :=
  let uno := a.isNan || b.isNan
  let lt := a.lt false b
  let gt := b.lt false a
  let r := match cmp with
    | 0 => !uno && !lt && !gt
    | 1 => uno || lt || gt
    | 2 => lt
    | 3 => !uno && !gt
    | 4 => gt
    | 5 => !uno && !lt
    | 6 => !uno
    | _ => uno
  let iv := if (2 ≤ cmp && cmp ≤ 5 && uno) then fIV else snanFlag [a, b]
  (r, uno, iv)

/-! ## Value sets without subnormals (R182, R183, R216, R221) -/

/-- The q4 magnitudes in 32nds (R183). -/
def q4Mag : List Nat := [0, 3, 6, 9, 13, 17, 23, 32]

/-- The value of a q4 code. -/
def q4Val (c : Nat) : FVal := .num (decide (8 < c)) (q4Mag.getD (c % 8) 0) (-5)

/-- The value of a tn2 code (R182). -/
def tn2Val (c : Nat) : FVal := if c == 1 then .num false 1 0 else if c == 3 then .num true 1 0 else .num false 0 0

/-- A two's complement value of `n` bits. -/
def sext (v n : Nat) : Int := if v.testBit (n - 1) then (v % 2 ^ n : Int) - 2 ^ n else (v % 2 ^ n : Int)

/-- An integer as a value; zero is +0. -/
def intVal (v : Int) : FVal := .num (decide (v < 0)) v.natAbs 0

/-- The magnitude is larger than m times 2^e. -/
def Ex.gt (x : Ex) (m : Nat) (e : Int) : Bool :=
  let lo := min x.e e
  let a := x.m <<< (x.e - lo).toNat
  let b := m <<< (e - lo).toNat
  decide (b < a) || (a == b && x.st)

/-- Round into q4: the index of the lower neighbour is found in the table, and the mode chooses
(R188, R189). Codes 9 to 15 are the negatives; a zero result is +0. -/
def roundQ4 (mode g : Nat) (x : Ex) : Nat × Nat :=
  if x.gt 32 (-5) then ((if x.s then 15 else 7), fOF ||| fNX)
  else
    let i := ((upto 0 8).filter fun j => !(Ex.gt ⟨false, q4Mag.getD j 0, -5, false⟩ x.m x.e)).getLastD 0
    let lo := q4Mag.getD i 0
    let hi := q4Mag.getD (i + 1) 32
    let d := exAdd false x.m x.e true lo (-5)
    if d.m == 0 && !x.st then ((if x.s && i != 0 then i + 8 else i), 0)
    else
      let k := (min d.e (-5) : Int)
      let rem := d.m <<< (d.e - k).toNat
      let span := (hi - lo) <<< ((-5 : Int) - k).toNat
      let up := match mode with
        | 0 => if 2 * rem > span then true else if 2 * rem == span then x.st || i % 2 == 1 else false
        | 1 => false
        | 2 => x.s
        | 3 => !x.s
        | _ => decide (g < rem * 2 ^ 32 / span)
      let j := if up then i + 1 else i
      ((if x.s && j != 0 then j + 8 else j), fNX)

/-- Round into tn2 (R188, R189). -/
def roundTn2 (mode g : Nat) (x : Ex) : Nat × Nat :=
  if x.gt 1 0 then ((if x.s then 3 else 1), fOF ||| fNX)
  else
    let r := roundAt x 0 mode g
    ((if r.k == 0 then 0 else if x.s then 3 else 1), if r.inexact then fNX else 0)

/-- Round over the integers (R216): the integer and whether it is inexact. -/
def roundInt (mode g : Nat) (x : Ex) : Int × Bool :=
  let r := roundAt x 0 mode g
  let v : Int := r.k * 2 ^ r.q.toNat
  ((if x.s then -v else v), r.inexact)

/-- QENC's rounding into i4 (R189, R221). -/
def roundI4 (mode g : Nat) (x : Ex) : Nat × Nat :=
  if !x.s && x.gt 7 0 then (7, fOF ||| fNX)
  else if x.s && x.gt 8 0 then (8, fOF ||| fNX)
  else
    let r := roundInt mode g x
    ((r.1 % 16).toNat, if r.2 then fNX else 0)

/-! ## Values and conversion between formats (R194, R215, R216) -/

/-- Width in bits of a format's codes. -/
def tyBits (t : Nat) : Nat :=
  match t with
  | 0 | 1 | 8 | 10 => 32
  | 2 | 3 | 9 | 11 => 64
  | 4 | 5 | 12 | 13 => 16
  | 6 | 7 | 14 | 15 => 8
  | 16 | 17 => 6
  | 18 | 19 | 20 => 4
  | _ => 2

/-- The format is an integer format (R182). -/
def isIntTy (t : Nat) : Bool := decide (t ≤ 7) || t == 20

/-- The integer format is signed. -/
def tySigned (t : Nat) : Bool := t == 0 || t == 2 || t == 4 || t == 6 || t == 20

/-- An integer code read by its format. -/
def intOf (t v : Nat) : Int := if tySigned t then sext v (tyBits t) else (v % 2 ^ tyBits t : Int)

/-- The range of an integer format. -/
def tyMin (t : Nat) : Int := if tySigned t then -(2 ^ (tyBits t - 1) : Int) else 0
def tyMax (t : Nat) : Int := if tySigned t then 2 ^ (tyBits t - 1) - 1 else 2 ^ tyBits t - 1

/-- Sat(x, TYPE) over the integers (R126). -/
def satInt (t : Nat) (x : Int) : Int := max (tyMin t) (min (tyMax t) x)

/-- Value(A, ST) (R216). -/
def valueOf (t c : Nat) : FVal :=
  if isIntTy t then intVal (intOf t c)
  else if t == 19 then q4Val (c % 16)
  else if t == 21 then tn2Val (c % 4)
  else (ffmt t).decode (c % 2 ^ tyBits t)

/-- A value rounded into a non-integer format, NaN and infinity by R189, R193 and R194: the code and
the flags. -/
def convertTo (t mode : Nat) (sat : Bool) (g : Nat) (v : FVal) : Nat × Nat :=
  let f := ffmt t
  let iv := snanFlag [v]
  match v with
  | .nan s m mb =>
    if isFloatTy t && f.nan != 0 then (f.nanCode s m mb, iv) else (0, fIV)
  | .inf s =>
    if t == 19 then ((if s then 15 else 7), fIV)
    else if t == 21 then ((if s then 3 else 1), fIV)
    else if f.inf then (f.infinite sat s, 0)
    else (f.overflow s mode sat, fIV)
  | .num s m e =>
    let x : Ex := ⟨s, m, e, false⟩
    if m == 0 then ((if isFloatTy t then f.zero s else 0), 0)
    else if t == 19 then roundQ4 mode g x
    else if t == 21 then roundTn2 mode g x
    else f.round mode sat g x

/-- A code placed in the low bits of its destination words (R184): a signed integer fills the upper
bits with its sign. -/
def placeCode (t c : Nat) : Nat :=
  if isIntTy t && tySigned t && tyBits t < 32 then (sext c (tyBits t) % 2 ^ 32).toNat else c

/-- CVT of one code (R216). -/
def cvtCode (dt st mode : Nat) (sat : Bool) (g c : Nat) : Nat × Nat :=
  let v := valueOf st c
  if isIntTy dt then
    if isIntTy st then
      let x := intOf st c
      let r := if sat then satInt dt x else x
      (placeCode dt (r % 2 ^ tyBits dt).toNat, 0)
    else
      match v with
      | .nan _ _ _ => (0, fIV)
      | .inf s => (placeCode dt ((if s then tyMin dt else tyMax dt) % 2 ^ tyBits dt).toNat, fIV)
      | .num s m e =>
        let r := roundInt mode g ⟨s, m, e, false⟩
        if r.1 < tyMin dt || tyMax dt < r.1 then (placeCode dt (satInt dt r.1 % 2 ^ tyBits dt).toNat, fIV)
        else (placeCode dt (r.1 % 2 ^ tyBits dt).toNat, if r.2 then fNX else 0)
  else
    let r := convertTo dt mode sat g v
    (placeCode dt r.1, r.2)

/-! ## Block scales (R185, R221, R222) -/

/-- The value of a scale byte other than 0xFF: magnitude and exponent. -/
def scaleVal (c : Nat) : Nat × Int :=
  let e := c / 8
  let m := c % 8
  if e == 0 then (m, -17) else (8 + m, (e : Int) - 15 - 3)

/-- The largest finite magnitude M of a block-scaled format (R189). -/
def blockMax (t : Nat) : Nat × Int :=
  match t with
  | 19 | 21 => (1, 0)
  | 20 => (7, 0)
  | _ => match (ffmt t).decode ((ffmt t).maxCode false) with
    | .num _ m e => (m, e)
    | _ => (0, 0)

/-- The least scale code other than 0xFF whose value times M reaches a magnitude, or 0xFE (R221). -/
def leastScale (t m : Nat) (e : Int) : Nat :=
  let mx := blockMax t
  ((upto 0 255).find? fun c =>
    let s := scaleVal c
    !(Ex.gt ⟨false, m, e, false⟩ (s.1 * mx.1) (s.2 + mx.2))).getD 0xFE

/-- Round a quotient into an element of a block (R221). -/
def roundElem (t mode g : Nat) (x : Ex) : Nat × Nat :=
  if x.m == 0 && !x.st then (0, 0)
  else if t == 19 then roundQ4 mode g x
  else if t == 21 then roundTn2 mode g x
  else if t == 20 then roundI4 mode g x
  else (ffmt t).round mode false g x

end Sys2Proof.Machine
end

