-- ==== Sys2Proof/Machine/AtomicNum.lean ====
section
/-! DEFINITION. What an atomic computes from the old value and its operands (R264, R267 to R271). -/

namespace Sys2Proof.Machine

/-- Bytes of an operand type of class 7 (R264). -/
def atomBytes (sz : Nat) : Nat :=
  match sz with
  | 0 | 1 | 4 => 4
  | 6 => 16
  | _ => 8

/-- The lesser, or greater, of two values by the type's signedness (R268). -/
def atomPick (sz old v : Nat) (great : Bool) : Nat :=
  let n := 8 * atomBytes sz
  let le := if sz == 0 || sz == 2 then decide (sext old n ≤ sext v n) else decide (old ≤ v)
  if le != great then old else v

/-- The float format of an atomic's type. -/
def atomFmt (sz : Nat) : FFmt := ffmt (if sz == 5 then 11 else 10)

/-- FMIN or FMAX into memory: a NaN that is stored is quiet (R270). -/
def atomFloatPick (sz old v : Nat) (great : Bool) : Nat :=
  let f := atomFmt sz
  (f.minmax great old v (f.decode old) (f.decode v)).1

/-- `Op(old, d, vD, SZ)` of R267: the new value, whether it is written, and the failure flag. `d` is the
data operand, `e` the expected value or bound that D holds. -/
def atomApply (op : AOp) (sz old d e : Nat) : Nat × Bool × Bool :=
  let m := 2 ^ (8 * atomBytes sz)
  match op with
  | .add => ((old + d) % m, true, false)
  | .and => (old &&& d, true, false)
  | .or => (old ||| d, true, false)
  | .xor => (old ^^^ d, true, false)
  | .min => (atomPick sz old d false, true, false)
  | .max => (atomPick sz old d true, true, false)
  | .xchg => (d % m, true, false)
  | .incw => (if old ≥ d then 0 else old + 1, true, false)
  | .addb => if old + d > e then (old, false, true) else (old + d, true, false)
  | .fadd => (((atomFmt sz).add 0 false 0 ((atomFmt sz).decode old) ((atomFmt sz).decode d)).1, true, false)
  | .fmin => (atomFloatPick sz old d false, true, false)
  | .fmax => (atomFloatPick sz old d true, true, false)
  | .cas | .cas2 => if old = e then (d % m, true, false) else (old, false, true)

end Sys2Proof.Machine
end

