-- ==== Sys2Proof/Machine/LaunchRec.lean ====
section
/-! DEFINITION. The launch record's fields (R378, R379), the partition word (R147), granules (R21, R75), and the
checks that refuse a record (R380). -/

namespace Sys2Proof.Machine

/-! ## Fields (R378, R379) -/

/-- Bits [hi:lo] of the 8-byte word at an offset of a record of 256 bytes. -/
def rec8 (r off hi lo : Nat) : Nat := bits r (8 * off + hi) (8 * off + lo)

def recPrio (r : Nat) : Nat := rec8 r 0 63 61
def recEn (r : Nat) : Nat := rec8 r 0 60 56
def recKpc (r : Nat) : Nat := rec8 r 0 55 0
def recCred (r : Nat) : Nat := rec8 r 8 59 56
def recDom (r : Nat) : Nat := rec8 r 8 55 48
def recCl4 (r : Nat) : Bool := rec8 r 8 46 46 == 1
def recPart (r : Nat) : Nat := rec8 r 8 39 0
def recSeed (r : Nat) : Nat := rec8 r 16 63 0
def recRg (r : Nat) : Nat := rec8 r 24 60 56
/-- Waves of a block. -/
def recNw (r : Nat) : Nat := rec8 r 24 54 50 + 1
/-- Width of its waves. -/
def recWidth (r : Nat) : Nat := 8 * 2 ^ rec8 r 24 49 48
def recNbz (r : Nat) : Nat := rec8 r 24 47 32
def recNby (r : Nat) : Nat := rec8 r 24 31 16
def recNbx (r : Nat) : Nat := rec8 r 24 15 0
def recNrg (r : Nat) : Nat := rec8 r 32 38 35
def recNr (r : Nat) : Nat := rec8 r 32 34 30
def recNt (r : Nat) : Nat := rec8 r 32 29 25
/-- The shares of a block: SPR, ACC and SCR with bits [31:25] above them (R378, R396). -/
def recShares (r : Nat) : Nat := rec8 r 32 24 0
def recTeam (r t : Nat) : Nat := bits r (8 * (0x28 + 4 * t) + 31) (8 * (0x28 + 4 * t))
def recLast (r e : Nat) : Nat := bits r (8 * (0x68 + 4 * e) + 31) (8 * (0x68 + 4 * e))
def recDie (r e : Nat) : Nat := bits r (8 * 0xA8 + 2 * e + 1) (8 * 0xA8 + 2 * e)
def recRegion (r g : Nat) : Nat := bits r (8 * (0xB0 + 10 * g) + 79) (8 * (0xB0 + 10 * g))

/-- Blocks of the grid. -/
def recBlocks (r : Nat) : Nat := recNbx r * recNby r * recNbz r

/-- The ranges as first block, block after the last, die. -/
def recRanges (r : Nat) : List (Nat × Nat × Nat) :=
  (upto 0 (recNr r)).map fun e => (if e == 0 then 0 else recLast r (e - 1) + 1, recLast r e + 1, recDie r e)

/-- A region as its first and last line and whether it may be written (R379). -/
def regionLines (g : Nat) : Nat × Nat × Bool := (bits g 47 0, bits g 47 0 + bits g 78 48, g.testBit 79)

/-- Two launches of one context conflict (R382). -/
def recConflict (a b : Nat) : Bool :=
  recDom a == recDom b
    && (recNrg a == 0 || recNrg b == 0
        || (upto 0 (recNrg a)).any fun i => (upto 0 (recNrg b)).any fun j =>
             let x := regionLines (recRegion a i)
             let y := regionLines (recRegion b j)
             (x.2.2 || y.2.2) && decide (x.1 ≤ y.2.1) && decide (y.1 ≤ x.2.1))

/-! ## Shares in granules of 16 KiB (R21, R75, R147) -/

/-- SPR, ACC and SCR of a share word, in sprout threads, tiles and bytes. -/
def shSpr (x : Nat) : Nat := 64 * bits x 24 20
def shAcc (x : Nat) : Nat := bits x 19 14
def shScr (x : Nat) : Nat := 256 * bits x 13 0

/-- Granules of a number of bytes. -/
def granules (n : Nat) : Nat := (n + 16383) / 16384

/-- Granules that a scratchpad, and sprout frames, need. -/
def scrGran (scr : Nat) : Nat := granules scr
def sprGran (spr : Nat) : Nat := granules (128 * spr)

/-- Register-file bytes of a block of a record (R386). -/
def recRf (r : Nat) : Nat := recNw r * recWidth r * recRg r * 32

/-- The partition word's parts. -/
def partL1 (p : Nat) : Nat := bits p 39 32
def partSpr (p : Nat) : Nat := bits p 31 24
def partAcc (p : Nat) : Nat := bits p 23 16
def partScr (p : Nat) : Nat := bits p 15 8
def partRf (p : Nat) : Nat := bits p 7 0

/-- The partition word is refused (R147). -/
def partBad (r : Nat) : Bool :=
  let p := recPart r
  let x := recShares r
  partL1 p + partSpr p + partAcc p + partScr p + partRf p != 192 || partL1 p == 0 || decide (partAcc p > 32)
    || decide (granules (recRf r) > partRf p) || decide (scrGran (shScr x) > partScr p) || decide (shAcc x > partAcc p)
    || decide (sprGran (shSpr x) > partSpr p)

/-! ## Refusals (R380) -/

/-- A reserved field of a record is not 0, or KPC is not a multiple of 8. -/
def recReserved (r : Nat) : Bool :=
  recKpc r % 8 != 0 || rec8 r 8 63 60 != 0 || rec8 r 8 47 47 != 0 || rec8 r 8 45 40 != 0 || rec8 r 24 63 61 != 0
    || rec8 r 24 55 55 != 0 || rec8 r 32 63 39 != 0 || bits r (8 * 0xAC + 31) (8 * 0xAC) != 0

/-- LAST does not strictly ascend to the last block. -/
def recRangesBad (r : Nat) : Bool :=
  recNr r == 0 || (upto 0 (recNr r - 1)).any (fun e => decide (recLast r e ≥ recLast r (e + 1)))
    || recLast r (recNr r - 1) + 1 != recBlocks r

/-- An entry at or above its count is not 0. -/
def recExtra (r : Nat) : Bool :=
  (upto 0 16).any (fun e => decide (recNr r ≤ e) && (recLast r e != 0 || recDie r e != 0))
    || (upto 0 16).any (fun t => decide (recNt r ≤ t) && recTeam r t != 0)
    || (upto 0 8).any fun g => decide (recNrg r ≤ g) && recRegion r g != 0

/-- A wave is named by more than 4 templates. -/
def recTeams5 (r : Nat) : Bool :=
  (upto 0 (recNw r)).any fun w => decide (((upto 0 (recNt r)).filter fun t => (recTeam r t).testBit w).length > 4)

/-- The detail code of a record's refusal, if it is refused; `high` for a handler context (R380, R417). -/
def recRefusal (r : Nat) (high : Bool) : Option Nat :=
  let cases : List Bool := [
    recReserved r,
    decide (recNw r * recWidth r > 2048),
    recRg r == 0 || decide (recRg r > 30) || decide (shAcc (recShares r) > 32) || decide (bits (recShares r) 24 20 > 16)
      || decide (recNr r > 16) || decide (recNt r > 16) || decide (recNrg r > 8),
    decide (recBlocks r > 2 ^ 32),
    recRangesBad r,
    recExtra r,
    recCl4 r && (upto 0 (recNr r - 1)).any fun e => (recLast r e + 1) % 4 != 0,
    (upto 0 (recNt r)).any fun t => decide (recTeam r t ≥ 2 ^ recNw r),
    recTeams5 r,
    partBad r,
    high && (recNw r != 1 || recCl4 r),
    !high && recCl4 r && recNw r == 32]
  (cases.findIdx? id).map (· + 1)

end Sys2Proof.Machine
end

