-- ==== Sys2Proof/Machine/Encoding.lean ====
section
/-! DEFINITION. Which encodings are legal (R39 to R57 and the entries): the registers that a word's
fields name, written once per instruction shape, and the rules for its other fields. The lists of
register uses serve the legality check, the BOUNDS and LATCH checks of R65 and the scoreboard. -/

namespace Sys2Proof.Machine

/-! ## Uses of registers -/

/-- One use of a register by a word, as its fields name it. -/
inductive Use where
  /-- A source field of `n` 32-bit words (R50, R51); `u` is its U bit. -/
  | src (f : BitVec 8) (u : Bool) (n : Nat)
  /-- A v destination of `n` words (R52); `w` is W: not written. -/
  | dst (f : BitVec 8) (w : Bool) (n : Nat)
  /-- `n` uniform registers read, or written, from an exact number. -/
  | sread (r n : Nat)
  | swrite (r n : Nat)
  /-- A range of v registers read or written outside the source and destination fields. -/
  | vread (r n : Nat)
  | vwrite (r n : Nat)
  /-- A range of v registers, written if `out`, that any number may name: registers that do not exist are
  BOUNDS (R452). -/
  | vspan (r n : Nat) (out : Bool)
  /-- A predicate read; a predicate written. -/
  | pread (p : Nat)
  | pwrite (p : Nat)
  /-- A predicate pair as destination field (R52); `old` if the second is read too (R91). -/
  | ppair (f : BitVec 8) (old : Bool)
  /-- A mask register field, which must be 0 to 11. -/
  | mask (f : BitVec 8)
  /-- A field that must be 0. -/
  | zero (f : BitVec 8)
  /-- A U bit or W bit that must be 0. -/
  | off (b : Bool)
  /-- A condition on the other fields. -/
  | cond (b : Bool)
  deriving DecidableEq, Repr

/-- A source field's value is legal (R50, R51); `imx` tells whether an IMX word stands before. -/
def srcOk (f : BitVec 8) (u : Bool) (n : Nat) (imx : Bool) : Bool :=
  let v := f.toNat
  if u then decide (v < 64) && (n == 1 || v % n == 0)
  else if n == 1 then decide (v ≤ 245) || (v == 255 && imx)
  else if n == 2 then (decide (v < 240) && v % 2 == 0) || v == 244 || (v == 255 && imx)
  else (decide (v + n ≤ 240) && v % n == 0) || v == 244

/-- A v destination field's value is legal (R52). -/
def dstOk (f : BitVec 8) (n : Nat) : Bool := decide (f.toNat + n ≤ 240) && f.toNat % n == 0

/-- A use is legal as encoded. -/
def Use.legal (imx : Bool) : Use → Bool
  | .src f u n => srcOk f u n imx
  | .dst f _ n => dstOk f n
  | .sread r n => decide (r + n ≤ 64) && r % n == 0
  | .swrite r n => decide (r + n ≤ 64) && r % n == 0
  | .vread r n => decide (r + n ≤ 240)
  | .vwrite r n => decide (r + n ≤ 240)
  | .ppair f _ => decide (f.toNat < 64)
  | .mask f => decide (f.toNat < 12)
  | .zero f => f == 0
  | .off b => !b
  | .cond b => b
  | .pread _ | .pwrite _ | .vspan _ _ _ => true

/-- A source field takes the IMX value (R54). -/
def Use.takesImx : Use → Bool
  | .src f u _ => !u && f == 255
  | _ => false

/-- v registers that a use reads. -/
def Use.vreads : Use → List Nat
  | .src f u n => if !u && f.toNat < 240 then (List.range n).map (f.toNat + ·) else []
  | .vread r n => (List.range n).map (r + ·)
  | .vspan r n out => if out then [] else (List.range n).map (r + ·)
  | _ => []

/-- v registers that a use writes. -/
def Use.vwrites : Use → List Nat
  | .dst f w n => if w then [] else (List.range n).map (f.toNat + ·)
  | .vwrite r n => (List.range n).map (r + ·)
  | .vspan r n out => if out then (List.range n).map (r + ·) else []
  | _ => []

/-- v registers that a use names, written or not (R53). -/
def Use.vnames : Use → List Nat
  | .dst f _ n => (List.range n).map (f.toNat + ·)
  | u => u.vreads ++ u.vwrites

/-- Uniform registers that a use reads. -/
def Use.sreads : Use → List Nat
  | .src f u n => if u then (List.range n).map (f.toNat + ·) else []
  | .sread r n => (List.range n).map (r + ·)
  | _ => []

/-- Uniform registers that a use writes. -/
def Use.swrites : Use → List Nat
  | .swrite r n => (List.range n).map (r + ·)
  | _ => []

/-- Predicates that a use writes. -/
def Use.pwrites : Use → List Nat
  | .pwrite p => [p]
  | .ppair f _ => [f.toNat % 8, f.toNat / 8]
  | _ => []

/-- Yard latches that a use reads (R50). -/
def Use.latches : Use → List Nat
  | .src f u _ => if !u && 240 ≤ f.toNat && f.toNat ≤ 243 then [f.toNat - 240] else []
  | _ => []

/-- Predicates that a use reads. -/
def Use.preads : Use → List Nat
  | .pread p => [p]
  | .ppair f old => if old then [f.toNat / 8] else []
  | _ => []

/-! ## Format codes (R44) -/

/-- TYPE of a format-F modifier field. -/
def tyOf (m : BitVec 12) : Nat := (m.extractLsb' 7 5).toNat
/-- RND. -/
def rndOf (m : BitVec 12) : Nat := (m.extractLsb' 4 3).toNat
/-- SAT, NA, NB, NC. -/
def satOf (m : BitVec 12) : Bool := m.getLsbD 3
def naOf (m : BitVec 12) : Bool := m.getLsbD 2
def nbOf (m : BitVec 12) : Bool := m.getLsbD 1
def ncOf (m : BitVec 12) : Bool := m.getLsbD 0

/-- Width in words of an integer or bits TYPE code (R124). -/
def tyWords (t : Nat) : Nat := if t == 2 || t == 3 || t == 9 || t == 11 then 2 else 1

/-- TYPE of an integer code (R124). -/
def intTy (t : Nat) : Bool := decide (t ≤ 3)
/-- TYPE of the bits groups (R124). -/
def bitsTy (t : Nat) : Bool := decide (t ≤ 3) || t == 8 || t == 9

/-! ## Classes 1 and 2 (R123 to R143) -/

/-- Default layout with RND and negates 0 (R124). -/
def modPlain (m : BitVec 12) (types : Nat → Bool) (sat : Bool) : List Use :=
  [.cond (types (tyOf m)), .cond (rndOf m == 0), .cond (!naOf m && !nbOf m && !ncOf m),
   .cond (sat || !satOf m)]

/-- D, A and B of width n; C unused. -/
def usesDAB (f : FmtF) (n : Nat) : List Use :=
  [.dst f.d f.w n, .src f.a f.ua n, .src f.b f.ub n, .zero f.c, .off f.uc]

/-- D and A of given widths; B and C unused. -/
def usesDA (f : FmtF) (nd na : Nat) : List Use :=
  [.dst f.d f.w nd, .src f.a f.ua na, .zero f.b, .zero f.c, .off f.ub, .off f.uc]

/-- D, A and B of the TYPE's width, in the default layout. -/
def usesInt (f : FmtF) (types : Nat → Bool) (sat : Bool) : List Use :=
  usesDAB f (tyWords (tyOf f.mod)) ++ modPlain f.mod types sat

/-- D and A of the TYPE's width. -/
def usesInt1 (f : FmtF) (types : Nat → Bool) (sat : Bool) : List Use :=
  usesDA f (tyWords (tyOf f.mod)) (tyWords (tyOf f.mod)) ++ modPlain f.mod types sat

/-- MOVS: D names uniform registers (R130). -/
def usesMovs (f : FmtF) : List Use :=
  let n := tyWords (tyOf f.mod)
  [.swrite f.d.toNat n, .off f.w, .src f.a f.ua n, .zero f.b, .zero f.c, .off f.ub, .off f.uc]
    ++ modPlain f.mod bitsTy false

/-- MOVI (R129). -/
def usesMovi (f : FmtI) : List Use :=
  let kind := (f.mod.extractLsb' 0 2).toNat
  [.dst f.d f.w (if kind == 2 then 2 else 1), .zero f.a, .off f.ua, .cond (f.mod.extractLsb' 2 4 == 0),
   .cond (kind != 3)]

/-- IADDI (R131). -/
def usesIaddi (f : FmtI) : List Use :=
  let n := if (f.mod.extractLsb' 4 2).toNat ≥ 2 then 2 else 1
  [.dst f.d f.w n, .src f.a f.ua n, .cond (f.mod.extractLsb' 0 3 == 0)]

/-- IADDC and ISUBB: C is the carry field (R133). -/
def usesCarry (f : FmtF) : List Use :=
  let n := tyWords (tyOf f.mod)
  [.dst f.d f.w n, .src f.a f.ua n, .src f.b f.ub n, .off f.uc, .cond (!f.c.getLsbD 7),
   .pread (f.c.extractLsb' 0 3).toNat, .pwrite (f.c.extractLsb' 4 3).toNat] ++ modPlain f.mod bitsTy false

/-- PM of a compare that reads its second predicate (R91). -/
def pmReads (pm : BitVec 2) : Bool := pm.toNat ≥ 2

/-- ICMP (R134). -/
def usesIcmp (f : FmtF) : List Use :=
  let n := tyWords (tyOf f.mod)
  [.ppair f.d (pmReads (f.mod.extractLsb' 2 2)), .off f.w, .src f.a f.ua n, .src f.b f.ub n, .zero f.c, .off f.uc,
   .cond (intTy (tyOf f.mod)), .cond (rndOf f.mod != 7), .cond (f.mod.extractLsb' 0 2 == 0)]

/-- ICMPI (R134). -/
def usesIcmpi (f : FmtI) : List Use :=
  [.ppair f.d (pmReads (f.mod.extractLsb' 0 2)), .off f.w, .src f.a f.ua 1, .cond (f.mod.extractLsb' 2 3 != 7)]

/-- ISEL: C names the select predicate (R135). -/
def usesIsel (f : FmtF) : List Use :=
  let n := tyWords (tyOf f.mod)
  [.dst f.d f.w n, .src f.a f.ua n, .src f.b f.ub n, .off f.uc, .cond (f.c.extractLsb' 4 4 == 0),
   .pread (f.c.extractLsb' 0 3).toNat] ++ modPlain f.mod bitsTy false

/-- LEA (R136). -/
def usesLea (f : FmtF) : List Use :=
  let ix := (f.mod.extractLsb' 10 2).toNat
  let n32 := f.mod.getLsbD 6
  let n := if n32 then 1 else 2
  [.dst f.d f.w n, .src f.a f.ua n, .src f.b f.ub (if ix == 2 then 2 else 1), .src f.c f.uc 1,
   .cond (ix != 3), .cond (!n32 || ix == 0), .cond (f.mod.extractLsb' 0 6 == 0)]

/-- ANDI, ORI and XORI (R137). -/
def usesLogicI (f : FmtI) : List Use :=
  let n := if f.mod.getLsbD 5 then 2 else 1
  [.dst f.d f.w n, .src f.a f.ua n, .cond (f.mod.extractLsb' 0 4 == 0)]

/-- Shifts (R138). -/
def usesShift (f : FmtF) : List Use :=
  let n := tyWords (tyOf f.mod)
  let im := f.mod.getLsbD 6
  let k := (f.mod.extractLsb' 0 6).toNat
  [.dst f.d f.w n, .src f.a f.ua n, .zero f.c, .off f.uc, .cond (bitsTy (tyOf f.mod))]
    ++ (if im then [.zero f.b, .off f.ub, .cond (decide (k < 32 * n))] else [.src f.b f.ub 1, .cond (k == 0)])

/-- Immediate position and length of R139 fit the width. -/
def fieldFits (f : FmtF) (n : Nat) : Bool :=
  decide (f.c.toNat + (f.mod.extractLsb' 0 6).toNat + 1 ≤ 32 * n)

/-- BFE (R139). -/
def usesBfe (f : FmtF) : List Use :=
  let n := tyWords (tyOf f.mod)
  [.dst f.d f.w n, .src f.a f.ua n, .cond (intTy (tyOf f.mod)), .off f.uc]
    ++ (if f.mod.getLsbD 6 then [.zero f.b, .off f.ub, .cond (fieldFits f n)]
        else [.src f.b f.ub 1, .zero f.c, .cond (f.mod.extractLsb' 0 6 == 0)])

/-- BFI (R139). -/
def usesBfi (f : FmtF) : List Use :=
  let n := tyWords (tyOf f.mod)
  [.dst f.d f.w n, .src f.a f.ua n, .src f.b f.ub n, .cond (bitsTy (tyOf f.mod))]
    ++ (if f.mod.getLsbD 6 then [.off f.uc, .cond (fieldFits f n)]
        else [.src f.c f.uc 1, .cond (f.mod.extractLsb' 0 6 == 0)])

/-- POPC and CLZ: D is one register (R140). -/
def usesCount (f : FmtF) : List Use :=
  usesDA f 1 (tyWords (tyOf f.mod)) ++ modPlain f.mod bitsTy false

/-- IMAD (R141). -/
def usesImad (f : FmtF) : List Use :=
  let n := tyWords (tyOf f.mod)
  [.dst f.d f.w n, .src f.a f.ua n, .src f.b f.ub n, .src f.c f.uc n] ++ modPlain f.mod intTy true

/-- IMADW (R141). -/
def usesImadw (f : FmtF) : List Use :=
  [.dst f.d f.w 2, .src f.a f.ua 1, .src f.b f.ub 1, .src f.c f.uc 2]
    ++ modPlain f.mod (fun t => decide (t ≤ 1)) false

/-- IDIV and IREM: C names the exception predicate (R142). -/
def usesDiv (f : FmtF) : List Use :=
  let n := tyWords (tyOf f.mod)
  [.dst f.d f.w n, .src f.a f.ua n, .src f.b f.ub n, .off f.uc, .cond (f.c.extractLsb' 3 5 == 0),
   .pwrite (f.c.extractLsb' 0 3).toNat] ++ modPlain f.mod intTy false

/-! ## Class 0 (R99 to R110) -/

/-- A format-S word all of whose field bits are 0. -/
def usesNone (f : FmtS) : List Use := [.cond (f.body == 0)]

/-- An even v register, as a branch names it (R100). -/
def usesPairV (f : BitVec 8) : List Use := [.vread f.toNat 2, .cond (f.toNat % 2 == 0), .cond (decide (f.toNat ≤ 238))]

/-- The link of CALL and CALLX (R47, R100). -/
def usesLink (f : BitVec 8) : List Use := [.vwrite f.toNat 2, .cond (f.toNat % 2 == 0), .cond (decide (f.toNat ≤ 238))]

/-- BRA (R100). -/
def usesBra (f : FmtJ) : List Use := [.cond (f.ld == 244), .zero f.a]
/-- BRX (R100). -/
def usesBrx (f : FmtJ) : List Use := .cond (f.ld == 244) :: usesPairV f.a
/-- CALL (R100). -/
def usesCall (f : FmtJ) : List Use := .zero f.a :: usesLink f.ld
/-- CALLX (R100). -/
def usesCallx (f : FmtJ) : List Use := usesPairV f.a ++ usesLink f.ld
/-- RET (R100). -/
def usesRet (f : FmtJ) : List Use := .cond (f.ld == 244) :: .cond (f.rel == 0) :: usesPairV f.a

/-- SLEEP: A is a v or s register or 244 (R105). -/
def usesSleep (f : FmtI) : List Use :=
  [.zero f.d, .off f.w, .cond (f.mod == 0), .src f.a f.ua 1,
   .cond (f.ua || decide (f.a.toNat < 240) || f.a == 244)]

/-- BRK and TRAP: a code in [15:0] (R106, R448). -/
def usesCode (f : FmtS) : List Use := [.cond (f.body.extractLsb' 16 32 == 0)]

/-- JOIN, LEAVE and WAITM: K in [47:44] (R109). -/
def usesMaskK (f : FmtS) : List Use :=
  [.mask ((f.body.extractLsb' 44 4).zeroExtend 8), .cond (f.body.extractLsb' 0 44 == 0)]

/-- MSET with its SRC (R110). -/
def usesMset (f : FmtI) (src : Nat) : List Use :=
  [.mask f.d, .off f.w, .cond (f.mod.toNat == src)]
    ++ (if src == 4 then [.cond f.ua, .src f.a true 2] else [.zero f.a, .off f.ua])
    ++ (if src == 3 then [] else [.cond (f.imm == 0)])

/-! ## Class 5 (R112 to R121) -/

/-- OP and X of a class 5 modifier field (R112). -/
def op5 (m : BitVec 12) : Nat := (m.extractLsb' 4 3).toNat
def x5 (m : BitVec 12) : Bool := m.getLsbD 3

/-- The participant selector (R112). -/
def selOk (c : BitVec 8) : Bool := decide (c.toNat < 12) || c == 15

/-- Rules common to the exchange instructions. -/
def usesExch (f : FmtF) : List Use :=
  [.cond (selOk f.c), .off f.uc, .cond (f.mod.extractLsb' 0 3 == 0)]

/-- TYPE 8 or 9. -/
def b3264 (t : Nat) : Bool := t == 8 || t == 9

/-- BALLOT (R114). -/
def usesBallot (f : FmtF) : List Use :=
  (if x5 f.mod then [.mask f.d, .off f.w] else [.dst f.d f.w 2])
    ++ [.pread (f.a.extractLsb' 0 3).toNat, .cond (f.a.extractLsb' 4 4 == 0), .off f.ua, .zero f.b, .off f.ub,
        .cond (tyOf f.mod == 0), .cond (op5 f.mod == 0)] ++ usesExch f

/-- VOTE (R114). -/
def usesVote (f : FmtF) : List Use :=
  [.ppair f.d false, .off f.w, .pread (f.a.extractLsb' 0 3).toNat, .cond (f.a.extractLsb' 4 4 == 0), .off f.ua,
   .zero f.b, .off f.ub, .cond (tyOf f.mod == 0), .cond (decide (op5 f.mod ≤ 2)), .off (x5 f.mod)] ++ usesExch f

/-- SHFL (R114). -/
def usesShfl (f : FmtF) : List Use :=
  let n := tyWords (tyOf f.mod)
  [.dst f.d f.w n, .src f.a f.ua n, .src f.b f.ub 1, .cond (b3264 (tyOf f.mod)), .cond (decide (op5 f.mod ≤ 3)),
   .off (x5 f.mod)] ++ usesExch f

/-- BCAST (R114). -/
def usesBcast (f : FmtF) : List Use :=
  let n := tyWords (tyOf f.mod)
  (if x5 f.mod then [.swrite f.d.toNat n, .off f.w] else [.dst f.d f.w n])
    ++ [.src f.a f.ua n, .src f.b f.ub 1, .cond (f.ub || f.b == 244 || f.b == 255), .cond (b3264 (tyOf f.mod)),
        .cond (op5 f.mod == 0)] ++ usesExch f

/-- The types of R118 for an operation. -/
def foldTy (op t : Nat) : Bool :=
  if op ≤ 2 then decide (t ≤ 3) || t == 10 || t == 11 else decide (op ≤ 5) && b3264 t

/-- RDX and SCAN (R114, R118). -/
def usesFold (f : FmtF) (scan : Bool) : List Use :=
  let n := tyWords (tyOf f.mod)
  [.dst f.d f.w n, .src f.a f.ua n, .zero f.b, .off f.ub, .cond (foldTy (op5 f.mod) (tyOf f.mod)),
   .cond (scan || !x5 f.mod)] ++ usesExch f

/-- MATCH (R114). -/
def usesMatch (f : FmtF) : List Use :=
  [.dst f.d f.w 2, .src f.a f.ua (tyWords (tyOf f.mod)), .zero f.b, .off f.ub, .cond (b3264 (tyOf f.mod)),
   .cond (op5 f.mod == 0), .off (x5 f.mod)] ++ usesExch f

/-- Rules common to the mask operations (R121). -/
def usesMaskOp (f : FmtF) : List Use :=
  [.zero f.c, .off f.uc, .cond (tyOf f.mod == 0), .cond (f.mod.extractLsb' 0 4 == 0)]

/-- MMOV (R121). -/
def usesMmov (f : FmtF) : List Use :=
  (match op5 f.mod with
   | 0 => [.mask f.d, .off f.w, .mask f.a, .off f.ua]
   | 1 => [.mask f.d, .off f.w, .cond f.ua, .src f.a true 2]
   | 2 => [.dst f.d f.w 2, .mask f.a, .off f.ua]
   | 3 => [.swrite f.d.toNat 2, .off f.w, .mask f.a, .off f.ua]
   | _ => [.cond false]) ++ [.zero f.b, .off f.ub] ++ usesMaskOp f

/-- MAND, MOR, MXOR and MANDN (R121). -/
def usesMlogic (f : FmtF) : List Use :=
  [.mask f.d, .off f.w, .mask f.a, .off f.ua, .mask f.b, .off f.ub, .cond (op5 f.mod == 0)] ++ usesMaskOp f

/-- MPOPC (R121). -/
def usesMpopc (f : FmtF) : List Use :=
  [.dst f.d f.w 1, .mask f.a, .off f.ua, .zero f.b, .off f.ub, .cond (decide (op5 f.mod ≤ 1))] ++ usesMaskOp f

/-! ## Class 3 (R199 to R211) -/

/-- Modifiers of class 3 that are permitted (R200): RND, SAT, and how many of NA, NB, NC. -/
def modFp (m : BitVec 12) (rnd sat : Bool) (negs : Nat) : List Use :=
  [.cond (if rnd then decide (rndOf m ≤ 4) else rndOf m == 0), .cond (sat || !satOf m),
   .cond (negs ≥ 1 || !naOf m), .cond (negs ≥ 2 || !nbOf m), .cond (negs ≥ 3 || !ncOf m)]

/-- D and one, two or three sources of `n` words (R199, R200). -/
def usesFp (f : FmtF) (types : List Nat) (nsrc n : Nat) (rnd sat : Bool) (negs : Nat) : List Use :=
  [.dst f.d f.w n, .src f.a f.ua n]
    ++ (if nsrc ≥ 2 then [.src f.b f.ub n] else [.zero f.b, .off f.ub])
    ++ (if nsrc ≥ 3 then [.src f.c f.uc n] else [.zero f.c, .off f.uc])
    ++ [.cond (types.contains (tyOf f.mod))] ++ modFp f.mod rnd sat negs

/-- FADD, FSUB, FMUL (two sources) and FFMA (three); TYPE 9 is the pair form (R205). -/
def usesFarith (f : FmtF) (nsrc : Nat) : List Use :=
  usesFp f [0, 10, 9] nsrc (if tyOf f.mod == 9 then 2 else 1) true true nsrc

/-- One f32 source with RND and SAT (R200). -/
def usesFunary (f : FmtF) : List Use := usesFp f [0, 10] 1 1 true true 1

/-- Packed halves (R204). -/
def usesHalf (f : FmtF) (nsrc : Nat) (rnd : Bool) : List Use := usesFp f [0, 12, 13] nsrc 1 rnd rnd nsrc

/-- DADD, DMUL and DFMA. -/
def usesDouble (f : FmtF) (nsrc : Nat) : List Use := usesFp f [0, 11] nsrc 2 true true nsrc

/-- FCMP and DCMP (R206). -/
def usesFcmp (f : FmtF) (types : List Nat) (n : Nat) : List Use :=
  [.ppair f.d (pmReads (f.mod.extractLsb' 2 2)), .off f.w, .src f.a f.ua n, .src f.b f.ub n, .zero f.c, .off f.uc,
   .cond (types.contains (tyOf f.mod))]

/-- HCMP2 (R207). -/
def usesHcmp (f : FmtF) : List Use :=
  [.ppair f.d false, .off f.w, .src f.a f.ua 1, .src f.b f.ub 1, .zero f.c, .off f.uc,
   .cond ([0, 12, 13].contains (tyOf f.mod)), .off (f.mod.getLsbD 3), .off (f.mod.getLsbD 0)]

/-- FSEL (R203). -/
def usesFsel (f : FmtF) : List Use :=
  [.dst f.d f.w 1, .src f.a f.ua 1, .src f.b f.ub 1, .off f.uc, .cond (f.c.extractLsb' 4 4 == 0),
   .pread (f.c.extractLsb' 0 3).toNat, .cond ([0, 10].contains (tyOf f.mod))]
    ++ modFp f.mod false false 2

/-- FCLASS with operation 0 (R210). -/
def usesFclass (f : FmtF) : List Use :=
  usesDA f 1 (if tyOf f.mod == 11 then 2 else 1)
    ++ [.cond ([0, 10, 11, 12, 13, 14, 15, 16, 17, 18, 19, 21].contains (tyOf f.mod)), .cond (rndOf f.mod == 0),
        .cond (f.mod.extractLsb' 0 4 == 0)]

/-- FCLASS with a status operation (R210, R211). -/
def usesFstat (f : FmtF) (op : Nat) : List Use :=
  (if op == 1 then [.dst f.d f.w 1, .zero f.a, .off f.ua] else [.zero f.d, .off f.w, .src f.a f.ua 1])
    ++ [.zero f.b, .zero f.c, .off f.ub, .off f.uc, .cond (tyOf f.mod == 0), .cond (rndOf f.mod == op),
        .cond (f.mod.extractLsb' 0 4 == 0)]

/-! ## Class 4 (R214 to R223) -/

/-- The formats of CVT (R215). -/
def cvtTy (t : Nat) : Bool := decide (t ≤ 21) && t != 8 && t != 9
/-- Words of a value of a format. -/
def fmtWords (t : Nat) : Nat := if t == 2 || t == 3 || t == 11 then 2 else 1

/-- CVT: B holds the source format (R215). -/
def usesCvt (f : FmtF) : List Use :=
  let st := f.b.toNat
  [.dst f.d f.w (fmtWords (tyOf f.mod)), .src f.a f.ua (fmtWords st), .cond (decide (st < 32)), .cond (cvtTy st),
   .cond (cvtTy (tyOf f.mod)), .off f.ub, .zero f.c, .off f.uc, .cond (decide (rndOf f.mod ≤ 4)),
   .cond (f.mod.extractLsb' 0 3 == 0)]

/-- The 8-bit types among the packed conversions. -/
def byteTy (t : Nat) : Bool := t == 14 || t == 15 || t == 6 || t == 7

/-- C of a packed form: a source with an 8-bit type, else 0 (R217, R219). -/
def usesPackC (f : FmtF) : List Use :=
  if byteTy (tyOf f.mod) then [.src f.c f.uc 1] else [.zero f.c, .off f.uc, .off (f.mod.getLsbD 2)]

/-- CVTP (R217). -/
def usesCvtp (f : FmtF) : List Use :=
  [.dst f.d f.w 1, .src f.a f.ua 1, .src f.b f.ub 1, .cond ([12, 13, 14, 15].contains (tyOf f.mod)),
   .cond (decide (rndOf f.mod ≤ 4)), .cond (f.mod.extractLsb' 0 2 == 0)] ++ usesPackC f

/-- CVTX (R218). -/
def usesCvtx (f : FmtF) : List Use :=
  usesDA f 2 1 ++ [.cond ([12, 13, 14, 15].contains (tyOf f.mod)), .cond (rndOf f.mod == 0), .off (satOf f.mod),
    .cond (byteTy (tyOf f.mod) || !f.mod.getLsbD 2), .cond (f.mod.extractLsb' 0 2 == 0)]

/-- QENC (R221). -/
def usesQenc (f : FmtF) : List Use :=
  [.dst f.d f.w 2, .vread f.a.toNat 8, .cond (f.a.toNat % 8 == 0), .cond (decide (f.a.toNat ≤ 232)), .off f.ua,
   .zero f.b, .off f.ub, .src f.c f.uc 1, .cond (decide (16 ≤ tyOf f.mod) && decide (tyOf f.mod ≤ 21)),
   .cond (decide (rndOf f.mod ≤ 4)), .cond (f.mod.extractLsb' 0 4 == 0)]

/-- QDEC (R222). Its A may be a uniform pair or a constant, as any operand that R222 gives no other rule (log entry 79). -/
def usesQdec (f : FmtF) : List Use :=
  [.dst f.d f.w 8, .cond (decide (f.d.toNat ≤ 232)), .src f.a f.ua 2, .zero f.b, .off f.ub, .zero f.c, .off f.uc,
   .cond (decide (16 ≤ tyOf f.mod) && decide (tyOf f.mod ≤ 21)), .cond (rndOf f.mod == 0),
   .cond (f.mod.extractLsb' 0 3 == 0)]

/-- BSCL (R223). -/
def usesBscl (f : FmtF) (dec : Bool) : List Use :=
  usesDA f 1 1 ++ [.cond (if dec then tyOf f.mod == 0 else decide (16 ≤ tyOf f.mod) && decide (tyOf f.mod ≤ 21)),
    .cond (rndOf f.mod == (if dec then 1 else 0)), .cond (f.mod.extractLsb' 0 4 == 0)]

/-- PRMT (R220). -/
def usesPrmt (f : FmtF) : List Use :=
  [.dst f.d f.w 1, .src f.a f.ua 1, .src f.b f.ub 1, .src f.c f.uc 1, .cond (f.mod == 0)]

/-- PACK2 (R219). -/
def usesPack2 (f : FmtF) : List Use :=
  [.dst f.d f.w 1, .src f.a f.ua 1, .src f.b f.ub 1, .cond ([4, 5, 6, 7].contains (tyOf f.mod)),
   .cond (rndOf f.mod == 0), .cond (f.mod.extractLsb' 0 2 == 0)] ++ usesPackC f

/-- UNPK2 (R219). -/
def usesUnpk2 (f : FmtF) : List Use :=
  usesDA f 2 1 ++ [.cond ([4, 5, 6, 7].contains (tyOf f.mod)), .cond (rndOf f.mod == 0), .off (satOf f.mod),
    .cond (byteTy (tyOf f.mod) || !f.mod.getLsbD 2), .cond (f.mod.extractLsb' 0 2 == 0)]

/-! ## Classes 6 and 7 and MWAIT (R107, R168, R169, R176, R177, R241, R263 to R266) -/

/-- The space of a memory word: PFX SPACE, or its own. -/
def memSpace (h : Hdr) (own : Nat) : Nat :=
  match h.pfx with
  | some p => if p.ovs then p.space.toNat else own
  | none => own

/-- AR: an even v or s pair in global space, any v or s register in a scratchpad. -/
def usesAr (f : FmtM) (space : Nat) : List Use :=
  let n := if space == 0 then 2 else 1
  if f.ua then [.sread f.ar.toNat n] else [.vread f.ar.toNat n, .cond (f.ar.toNat % n == 0)]

/-- Words of a value of SZ 0 to 6. -/
def szWords (sz : Nat) : Nat := if sz ≤ 4 then 1 else if sz == 5 then 2 else 4

/-- LD, LDS, LDC. -/
def usesLoad (h : Hdr) (f : FmtM) (own : Nat) : List Use :=
  [.dst f.d f.w (szWords f.sz.toNat), .src f.b false 1, .cond (decide (f.sz.toNat ≤ 6))] ++ usesAr f (memSpace h own)

/-- ST, STS, STC. -/
def usesStore (h : Hdr) (f : FmtM) (own : Nat) : List Use :=
  [.src f.d false (szWords f.sz.toNat), .src f.b false 1, .off f.w, .cond (decide (f.sz.toNat ≤ 6))] ++ usesAr f (memSpace h own)

/-- LDW and STW. -/
def usesGroup (h : Hdr) (f : FmtM) (store : Bool) : List Use :=
  let n := if f.sz.getLsbD 0 then 2 else 1
  (if store then [.src f.d false n, .off f.w] else [.dst f.d f.w n])
    ++ [.src f.b false 1, .cond (decide (f.sz.toNat / 2 ≤ 5))] ++ usesAr f (memSpace h 0)

/-- LDU and STU. -/
def usesUniform (h : Hdr) (f : FmtM) (store : Bool) : List Use :=
  let n := szWords f.sz.toNat
  [if store then .sread f.d.toNat n else .swrite f.d.toNat n, .cond (decide (f.sz.toNat ≤ 5)), .cond f.ua, .off f.w,
   .src f.b false 1, .cond (f.b == 244 || f.b == 255)] ++ usesAr f (memSpace h 0)

/-- PREF and CCTL, with what D may hold. -/
def usesHint (h : Hdr) (f : FmtM) (d : Bool) : List Use :=
  [.cond d, .src f.b false 1, .off f.w, .cond (f.sz == 0)] ++ usesAr f (memSpace h 0)

/-- FENCE. -/
def usesFence (f : FmtS) : List Use := [.cond (f.body.extractLsb' 0 43 == 0), .cond (f.body.extractLsb' 43 3 != 7)]

/-- An atomic of class 7 with the SZ codes it accepts: `old` if D is read first. -/
def usesAtom (h : Hdr) (f : FmtM) (szs : List Nat) (red old : Bool) : List Use :=
  let sz := f.sz.toNat
  let n := if sz == 6 then 4 else if sz == 0 || sz == 1 || sz == 4 then 1 else 2
  (if red then [.zero f.d, .off f.w] else [.dst f.d f.w n])
    ++ (if old then [.vread f.d.toNat n] else [])
    ++ [.src f.b false n, .cond (szs.contains sz)] ++ usesAr f (memSpace h 0)

/-- ATOM.addb: PF is written. -/
def usesAddb (h : Hdr) (f : FmtM) : List Use :=
  usesAtom h f [1, 3] false true ++ [.pwrite (f.off.extractLsb' 15 3).toNat]

/-- MWAIT. -/
def usesMwait (f : FmtM) : List Use :=
  let n := if f.sz.getLsbD 0 then 2 else 1
  [.dst f.d f.w n, .src f.b false n, .cond ([4, 5, 12, 13].contains f.sz.toNat)] ++ usesAr f (if f.sz.getLsbD 3 then 1 else 0)

/-! ## Line locks (R289) -/

/-- LOCK, TRYLK, LOCKT: the address pair, the timeout, PS. -/
def usesLock (f : FmtX) (timeout : Bool) : List Use :=
  [.sread f.u0.toNat 2, .cond (f.u2 == 0 && f.u3 == 0 && f.u4 == 0 && f.u5 == 0), .cond (f.xmod.extractLsb' 3 9 == 0),
   .pwrite (f.xmod.extractLsb' 0 3).toNat] ++ (if timeout then [.sread f.u1.toNat 1] else [.cond (f.u1 == 0)])

/-- UNLOCK. -/
def usesUnlock (f : FmtX) : List Use :=
  [.sread f.u0.toNat 2, .cond (f.u1 == 0 && f.u2 == 0 && f.u3 == 0 && f.u4 == 0 && f.u5 == 0), .cond (f.xmod == 0)]

/-- LKQRY. -/
def usesLkqry (f : FmtX) : List Use :=
  [.sread f.u0.toNat 2, .swrite f.u1.toNat 1, .cond (f.u2 == 0 && f.u3 == 0 && f.u4 == 0 && f.u5 == 0), .cond (f.xmod == 0)]

/-! ## Class 9 (R302, R308, R315, R318) -/

/-- Fields of XMOD: DSP, SSP, ST, BO, MASK (R302). -/
def cpDsp (f : FmtX) : Nat := (f.xmod.extractLsb' 10 2).toNat
def cpSsp (f : FmtX) : Nat := (f.xmod.extractLsb' 8 2).toNat
def cpSt (f : FmtX) : Bool := f.xmod.getLsbD 7
def cpBo (f : FmtX) : Bool := f.xmod.getLsbD 6
def cpMask (f : FmtX) : Nat := (f.xmod.extractLsb' 2 4).toNat

/-- An address operand of a space. -/
def usesAddr (r : BitVec 6) (space : Nat) : Use := .sread r.toNat (if space == 0 then 2 else 1)

/-- The space that a copy writes: COPYM (2) and COPYX (3) write scratchpad. -/
def cpDest (f : FmtX) (kind : Nat) : Nat := if kind ≥ 2 then 1 else cpDsp f

/-- A stamp block of R307: the address at `k`, a pair for a global target, and the value at `k` + 2. -/
def usesStamp (k : Nat) (glob : Bool) : List Use :=
  [.cond (k % 2 == 0 && decide (k ≤ 60)), .sread k (if glob then 2 else 1), .sread (k + 2) 2]

/-- COPY, COPY2, COPYM and COPYX, numbered from 0 (R302). -/
def usesCopy (f : FmtX) (kind : Nat) : List Use :=
  [usesAddr f.u0 (cpDest f kind), usesAddr f.u1 (cpSsp f), .sread f.u2.toNat 1, .cond (f.xmod.extractLsb' 0 2 == 0),
   .cond (if kind == 2 then cpDsp f == 0 else if kind == 3 then cpDsp f == 1 else decide (cpDsp f ≤ 2)),
   .cond (if kind == 2 then decide (cpSsp f ≤ 1) else decide (cpSsp f ≤ 2)),
   .cond (if kind == 2 then cpMask f != 0 else cpMask f == 0)]
    ++ (if kind == 1 || kind == 3 then [.sread f.u3.toNat 2] else [.cond (f.u3 == 0)])
    ++ (if cpSt f then usesStamp f.u4.toNat (cpDest f kind == 0) else [.cond (f.u4 == 0)])
    ++ (if cpBo f then [.sread f.u5.toNat 1] else [.cond (f.u5 == 0)])

/-- Fields of BSEAL, BWAIT and BQRY (R308). -/
def bsD (f : FmtS) : Nat := (f.body.extractLsb' 40 8).toNat
def bsBn (f : FmtS) : Nat := (f.body.extractLsb' 36 4).toNat
def bsRb (f : FmtS) : Bool := f.body.getLsbD 35
def bsPs (f : FmtS) : Nat := (f.body.extractLsb' 32 3).toNat
def bsUs (f : FmtS) : Nat := (f.body.extractLsb' 26 6).toNat

/-- BSEAL. -/
def usesBseal (f : FmtS) : List Use :=
  [.cond (f.body.extractLsb' 0 40 == 0), .cond (decide (bsD f < 240) || bsD f == 244)]
    ++ (if bsD f == 244 then [] else [.vwrite (bsD f) 1])
/-- BWAIT. -/
def usesBwait (f : FmtS) : List Use :=
  [.cond (f.body.extractLsb' 0 26 == 0), .cond (bsD f == 0), .pwrite (bsPs f)]
    ++ (if bsRb f then [.cond (bsBn f == 0), .sread (bsUs f) 1] else [.cond (bsUs f == 0)])
/-- BQRY. -/
def usesBqry (f : FmtS) : List Use := [.cond (f.body.extractLsb' 0 40 == 0), .vwrite (bsD f) 1]

/-- The barrier instructions: BARI 0, BARA 1, BARX 2, BARW 3, BART 4 (R315). -/
def usesBar (f : FmtX) (kind : Nat) : List Use :=
  [.sread f.u0.toNat 1, .cond (f.u2 == 0 && f.u3 == 0 && f.u4 == 0 && f.u5 == 0), .cond (f.xmod.extractLsb' 3 6 == 0),
   .cond (kind == 1 || f.xmod.extractLsb' 9 2 == 0)]
    ++ (if kind == 1 then (if f.xmod.getLsbD 9 then [.swrite f.u1.toNat 1] else [.cond (f.u1 == 0)]) else [.sread f.u1.toNat 1])
    ++ (if kind ≥ 3 then [.pwrite (f.xmod.extractLsb' 0 3).toNat] else [.cond (f.xmod.extractLsb' 0 3 == 0)])

/-- SLOTQ (R318). -/
def usesSlotq (f : FmtX) : List Use :=
  [.swrite f.u0.toNat 1, .cond (f.u1 == 0 && f.u2 == 0 && f.u3 == 0 && f.u4 == 0 && f.u5 == 0), .cond (f.xmod == 0)]
/-- SLOTRET (R318). -/
def usesSlotret (f : FmtX) : List Use :=
  [.cond (f.u0 == 0 && f.u1 == 0 && f.u2 == 0 && f.u3 == 0 && f.u4 == 0 && f.u5 == 0), .cond (f.xmod.extractLsb' 0 6 == 0),
   .cond (f.xmod.extractLsb' 6 4 != 0)]

/-! ## Class 8 (R344 to R349) -/

/-- CM and STS of a request. -/
def spCm (f : FmtX) : Nat := (f.xmod.extractLsb' 10 2).toNat
def spSts (f : FmtX) : Bool := f.xmod.getLsbD 9

/-- SPRD 0 and SPRD2 1. -/
def usesSprd (f : FmtX) (kind : Nat) : List Use :=
  [.sread f.u0.toNat 2, .sread f.u1.toNat 1, .sread f.u2.toNat 2, .swrite f.u5.toNat 1, .cond (f.xmod.extractLsb' 0 9 == 0),
   .cond (spCm f == 2 || !spSts f)]
    ++ (if kind == 1 then [.sread f.u3.toNat 1] else [.cond (f.u3 == 0)])
    ++ (match spCm f with
        | 0 => [.cond (f.u4 == 0)]
        | 2 => usesStamp f.u4.toNat (!spSts f)
        | _ => [.sread f.u4.toNat 1])

/-- CM and STS of SPRX. -/
def sxCm (f : FmtM) : Nat := (f.sz.extractLsb' 2 2).toNat
def sxSts (f : FmtM) : Bool := f.sz.getLsbD 1

/-- SPRX. STS names the stamp's space, and is taken to be a field that no other completion mode uses, as R345 has it for SPRD (log
entry 90). -/
def usesSprx (f : FmtM) : List Use :=
  [.sread f.d.toNat 2, .cond (decide (f.d.toNat ≤ 56)), .swrite (f.d.toNat + 3) 1, .off f.w, .off (f.sz.getLsbD 0),
   .cond (sxCm f == 2 || !sxSts f), .src f.b false 1]
    ++ (if sxCm f == 0 then [] else [.sread (f.d.toNat + 2) 1]) ++ usesAr f 0

/-- SPCTX. -/
def usesSpctx (f : FmtX) : List Use :=
  [.sread f.u0.toNat 8, .cond (f.u1 == 0 && f.u2 == 0 && f.u3 == 0 && f.u4 == 0 && f.u5 == 0), .cond (f.xmod == 0)]
/-- SPWAIT. -/
def usesSpwait (f : FmtX) : List Use :=
  [.sread f.u0.toNat 1, .cond (f.u1 == 0 && f.u2 == 0 && f.u3 == 0 && f.u4 == 0 && f.u5 == 0), .cond (f.xmod.extractLsb' 3 9 == 0),
   .pwrite (f.xmod.extractLsb' 0 3).toNat]
/-- SPCAN. -/
def usesSpcan (f : FmtX) : List Use :=
  [.sread f.u0.toNat 1, .cond (f.u2 == 0 && f.u3 == 0 && f.u4 == 0 && f.u5 == 0), .cond (f.xmod.extractLsb' 4 8 == 0),
   .cond (f.xmod.extractLsb' 0 3 == 0)] ++ (if f.xmod.getLsbD 3 then [.swrite f.u1.toNat 1] else [.cond (f.u1 == 0)])
/-- SPQRY. -/
def usesSpqry (f : FmtX) : List Use :=
  [.sread f.u0.toNat 1, .swrite f.u1.toNat 1, .cond (f.u2 == 0 && f.u3 == 0 && f.u4 == 0 && f.u5 == 0), .cond (f.xmod == 0)]

/-! ## Class 10 (R353, R359) -/

/-- XMOD fields of class 10: ACC, and a bit. -/
def mAcc (f : FmtX) : Nat := (f.xmod.extractLsb' 7 5).toNat
def mBit (f : FmtX) (k : Nat) : Bool := f.xmod.getLsbD k
/-- Z; FM of MMAT; CNT of MZERO; SP of MLDA and MSTA; RND of MCVT; ACT of MEPI. -/
def mZ (f : FmtX) : Bool := f.xmod.getLsbD 6
def mFm (f : FmtX) : Nat := (f.xmod.extractLsb' 3 3).toNat
def mCnt (f : FmtX) : Nat := (f.xmod.extractLsb' 1 5).toNat + 1
def mSp (f : FmtX) : Nat := (f.xmod.extractLsb' 5 2).toNat
def mTop3 (f : FmtX) : Nat := (f.xmod.extractLsb' 4 3).toNat

/-- A field that names an even pair if a bit is set, and is 0 otherwise. -/
def usesPairIf (b : Bool) (r : BitVec 6) : Use := if b then .sread r.toNat 2 else .cond (r == 0)

/-- MMA. -/
def usesMma (f : FmtX) : List Use :=
  [.sread f.u0.toNat 2, .sread f.u1.toNat 2, .cond (f.u2 == 0 && f.u3 == 0 && f.u4 == 0 && f.u5 == 0), .cond (f.xmod.extractLsb' 0 6 == 0)]
/-- MMAS. -/
def usesMmas (f : FmtX) : List Use :=
  [.sread f.u0.toNat 2, .sread f.u1.toNat 2, .sread f.u2.toNat 2, .sread f.u3.toNat 2, usesPairIf (mBit f 5) f.u4, usesPairIf (mBit f 4) f.u5,
   .cond (f.xmod.extractLsb' 0 4 == 0)]
/-- MMAT. -/
def usesMmat (f : FmtX) : List Use :=
  [.sread f.u0.toNat 2, .sread f.u1.toNat 2, .sread f.u2.toNat 4, usesPairIf (mBit f 2) f.u3, usesPairIf (mBit f 2) f.u4, .cond (f.u5 == 0),
   .cond (decide (mFm f ≤ 4)), .cond (f.xmod.extractLsb' 0 2 == 0)]
/-- MZERO. -/
def usesMzero (f : FmtX) : List Use :=
  [if mBit f 6 then .sread f.u0.toNat 1 else .cond (f.u0 == 0),
   .cond (f.u1 == 0 && f.u2 == 0 && f.u3 == 0 && f.u4 == 0 && f.u5 == 0), .off (mBit f 0)]
/-- MLDA and MSTA. -/
def usesMtile (f : FmtX) : List Use :=
  [usesAddr f.u0 (mSp f), .sread f.u1.toNat 1, .cond (f.u2 == 0 && f.u3 == 0 && f.u4 == 0 && f.u5 == 0), .cond (decide (mSp f ≤ 2)),
   .cond (f.xmod.extractLsb' 0 4 == 0)]
/-- MCVT. -/
def usesMcvt (f : FmtX) : List Use :=
  [.sread f.u0.toNat 2, .cond (f.u1 == 0 && f.u2 == 0 && f.u3 == 0 && f.u4 == 0 && f.u5 == 0), .cond (decide (mTop3 f ≤ 4)),
   .cond (!(mBit f 2 && mBit f 1)), .off (mBit f 0)]
/-- MEPI. -/
def usesMepi (f : FmtX) : List Use :=
  [usesPairIf (mBit f 3) f.u0, if mBit f 2 then .sread f.u1.toNat 1 else .cond (f.u1 == 0),
   .cond (f.u2 == 0 && f.u3 == 0 && f.u4 == 0 && f.u5 == 0), .cond (decide (mTop3 f ≤ 3)), .cond (f.xmod.extractLsb' 0 2 == 0)]
/-- MDRAIN. -/
def usesMdrain (f : FmtX) : List Use :=
  [.sread f.u0.toNat 2, .sread f.u1.toNat 1, .sread f.u2.toNat 2, .sread f.u3.toNat 1, .cond (f.u4 == 0 && f.u5 == 0),
   .cond (f.xmod.extractLsb' 0 7 == 0)]
/-- MSEQ. -/
def usesMseq (f : FmtX) : List Use :=
  [.sread f.u0.toNat 2, .sread f.u1.toNat 2, .sread f.u2.toNat 2, .sread f.u3.toNat 2, .sread f.u4.toNat 2, .sread f.u5.toNat 1,
   .cond (f.xmod.extractLsb' 0 6 == 0)]
/-- MSTAT. -/
def usesMstat (f : FmtX) : List Use :=
  [.swrite f.u0.toNat 1, .cond (f.u1 == 0 && f.u2 == 0 && f.u3 == 0 && f.u4 == 0 && f.u5 == 0), .cond (f.xmod == 0)]
/-- MFENCE. -/
def usesMfence (f : FmtX) : List Use :=
  [.cond (f.u0 == 0 && f.u1 == 0 && f.u2 == 0 && f.u3 == 0 && f.u4 == 0 && f.u5 == 0), .cond (f.xmod.extractLsb' 3 9 == 0),
   .pwrite (f.xmod.extractLsb' 0 3).toNat]

/-- A matrix operand's descriptor (R353). -/
structure Desc where
  fmt : Nat
  kind : Nat
  mem : Nat
  base : Nat
  tp : Nat
  rot : Nat
  rp : Nat
  /-- A bit that must be 0 is set. -/
  bad : Bool
  deriving DecidableEq, Repr

/-- The descriptor that two words hold. -/
def descOf (w0 w1 : Word) : Desc :=
  { fmt := (w0.extractLsb' 27 5).toNat, kind := (w0.extractLsb' 25 2).toNat, mem := (w0.extractLsb' 22 2).toNat,
    base := (w0.extractLsb' 0 22).toNat, tp := (w1.extractLsb' 16 16).toNat, rot := (w1.extractLsb' 12 3).toNat,
    rp := (w1.extractLsb' 0 12).toNat, bad := w0.getLsbD 24 || w1.getLsbD 15 }

/-- How a descriptor is used: a matrix operand, block scales, a vector of one f32 a row, MCVT's destination, or the
staging of MSEQ (R355). -/
inductive DUse where
  | mat | scale | vec | out | stage
  deriving DecidableEq, Repr

/-- The descriptors that a class 10 word names: the U field's place and value, and the use. -/
def descsOf (i : Instr) : List (Nat × Nat × DUse) :=
  match i with
  | .mma _ f => [(0, f.u0.toNat, .mat), (1, f.u1.toNat, .mat)]
  | .mmas _ f => [(0, f.u0.toNat, .mat), (1, f.u1.toNat, .mat), (2, f.u2.toNat, .scale), (3, f.u3.toNat, .scale)]
      ++ (if mBit f 5 then [(4, f.u4.toNat, .vec)] else []) ++ (if mBit f 4 then [(5, f.u5.toNat, .vec)] else [])
  | .mmat _ f => [(0, f.u0.toNat, .mat), (1, f.u1.toNat, .mat)]
      ++ (if mBit f 2 then [(3, f.u3.toNat, .scale), (4, f.u4.toNat, .scale)] else [])
  | .mcvt _ f => [(0, f.u0.toNat, .out)]
  | .mepi _ f => if mBit f 3 then [(0, f.u0.toNat, .vec)] else []
  | .mseq _ f => [(2, f.u2.toNat, .stage), (3, f.u3.toNat, .stage)]
  | _ => []

/-- Width in bits of an element of a format as a tile's row holds it. -/
def elemBits (t : Nat) : Nat :=
  match t with
  | 2 | 3 | 9 | 11 => 64
  | 4 | 5 | 12 | 13 => 16
  | 6 | 7 | 14 | 15 => 8
  | 16 | 17 => 6
  | 18 | 19 | 20 => 4
  | 21 => 2
  | _ => 32

/-- The group of a product's operand format (R356): 0 16-bit, 1 8-bit float, 2 8-bit integer, 3 narrow, 4 f32, 5
f64. -/
def fmtGroup (t : Nat) : Option Nat :=
  if t == 12 || t == 13 then some 0
  else if t == 14 || t == 15 then some 1
  else if t == 6 || t == 7 then some 2
  else if 16 ≤ t && t ≤ 21 then some 3
  else if t == 10 then some 4
  else if t == 11 then some 5
  else none

/-- K of a group. -/
def groupK (g : Nat) : Nat :=
  match g with
  | 0 => 32
  | 1 | 2 => 64
  | 3 => 128
  | 4 => 16
  | _ => 8

/-- Bytes of a row of a descriptor in its use (R355). -/
def Desc.rowBytes (d : Desc) (u : DUse) : Nat :=
  match u with
  | .mat | .stage => groupK ((fmtGroup d.fmt).getD 0) * elemBits d.fmt / 8
  | .scale => 16
  | .vec => 4
  | .out => 64 * elemBits d.fmt / 8

/-- The v registers that a class 10 word reads (`out` false) or will write, by its descriptors in registers. -/
def descRegs (get : Nat → Word) (i : Instr) (out : Bool) : List Nat :=
  (descsOf i).flatMap fun e =>
    let d := descOf (get e.2.1) (get (e.2.1 + 1))
    if d.kind == 0 && (e.2.2 == .out) == out && e.2.2 != .stage then (List.range (d.rowBytes e.2.2 / 4)).map (d.base % 256 + ·) else []

/-! ## Class 11 (R395 to R406) -/

/-- TEAM of the team words, and WD of TQRY (R395). -/
def tmTeam (f : FmtX) : Nat := (f.xmod.extractLsb' 7 5).toNat
def tmWd (f : FmtX) : Bool := f.xmod.getLsbD 6
/-- The fields U2 to U5 are 0. -/
def hiZero (f : FmtX) : Bool := f.u2 == 0 && f.u3 == 0 && f.u4 == 0 && f.u5 == 0

/-- TBAR. -/
def usesTbar (f : FmtX) : List Use :=
  [.cond (f.u0 == 0 && f.u1 == 0 && hiZero f), .cond (f.xmod.extractLsb' 0 7 == 0)]
/-- TARR. -/
def usesTarr (f : FmtX) : List Use :=
  [.swrite f.u0.toNat 1, .cond (f.u1 == 0 && hiZero f), .cond (f.xmod.extractLsb' 0 7 == 0)]
/-- TWAIT. -/
def usesTwait (f : FmtX) : List Use :=
  [.sread f.u0.toNat 1, .cond (f.u1 == 0 && hiZero f), .cond (f.xmod.extractLsb' 0 7 == 0)]
/-- TQRY. -/
def usesTqry (f : FmtX) : List Use :=
  [.swrite f.u0.toNat 1, if tmWd f then .sread f.u1.toNat 1 else .cond (f.u1 == 0), .cond (hiZero f),
   .cond (f.xmod.extractLsb' 0 6 == 0)]
/-- RESHAPE. -/
def usesReshape (f : FmtX) : List Use :=
  [.swrite f.u0.toNat 1, .sread f.u1.toNat 1, .cond (hiZero f), .cond (f.xmod == 0)]
/-- LAUNCH. -/
def usesLaunch (f : FmtX) : List Use :=
  [.swrite f.u0.toNat 2, .sread f.u1.toNat 2, .sread f.u2.toNat 1, .cond (f.u3 == 0 && f.u4 == 0 && f.u5 == 0), .cond (f.xmod == 0)]

/-- PS of the words that have it in XMOD [2:0]. -/
def xPs (f : FmtX) : Nat := (f.xmod.extractLsb' 0 3).toNat
/-- ST of LWAIT. -/
def lwSt (f : FmtX) : Bool := f.xmod.getLsbD 3

/-- LWAIT. -/
def usesLwait (f : FmtX) : List Use :=
  [.sread f.u0.toNat 2, if lwSt f then .swrite f.u1.toNat 1 else .cond (f.u1 == 0), .cond (hiZero f),
   .cond (f.xmod.extractLsb' 4 8 == 0), .pwrite (xPs f)]

/-- VB, and the bits of MSGS and MSGR: NB or WT, REL or SRC, ACQ (R400). -/
def msVb (f : FmtX) : Nat := (f.xmod.extractLsb' 8 4).toNat
def msB7 (f : FmtX) : Bool := f.xmod.getLsbD 7
def msB6 (f : FmtX) : Bool := f.xmod.getLsbD 6
def msB5 (f : FmtX) : Bool := f.xmod.getLsbD 5

/-- MSGS. -/
def usesMsgs (f : FmtX) : List Use :=
  [.sread f.u0.toNat 1, .cond (f.u1 == 0 && hiZero f), .cond (decide (msVb f ≤ 14)), .vread (16 * msVb f) 16,
   .cond (f.xmod.extractLsb' 3 3 == 0), .pwrite (xPs f)]
/-- MSGR. -/
def usesMsgr (f : FmtX) : List Use :=
  [.sread f.u0.toNat 1, .cond (f.u1 == 0 && hiZero f), .cond (decide (msVb f ≤ if msB6 f then 13 else 14)),
   .vwrite (16 * msVb f) (if msB6 f then 17 else 16), .cond (f.xmod.extractLsb' 3 2 == 0), .pwrite (xPs f)]
/-- MSGQ. -/
def usesMsgq (f : FmtX) : List Use :=
  [.sread f.u0.toNat 1, .swrite f.u1.toNat 1, .cond (hiZero f), .cond (f.xmod == 0)]

/-- KIND, OP and TYPE of COLL (R402). -/
def clKind (f : FmtX) : Nat := (f.xmod.extractLsb' 10 2).toNat
def clOp (f : FmtX) : Nat := (f.xmod.extractLsb' 8 2).toNat
def clTy (f : FmtX) : Nat := (f.xmod.extractLsb' 3 5).toNat

/-- COLL. -/
def usesColl (f : FmtX) : List Use :=
  [.sread f.u0.toNat 2, .sread f.u1.toNat 1, .sread f.u2.toNat 2, .sread f.u3.toNat 2, .sread f.u4.toNat 1, .swrite f.u5.toNat 1,
   .cond (f.xmod.extractLsb' 0 3 == 0), .cond (decide (clOp f ≤ if clKind f ≤ 1 then 2 else 0)),
   .cond ([0, 1, 2, 3, 10, 11, 12, 13].contains (clTy f))]
/-- COLLW. -/
def usesCollw (f : FmtX) : List Use :=
  [.sread f.u0.toNat 1, .cond (f.u1 == 0 && hiZero f), .cond (f.xmod.extractLsb' 3 9 == 0), .pwrite (xPs f)]
/-- EVSIG and EVWAIT. -/
def usesEvent (f : FmtX) : List Use :=
  [.sread f.u0.toNat 1, .sread f.u1.toNat 1, .cond (hiZero f), .cond (f.xmod == 0)]

/-! ## Class 12 (R447 to R456, R522) -/

/-- A field [hi:lo] of a format S word. -/
def sf (f : FmtS) (hi lo : Nat) : Nat := f.body.toNat / 2 ^ lo % 2 ^ (hi + 1 - lo)
/-- A bit of a format S word. -/
def sb (f : FmtS) (k : Nat) : Bool := f.body.getLsbD k

/-- TRET of an operation. -/
def usesTret (f : FmtS) (op : Nat) : List Use :=
  .cond (sf f 47 46 == op && sf f 32 0 == 0)
    :: (if sb f 45 then [.sread (sf f 44 39) 2, .sread (sf f 38 33) 2] else [.cond (sf f 44 33 == 0)])

/-- The numbers of special registers that exist (R67). -/
def srKnown (n : Nat) : Bool :=
  decide (n ≤ 0x0E) || n == 0x10 || n == 0x11 || (decide (0x18 ≤ n) && decide (n ≤ 0x1C)) || n == 0x20 || n == 0x24
    || (decide (0x28 ≤ n) && decide (n ≤ 0x2B)) || n == 0x30 || n == 0x31
/-- Special registers of 64 bits, and those that SWR may write. -/
def srWide (n : Nat) : Bool := n == 0x10 || n == 0x11 || n == 0x29 || n == 0x2B || n == 0x30
def srWritable (n : Nat) : Bool := (decide (0x28 ≤ n) && decide (n ≤ 0x2B)) || n == 0x31
/-- The special register of SRD and SWR, and its words. -/
def srNum (f : FmtS) : Nat := sf f 39 32
def srWords (f : FmtS) : Nat := if srWide (srNum f) then 2 else 1

/-- SRD. -/
def usesSrd (f : FmtS) : List Use :=
  [.cond (srKnown (srNum f)), .cond (sf f 30 0 == 0),
   if sb f 31 then .swrite (sf f 47 40) (srWords f) else .dst (f.body.extractLsb' 40 8) false (srWords f)]
/-- SWR: its source is a v register, 244 or a uniform register. -/
def usesSwr (f : FmtS) : List Use :=
  [.cond (srKnown (srNum f) && srWritable (srNum f)), .cond (sf f 47 40 == 0), .cond (sf f 22 0 == 0),
   .src (f.body.extractLsb' 24 8) (sb f 23) (srWords f), .cond (sb f 23 || decide (sf f 31 24 < 240) || sf f 31 24 == 244)]

/-- The first register and the number of them of CSAVE and CREST with TGT 0 (R452). -/
def csF (f : FmtS) : Nat := sf f 41 34
def csN (f : FmtS) : Nat := sf f 33 26 + 1
/-- CSAVE (`out`) and CREST. -/
def usesCsave (f : FmtS) (out : Bool) : List Use :=
  [.sread (sf f 47 42) 2, .cond (sf f 24 0 == 0)]
    ++ (if sb f 25 then [.sread (sf f 41 36) 2, .cond (sf f 35 26 == 0)]
        else [.cond (decide (csN f ≤ 240)), .vspan (csF f) (csN f) (!out)])

/-- OPLR. -/
def usesOplr (f : FmtS) : List Use :=
  [.swrite (sf f 47 42) 8, if sb f 35 then .sread (sf f 41 36) 2 else .cond (sf f 41 36 == 0), .cond (sf f 32 0 == 0)]
/-- FRESUME. -/
def usesFresume (f : FmtS) : List Use :=
  [.sread (sf f 47 42) 2, .cond (if sb f 39 then decide (1 ≤ sf f 38 35) && decide (sf f 38 35 ≤ 8) else sf f 38 35 == 0),
   .cond (sf f 34 0 == 0)]
/-- TLBINV. -/
def usesTlbinv (f : FmtS) : List Use :=
  [.sread (sf f 47 42) 1, .cond (sf f 28 0 == 0)]
    ++ (if sb f 29 then [.cond (sf f 41 30 == 0)] else [.sread (sf f 41 36) 2, .sread (sf f 35 30) 1])
/-- HALT of an operation. -/
def usesHalt (f : FmtS) (op : Nat) : List Use :=
  [.sread (sf f 47 42) 2, .cond (sf f 41 40 == op), .cond (sf f 39 0 == 0)]

/-- The items of IDRD that exist (R507). -/
def idItem (n : Nat) : Bool := decide (n ≤ 19) && n != 7
/-- IDRD. -/
def usesIdrd (f : FmtS) : List Use := [.swrite (sf f 47 42) 2, .cond (sf f 41 8 == 0), .cond (idItem (sf f 7 0))]
/-- SECCALL and ATTEST. -/
def usesService (f : FmtS) : List Use := [.sread (sf f 47 42) 2, .swrite (sf f 41 36) 1, .cond (sf f 35 0 == 0)]
/-- SECWAIT. -/
def usesSecwait (f : FmtS) : List Use :=
  [.sread (sf f 47 42) 1, .swrite (sf f 41 36) 1, .cond (sf f 35 3 == 0), .pwrite (sf f 2 0)]

/-! ## Class 13 (R500) -/

/-- RECMARK. -/
def usesRecmark (f : FmtS) : List Use := [.sread (sf f 47 42) 2, .cond (sf f 41 16 == 0)]
/-- RECST. -/
def usesRecst (f : FmtS) : List Use := [.swrite (sf f 47 42) 2, .cond (sf f 41 0 == 0)]
/-- CKPTREQ. -/
def usesCkptreq (f : FmtS) : List Use := [.swrite (sf f 47 42) 1, .cond (sf f 40 0 == 0)]
/-- SAMPARM. -/
def usesSamparm (f : FmtS) : List Use := [.sread (sf f 47 42) 2, .cond (sf f 41 0 == 0)]
/-- PERFRD. -/
def usesPerfrd (f : FmtS) : List Use :=
  [.swrite (sf f 47 42) 2, .cond (sf f 34 16 == 0)]
    ++ (if sb f 35 then [.cond (sf f 41 36 == 0)] else [.sread (sf f 41 36) 1, .cond (sf f 15 0 == 0)])
/-- HISTRD. -/
def usesHistrd (f : FmtS) : List Use := [.swrite (sf f 47 42) 2, .sread (sf f 41 36) 1, .cond (sf f 35 0 == 0)]
/-- TELRD. -/
def usesTelrd (f : FmtS) : List Use := [.swrite (sf f 47 42) 8, .cond (sf f 41 3 == 0), .pwrite (sf f 2 0)]

end Sys2Proof.Machine
end

