-- ==== Sys2Proof/Machine/Legal.lean ====
section
/-! DEFINITION. For every word of the opcode table: its opcode (R64), its header, the registers and
fields it uses, and from these whether it is legal as encoded (R63). -/

namespace Sys2Proof.Machine

/-- The 10-bit opcode of a full word (R37, R64); a paired word and an event have none. -/
def opcodeOf : Instr → Option Nat
  | .pairedWord _ _ _ => none
  | .nop _ _ => some 0x000
  | .bra _ _ => some 0x001
  | .brx _ _ => some 0x002
  | .call _ _ => some 0x003
  | .callx _ _ => some 0x004
  | .ret _ _ => some 0x005
  | .exit _ _ => some 0x006
  | .yield _ _ => some 0x007
  | .sleep _ _ => some 0x008
  | .mwait _ _ => some 0x009
  | .brk _ _ => some 0x00A
  | .join _ _ => some 0x00B
  | .leave _ _ => some 0x00C
  | .waitm _ _ => some 0x00D
  | .msetNone _ _ => some 0x00E
  | .msetLive _ _ => some 0x00E
  | .msetHere _ _ => some 0x00E
  | .msetImm _ _ => some 0x00E
  | .msetSreg _ _ => some 0x00E
  | .mov _ _ => some 0x040
  | .movi _ _ => some 0x041
  | .movs _ _ => some 0x042
  | .iadd _ _ => some 0x043
  | .iaddi _ _ => some 0x044
  | .isub _ _ => some 0x045
  | .iaddc _ _ => some 0x046
  | .isubb _ _ => some 0x047
  | .imin _ _ => some 0x048
  | .imax _ _ => some 0x049
  | .iabs _ _ => some 0x04A
  | .icmp _ _ => some 0x04B
  | .icmpi _ _ => some 0x04C
  | .isel _ _ => some 0x04D
  | .lea _ _ => some 0x04E
  | .and _ _ => some 0x080
  | .or _ _ => some 0x081
  | .xor _ _ => some 0x082
  | .andn _ _ => some 0x083
  | .andi _ _ => some 0x084
  | .ori _ _ => some 0x085
  | .xori _ _ => some 0x086
  | .shl _ _ => some 0x087
  | .shr _ _ => some 0x088
  | .sha _ _ => some 0x089
  | .rot _ _ => some 0x08A
  | .bfe _ _ => some 0x08B
  | .bfi _ _ => some 0x08C
  | .popc _ _ => some 0x08D
  | .clz _ _ => some 0x08E
  | .brev _ _ => some 0x08F
  | .imul _ _ => some 0x090
  | .imulh _ _ => some 0x091
  | .imad _ _ => some 0x092
  | .imadw _ _ => some 0x093
  | .idiv _ _ => some 0x094
  | .irem _ _ => some 0x095
  | .fadd _ _ => some 0x0C0
  | .fsub _ _ => some 0x0C1
  | .fmul _ _ => some 0x0C2
  | .ffma _ _ => some 0x0C3
  | .fmin _ _ => some 0x0C4
  | .fmax _ _ => some 0x0C5
  | .fcmp _ _ => some 0x0C6
  | .fsel _ _ => some 0x0C7
  | .fclamp _ _ => some 0x0C8
  | .frnd _ _ => some 0x0C9
  | .ffrac _ _ => some 0x0CA
  | .fclass _ _ => some 0x0CB
  | .fclassRdsw _ _ => some 0x0CB
  | .fclassClrsw _ _ => some 0x0CB
  | .fclassWren _ _ => some 0x0CB
  | .frcp _ _ => some 0x0CC
  | .frsq _ _ => some 0x0CD
  | .fsqrt _ _ => some 0x0CE
  | .fdiv _ _ => some 0x0CF
  | .fexp2 _ _ => some 0x0D0
  | .flog2 _ _ => some 0x0D1
  | .fsin _ _ => some 0x0D2
  | .fcos _ _ => some 0x0D3
  | .ftanh _ _ => some 0x0D4
  | .hadd2 _ _ => some 0x0D5
  | .hmul2 _ _ => some 0x0D6
  | .hfma2 _ _ => some 0x0D7
  | .hmin2 _ _ => some 0x0D8
  | .hmax2 _ _ => some 0x0D9
  | .hcmp2 _ _ => some 0x0DA
  | .dadd _ _ => some 0x0DB
  | .dmul _ _ => some 0x0DC
  | .dfma _ _ => some 0x0DD
  | .dcmp _ _ => some 0x0DE
  | .cvt _ _ => some 0x100
  | .cvtp _ _ => some 0x101
  | .cvtx _ _ => some 0x102
  | .qenc _ _ => some 0x103
  | .qdec _ _ => some 0x104
  | .bsclEnc _ _ => some 0x105
  | .bsclDec _ _ => some 0x105
  | .prmt _ _ => some 0x106
  | .pack2 _ _ => some 0x107
  | .unpk2 _ _ => some 0x108
  | .ballot _ _ => some 0x140
  | .vote _ _ => some 0x141
  | .shfl _ _ => some 0x142
  | .bcast _ _ => some 0x143
  | .rdx _ _ => some 0x144
  | .scan _ _ => some 0x145
  | .matchLanes _ _ => some 0x146
  | .mmov _ _ => some 0x147
  | .mand _ _ => some 0x148
  | .mor _ _ => some 0x149
  | .mxor _ _ => some 0x14A
  | .mandn _ _ => some 0x14B
  | .mpopc _ _ => some 0x14C
  | .ld _ _ => some 0x180
  | .st _ _ => some 0x181
  | .ldw _ _ => some 0x182
  | .stw _ _ => some 0x183
  | .lds _ _ => some 0x184
  | .sts _ _ => some 0x185
  | .ldc _ _ => some 0x186
  | .stc _ _ => some 0x187
  | .ldu _ _ => some 0x188
  | .stu _ _ => some 0x189
  | .pref _ _ => some 0x18A
  | .cctlInv1 _ _ => some 0x18B
  | .cctlEv2 _ _ => some 0x18B
  | .cctlUnp3 _ _ => some 0x18B
  | .cctlZero _ _ => some 0x18B
  | .fence _ _ => some 0x18C
  | .atomAdd _ _ => some 0x1C0
  | .atomAnd _ _ => some 0x1C1
  | .atomOr _ _ => some 0x1C2
  | .atomXor _ _ => some 0x1C3
  | .atomMin _ _ => some 0x1C4
  | .atomMax _ _ => some 0x1C5
  | .atomXchg _ _ => some 0x1C6
  | .atomIncw _ _ => some 0x1C7
  | .atomAddb _ _ => some 0x1C8
  | .atomFadd _ _ => some 0x1C9
  | .atomFmin _ _ => some 0x1CA
  | .atomFmax _ _ => some 0x1CB
  | .acas _ _ => some 0x1CC
  | .acas2 _ _ => some 0x1CD
  | .redAdd _ _ => some 0x1D0
  | .redAnd _ _ => some 0x1D1
  | .redOr _ _ => some 0x1D2
  | .redXor _ _ => some 0x1D3
  | .redMin _ _ => some 0x1D4
  | .redMax _ _ => some 0x1D5
  | .redIncw _ _ => some 0x1D6
  | .redFadd _ _ => some 0x1D7
  | .redFmin _ _ => some 0x1D8
  | .redFmax _ _ => some 0x1D9
  | .lock _ _ => some 0x1E0
  | .lockt _ _ => some 0x1E1
  | .trylk _ _ => some 0x1E2
  | .unlock _ _ => some 0x1E3
  | .lkqry _ _ => some 0x1E4
  | .sprd _ _ => some 0x200
  | .sprd2 _ _ => some 0x201
  | .sprx _ _ => some 0x202
  | .spctx _ _ => some 0x203
  | .spwait _ _ => some 0x204
  | .spcan _ _ => some 0x205
  | .spqry _ _ => some 0x206
  | .spend _ _ => some 0x207
  | .copy _ _ => some 0x240
  | .copy2 _ _ => some 0x241
  | .copym _ _ => some 0x242
  | .copyx _ _ => some 0x243
  | .bseal _ _ => some 0x244
  | .bwait _ _ => some 0x245
  | .bqry _ _ => some 0x246
  | .slotq _ _ => some 0x247
  | .slotret _ _ => some 0x248
  | .bari _ _ => some 0x249
  | .bara _ _ => some 0x24A
  | .barx _ _ => some 0x24B
  | .barw _ _ => some 0x24C
  | .bart _ _ => some 0x24D
  | .mma _ _ => some 0x280
  | .mmas _ _ => some 0x281
  | .mmat _ _ => some 0x282
  | .mzero _ _ => some 0x283
  | .mlda _ _ => some 0x284
  | .msta _ _ => some 0x285
  | .mcvt _ _ => some 0x286
  | .mepi _ _ => some 0x287
  | .mdrain _ _ => some 0x288
  | .mseq _ _ => some 0x289
  | .mstat _ _ => some 0x28A
  | .mfence _ _ => some 0x28B
  | .tbar _ _ => some 0x2C0
  | .tarr _ _ => some 0x2C1
  | .twait _ _ => some 0x2C2
  | .tqry _ _ => some 0x2C3
  | .reshape _ _ => some 0x2C4
  | .launch _ _ => some 0x2C5
  | .lwait _ _ => some 0x2C6
  | .msgs _ _ => some 0x2C7
  | .msgr _ _ => some 0x2C8
  | .msgq _ _ => some 0x2C9
  | .coll _ _ => some 0x2CA
  | .collw _ _ => some 0x2CB
  | .evsig _ _ => some 0x2CC
  | .evwait _ _ => some 0x2CD
  | .trap _ _ => some 0x300
  | .tretRetry _ _ => some 0x301
  | .tretSkip _ _ => some 0x301
  | .tretEnd _ _ => some 0x301
  | .pdone _ _ => some 0x302
  | .srd _ _ => some 0x303
  | .swr _ _ => some 0x304
  | .csave _ _ => some 0x305
  | .crest _ _ => some 0x306
  | .oplr _ _ => some 0x307
  | .fresume _ _ => some 0x308
  | .tlbinv _ _ => some 0x309
  | .tlbsync _ _ => some 0x30A
  | .haltHalt _ _ => some 0x30B
  | .haltRel _ _ => some 0x30B
  | .haltStep _ _ => some 0x30B
  | .idrd _ _ => some 0x30C
  | .seccall _ _ => some 0x30D
  | .secwait _ _ => some 0x30E
  | .attest _ _ => some 0x30F
  | .recmark _ _ => some 0x340
  | .recst _ _ => some 0x341
  | .ckptreq _ _ => some 0x342
  | .samparm _ _ => some 0x343
  | .sampstop _ _ => some 0x344
  | .perfrd _ _ => some 0x345
  | .histrd _ _ => some 0x346
  | .telrd _ _ => some 0x347
  | .waitmRelease => none
  | .starvationPromotion => none
  | .loadDataReturn => none
  | .mwaitMonitorFire => none
  | .mwaitTimeout => none
  | .sleepWake => none
  | .rds => none
  | .rdxRequest => none
  | .upg => none
  | .wbd => none
  | .evc => none
  | .invack => none
  | .fwddata => none
  | .peekdata => none
  | .datas => none
  | .datae => none
  | .cmp => none
  | .invMsg => none
  | .fwds => none
  | .fwdx => none
  | .recallMsg => none
  | .peek => none
  | .wback => none
  | .retryResend => none
  | .sectorQueueNext => none
  | .homeSideOperation => none
  | .hostcoh => none
  | .pageWalkComplete => none
  | .pToSTransition => none
  | .collapse => none
  | .collapseRetry => none
  | .lockAcquireArrival => none
  | .lockTryArrival => none
  | .lockReleaseArrival => none
  | .lockAbandonArrival => none
  | .lockReply => none
  | .lockHeadReturn => none
  | .lockGraceExpiry => none
  | .lockDeadlineExpiry => none
  | .lockFullRetry => none
  | .deadlockScan => none
  | .deadlockConfirm => none
  | .copyUnitPerformed => none
  | .copyComplete => none
  | .copyxHandover => none
  | .carriedCommandTrap => none
  | .burstArrival => none
  | .sproutEnd => none
  | .matrixCommandExecute => none
  | .mseqStep => none
  | .mdrainReduction => none
  | .qtailDoorbell => none
  | .queueFetch => none
  | .launchReady => none
  | .blockDispatch => none
  | .blockSlotFree => none
  | .launchComplete => none
  | .completionEntryWrite => none
  | .teamWatchdogCheck => none
  | .messageDelivery => none
  | .mailboxFullRetry => none
  | .collectiveComplete => none
  | .fenceMarkerAnswer => none
  | .fabto => none
  | .fabricErrorPath => none
  | .apertureAccessArrival => none
  | .hostCxlMemRead => none
  | .hostCxlMemWrite => none
  | .eventCounterHostWrite => none
  | .ctxctlKill => none
  | .dieLost => none
  | .trapRecordRetry => none
  | .operandLogReissue => none
  | .oplogFailedDelivery => none
  | .deferredMchk => none
  | .pctlPre => none
  | .preempt => none
  | .forcedSave => none
  | .psaved => none
  | .pctlRes => none
  | .presumed => none
  | .haltEffect => none
  | .rctlModeRecord => none
  | .rctlModeOff => none
  | .conflictProbe => none
  | .clockForcedCheckpoint => none
  | .cut => none
  | .undoCopy => none
  | .segmentCloseTimeout => none
  | .domainCutMarker => none
  | .rpctlGo => none
  | .rpctlStop => none
  | .replay => none
  | .rpend => none
  | .replayBreakpoint => none
  | .samplerRow => none
  | .lifetimeHistogramUpdate => none
  | .dbgunlock => none
  | .lcset => none
  | .nonce => none
  | .keygen => none
  | .keymap => none
  | .mrext => none
  | .cert => none
  | .attestReport => none
  | .resetPackage => none
  | .frequencyChange => none
  | .thermalTrip => none
  | .patrolScrub => none
  | .registerWrite => none
  | .laneRetrain => none
  | .rankLost => none
  | .proxyHomeHostResponse => none

/-- The header of a full word. -/
def hdrOf : Instr → Option Hdr
  | .pairedWord _ _ _ => none
  | .nop h _ => some h
  | .bra h _ => some h
  | .brx h _ => some h
  | .call h _ => some h
  | .callx h _ => some h
  | .ret h _ => some h
  | .exit h _ => some h
  | .yield h _ => some h
  | .sleep h _ => some h
  | .mwait h _ => some h
  | .brk h _ => some h
  | .join h _ => some h
  | .leave h _ => some h
  | .waitm h _ => some h
  | .msetNone h _ => some h
  | .msetLive h _ => some h
  | .msetHere h _ => some h
  | .msetImm h _ => some h
  | .msetSreg h _ => some h
  | .mov h _ => some h
  | .movi h _ => some h
  | .movs h _ => some h
  | .iadd h _ => some h
  | .iaddi h _ => some h
  | .isub h _ => some h
  | .iaddc h _ => some h
  | .isubb h _ => some h
  | .imin h _ => some h
  | .imax h _ => some h
  | .iabs h _ => some h
  | .icmp h _ => some h
  | .icmpi h _ => some h
  | .isel h _ => some h
  | .lea h _ => some h
  | .and h _ => some h
  | .or h _ => some h
  | .xor h _ => some h
  | .andn h _ => some h
  | .andi h _ => some h
  | .ori h _ => some h
  | .xori h _ => some h
  | .shl h _ => some h
  | .shr h _ => some h
  | .sha h _ => some h
  | .rot h _ => some h
  | .bfe h _ => some h
  | .bfi h _ => some h
  | .popc h _ => some h
  | .clz h _ => some h
  | .brev h _ => some h
  | .imul h _ => some h
  | .imulh h _ => some h
  | .imad h _ => some h
  | .imadw h _ => some h
  | .idiv h _ => some h
  | .irem h _ => some h
  | .fadd h _ => some h
  | .fsub h _ => some h
  | .fmul h _ => some h
  | .ffma h _ => some h
  | .fmin h _ => some h
  | .fmax h _ => some h
  | .fcmp h _ => some h
  | .fsel h _ => some h
  | .fclamp h _ => some h
  | .frnd h _ => some h
  | .ffrac h _ => some h
  | .fclass h _ => some h
  | .fclassRdsw h _ => some h
  | .fclassClrsw h _ => some h
  | .fclassWren h _ => some h
  | .frcp h _ => some h
  | .frsq h _ => some h
  | .fsqrt h _ => some h
  | .fdiv h _ => some h
  | .fexp2 h _ => some h
  | .flog2 h _ => some h
  | .fsin h _ => some h
  | .fcos h _ => some h
  | .ftanh h _ => some h
  | .hadd2 h _ => some h
  | .hmul2 h _ => some h
  | .hfma2 h _ => some h
  | .hmin2 h _ => some h
  | .hmax2 h _ => some h
  | .hcmp2 h _ => some h
  | .dadd h _ => some h
  | .dmul h _ => some h
  | .dfma h _ => some h
  | .dcmp h _ => some h
  | .cvt h _ => some h
  | .cvtp h _ => some h
  | .cvtx h _ => some h
  | .qenc h _ => some h
  | .qdec h _ => some h
  | .bsclEnc h _ => some h
  | .bsclDec h _ => some h
  | .prmt h _ => some h
  | .pack2 h _ => some h
  | .unpk2 h _ => some h
  | .ballot h _ => some h
  | .vote h _ => some h
  | .shfl h _ => some h
  | .bcast h _ => some h
  | .rdx h _ => some h
  | .scan h _ => some h
  | .matchLanes h _ => some h
  | .mmov h _ => some h
  | .mand h _ => some h
  | .mor h _ => some h
  | .mxor h _ => some h
  | .mandn h _ => some h
  | .mpopc h _ => some h
  | .ld h _ => some h
  | .st h _ => some h
  | .ldw h _ => some h
  | .stw h _ => some h
  | .lds h _ => some h
  | .sts h _ => some h
  | .ldc h _ => some h
  | .stc h _ => some h
  | .ldu h _ => some h
  | .stu h _ => some h
  | .pref h _ => some h
  | .cctlInv1 h _ => some h
  | .cctlEv2 h _ => some h
  | .cctlUnp3 h _ => some h
  | .cctlZero h _ => some h
  | .fence h _ => some h
  | .atomAdd h _ => some h
  | .atomAnd h _ => some h
  | .atomOr h _ => some h
  | .atomXor h _ => some h
  | .atomMin h _ => some h
  | .atomMax h _ => some h
  | .atomXchg h _ => some h
  | .atomIncw h _ => some h
  | .atomAddb h _ => some h
  | .atomFadd h _ => some h
  | .atomFmin h _ => some h
  | .atomFmax h _ => some h
  | .acas h _ => some h
  | .acas2 h _ => some h
  | .redAdd h _ => some h
  | .redAnd h _ => some h
  | .redOr h _ => some h
  | .redXor h _ => some h
  | .redMin h _ => some h
  | .redMax h _ => some h
  | .redIncw h _ => some h
  | .redFadd h _ => some h
  | .redFmin h _ => some h
  | .redFmax h _ => some h
  | .lock h _ => some h
  | .lockt h _ => some h
  | .trylk h _ => some h
  | .unlock h _ => some h
  | .lkqry h _ => some h
  | .sprd h _ => some h
  | .sprd2 h _ => some h
  | .sprx h _ => some h
  | .spctx h _ => some h
  | .spwait h _ => some h
  | .spcan h _ => some h
  | .spqry h _ => some h
  | .spend h _ => some h
  | .copy h _ => some h
  | .copy2 h _ => some h
  | .copym h _ => some h
  | .copyx h _ => some h
  | .bseal h _ => some h
  | .bwait h _ => some h
  | .bqry h _ => some h
  | .slotq h _ => some h
  | .slotret h _ => some h
  | .bari h _ => some h
  | .bara h _ => some h
  | .barx h _ => some h
  | .barw h _ => some h
  | .bart h _ => some h
  | .mma h _ => some h
  | .mmas h _ => some h
  | .mmat h _ => some h
  | .mzero h _ => some h
  | .mlda h _ => some h
  | .msta h _ => some h
  | .mcvt h _ => some h
  | .mepi h _ => some h
  | .mdrain h _ => some h
  | .mseq h _ => some h
  | .mstat h _ => some h
  | .mfence h _ => some h
  | .tbar h _ => some h
  | .tarr h _ => some h
  | .twait h _ => some h
  | .tqry h _ => some h
  | .reshape h _ => some h
  | .launch h _ => some h
  | .lwait h _ => some h
  | .msgs h _ => some h
  | .msgr h _ => some h
  | .msgq h _ => some h
  | .coll h _ => some h
  | .collw h _ => some h
  | .evsig h _ => some h
  | .evwait h _ => some h
  | .trap h _ => some h
  | .tretRetry h _ => some h
  | .tretSkip h _ => some h
  | .tretEnd h _ => some h
  | .pdone h _ => some h
  | .srd h _ => some h
  | .swr h _ => some h
  | .csave h _ => some h
  | .crest h _ => some h
  | .oplr h _ => some h
  | .fresume h _ => some h
  | .tlbinv h _ => some h
  | .tlbsync h _ => some h
  | .haltHalt h _ => some h
  | .haltRel h _ => some h
  | .haltStep h _ => some h
  | .idrd h _ => some h
  | .seccall h _ => some h
  | .secwait h _ => some h
  | .attest h _ => some h
  | .recmark h _ => some h
  | .recst h _ => some h
  | .ckptreq h _ => some h
  | .samparm h _ => some h
  | .sampstop h _ => some h
  | .perfrd h _ => some h
  | .histrd h _ => some h
  | .telrd h _ => some h
  | .waitmRelease => none
  | .starvationPromotion => none
  | .loadDataReturn => none
  | .mwaitMonitorFire => none
  | .mwaitTimeout => none
  | .sleepWake => none
  | .rds => none
  | .rdxRequest => none
  | .upg => none
  | .wbd => none
  | .evc => none
  | .invack => none
  | .fwddata => none
  | .peekdata => none
  | .datas => none
  | .datae => none
  | .cmp => none
  | .invMsg => none
  | .fwds => none
  | .fwdx => none
  | .recallMsg => none
  | .peek => none
  | .wback => none
  | .retryResend => none
  | .sectorQueueNext => none
  | .homeSideOperation => none
  | .hostcoh => none
  | .pageWalkComplete => none
  | .pToSTransition => none
  | .collapse => none
  | .collapseRetry => none
  | .lockAcquireArrival => none
  | .lockTryArrival => none
  | .lockReleaseArrival => none
  | .lockAbandonArrival => none
  | .lockReply => none
  | .lockHeadReturn => none
  | .lockGraceExpiry => none
  | .lockDeadlineExpiry => none
  | .lockFullRetry => none
  | .deadlockScan => none
  | .deadlockConfirm => none
  | .copyUnitPerformed => none
  | .copyComplete => none
  | .copyxHandover => none
  | .carriedCommandTrap => none
  | .burstArrival => none
  | .sproutEnd => none
  | .matrixCommandExecute => none
  | .mseqStep => none
  | .mdrainReduction => none
  | .qtailDoorbell => none
  | .queueFetch => none
  | .launchReady => none
  | .blockDispatch => none
  | .blockSlotFree => none
  | .launchComplete => none
  | .completionEntryWrite => none
  | .teamWatchdogCheck => none
  | .messageDelivery => none
  | .mailboxFullRetry => none
  | .collectiveComplete => none
  | .fenceMarkerAnswer => none
  | .fabto => none
  | .fabricErrorPath => none
  | .apertureAccessArrival => none
  | .hostCxlMemRead => none
  | .hostCxlMemWrite => none
  | .eventCounterHostWrite => none
  | .ctxctlKill => none
  | .dieLost => none
  | .trapRecordRetry => none
  | .operandLogReissue => none
  | .oplogFailedDelivery => none
  | .deferredMchk => none
  | .pctlPre => none
  | .preempt => none
  | .forcedSave => none
  | .psaved => none
  | .pctlRes => none
  | .presumed => none
  | .haltEffect => none
  | .rctlModeRecord => none
  | .rctlModeOff => none
  | .conflictProbe => none
  | .clockForcedCheckpoint => none
  | .cut => none
  | .undoCopy => none
  | .segmentCloseTimeout => none
  | .domainCutMarker => none
  | .rpctlGo => none
  | .rpctlStop => none
  | .replay => none
  | .rpend => none
  | .replayBreakpoint => none
  | .samplerRow => none
  | .lifetimeHistogramUpdate => none
  | .dbgunlock => none
  | .lcset => none
  | .nonce => none
  | .keygen => none
  | .keymap => none
  | .mrext => none
  | .cert => none
  | .attestReport => none
  | .resetPackage => none
  | .frequencyChange => none
  | .thermalTrip => none
  | .patrolScrub => none
  | .registerWrite => none
  | .laneRetrain => none
  | .rankLost => none
  | .proxyHomeHostResponse => none

/-- The uses of a full word. -/
def usesOf : Instr → List Use
  | .pairedWord _ _ _ => []
  | .nop _ f => usesNone f
  | .bra _ f => usesBra f
  | .brx _ f => usesBrx f
  | .call _ f => usesCall f
  | .callx _ f => usesCallx f
  | .ret _ f => usesRet f
  | .exit _ f => usesNone f
  | .yield _ f => usesNone f
  | .sleep _ f => usesSleep f
  | .mwait _ f => usesMwait f
  | .brk _ f => usesCode f
  | .join _ f => usesMaskK f
  | .leave _ f => usesMaskK f
  | .waitm _ f => usesMaskK f
  | .msetNone _ f => usesMset f 0
  | .msetLive _ f => usesMset f 1
  | .msetHere _ f => usesMset f 2
  | .msetImm _ f => usesMset f 3
  | .msetSreg _ f => usesMset f 4
  | .mov _ f => usesInt1 f bitsTy false
  | .movi _ f => usesMovi f
  | .movs _ f => usesMovs f
  | .iadd _ f => usesInt f intTy true
  | .iaddi _ f => usesIaddi f
  | .isub _ f => usesInt f intTy true
  | .iaddc _ f => usesCarry f
  | .isubb _ f => usesCarry f
  | .imin _ f => usesInt f intTy false
  | .imax _ f => usesInt f intTy false
  | .iabs _ f => usesInt1 f (fun t => t == 0 || t == 2) true
  | .icmp _ f => usesIcmp f
  | .icmpi _ f => usesIcmpi f
  | .isel _ f => usesIsel f
  | .lea _ f => usesLea f
  | .and _ f => usesInt f bitsTy false
  | .or _ f => usesInt f bitsTy false
  | .xor _ f => usesInt f bitsTy false
  | .andn _ f => usesInt f bitsTy false
  | .andi _ f => usesLogicI f
  | .ori _ f => usesLogicI f
  | .xori _ f => usesLogicI f
  | .shl _ f => usesShift f
  | .shr _ f => usesShift f
  | .sha _ f => usesShift f
  | .rot _ f => usesShift f
  | .bfe _ f => usesBfe f
  | .bfi _ f => usesBfi f
  | .popc _ f => usesCount f
  | .clz _ f => usesCount f
  | .brev _ f => usesInt1 f bitsTy false
  | .imul _ f => usesInt f intTy true
  | .imulh _ f => usesInt f intTy false
  | .imad _ f => usesImad f
  | .imadw _ f => usesImadw f
  | .idiv _ f => usesDiv f
  | .irem _ f => usesDiv f
  | .fadd _ f => usesFarith f 2
  | .fsub _ f => usesFarith f 2
  | .fmul _ f => usesFarith f 2
  | .ffma _ f => usesFarith f 3
  | .fmin _ f => usesFp f [0, 10] 2 1 false false 2
  | .fmax _ f => usesFp f [0, 10] 2 1 false false 2
  | .fcmp _ f => usesFcmp f [0, 10, 12, 13] 1
  | .fsel _ f => usesFsel f
  | .fclamp _ f => usesFp f [0, 10] 3 1 false false 3
  | .frnd _ f => usesFp f [0, 10] 1 1 true false 1
  | .ffrac _ f => usesFp f [0, 10] 1 1 true false 1
  | .fclass _ f => usesFclass f
  | .fclassRdsw _ f => usesFstat f 1
  | .fclassClrsw _ f => usesFstat f 2
  | .fclassWren _ f => usesFstat f 3
  | .frcp _ f => usesFunary f
  | .frsq _ f => usesFunary f
  | .fsqrt _ f => usesFunary f
  | .fdiv _ f => usesFp f [0, 10] 2 1 true true 2
  | .fexp2 _ f => usesFunary f
  | .flog2 _ f => usesFunary f
  | .fsin _ f => usesFunary f
  | .fcos _ f => usesFunary f
  | .ftanh _ f => usesFunary f
  | .hadd2 _ f => usesHalf f 2 true
  | .hmul2 _ f => usesHalf f 2 true
  | .hfma2 _ f => usesHalf f 3 true
  | .hmin2 _ f => usesHalf f 2 false
  | .hmax2 _ f => usesHalf f 2 false
  | .hcmp2 _ f => usesHcmp f
  | .dadd _ f => usesDouble f 2
  | .dmul _ f => usesDouble f 2
  | .dfma _ f => usesDouble f 3
  | .dcmp _ f => usesFcmp f [0, 11] 2
  | .cvt _ f => usesCvt f
  | .cvtp _ f => usesCvtp f
  | .cvtx _ f => usesCvtx f
  | .qenc _ f => usesQenc f
  | .qdec _ f => usesQdec f
  | .bsclEnc _ f => usesBscl f false
  | .bsclDec _ f => usesBscl f true
  | .prmt _ f => usesPrmt f
  | .pack2 _ f => usesPack2 f
  | .unpk2 _ f => usesUnpk2 f
  | .ballot _ f => usesBallot f
  | .vote _ f => usesVote f
  | .shfl _ f => usesShfl f
  | .bcast _ f => usesBcast f
  | .rdx _ f => usesFold f false
  | .scan _ f => usesFold f true
  | .matchLanes _ f => usesMatch f
  | .mmov _ f => usesMmov f
  | .mand _ f => usesMlogic f
  | .mor _ f => usesMlogic f
  | .mxor _ f => usesMlogic f
  | .mandn _ f => usesMlogic f
  | .mpopc _ f => usesMpopc f
  | .ld h f => usesLoad h f 0
  | .st h f => usesStore h f 0
  | .ldw h f => usesGroup h f false
  | .stw h f => usesGroup h f true
  | .lds h f => usesLoad h f 1
  | .sts h f => usesStore h f 1
  | .ldc h f => usesLoad h f 2
  | .stc h f => usesStore h f 2
  | .ldu h f => usesUniform h f false
  | .stu h f => usesUniform h f true
  | .pref h f => usesHint h f (decide (f.d.toNat ≤ 2))
  | .cctlInv1 h f => usesHint h f (f.d == 0)
  | .cctlEv2 h f => usesHint h f (f.d == 1)
  | .cctlUnp3 h f => usesHint h f (f.d == 2)
  | .cctlZero h f => usesHint h f (f.d == 3)
  | .fence _ f => usesFence f
  | .atomAdd h f => usesAtom h f [0, 1, 2, 3] false false
  | .atomAnd h f => usesAtom h f [0, 1, 2, 3] false false
  | .atomOr h f => usesAtom h f [0, 1, 2, 3] false false
  | .atomXor h f => usesAtom h f [0, 1, 2, 3] false false
  | .atomMin h f => usesAtom h f [0, 1, 2, 3] false false
  | .atomMax h f => usesAtom h f [0, 1, 2, 3] false false
  | .atomXchg h f => usesAtom h f [0, 1, 2, 3] false false
  | .atomIncw h f => usesAtom h f [1, 3] false false
  | .atomAddb h f => usesAddb h f
  | .atomFadd h f => usesAtom h f [4, 5] false false
  | .atomFmin h f => usesAtom h f [4, 5] false false
  | .atomFmax h f => usesAtom h f [4, 5] false false
  | .acas h f => usesAtom h f [2, 3] false true
  | .acas2 h f => usesAtom h f [6] false true
  | .redAdd h f => usesAtom h f [0, 1, 2, 3] true false
  | .redAnd h f => usesAtom h f [0, 1, 2, 3] true false
  | .redOr h f => usesAtom h f [0, 1, 2, 3] true false
  | .redXor h f => usesAtom h f [0, 1, 2, 3] true false
  | .redMin h f => usesAtom h f [0, 1, 2, 3] true false
  | .redMax h f => usesAtom h f [0, 1, 2, 3] true false
  | .redIncw h f => usesAtom h f [1, 3] true false
  | .redFadd h f => usesAtom h f [4, 5] true false
  | .redFmin h f => usesAtom h f [4, 5] true false
  | .redFmax h f => usesAtom h f [4, 5] true false
  | .lock _ f => usesLock f false
  | .lockt _ f => usesLock f true
  | .trylk _ f => usesLock f false
  | .unlock _ f => usesUnlock f
  | .lkqry _ f => usesLkqry f
  | .sprd _ f => usesSprd f 0
  | .sprd2 _ f => usesSprd f 1
  | .sprx _ f => usesSprx f
  | .spctx _ f => usesSpctx f
  | .spwait _ f => usesSpwait f
  | .spcan _ f => usesSpcan f
  | .spqry _ f => usesSpqry f
  | .spend _ f => usesNone f
  | .copy _ f => usesCopy f 0
  | .copy2 _ f => usesCopy f 1
  | .copym _ f => usesCopy f 2
  | .copyx _ f => usesCopy f 3
  | .bseal _ f => usesBseal f
  | .bwait _ f => usesBwait f
  | .bqry _ f => usesBqry f
  | .slotq _ f => usesSlotq f
  | .slotret _ f => usesSlotret f
  | .bari _ f => usesBar f 0
  | .bara _ f => usesBar f 1
  | .barx _ f => usesBar f 2
  | .barw _ f => usesBar f 3
  | .bart _ f => usesBar f 4
  | .mma _ f => usesMma f
  | .mmas _ f => usesMmas f
  | .mmat _ f => usesMmat f
  | .mzero _ f => usesMzero f
  | .mlda _ f => usesMtile f
  | .msta _ f => usesMtile f
  | .mcvt _ f => usesMcvt f
  | .mepi _ f => usesMepi f
  | .mdrain _ f => usesMdrain f
  | .mseq _ f => usesMseq f
  | .mstat _ f => usesMstat f
  | .mfence _ f => usesMfence f
  | .tbar _ f => usesTbar f
  | .tarr _ f => usesTarr f
  | .twait _ f => usesTwait f
  | .tqry _ f => usesTqry f
  | .reshape _ f => usesReshape f
  | .launch _ f => usesLaunch f
  | .lwait _ f => usesLwait f
  | .msgs _ f => usesMsgs f
  | .msgr _ f => usesMsgr f
  | .msgq _ f => usesMsgq f
  | .coll _ f => usesColl f
  | .collw _ f => usesCollw f
  | .evsig _ f => usesEvent f
  | .evwait _ f => usesEvent f
  | .trap _ f => usesCode f
  | .tretRetry _ f => usesTret f 0
  | .tretSkip _ f => usesTret f 1
  | .tretEnd _ f => usesTret f 2
  | .pdone _ f => usesNone f
  | .srd _ f => usesSrd f
  | .swr _ f => usesSwr f
  | .csave _ f => usesCsave f true
  | .crest _ f => usesCsave f false
  | .oplr _ f => usesOplr f
  | .fresume _ f => usesFresume f
  | .tlbinv _ f => usesTlbinv f
  | .tlbsync _ f => usesNone f
  | .haltHalt _ f => usesHalt f 0
  | .haltRel _ f => usesHalt f 1
  | .haltStep _ f => usesHalt f 2
  | .idrd _ f => usesIdrd f
  | .seccall _ f => usesService f
  | .secwait _ f => usesSecwait f
  | .attest _ f => usesService f
  | .recmark _ f => usesRecmark f
  | .recst _ f => usesRecst f
  | .ckptreq _ f => usesCkptreq f
  | .samparm _ f => usesSamparm f
  | .sampstop _ f => usesNone f
  | .perfrd _ f => usesPerfrd f
  | .histrd _ f => usesHistrd f
  | .telrd _ f => usesTelrd f
  | .waitmRelease => []
  | .starvationPromotion => []
  | .loadDataReturn => []
  | .mwaitMonitorFire => []
  | .mwaitTimeout => []
  | .sleepWake => []
  | .rds => []
  | .rdxRequest => []
  | .upg => []
  | .wbd => []
  | .evc => []
  | .invack => []
  | .fwddata => []
  | .peekdata => []
  | .datas => []
  | .datae => []
  | .cmp => []
  | .invMsg => []
  | .fwds => []
  | .fwdx => []
  | .recallMsg => []
  | .peek => []
  | .wback => []
  | .retryResend => []
  | .sectorQueueNext => []
  | .homeSideOperation => []
  | .hostcoh => []
  | .pageWalkComplete => []
  | .pToSTransition => []
  | .collapse => []
  | .collapseRetry => []
  | .lockAcquireArrival => []
  | .lockTryArrival => []
  | .lockReleaseArrival => []
  | .lockAbandonArrival => []
  | .lockReply => []
  | .lockHeadReturn => []
  | .lockGraceExpiry => []
  | .lockDeadlineExpiry => []
  | .lockFullRetry => []
  | .deadlockScan => []
  | .deadlockConfirm => []
  | .copyUnitPerformed => []
  | .copyComplete => []
  | .copyxHandover => []
  | .carriedCommandTrap => []
  | .burstArrival => []
  | .sproutEnd => []
  | .matrixCommandExecute => []
  | .mseqStep => []
  | .mdrainReduction => []
  | .qtailDoorbell => []
  | .queueFetch => []
  | .launchReady => []
  | .blockDispatch => []
  | .blockSlotFree => []
  | .launchComplete => []
  | .completionEntryWrite => []
  | .teamWatchdogCheck => []
  | .messageDelivery => []
  | .mailboxFullRetry => []
  | .collectiveComplete => []
  | .fenceMarkerAnswer => []
  | .fabto => []
  | .fabricErrorPath => []
  | .apertureAccessArrival => []
  | .hostCxlMemRead => []
  | .hostCxlMemWrite => []
  | .eventCounterHostWrite => []
  | .ctxctlKill => []
  | .dieLost => []
  | .trapRecordRetry => []
  | .operandLogReissue => []
  | .oplogFailedDelivery => []
  | .deferredMchk => []
  | .pctlPre => []
  | .preempt => []
  | .forcedSave => []
  | .psaved => []
  | .pctlRes => []
  | .presumed => []
  | .haltEffect => []
  | .rctlModeRecord => []
  | .rctlModeOff => []
  | .conflictProbe => []
  | .clockForcedCheckpoint => []
  | .cut => []
  | .undoCopy => []
  | .segmentCloseTimeout => []
  | .domainCutMarker => []
  | .rpctlGo => []
  | .rpctlStop => []
  | .replay => []
  | .rpend => []
  | .replayBreakpoint => []
  | .samplerRow => []
  | .lifetimeHistogramUpdate => []
  | .dbgunlock => []
  | .lcset => []
  | .nonce => []
  | .keygen => []
  | .keymap => []
  | .mrext => []
  | .cert => []
  | .attestReport => []
  | .resetPackage => []
  | .frequencyChange => []
  | .thermalTrip => []
  | .patrolScrub => []
  | .registerWrite => []
  | .laneRetrain => []
  | .rankLost => []
  | .proxyHomeHostResponse => []

/-- The word's chain bit C (R37, R38). -/
def chainBit (i : Instr) : Bool :=
  match i with
  | .pairedWord c _ _ => c
  | i => ((hdrOf i).map Hdr.chain).getD false

/-- The class of a full word. -/
def classOf (i : Instr) : Option Nat := (opcodeOf i).map (· / 64)

/-- The word is one of a unit that issues, not an event. -/
def isWord (i : Instr) : Bool :=
  match i with
  | .pairedWord _ _ _ => true
  | i => (opcodeOf i).isSome

/-! ## Prefixes (R54 to R56) -/

/-- What an instruction accepts of PFX: OVO, its allowed ORD codes, OVS, OVP, OVX (R56). -/
structure PfxRule where
  ovo : Bool
  ords : List Nat
  ovs : Bool
  ovp : Bool
  ovx : Bool
  deriving DecidableEq, Repr

/-- The table of R56 by opcode; none where a PFX is illegal. -/
def pfxRule (op : Nat) : Option PfxRule :=
  if [0x180, 0x182, 0x186, 0x188].contains op then some ⟨true, [0, 1], true, true, true⟩
  else if [0x181, 0x183, 0x187, 0x189].contains op then some ⟨true, [0, 2], true, true, true⟩
  else if op == 0x184 then some ⟨true, [0, 1], false, true, true⟩
  else if op == 0x185 then some ⟨true, [0, 2], false, true, true⟩
  else if op == 0x18A || op == 0x18B then some ⟨false, [], false, true, true⟩
  else if 0x1C0 ≤ op && op ≤ 0x1CD then some ⟨true, [0, 1, 2, 3], true, true, true⟩
  else if 0x1D0 ≤ op && op ≤ 0x1D9 then some ⟨true, [0, 2], true, true, true⟩
  else if 0x1E0 ≤ op && op ≤ 0x1E4 then some ⟨true, [0], false, false, false⟩
  else if op == 0x009 then some ⟨true, [0, 1], false, true, false⟩
  else if [0x200, 0x201, 0x202, 0x240, 0x241, 0x242, 0x243].contains op then some ⟨false, [], false, true, false⟩
  else none

/-- A PFX word is legal in itself: fields of groups not overridden are 0, no reserved value (R55). -/
def pfxPlain (p : Pfx) : Bool :=
  (p.ovo || (p.ord == 0 && p.scope == 0)) && (p.ovs || p.space == 0) && (p.ovp || p.pol == 0)
    && (p.ovx || p.off32 == 0) && p.scope != 7 && decide (p.space.toNat ≤ 2) && decide (p.pol.toNat ≤ 5)

/-- A PFX before an opcode is legal (R56). One that overrides nothing is so before a lock instruction too, of which R289 names only a PFX
with OVO and ORD = 0 (log entry 84). -/
def pfxOk (op : Nat) (p : Pfx) : Bool :=
  match pfxRule op with
  | none => false
  | some r => pfxPlain p && (!p.ovo || (r.ovo && r.ords.contains p.ord.toNat)) && (!p.ovs || r.ovs)
      && (!p.ovp || r.ovp) && (!p.ovx || r.ovx)

/-- With OVX, the instruction's own offset is 0 (R55). -/
def offZero (i : Instr) : Bool :=
  match i with
  | .ld _ f | .st _ f | .ldw _ f | .stw _ f | .lds _ f | .sts _ f | .ldc _ f | .stc _ f | .ldu _ f | .stu _ f
  | .pref _ f | .cctlInv1 _ f | .cctlEv2 _ f | .cctlUnp3 _ f | .cctlZero _ f
  | .atomAdd _ f | .atomAnd _ f | .atomOr _ f | .atomXor _ f | .atomMin _ f | .atomMax _ f | .atomXchg _ f
  | .atomIncw _ f | .atomFadd _ f | .atomFmin _ f | .atomFmax _ f | .acas _ f | .acas2 _ f
  | .redAdd _ f | .redAnd _ f | .redOr _ f | .redXor _ f | .redMin _ f | .redMax _ f | .redIncw _ f
  | .redFadd _ f | .redFmin _ f | .redFmax _ f => f.off == 0
  | .atomAddb _ f => f.off.extractLsb' 0 15 == 0
  | _ => true

/-- The IMM24 of a format-I word; none for the other formats (R54). -/
def imm24Of (i : Instr) : Option (BitVec 24) :=
  match i with
  | .sleep _ f | .msetImm _ f | .movi _ f | .iaddi _ f | .icmpi _ f | .andi _ f | .ori _ f | .xori _ f => some f.imm
  | _ => none

/-- IMX is consumed, where it stands (R54, R99): by a format-I word whose IMM24 is 0, or by a source
field of 255. -/
def imxOk (i : Instr) (imx : Bool) : Bool :=
  !imx || (match imm24Of i with
    | some m => m == 0
    | none => (usesOf i).any Use.takesImx)

/-! ## Paired words (R38 to R42) -/

/-- op6 is a register form, which reads D (R40). -/
def halfReadsD (op : Nat) : Bool := (0x03 ≤ op && op ≤ 0x09) || (0x0E ≤ op && op ≤ 0x13)

/-- A half is legal in itself (R39, R40). -/
def halfOk (h : PHalf) : Bool :=
  let op := h.op6.toNat
  let im := h.imm6.toNat
  if op == 0 then h.d == 0 && h.s == 0 && h.imm6 == 0
  else decide (op ≤ 0x14) && decide (h.d.toNat < 240) && decide (h.s.toNat ≤ 245)
    && (!(halfReadsD op || op == 1) || im == 0)
    && (!(0x0B ≤ op && op ≤ 0x0D) || decide (im < 32))
    && (op != 0x14 || h.s == 0)

/-- v registers that a half reads, counted for the banks (R41). -/
def halfReads (h : PHalf) : List Nat :=
  let op := h.op6.toNat
  if op == 0 then []
  else (if op != 0x14 && h.s.toNat < 240 then [h.s.toNat] else []) ++ (if halfReadsD op then [h.d.toNat] else [])

/-- The bank rules of R41. S of MOVI, which must be 0 and is not read, is no counted read (log entry
21). -/
def banksOk (a b : PHalf) : Bool :=
  let rd := halfReads a ++ halfReads b
  (a.op6 == 0 || b.op6 == 0 || a.d.toNat % 4 != b.d.toNat % 4)
    && [0, 1, 2, 3].all fun k => decide ((rd.filter fun r => r % 4 == k).length ≤ 2)

/-! ## Legality -/

/-- The word and its prefixes obey the rules that hold of every word (R38 to R41, R50, R54 to R56): the halves
of a paired word, IMX and the source field value 255, PFX. -/
def legalForm (i : Instr) : Bool :=
  match i with
  | .pairedWord _ a b => halfOk a && halfOk b && banksOk a b
  | i =>
    match hdrOf i, opcodeOf i with
    | some h, some op =>
      (h.imx.isSome || !(usesOf i).any Use.takesImx) && imxOk i h.imx.isSome
        && (match h.pfx with
            | none => true
            | some p => pfxOk op p && (!p.ovx || offZero i))
    | _, _ => true

/-- The word obeys the rules of its own entry: its fields are as R50 to R53 and the entry ask (R63). -/
def legalEntry (i : Instr) : Bool :=
  match i with
  | .pairedWord _ _ _ => true
  | i =>
    match hdrOf i with
    | some h => (usesOf i).all (Use.legal h.imx.isSome)
    | none => true

/-- The word is legal as encoded: every rule of the encoding chapter and of its entry (R63), without
its place in a chain. -/
def legalWord (i : Instr) : Bool := legalForm i && legalEntry i

/-- Words of the issue unit: the prefixes and the instruction's own (R57). -/
def unitLen (i : Instr) : Nat :=
  match hdrOf i with
  | some h => 1 + (if h.pfx.isSome then 1 else 0) + (if h.imx.isSome then 1 else 0)
  | none => 1

/-- A word that may continue a chain (R58): classes 1 to 4, NOP and paired words. -/
def mayContinue (i : Instr) : Bool :=
  match i with
  | .pairedWord _ _ _ => true
  | .nop _ _ => true
  | i => match classOf i with
    | some c => 1 ≤ c && c ≤ 4
    | none => false

/-- The word's chain bit is legal at a position (R58): the unit starts at `pos`, counting prefixes. -/
def chainOk (i : Instr) (pos : Nat) : Bool :=
  decide (pos + unitLen i ≤ 8) && (!chainBit i || (mayContinue i && decide (pos + unitLen i < 8)))

/-- The word issues on the memory/engine port (R82). -/
def memPort (i : Instr) : Bool :=
  match opcodeOf i with
  | some op => op == 0x009 || op / 64 ≥ 6
  | none => false

/-- A result-producing word (R59): classes 1 to 4 with a v destination. -/
def producesResult (i : Instr) : Bool :=
  match classOf i with
  | some c => 1 ≤ c && c ≤ 4
  | none => false

/-- A sprout thread may execute the word (R329). -/
def sproutMay (i : Instr) : Bool :=
  match opcodeOf i with
  | none => true
  | some op =>
    let c := op / 64
    let k := op % 64
    c ≤ 6 || (c == 7 && k < 0x20) || (c == 8 && (k == 6 || k == 7)) || (c == 12 && (k == 0 || k == 3 || k == 4))

end Sys2Proof.Machine
end

