-- ==== Sys2Proof/Machine/Operands.lean ====
section
/-! DEFINITION. Every operand form of the words: v, uniform, mask and predicate registers (R66), yard
latches (R59), source fields (R50, R51, R54), results (R52) and guards (R88). -/

namespace Sys2Proof.Machine

/-! ## Registers -/

/-- A v register of a thread; one that nothing has written is 0 (R387). -/
def State.vreg (s : State) (t : TRef) (r : Nat) : Word := fgetD (s.thread t).v r 0

/-- A v register written. -/
def State.setV (s : State) (t : TRef) (r : Nat) (x : Word) : State :=
  s.modThread t fun th => { th with v := fsetD th.v r x 0 }

/-- Consecutive v registers written, ascending. -/
def State.setVs (s : State) (t : TRef) (r : Nat) : List Word → State
  | [] => s
  | x :: xs => (s.setV t r x).setVs t (r + 1) xs

/-- The wave is a sprout thread. -/
def Wave.isSprout (w : Wave) : Bool := w.sprout.isSome

/-- A uniform register; in a sprout thread s16 to s63 read 0 (R327). -/
def State.sreg (s : State) (u r : Nat) : Word :=
  let w := s.wave u
  if w.isSprout && r ≥ 16 then 0 else fgetD w.s r 0

/-- A uniform register written; in a sprout thread only s8 to s15 take a write (R327). -/
def State.setS (s : State) (u r : Nat) (x : Word) : State :=
  let w := s.wave u
  if w.isSprout && (r < 8 || r ≥ 16) then s else s.setWave u { w with s := fsetD w.s r x 0 }

/-- Consecutive uniform registers written, ascending. -/
def State.setSs (s : State) (u r : Nat) : List Word → State
  | [] => s
  | x :: xs => (s.setS u r x).setSs u (r + 1) xs

/-- A 64-bit uniform pair. -/
def State.sreg64 (s : State) (u r : Nat) : Dword := s.sreg u (r + 1) ++ s.sreg u r

/-- The bits of a wave's mask that exist (R92). -/
def widthMask (w : Nat) : Dword := BitVec.ofNat 64 (2 ^ w - 1)

/-- A mask register; 0 in a sprout thread (R98). -/
def State.mreg (s : State) (u k : Nat) : Dword :=
  let w := s.wave u
  if w.isSprout then 0 else fgetD w.m k 0

/-- A mask register written: bits at the width and above are discarded (R92), and a sprout thread
discards all (R98). -/
def State.setM (s : State) (u k : Nat) (x : Dword) : State :=
  let w := s.wave u
  if w.isSprout then s else s.setWave u { w with m := fsetD w.m k (x &&& widthMask w.width) 0 }

/-- A predicate; p7 reads 1 (R66). -/
def State.preg (s : State) (t : TRef) (p : Nat) : Bool := p == 7 || (s.thread t).p.getLsbD p

/-- A predicate written; a write to p7 is discarded (R52). -/
def State.setP (s : State) (t : TRef) (p : Nat) (b : Bool) : State :=
  if p ≥ 7 then s
  else s.modThread t fun th =>
    { th with p := if b then th.p ||| BitVec.ofNat 7 (2 ^ p) else th.p &&& ~~~(BitVec.ofNat 7 (2 ^ p)) }

/-- Lane of the core of a thread (R77). -/
def State.laneid (s : State) (t : TRef) : Nat := (s.wave t.u).lane + t.i

/-- A yard latch, if it is valid (R59). -/
def State.latch (s : State) (t : TRef) (k : Nat) : Option Word := (s.thread t).y[k]?

/-- Results shift the latches, low word first (R59). -/
def State.shift (s : State) (t : TRef) (xs : List Word) : State :=
  s.modThread t fun th => { th with y := (xs.foldl (fun y x => x :: y) th.y).take 4 }

/-- Word `k` of a source field's operand (R50, R51): word 0 of a 32-bit source. `imx` is the value of
the IMX word, sign-extended for higher words. -/
def State.srcWord (s : State) (t : TRef) (imx : Option Word) (f : BitVec 8) (u : Bool) (k : Nat) : Word :=
  let v := f.toNat
  if u then s.sreg t.u (v + k)
  else if v < 240 then s.vreg t (v + k)
  else if v < 244 then (s.latch t (v - 240)).getD 0
  else if v == 244 then 0
  else if v == 245 then BitVec.ofNat 32 (s.laneid t)
  else
    let x := imx.getD 0
    if k == 0 then x else if x.msb then 0xFFFFFFFF else 0

/-- A 32-bit source. -/
def State.src (s : State) (t : TRef) (h : Hdr) (f : BitVec 8) (u : Bool) : Word := s.srcWord t h.imx f u 0

/-- A 64-bit source. -/
def State.src64 (s : State) (t : TRef) (h : Hdr) (f : BitVec 8) (u : Bool) : Dword :=
  s.srcWord t h.imx f u 1 ++ s.srcWord t h.imx f u 0

/-- A source of `n` words as a number. -/
def State.srcNat (s : State) (t : TRef) (h : Hdr) (f : BitVec 8) (u : Bool) (n : Nat) : Nat :=
  if n == 2 then (s.src64 t h f u).toNat else (s.src t h f u).toNat

/-- A number as `n` words, low word first. -/
def toWords (v n : Nat) : List Word := (upto 0 n).map fun k => BitVec.ofNat 32 (v >>> (32 * k))

/-- A result of `n` words: written unless W, and shifted into the latches (R52, R59). -/
def State.result (s : State) (t : TRef) (d : BitVec 8) (w : Bool) (n v : Nat) : State :=
  let xs := toWords v n
  (if w then s else s.setVs t d.toNat xs).shift t xs

/-- The guard of a full word or half (R88). -/
def State.guard (s : State) (t : TRef) (neg : Bool) (p : BitVec 3) : Bool := s.preg t p.toNat != neg

end Sys2Proof.Machine
end

