-- ==== Sys2Proof/Machine/Ops.lean ====
section
/-! DEFINITION. The named operations that the meanings share: the answer of a unit, taking a trap (R419 to
R430) and returning from one (R449), and the exit of a thread (R94, R102, R389 to R392). -/

namespace Sys2Proof.Machine

/-! ## Threads of a wave -/

/-- The wave indices of a wave's live threads: those not exited. -/
def Wave.live (w : Wave) : List Nat := (w.threads.filter fun e => e.2.st != .exited).map Prod.fst

/-- The bits of a list of wave indices. -/
def bitsOf (l : List Nat) : Nat := l.foldl (fun m i => m ||| 2 ^ i) 0

/-- A wave's threads among some, ascending. -/
def threadsOf (l : List TRef) (u : Nat) : List Nat := sortBy id ((l.filter fun t => t.u == u).map TRef.i)

/-- The waves among some threads, in order. -/
def wavesOf (l : List TRef) : List Nat := dedup (l.map TRef.u)

/-- A thread becomes ready now (R79). -/
def State.ready (s : State) (t : TRef) : State :=
  s.modThread t fun th => { th with st := .ready, readyAt := s.steps }

/-- A thread becomes ready now at a PC. -/
def State.readyAt (s : State) (t : TRef) (pc : Nat) : State :=
  s.modThread t fun th => { th with st := .ready, readyAt := s.steps, pc := pc }

/-- Every thread of a core that waits on a page walk becomes ready. -/
def State.wakeWalks (s : State) (who : List TRef) : State :=
  who.foldl (fun s t => if (s.thread t).st == TState.waiting Wait.walk then s.ready t else s) s

/-! ## The answer of a unit -/

/-- A cause that a thread met: `rank` places it in the order of R172 and R420 within the word. -/
structure Hit where
  t : TRef
  rank : Nat
  cause : Cause
  /-- DET of R422. -/
  det : Nat
  /-- The thread's faulting address, where R421 asks for it. -/
  addr : Option Nat
  /-- Physical address of an MCHK (R430). -/
  pa : Nat
  deriving DecidableEq, Repr

/-- What came of a word. -/
inductive Res where
  /-- It took effect. -/
  | ok (s : State)
  /-- Some threads met causes; nothing took effect, but for flags to OR in (R197). -/
  | trap (hits : List Hit) (flags : FMap Nat)
  /-- It has to wait and has no effect yet. -/
  | stall
  /-- It took effect for all but these threads, which wait. -/
  | part (s : State) (left : List TRef)
  /-- It took effect for all but these waves, which wait. -/
  | waves (s : State) (left : List Nat)
  /-- It has to wait, after a first effect that stands by itself. -/
  | again (f : State → State)
  /-- The pages named need walks (R156): thread, address, written. -/
  | walk (l : List (TRef × Nat × Bool))
  /-- The unit enters the operand log (R431): per wave the entry, with the fault of each wave. -/
  | log (l : List (Nat × LogEntry))
  /-- In a replay the unit is held READY in the operand log until the log's REISS (R486). -/
  | hold (l : List (Nat × LogEntry))

/-- The threads that report: those that met the first cause (R172, R421). -/
def firstHits (l : List Hit) : List Hit :=
  let r := (l.map Hit.rank).foldl min 1000000
  l.filter fun h => h.rank == r

/-- A function of each thread in turn, each to the state the one before left; the causes met are
gathered, and with any of them nothing takes effect. -/
def perThread (l : List TRef) (s : State) (f : State → TRef → Except Hit State) : Res :=
  let r := l.foldl (fun (a : State × List Hit) t =>
    match f a.1 t with
    | .ok s' => (s', a.2)
    | .error h => (a.1, a.2 ++ [h])) (s, [])
  if r.2.isEmpty then .ok r.1 else .trap (firstHits r.2) []

/-- A hit at a thread. -/
def hit (t : TRef) (rank : Nat) (c : Cause) (det : Nat) : Hit :=
  { t := t, rank := rank, cause := c, det := det, addr := none, pa := 0 }

/-- The same hit in every thread. -/
def hitAll (l : List TRef) (rank : Nat) (c : Cause) (det : Nat) : Res := .trap (l.map fun t => hit t rank c det) []

/-- Rank of ILLEGAL, PRIV, BOUNDS of R53 and LATCH: before an entry's own causes (R65). -/
def rankPre : Nat := 0
/-- Rank of an entry's `k`-th own cause. -/
def rankOwn (k : Nat) : Nat := 10 + k
/-- Rank of MATH and of a precise MCHK (R420). -/
def rankMath : Nat := 1000
def rankMchk : Nat := 1001

/-! ## The trap report (R421 to R430) -/

/-- Cause codes (R419). -/
def Cause.code : Cause → Nat
  | .illegal => 1 | .priv => 2 | .memfault => 3 | .align => 4 | .bounds => 5 | .latch => 6 | .lockfault => 7
  | .math => 8 | .watchdog => 9 | .debug => 10 | .preempt => 11 | .replay => 12 | .mchk => 13

/-- What one thread reports: cause, sr.trapinfo without DSRC 4, sr.trapaddr, TPC, SKIP, the record's
PC and physical address, the kind and log entry (R421, R422, R430). -/
structure Report where
  t : TRef
  cause : Cause
  info : Nat
  addr : Nat
  tpc : Nat
  skip : Nat
  recPc : Nat
  pa : Nat
  deriving DecidableEq, Repr

/-- How a trap is dealt with (R425). -/
inductive Mode where
  | queue | inThread (hpc : Nat) | kill | halt
  deriving DecidableEq, Repr

/-- The vector entry of a cause (R424): read at level H through the context's own translation. With
TVB.V = 0 every entry is MODE 0 but PREEMPT's; a fault on reading it gives MODE 2. An HPC that is no multiple of 8 breaks an entry of
MODE 1 only, since the others have no handler (log entry 100). -/
def State.vectorMode (s : State) (core c : Nat) (cause : Cause) : Mode :=
  let tvb := (s.ctx c).tvb.toNat
  if tvb % 2 == 0 then (if cause == .preempt then .kill else .queue)
  else
    match s.vread core c (bits tvb 55 8 * 256 + 16 * cause.code) 16 with
    | none => .kill
    | some e =>
      let hpc := bits e 55 0
      let bad := bits e 127 64 != 0 || bits e 61 56 != 0 || (bits e 63 62 == 1 && hpc % 8 != 0)
      let m : Mode := if bad then .queue else match bits e 63 62 with
        | 0 => .queue
        | 1 => .inThread hpc
        | 2 => .kill
        | _ => .halt
      if cause == .preempt then (match m with | .inThread h => .inThread h | _ => .kill) else m

/-- FQBd of a context (R428). A fault queue whose first sector, or whose next slot, has its home on a lost M-die is as one that is not
valid (log entry 88). -/
def State.fqb (s : State) (c d : Nat) : Nat :=
  let q := (fgetD (s.ctx c).fqb d 0).toNat
  let base := bits q 51 12 * 4096
  let lost := s.lostHome base || (!s.deadM.isEmpty && s.lostHome (base + 64 + 64 * (s.peek base 8 % (64 * 2 ^ bits q 11 8))))
  if lost then q / 2 * 2 else q

/-- The mode after the overrides of R425: INH, a sprout thread, a fetch fault, and MODE 0 or 3 without
a fault queue. -/
def State.modeOf (s : State) (t : TRef) (cause : Cause) (fetch : Bool) : Mode :=
  let w := s.wave t.u
  let m := s.vectorMode w.core w.ctx cause
  let m := if (w.thread t.i).inh && cause != .preempt then .queue else m
  let m := if fetch then .queue else m
  let m := if w.isSprout then (match m with | .kill => .kill | _ => if cause == .preempt then .kill else .queue) else m
  match m with
  | .queue | .halt => if s.fqb w.ctx (dieOf w.core) % 2 == 0 then .kill else m
  | m => m

/-- The fault queue of a context and die has its next `n` slots free (R427). -/
def State.fqRoom (s : State) (c d n : Nat) : Bool :=
  let q := s.fqb c d
  let base := bits q 51 12 * 4096
  let prod := s.peek base 8
  decide (n ≤ 64 * 2 ^ bits q 11 8) && (upto 0 n).all fun k =>
    s.peek (base + 64 + 64 * ((prod + k) % (64 * 2 ^ bits q 11 8)) + 56) 8 == 0

/-- A record is written to the fault queue (R427, R430): `r` is the record without TICK and SEQ. -/
def State.fqPost (s : State) (c d : Nat) (r : Nat) : State :=
  let q := s.fqb c d
  let base := bits q 51 12 * 4096
  let prod := s.peek base 8
  let at_ := base + 64 + 64 * (prod % (64 * 2 ^ bits q 11 8))
  let r := r % 2 ^ 384 + s.ptb % 2 ^ 64 * 2 ^ 384 + (prod + 1) % 2 ^ 64 * 2 ^ 448
  (s.agentPut at_ r 64).agentPut base (prod + 1) 8

/-- A trap record of R430 without TICK and SEQ. -/
def trapRecord (w : Wave) (mask pc cause info kind loge va lane pa : Nat) : Nat :=
  mask % 2 ^ 64 + pc % 2 ^ 56 * 2 ^ 64 + cause * 2 ^ 120 + info % 2 ^ 32 * 2 ^ 128 + w.tag.toNat * 2 ^ 160
    + w.ctx * 2 ^ 192 + (if w.isSprout then 3 else kind) * 2 ^ 198 + loge * 2 ^ 200 + w.core * 2 ^ 208
    + (match w.sprout with | some p => p.req | none => 0) * 2 ^ 224
    + va % 2 ^ 56 * 2 ^ 256 + lane * 2 ^ 312 + pa % 2 ^ 52 * 2 ^ 320

/-- The thread takes its report (R421): trap registers, TPC and SKIP; no latch stays valid, and the walk faults that
it held are taken. -/
def Thread.takeReport (th : Thread) (r : Report) (info : Nat) : Thread :=
  { th with tcause := BitVec.ofNat 32 r.cause.code, taddr := BitVec.ofNat 64 r.addr, tinfo := BitVec.ofNat 32 info,
            tpc := r.tpc, skip := r.skip, y := [], wfault := [], past := 0, burst := if r.cause == .mchk then none else th.burst }

/-- A report needs a place in the fault queue. -/
def State.needsQueue (s : State) (r : Report) (fetch : Bool) : Bool :=
  match s.modeOf r.t r.cause fetch with
  | .queue | .halt => true
  | _ => false

/-- The reports of one wave with one cause are dealt with (R425): in-thread handlers start, trapped
threads stop with one record for them, a halt stops the wave, and a kill comes next. -/
def State.deliverWave (s : State) (u : Nat) (rs : List Report) (fetch : Bool) (kind loge : Nat) : State :=
  let w := s.wave u
  let c := w.ctx
  let queued := rs.filter fun r => s.needsQueue r fetch
  let halt := queued.any fun r => match s.modeOf r.t r.cause fetch with | .halt => true | _ => false
  let info := fun (r : Report) => match s.modeOf r.t r.cause fetch with
    | .halt => setBits r.info 19 16 4
    | _ => r.info
  let s1 := rs.foldl (fun s1 r =>
    match s.modeOf r.t r.cause fetch with
    | .inThread hpc => s1.modThread r.t fun th =>
        { th.takeReport r r.info with pc := hpc, st := .ready, inh := true, inhPre := r.cause == .preempt, pdn := false,
                                      readyAt := s.steps }
    | .kill => s1.modThread r.t fun th => { th.takeReport r r.info with st := .trapped }
    | _ => s1.modThread r.t fun th => { th.takeReport r (info r) with st := .trapped }) s
  let s1 := match queued with
    | [] => s1
    | r :: _ =>
      s1.fqPost c (dieOf w.core)
        (trapRecord w (bitsOf (queued.map fun r => r.t.i)) r.recPc r.cause.code (info r) kind loge r.addr r.t.i r.pa)
  let s1 := if halt then s1.modWave u fun w => { w with halted := true } else s1
  let killed := rs.filter fun r => s.modeOf r.t r.cause fetch == .kill
  match killed with
  | [] => s1
  | r :: _ =>
    if r.cause == .preempt then s1
    else (s1.post 0 "TRAPKILL" (BitVec.ofNat 64 (c * 256 + r.cause.code))).soon .ctxctlKill { (default : EvArg) with n := c }

/-! ## Order before a record (R427) -/

/-- The access reads. -/
def Access.isRead (a : Access) : Bool :=
  match a.kind with
  | .store | .pref _ => false
  | _ => true

/-- The access has been performed at a scope: only a scope of the domain or wider waits for a write to another device
(R239). An MWAIT that watches has still to make its last read (R108, R231). -/
def Access.performedAt (a : Access) (scope : Nat) : Bool :=
  match a.st with
  | .done _ _ | .poisoned _ _ | .failed => true
  | .remote => !a.isRead && decide (scope < 5)
  | _ => (match a.kind with
    | .pref _ => true
    | _ => false)

/-- The access is an MWAIT's. -/
def Access.isMwait (a : Access) : Bool :=
  match a.kind with
  | .mwait _ => true
  | _ => false

/-- An MWAIT that waits for its monitor. -/
def Access.watches (a : Access) : Bool :=
  match a.st with
  | .watching _ _ => true
  | _ => false

/-- A store on its way to another device. -/
def Access.remoteStore (a : Access) : Bool := a.st == .remote && !a.isRead

/-- A release at a scope has nothing to wait for in an access: it is performed, or it is an aperture write below the number up to which
the release no longer waits (R412). -/
def Access.letGo (a : Access) (scope past : Nat) : Bool := a.performedAt scope || (a.remoteStore && decide (a.id < past))

/-- Every earlier access of a thread has been performed at a scope. -/
def State.allDone (s : State) (t : TRef) (scope : Nat) : Bool :=
  s.accs.all fun a => !a.isOf t || a.letGo scope (s.thread t).past

/-- Why reports have to wait for their records (R427): a reporting thread's earlier accesses are not performed, or no slot is
free for a record of each wave. -/
def State.recordsLate (s : State) (rs : List Report) (fetch : Bool) : Bool × Bool :=
  let need := rs.filter fun r => s.needsQueue r fetch
  (need.any fun r => !s.allDone r.t 4,
   match wavesOf (need.map Report.t) with
   | [] => false
   | u :: us => !s.fqRoom (s.wave u).ctx (dieOf (s.wave u).core) (us.length + 1))

/-- Taking a trap: the reports of a unit, all of one cause, in ascending wave index per wave. A record is a
release of the reporting threads: while accesses of theirs are not performed, or where a record has no slot,
nothing happens but that the unit's threads wait and try again, 1,000 ticks later for a slot (R427). The trap
entry ends the chunk of each wave (R421). `kind` is the record's KIND (R430). -/
def State.takeTrapAs (s : State) (bundle : List TRef) (rs : List Report) (fetch : Bool) (kind : Nat) : State :=
  let late := s.recordsLate rs fetch
  if late.1 || late.2 then
    bundle.foldl (fun s t => s.modThread t fun th =>
      { th with st := .waiting (.record (s.ptb + if late.1 then 0 else 1000)), wfault := [] }) s
  else
    (wavesOf (rs.map Report.t)).foldl (fun s u =>
      let mine := sortBy (fun r => r.t.i) (rs.filter fun r => r.t.u == u)
      (s.deliverWave u mine fetch kind 0).endChunk u flgTrap) s

/-- Taking a trap with an ordinary record. -/
def State.takeTrap (s : State) (bundle : List TRef) (rs : List Report) (fetch : Bool) : State := s.takeTrapAs bundle rs fetch 0

/-! ## Exit of a thread (R94, R102, R389 to R392) -/

/-- A launch of the dependence unit, by its number. -/
def State.launchOf (s : State) (id : Nat) : Option Launch := s.launches.find? fun l => l.id == id

/-- The block belongs to a cluster of 4 blocks (R378). -/
def State.isCl4 (s : State) (b : Nat) : Bool := ((s.launchOf (s.block b).launch).map fun l => recCl4 l.record).getD false

/-- The block has an outstanding copy, sprout request, matrix command, collective or message send (R396). -/
def State.blockBusy (s : State) (b : Nat) : Bool :=
  s.copies.any (fun c => c.block == b) || s.sprReqs.any (fun r => r.block == b) || s.mcmds.any (fun m => m.block == b)
    || s.drains.any (fun d => (s.wave d.u).block == b) || s.colls.any (fun c => c.block == b && !c.done)
    || s.outbound.any (fun m => m.block == b)

/-- Granules of scratchpad, tiles and sprout frames that a block holds. -/
def Block.gran (k : Block) : Nat × Nat × Nat := (scrGran k.scratch, k.acc, sprGran k.sprouts)

/-- A block's scratchpad takes `n` granules of its core's pool: those that it holds, and the lowest that no resident block holds.
The granules taken carry the generation of its allocation (R319). -/
def State.takeGrans (s : State) (b n : Nat) : State :=
  let k := s.block b
  let used := (s.blocks.filter fun e => e.1 != b && e.2.core == k.core && !e.2.saved).flatMap fun e => e.2.grans
  let keep := k.grans.take n
  let more := ((upto 0 192).filter fun g => !used.contains g && !keep.contains g).take (n - keep.length)
  let c := s.core k.core
  (s.setBlock b { k with grans := keep ++ more }).setCore k.core { c with pool := more.foldl (fun m g => fput m g k.gen) c.pool }

/-- The partition word that a RESHAPE leaves its core with, if the new shares fit: the word in force where its parts
have room and the core's 1,024 sprout frames suffice (R331), else, for a block alone on its core, one whose parts are what the block needs (R396). -/
def State.reshapePart (s : State) (b x : Nat) : Option Dword :=
  let k := s.block b
  let p := (s.core k.core).part.toNat
  let others := s.blocks.filter fun e => e.1 != b && e.2.core == k.core && !e.2.saved
  let sum := fun (f : Nat × Nat × Nat → Nat) => others.foldl (fun n e => n + f e.2.gran) 0
  let need := (scrGran (shScr x), shAcc x, sprGran (shSpr x))
  if others.foldl (fun n e => n + e.2.sprouts) 0 + shSpr x > 1024 then none
  else if sum (fun g => g.1) + need.1 ≤ partScr p && sum (fun g => g.2.1) + need.2.1 ≤ partAcc p
      && sum (fun g => g.2.2) + need.2.2 ≤ partSpr p then some (s.core k.core).part
  else if others.isEmpty && partRf p + need.1 + need.2.1 + need.2.2 ≤ 191 && need.2.1 ≤ 32 then
    some (BitVec.ofNat 64 (partRf p + need.1 * 2 ^ 8 + need.2.1 * 2 ^ 16 + need.2.2 * 2 ^ 24
      + (192 - partRf p - need.1 - need.2.1 - need.2.2) * 2 ^ 32))
  else none

/-- The status code of a RESHAPE to the shares `x`, and the state after it (R396). -/
def State.reshapeBlock (s : State) (b x : Nat) : Nat × State :=
  let k := s.block b
  if s.isCl4 b && shScr x != k.scratch then (3, s)
  else if s.blockBusy b then (2, s)
  else match s.reshapePart b x with
    | none => (1, s)
    | some p =>
      let c := s.core k.core
      let s := if p == c.part then s else s.setCore k.core { c with part := p, l1 := [], l1Lines := [] }
      (0, (s.setBlock b { k with
        scratch := shScr x, scr := k.scr.filter (fun e => decide (e.1 < shScr x)),
        scrPoison := k.scrPoison.filter (fun u => decide (16 * u < shScr x)),
        acc := shAcc x, tiles := k.tiles.filter (fun e => decide (e.1 < shAcc x)),
        tileBad := k.tileBad.filter (fun e => decide (e / 4096 < shAcc x)), sprouts := shSpr x }).takeGrans b (scrGran (shScr x)))

/-- The last of the arrived waves of a team that executed RESHAPE decides the shares, and every wave that did
receives the status (R396). -/
def State.reshapeTeam (s : State) (t : Team) : State :=
  match (t.arrived.filterMap fun u => (s.wave u).reshape).getLast? with
  | none => s
  | some (_, x) =>
    let r := s.reshapeBlock t.block x.toNat
    t.arrived.foldl (fun s u => match (s.wave u).reshape with
      | some (d, _) =>
        let v := s.lateVal u 127 0x2C4 r.1
        ((v.2.setS u d (BitVec.ofNat 32 v.1)).modWave u fun w => { w with reshape := none }).recVal u 127 0x2C4 0 (BitVec.ofNat 64 v.1)
      | none => s) r.2

/-- A team's phase is complete (R393): its waiting threads become ready, their cores acquire, and their clocks pass the
team's (R468). -/
def State.phaseOver (s : State) (k : Nat) (t : Team) : State :=
  let s := { s with teams := fput s.teams k { t with ph := (t.ph + 1) % 2 ^ 32, arrived := [] } }
  let s := s.reshapeTeam t
  let now := match s.issue with
    | some b => b.threads.map TRef.u
    | none => []
  let key := ocKey (s.block t.block).ctx ((objKey 0 k 0).getD 0)
  let oc := (t.arrived.filter fun u => now.contains u).foldl (fun m u => max m (s.wave u).recd.clock) (fgetD s.objClock key 0)
  let s := if s.recording (s.block t.block).ctx then { s with objClock := fput s.objClock key oc } else s
  let wake := TState.waiting (Wait.team k t.ph)
  let s := t.members.foldl (fun s u =>
    let w := s.wave u
    if w.threads.any fun e => e.2.st == wake then
      let s := s.setWave u { w with
        tbar := fdel w.tbar k,
        threads := fmapAll (fun _ th => if th.st == wake then { th with st := .ready, readyAt := s.steps } else th) w.threads }
      if now.contains u then s else s.recClock u (oc + 1)
    else s) s
  s.dropUntracked t.core

/-- The team test after an arrival or exit (R393). -/
def State.teamTest (s : State) (k : Nat) : State :=
  match fget s.teams k with
  | none => s
  | some t => if t.arrived.length ≥ t.members.length && t.arrived.length > 0 then s.phaseOver k t else s

/-- An exited wave leaves every team of its block, and each is tested (R392). -/
def State.leaveTeams (s : State) (u : Nat) : State :=
  let b := (s.wave u).block
  ((s.teams.filter fun e => e.2.block == b).map Prod.fst).foldl (fun s k =>
    match fget s.teams k with
    | none => s
    | some t =>
      if t.members.contains u then
        ({ s with teams := fput s.teams k { t with members := t.members.filter (· != u), arrived := t.arrived.filter (· != u) } }).teamTest k
      else s) s

/-- Loads still pending to a thread's registers are discarded; its other accesses go on (R102). -/
def State.discardLoads (s : State) (t : TRef) : State :=
  let others := (s.wave t.u).live.filter (· != t.i)
  { s with accs := s.accs.filterMap fun a =>
      if a.st == .failed && a.t.u == t.u && !a.who.any others.contains then none
      else if a.t == t then
        (match a.kind, a.dest with
         | .load _, .vreg _ _ => none
         | .mwait _, _ => none
         | _, .vreg _ _ => some { a with dest := .none }
         | _, _ => some a)
      else some a }

/-- Logged lanes of an exited thread: a load's lane is dropped, and an entry with no lane is freed;
stores and atomics stay to be performed (log entry 22). -/
def Wave.discardLog (w : Wave) (i : Nat) : Wave :=
  { w with log := w.log.filterMap fun e =>
      match opcodeOf e.2.unit with
      | some op =>
        if [0x180, 0x182, 0x184, 0x186, 0x009].contains op then
          let lanes := e.2.lanes.filter fun l => l.i != i
          if lanes.isEmpty then none else some (e.1, { e.2 with lanes := lanes })
        else some e
      | none => some e }

/-- A wave all of whose threads have exited retires when no logged unit of it is left (R390); a block
whose waves have all retired has ended (R391). -/
def State.tryRetire (s : State) (u : Nat) : State :=
  let w := s.wave u
  if w.live.isEmpty && w.log.isEmpty && !w.retired then
    let s := s.setWave u { w with retired := true }
    if (s.waves.filter fun e => e.2.block == w.block && !e.2.isSprout).all (fun e => e.2.retired) then
      s.setBlock w.block { s.block w.block with ended := true }
    else s
  else s

/-- A message to a lock unit joins those under way. -/
def State.sendLock (s : State) (u x : Nat) (k : LockKind) (req after scope : Nat) : State :=
  { s with next := s.next + 1,
           lockMsgs := s.lockMsgs ++ [{ n := s.next, u := u, x := x, kind := k, req := req, after := after, scope := scope, past := 0 }] }

/-- A wave that exits abandons its held locks, in the order of its held list, once its accesses are performed
at device scope (R283). -/
def State.abandonLocks (s : State) (u after : Nat) : State :=
  ((s.wave u).held.foldl (fun s x => s.sendLock u x .abandon 0 after 4) s).modWave u fun w => { w with held := [] }

/-- A thread waits at a lock instruction of its wave. -/
def State.waitsAt (s : State) (t : TRef) (e : Locker) : Bool := (s.thread t).st == .waiting .lock && (s.thread t).at_ == e.pc

/-- Threads of a wave have nothing more to do with the lock requests that they made; a status that is kept for none is forgotten. -/
def Wave.dropLockers (w : Wave) (p : Locker → Bool) : Wave :=
  let l := w.lockers.filter fun e => !p e
  { w with lockers := l, lockPost := w.lockPost.filter fun q => l.any fun e => e.req == q.1 }

/-- The end of a sprout thread is a synchronisation on its request's object, whether by SPEND or by EXIT (R102, R343, R468). -/
def State.markSpend (s : State) (t : TRef) : State :=
  match (s.wave t.u).sprout with
  | some p => s.markSync t.u (objKey 4 (s.wave t.u).block p.req)
  | none => s

/-- The wave's live threads have all executed PDONE (R450): the wave stops to be saved; in a replay its v registers are set
to 0 and it goes on (R486). -/
def State.pdoneWave (s : State) (u : Nat) : State :=
  let w := s.wave u
  if !(w.live.all fun i => (w.thread i).pdn) then s
  else if s.replaying w.ctx then
    s.setWave u { w with threads := fmapAll (fun _ th => if th.st == .exited then th
      else { th with v := [], pdn := false, st := .ready, readyAt := s.steps }) w.threads }
  else s.setWave u { w with stop := 3 }

/-- A thread ends (R102, R336): its pending loads are discarded, it leaves every mask, and the wave
exits with its last thread. Where every other thread has executed PDONE, the wave stops (R450). -/
def State.exitThread (s : State) (t : TRef) : State :=
  let s := s.discardLoads t
  let s := s.modWave t.u fun w =>
    let w := ((w.setThread t.i { w.thread t.i with st := .exited, async := [] }).discardLog t.i).dropLockers fun e => e.i == t.i && !e.late
    { w with m := w.m.filterMap fun e =>
        let x := e.2 &&& ~~~(BitVec.ofNat 64 (2 ^ t.i))
        if x == 0 then none else some (e.1, x) }
  let w := s.wave t.u
  if w.live.isEmpty then
    let s := s.markClose t.u flgExit
    match w.sprout with
    | some p => s.setWave t.u { (s.wave t.u) with sprout := some { p with ended := true } }
    | none => ((s.abandonLocks t.u s.next).leaveTeams t.u).tryRetire t.u
  else s.pdoneWave t.u

/-! ## Return from a trap (R449) -/

/-- Operation 0 resumes at TPC, 1 at SKIP, 2 ends the thread as EXIT does. A sprout thread ended so
sets its request's error flag (R340). -/
def State.resumeThread (s : State) (t : TRef) (op : Nat) : State :=
  let th := s.thread t
  if op == 0 then s.readyAt t th.tpc
  else if op == 1 then
    ((s.readyAt t th.skip).modThread t fun th => { th with burst := none, slept := [], sealed := none }).modWave t.u fun w =>
      w.dropLockers fun e => e.i == t.i && !e.late
  else
    let s := s.exitThread t
    match (s.wave t.u).sprout with
    | some p => { s with reqErr := if s.reqErr.contains (( s.wave t.u).block, p.req) then s.reqErr
                                    else s.reqErr ++ [((s.wave t.u).block, p.req)] }
    | none => s

/-- Return from an in-thread handler: INH is cleared. -/
def State.trapReturn (s : State) (t : TRef) (op : Nat) : State :=
  let s := s.modThread t fun th => { th with inh := false, inhPre := false, pdn := false }
  s.resumeThread t op

end Sys2Proof.Machine
end

