-- ==== Sys2Proof/Machine/Transc.lean ====
section
/-! DEFINITION. The transcendental functions of R212 and R213 in fixed point. Where the exact result
is a dyadic number it is found as one; every other result is irrational, so its digits to far below
the last place, with the sticky mark, decide the rounding (log entry 20). -/

namespace Sys2Proof.Machine

/-- Fraction bits of the working fixed point. -/
def fxP : Nat := 700

/-- 1.0 in the working fixed point. -/
def fxOne : Nat := 2 ^ fxP

/-- The product of two fixed-point numbers. -/
def fxMul (a b : Nat) : Nat := a * b / fxOne

/-- Sum of z^(2k+1)/(2k+1), alternating if `alt`: the series of atanh or atan at z = 1/d, from the
term z^(2k+1) = t. -/
def atSeries (d2 : Nat) (alt : Bool) : Nat → Nat → Nat → Int
  | 0, _, _ => 0
  | fuel + 1, t, k =>
    if t == 0 then 0
    else
      let x : Int := t / (2 * k + 1)
      (if alt && k % 2 == 1 then -x else x) + atSeries d2 alt fuel (t / d2) (k + 1)

/-- ln 2 = 2 atanh(1/3). -/
def fxLn2 : Nat := (2 * atSeries 9 false 400 (fxOne / 3) 0).toNat

/-- pi by Machin's formula. -/
def fxPi : Nat :=
  (16 * atSeries 25 true 400 (fxOne / 5) 0 - 4 * atSeries (239 * 239) true 400 (fxOne / 239) 0).toNat

/-- Sum of x^k/k! from the term t = x^k/k!. -/
def expSeries (x : Nat) : Nat → Nat → Nat → Nat
  | 0, _, _ => 0
  | fuel + 1, t, k => if t == 0 then 0 else t + expSeries x fuel (fxMul t x / (k + 1)) (k + 1)

/-- 2^f for f in [0, 1) in fixed point. -/
def fxExp2 (f : Nat) : Nat := expSeries (fxMul f fxLn2) 300 fxOne 0

/-- Alternating sum of x^(2k+c)/(2k+c)! from the term t: cosine for c = 0, sine for c = 1. -/
def trigSeries (x2 : Nat) : Nat → Nat → Nat → Bool → Int
  | 0, _, _, _ => 0
  | fuel + 1, t, j, neg =>
    if t == 0 then 0
    else (if neg then -(t : Int) else t) + trigSeries x2 fuel (fxMul t x2 / ((j + 1) * (j + 2))) (j + 2) (!neg)

/-- atanh(z) = z + z^3/3 + ... for z in fixed point. -/
def atanhSeries (z2 : Nat) : Nat → Nat → Nat → Nat
  | 0, _, _ => 0
  | fuel + 1, t, k => if t == 0 then 0 else t / (2 * k + 1) + atanhSeries z2 fuel (fxMul t z2) (k + 1)

/-- A fixed-point magnitude as an inexact value. -/
def fxEx (s : Bool) (m : Nat) (scale : Int) : Ex := ⟨s, m, scale - fxP, true⟩

/-- 2^a for a dyadic a (R212). -/
def exExp2 (s : Bool) (m : Nat) (e : Int) : Ex :=
  if m == 0 then ⟨false, 1, 0, false⟩
  else if e + bitLen m > 12 then
    -- beyond every format's range
    if s then ⟨false, 1, -4000, true⟩ else ⟨false, 1, 4000, true⟩
  else
    let fx := shiftNat m (e + fxP)
    let n : Int := fx / fxOne
    let f := fx % fxOne
    let lost := e + fxP < 0
    if f == 0 && !lost then ⟨false, 1, if s then -n else n, false⟩
    else if s then fxEx false (fxExp2 (fxOne - f)) (-n - 1)
    else fxEx false (fxExp2 f) n

/-- log2 of m times 2^e, m not 0 (R212). -/
def exLog2 (m : Nat) (e : Int) : Ex :=
  let l := bitLen m - 1
  let n : Int := e + l
  if m == 2 ^ l then ⟨decide (n < 0), n.natAbs, 0, false⟩
  else
    let y := m <<< (fxP - l)
    let z := (y - fxOne) * fxOne / (y + fxOne)
    let ln := 2 * atanhSeries (fxMul z z) 800 z 0
    let v : Int := n * fxOne + (ln * fxOne / fxLn2 : Nat)
    if v < 0 then fxEx true (v.natAbs - 1) 0 else fxEx false v.toNat 0

/-- sin(pi r) for r in (0, 1/2) in fixed point. -/
def fxSinPi (r : Nat) : Nat :=
  let x := fxMul r fxPi
  (trigSeries (fxMul x x) 200 x 1 false).toNat

/-- cos(pi r) for r in (0, 1/2) in fixed point. -/
def fxCosPi (r : Nat) : Nat :=
  let x := fxMul r fxPi
  (trigSeries (fxMul x x) 200 fxOne 0 false).toNat

/-- The magnitude of sin(pi a) for the argument reduced to quarter q and remainder r (R212): exact at
the ends of a quarter. -/
def sinQuarter (q r : Nat) : Nat × Bool :=
  if r == 0 then ((if q % 2 == 0 then 0 else fxOne), false)
  else if q % 2 == 0 then (fxSinPi r, true) else (fxCosPi r, true)

/-- a in half-turns reduced modulo 2: the quarter 0 to 3 and the remainder in fixed point. -/
def halfTurns (m : Nat) (e : Int) : Nat × Nat :=
  let fx := (shiftNat m (e + fxP)) % (2 * fxOne)
  (fx / (fxOne / 2), fx % (fxOne / 2))

/-- sin(pi a): an exact zero has the sign of a (R212). -/
def exSin (s : Bool) (m : Nat) (e : Int) : Ex :=
  let h := halfTurns m e
  let v := sinQuarter h.1 h.2
  if v.1 == 0 then ⟨s, 0, 0, false⟩ else ⟨s != decide (h.1 ≥ 2), v.1, -(fxP : Int), v.2⟩

/-- cos(pi a): an exact zero is +0 (R212). -/
def exCos (m : Nat) (e : Int) : Ex :=
  let h := halfTurns m e
  if h.1 == 0 && h.2 == 0 && m != 0 && e + bitLen m < -40 then ⟨false, fxOne - 1, -(fxP : Int), true⟩
  else
    let v := sinQuarter (h.1 + 1) h.2
    if v.1 == 0 then ⟨false, 0, 0, false⟩
    else ⟨decide ((h.1 + 1) % 4 ≥ 2), v.1, -(fxP : Int), v.2⟩

/-- tanh(a) for a not 0 (R212), through t = exp(-2|a|): (1 - t) / (1 + t), which stays below 1. -/
def exTanh (s : Bool) (m : Nat) (e : Int) : Ex :=
  if e + bitLen m > 8 then fxEx s (fxOne - 1) 0
  else
    let x := shiftNat m (e + 1 + fxP) * fxOne / fxLn2
    let n := x / fxOne
    let f := x % fxOne
    let t := max 1 (if f == 0 then fxOne >>> n else fxExp2 (fxOne - f) >>> (n + 1))
    fxEx s ((fxOne - t) * fxOne / (fxOne + t)) 0

/-- FEXP2, FLOG2, FSIN, FCOS and FTANH on f32 (R212, R213); `op` numbers them from 0 in that order. -/
def FFmt.transc (f : FFmt) (op mode : Nat) (sat : Bool) (g : Nat) (a : FVal) : Nat × Nat :=
  match op, a with
  | 0, .inf s => if s then (f.zero false, 0) else (f.infinite sat false, 0)
  | 0, .num s m e => f.finish mode sat g false (exExp2 s m e)
  | 1, .inf s => if s then (f.defNan, fIV) else (f.infinite sat false, 0)
  | 1, .num s m e =>
    if m == 0 then (f.infinite sat true, fDZ)
    else if s then (f.defNan, fIV)
    else f.finish mode sat g false (exLog2 m e)
  | 2, .num s m e => f.finish mode sat g s (exSin s m e)
  | 3, .num _ m e => f.finish mode sat g false (exCos m e)
  | 4, .inf s => (f.encode s 1 0, 0)
  | 4, .num s m e => if m == 0 then (f.zero s, 0) else f.finish mode sat g s (exTanh s m e)
  | _, .inf _ => (f.defNan, fIV)
  | _, a => f.nanResult [a]

end Sys2Proof.Machine
end

