-- ==== Sys2Proof/Machine/Flags.lean ====
section
/-! DEFINITION. Every flag computation that is not part of one number's rounding: the sticky flags of
FPSW and MATH (R196, R197), and the second predicate of a compare (R91). What a rounding raises stands
in Machine/FloatNum.lean. -/

namespace Sys2Proof.Machine

/-- MATH enables of a wave (R196). -/
def Wave.en (w : Wave) : Nat := bits w.fpsw.toNat 12 8

/-- MATH enables in force for a wave: in a chain, those before the chain (R211). -/
def State.enOf (s : State) (u : Nat) : Nat :=
  match s.chain with
  | some c => (fgetD c.saved u (s.wave u)).en
  | none => (s.wave u).en

/-- Flags are ORed into a wave's FPSW and into those of the chain in progress (R196, R197). -/
def State.raise (s : State) (u flags : Nat) : State :=
  if flags == 0 then s
  else
    let s := s.modWave u fun w => { w with fpsw := w.fpsw ||| BitVec.ofNat 32 (flags % 32) }
    { s with chain := s.chain.map fun c =>
        { c with flags := fput c.flags u (fgetD c.flags u 0 ||| BitVec.ofNat 32 (flags % 32)) } }

/-- A word whose threads raise flags: with an enabled flag MATH is met by the threads that raised one, and
nothing is written (R197). -/
def mathThreads (l : List TRef) (s : State) (f : State → TRef → State × Nat) : Res :=
  let r := l.foldl (fun (a : State × List (TRef × Nat)) t =>
    let x := f a.1 t
    (x.1, a.2 ++ [(t, x.2)])) (s, [])
  let on := r.2.filter fun x => x.2 &&& s.enOf x.1.u != 0
  let flags : FMap Nat := r.2.foldl (fun m x => fput m x.1.u (fgetD m x.1.u 0 ||| x.2)) []
  if on.isEmpty then .ok (flags.foldl (fun s e => s.raise e.1 e.2) r.1)
  else
    let det := on.foldl (fun d x => d ||| (x.2 &&& s.enOf x.1.u)) 0
    .trap (on.map fun x => hit x.1 rankMath .math det) flags

/-! ## The predicate pair of a compare (R52, R91) -/

/-- The second predicate by PM: `r` the result, `un` the unordered flag, `old` the predicate's old value. -/
def pmSecond (pm : Nat) (r un old : Bool) : Bool :=
  match pm with
  | 0 => !r
  | 1 => un
  | 2 => r && old
  | _ => r || old

/-- A compare writes its pair: the first predicate, then the second, so that the second write governs when
both name the same predicate. -/
def State.setPair (s : State) (t : TRef) (d : BitVec 8) (pm : Nat) (r un : Bool) : State :=
  let p2 := (d.extractLsb' 3 3).toNat
  let old := s.preg t p2
  (s.setP t (d.extractLsb' 0 3).toNat r).setP t p2 (pmSecond pm r un old)

/-! ## Compares of integers (R134) -/

/-- Codes 0 to 5 of CMP on exact values, 6 (tst) on bits. -/
def intCompare (cmp : Nat) (a b : Int) (bitsA bitsB : Nat) : Bool :=
  match cmp with
  | 0 => decide (a = b)
  | 1 => decide (a ≠ b)
  | 2 => decide (a < b)
  | 3 => decide (a ≤ b)
  | 4 => decide (b < a)
  | 5 => decide (b ≤ a)
  | _ => bitsA &&& bitsB != 0

end Sys2Proof.Machine
end

