-- ==== Sys2Proof/Machine/Run.lean ====
section
/-! DEFINITION. How a word runs for its bundle: the guard (R88, R89), the checks in the order of R65,
the effect of the entry, the chain (R58 to R62), the report of a trap (R421) and retirement. Every word's
meaning is one call of `runWord` with the effect that its entry gives it. -/

namespace Sys2Proof.Machine

/-! ## Per thread and per wave -/

/-- A word that took effect in all of these waves but some, which wait: it has to wait as a whole where no wave could
act. -/
def Res.but (s : State) (us left : List Nat) : Res :=
  if left.isEmpty then .ok s else if us.all left.contains then .stall else .waves s left

/-- A wave-level effect, once for each wave with active threads, in order (R421): a cause that it meets
is met by every contributing thread of the wave, and `none` says that the wave has to wait. -/
def perWave (l : List TRef) (s : State) (f : State → Nat → List TRef → Except (Option Hit) State) : Res :=
  let r := (wavesOf l).foldl (fun (a : State × List Hit × List Nat) u =>
    let mine := l.filter fun t => t.u == u
    match f a.1 u mine with
    | .ok s' => (s', a.2)
    | .error (some h) => (a.1, a.2.1 ++ mine.map (fun t => { h with t := t }), a.2.2)
    | .error none => (a.1, a.2.1, a.2.2 ++ [u])) (s, [], [])
  if !r.2.1.isEmpty then .trap (firstHits r.2.1) [] else Res.but r.1 (wavesOf l) r.2.2

/-! ## Draws (R191) -/

/-- Linear block index (R191). -/
def Block.blin (b : Block) : Dword := BitVec.ofNat 64 (b.bx + b.nbx * (b.by_ + b.nby * b.bz))

/-- sr.tid of a thread (R77). -/
def State.tid (s : State) (t : TRef) : Nat := t.i + (s.wave t.u).width * (s.wave t.u).wid

/-- The key of a thread's draws (R191). -/
def State.drawKey (s : State) (t : TRef) : Dword :=
  let w := s.wave t.u
  let b := s.block w.block
  let k := mix64 (b.seed ^^^ b.blin)
  match w.sprout with
  | some p => k ^^^ BitVec.ofNat 64 (2 ^ 63) ^^^ BitVec.ofNat 64 (p.req * 2 ^ 32) ^^^ BitVec.ofNat 64 p.ordinal
  | none => k ^^^ BitVec.ofNat 64 (s.tid t)

/-- The draw of a key and a counter (R191). -/
def drawOf (key n : Dword) : Nat := (mix64 (key + (n + 1) * 0x9E3779B97F4A7C15)).toNat >>> 32

/-- One draw of a thread, if the rounding mode is stochastic (R192). -/
def State.drawIf (s : State) (t : TRef) (mode : Nat) : Nat × State :=
  if mode == 4 then
    (drawOf (s.drawKey t) (s.thread t).draw, s.modThread t fun th => { th with draw := th.draw + 1 })
  else (0, s)

/-! ## Checks before an entry's own (R65) -/

/-- The uses of a half of a paired word. -/
def halfUses (h : PHalf) : List Use :=
  if h.op6 == 0 then []
  else [.dst h.d false 1] ++ (if h.op6 == 0x14 then [] else [.src h.s false 1])
    ++ (if halfReadsD h.op6.toNat then [.vread h.d.toNat 1] else [])

/-- The guard of a half (R38). -/
def State.halfOn (s : State) (t : TRef) (h : PHalf) : Bool := s.preg t h.p.toNat

/-- The uses of a word that a thread's guards let through. -/
def State.threadUses (s : State) (i : Instr) (t : TRef) : List Use :=
  match i with
  | .pairedWord _ a b =>
    (if s.halfOn t a then halfUses a else []) ++ (if s.halfOn t b then halfUses b else [])
  | i => match hdrOf i with
    | some h => if s.guard t h.neg h.pred then usesOf i else []
    | none => []

/-- The guard predicates of a word. -/
def guardsOf (i : Instr) : List Nat :=
  match i with
  | .pairedWord _ a b => [a.p.toNat, b.p.toNat]
  | i => ((hdrOf i).map fun h => h.pred.toNat).toList

/-- A thread is active for a word: its guard is true (R88); of a paired word, that of a half. -/
def State.active (s : State) (i : Instr) (t : TRef) : Bool :=
  match i with
  | .pairedWord _ a b => s.halfOn t a || s.halfOn t b
  | i => match hdrOf i with
    | some h => s.guard t h.neg h.pred
    | none => true

/-- The instruction forms that need level H (R418, R68). -/
def needsH (i : Instr) : Bool :=
  match i with
  | .fresume _ _ | .tlbinv _ _ | .tlbsync _ _ | .haltHalt _ _ | .haltRel _ _ | .haltStep _ _ => true
  | .tretRetry _ f | .tretSkip _ f | .tretEnd _ f => f.body.getLsbD 45
  | .oplr _ f => f.body.getLsbD 35
  | .csave _ f | .crest _ f => f.body.getLsbD 25
  | .swr _ f => [0x28, 0x29, 0x2A, 0x31].contains (f.body.extractLsb' 32 8).toNat
  | .seccall _ _ | .samparm _ _ | .sampstop _ _ | .histrd _ _ | .telrd _ _ => true
  | _ => false

/-- PERFRD of a C-die's or the device's counters needs level H (R505). -/
def State.perfHigh (s : State) (i : Instr) (u : Nat) : Bool :=
  match i with
  | .perfrd _ f =>
    let id := if f.body.getLsbD 35 then bits f.body.toNat 15 0 else bits (s.sreg u (bits f.body.toNat 41 36)).toNat 15 0
    decide (bits id 15 14 ≥ 2)
  | _ => false

/-- A thread's first cause among PRIV, BOUNDS of a register and LATCH (R65). -/
def State.preHit (s : State) (i : Instr) (t : TRef) : Option Hit :=
  let w := s.wave t.u
  let us := s.threadUses i t
  if (needsH i || s.perfHigh i t.u) && !w.high then some (hit t 2 .priv 0)
  else if us.any (fun u => u.vnames.any fun r => decide (w.regs ≤ r)) then some (hit t 3 .bounds 0)
  else if us.any (fun u => u.latches.any fun k => (s.latch t k).isNone) then some (hit t 4 .latch 0)
  else none

/-- The causes that stand before the entry's own. ILLEGAL comes whatever the guards (R65): a word whose form or
place in a chain is illegal traps the whole bundle; one that breaks a rule of its own entry traps its active
threads, and with none of them the whole bundle (R421). Then an instruction that a sprout thread may not execute
(R329); then the others in active threads. -/
def State.preHits (s : State) (i : Instr) (b : Issue) (act : List TRef) : List Hit :=
  if !(legalForm i && chainOk i b.pos) then b.threads.map fun t => hit t 0 .illegal 0
  else if !legalEntry i then (if act.isEmpty then b.threads else act).map fun t => hit t 0 .illegal 0
  else
    let spr := if sproutMay i then [] else b.threads.filter fun t => (s.wave t.u).isSprout
    if !spr.isEmpty then spr.map fun t => hit t 1 .illegal (3 * 16)
    else firstHits (act.filterMap (s.preHit i))

/-! ## Chains (R58 to R62) -/

/-- The chain's held writes are discarded: its waves are as before its first word (R61). -/
def State.undo (s : State) : State :=
  match s.chain with
  | none => s
  | some c => { s with waves := c.saved.foldl (fun m e => fput m e.1 e.2) s.waves, chain := none }

/-- The first word of a chain keeps what a trap restores. -/
def State.openChain (s : State) (i : Instr) (b : Issue) : State :=
  if chainBit i && s.chain.isNone then
    { s with chain := some {
        core := b.core, block := b.block, threads := b.threads, start := b.chainPc, stop := b.skipPc, pos := b.pos,
        saved := (wavesOf b.threads).foldl (fun m u => fput m u (s.wave u)) [], flags := [], rest := b.rest, gang := b.gang } }
  else s

/-- The threads of the bundle stand at the word after the unit (R36). -/
def State.advance (s : State) (b : Issue) : State :=
  b.threads.foldl (fun s t => s.modThread t fun th => { th with pc := b.nextPc, readyAt := s.steps, go := 0, at_ := b.unitPc, step := s.steps }) s

/-- A false-guarded thread shifts the unchanged destination of a result-producing word (R89). -/
def State.shiftIdle (s : State) (i : Instr) (b : Issue) : State :=
  match i with
  | .pairedWord _ _ _ => s
  | i =>
    if producesResult i then
      match (usesOf i).find? (fun u => match u with | .dst _ _ _ => true | _ => false) with
      | some (.dst f _ n) =>
        (b.threads.filter fun t => !s.active i t).foldl (fun s' t =>
          s'.shift t ((upto 0 n).map fun k => s.vreg t (f.toNat + k))) s
      | _ => s
    else s

/-- The watched teams of waves that retire a bundle count anew (R394). -/
def State.teamsMoved (s : State) (us : List Nat) : State :=
  if s.teams.all fun e => e.2.wdPeriod == 0 then s
  else { s with teams := fmapAll (fun _ t =>
    if t.wdPeriod != 0 && t.wdSince.isSome && us.any (fun u => t.members.contains u) then { t with wdSince := some s.ptb } else t) s.teams }

/-- The end of a unit: the latches of a chain that has ended become invalid, its walks' faults are over, and the unit counts for each
wave's chunk (R59, R62, R469). -/
def State.endUnit (s : State) (i : Instr) (b : Issue) : State :=
  let cont := chainBit i
  let s := { s with chain := if cont then s.chain.map (fun (c : Chain) => { c with pos := b.pos + unitLen i, rest := b.rest }) else none }
  let s := if cont then s else b.threads.foldl (fun s t => s.modThread t fun th => { th with y := [], wfault := [], past := 0 }) s
  let s := ((s.count 0 b.core 1 1).count 0 b.core 2 b.threads.length).count 0 b.core (if memPort i then 4 else 3) 1
  let s := if cont then s else (wavesOf b.threads).foldl (fun s u =>
    if (s.wave u).stepping then s.soon .haltEffect { (default : EvArg) with n := u, k := bitsOf (threadsOf b.threads u) } else s) s
  (wavesOf b.threads).foldl (fun s u => s.recRetire u (bitsOf (threadsOf b.threads u)) cont) (s.teamsMoved (wavesOf b.threads))

/-- The end of a unit for the threads that it served; the others stand before it again, as they were in `old`
(R400). In a chain all wait until all can be served. -/
def State.endPart (s old : State) (i : Instr) (b : Issue) (left : List TRef) : State :=
  let served := b.threads.filter fun t => !left.contains t
  if left.isEmpty then s.endUnit i b
  else if b.inChain || served.isEmpty then { old.undo with stalled := true }
  else (left.foldl (fun s t => s.setThread t (old.thread t)) s).endUnit i { b with threads := served }

/-- INCH and CPOS of a word at a position of its bundle's chain (R422). A position past 7, which prefixes can give the trapping
word of an illegal chain, is reported modulo 8 (log entry 83). -/
def inchOf (b : Issue) (pos : Nat) : Nat := (if b.inChain then 2 ^ 31 else 0) + (pos % 8) * 2 ^ 28

/-- The reports of the threads that met a cause (R421, R422). CPOS counts the prefix words of a lone instruction
too (R58). -/
def reportOf (i : Instr) (b : Issue) (h : Hit) : Report :=
  let pos := if h.cause == .illegal && (((hdrOf i).bind Hdr.pfx).any fun p => !pfxPlain p) then b.pos else b.pos + unitLen i - 1
  { t := h.t, cause := h.cause, info := h.det + inchOf b pos, addr := h.addr.getD b.chainPc, tpc := b.chainPc, skip := b.skipPc,
    recPc := b.chainPc, pa := h.pa }

/-- A unit traps: nothing of it or of its chain has effect but the flags of a MATH that is raised, and the reporting threads
take the trap (R61, R197, R421). -/
def State.unitTrap (s : State) (i : Instr) (b : Issue) (hits : List Hit) (flags : FMap Nat) (fetch : Bool) : State :=
  let old := (s.chain.map Chain.flags).getD []
  let math := hits.any fun h => h.cause == .math
  let s := s.undo
  let late := s.recordsLate (hits.map (reportOf i b)) fetch
  let s := if math && !late.1 && !late.2 then
      (old.map fun e => (e.1, e.2.toNat)).foldl (fun s e => s.raise e.1 e.2) (flags.foldl (fun s e => s.raise e.1 e.2) s)
    else s
  s.takeTrap b.threads (hits.map (reportOf i b)) fetch

/-- Threads wait for page walks, one for each page that is missing and not yet being walked for them
(R152, R156). The whole bundle waits, so that a wave-level word finds it whole again. -/
def State.startWalks (s : State) (b : Issue) (l : List (TRef × Nat × Bool)) : State :=
  let s := l.foldl (fun s x =>
    let c := (s.wave x.1.u).ctx
    let page := x.2.1 / 65536
    let same := fun (w : Walk) => w.core == b.core && w.ctx == c && w.va / 65536 == page && w.write == x.2.2 && w.high == (s.wave x.1.u).high && !w.ptos
    if s.walks.any same then
      { s with walks := s.walks.map fun w => if same w then { w with who := dedup (w.who ++ b.threads) } else w }
    else
      { s with next := s.next + 1,
               walks := s.walks ++ [{ id := s.next, core := b.core, ctx := c, va := x.2.1, write := x.2.2, high := (s.wave x.1.u).high, ptos := false,
                                      who := b.threads }] }) s
  (b.threads.foldl (fun s t => s.modThread t fun th => { th with st := .waiting .walk }) s).count 1 (clusterOf b.core) 0 l.length

/-! ## The operand log (R431) -/

/-- Entries of a wave's operand log (R431, R340). -/
def Wave.logSize (w : Wave) : Nat := if w.isSprout then 1 else 4

/-- The lowest free entry of a wave's log. -/
def Wave.freeLog (w : Wave) : Option Nat := (upto 0 w.logSize).find? fun k => (fget w.log k).isNone

/-- The record of a log entry that waits for service (R430): KIND 1, or 3 for a sprout thread. -/
def State.logRecord (s : State) (u k : Nat) (e : LogEntry) : State :=
  let w := s.wave u
  let mask := bitsOf (e.lanes.map LogLane.i)
  s.fqPost w.ctx (dieOf w.core) (trapRecord w mask e.pc 3 e.det.toNat 1 k e.va e.lane 0)

/-- A unit that ends its waves' chunks where it enters the operand log (R469). -/
def logSyncs (i : Instr) : Bool :=
  match classOf i, opcodeOf i with
  | some c, some op =>
    if c == 10 then false
    else if c ≥ 8 then true
    else op == 0x009 || (0x1E0 ≤ op && op ≤ 0x1E3) || (match (hdrOf i).bind Hdr.pfx with
      | some p => p.ovo && p.ord != 0
      | none => false)
  | _, _ => false

/-- The log of a replay reissues an entry that the wave's next logged unit would take (R486). -/
def State.reissAhead (s : State) (u : Nat) : Bool :=
  let w := s.wave u
  match fget s.replays w.ctx, w.freeLog with
  | some p, some k =>
    (fgetD p.chunks w.unitKey []).zipIdx.any fun (c : LogChunk × Nat) => c.1.recs.any fun e =>
      (c.2 != 0 || decide (e.1 > w.recd.len)) && e.2.any fun r => r.toNat % 16 == 4 && bits r.toNat 26 25 == k
  | _, _ => false

/-- The entries of held units, READY. -/
def State.holdLog (s : State) (l : List (Nat × LogEntry)) : State :=
  l.foldl (fun s x =>
    let w := s.wave x.1
    { s.setWave x.1 { w with log := fput w.log (w.freeLog.getD 0) { x.2 with st := .ready, order := w.logOrder, num := s.next },
                             logOrder := w.logOrder + 1 } with next := s.next + 1 }) s

/-- Where a unit enters the log its waves' chunks end, if it is a synchronisation instruction. -/
def State.logSynced (s : State) (i : Instr) (b : Issue) : State :=
  if logSyncs i then (wavesOf b.threads).foldl (fun s u => s.markSync u none) s else s

/-- A unit whose first cause is 1, 2 or 3 enters the log of each wave: with no free entry it does not
issue, with no place for its records, or with accesses that the records come after, its threads wait, and without a fault queue the context is killed
(R425, R427, R431). -/
def State.enterLog (s0 s : State) (i : Instr) (b : Issue) (l : List (Nat × LogEntry)) : State :=
  if l.any fun x => (s.wave x.1).freeLog.isNone then { s0.undo with stalled := true }
  else
    match l with
    | [] => s
    | (u, _) :: _ =>
      let c := (s.wave u).ctx
      let d := dieOf (s.wave u).core
      if s.fqb c d % 2 == 0 then
        (s.post 0 "TRAPKILL" (BitVec.ofNat 64 (c * 256 + 3))).soon .ctxctlKill { (default : EvArg) with n := c }
      else if !(l.all fun x => x.2.lanes.all fun e => s.allDone { u := x.1, i := e.i } 4) then
        b.threads.foldl (fun s t => s.modThread t fun th => { th with st := .waiting (.record s.ptb), wfault := [] }) s0.undo
      else if !s.fqRoom c d l.length then
        b.threads.foldl (fun s t => s.modThread t fun th => { th with st := .waiting (.record (s.ptb + 1000)), wfault := [] }) s0.undo
      else
        (l.foldl (fun s x =>
          let w := s.wave x.1
          let k := w.freeLog.getD 0
          let e := { x.2 with num := s.next }
          let s := { s.setWave x.1 { w with log := fput w.log k e } with next := s.next + 1 }
          s.logRecord x.1 k e) (s.logSynced i b)).endUnit i b

/-! ## Logged values of a replay (R486, R488, R489) -/

/-- Logged values replace what a word has written: its register destinations in order, then its predicates. -/
def State.giveRegs (s : State) (u : Nat) (act : List TRef) : List Use → List Dword → State
  | [], _ => s
  | _, [] => s
  | .swrite r n :: ds, v :: vs =>
    let k := (n + 1) / 2
    (s.setSs u r (((v :: vs).take k).flatMap (fun x => toWords x.toNat 2) |>.take n)).giveRegs u act ds ((v :: vs).drop k)
  | .dst f w n :: ds, v :: vs =>
    let xs := toWords v.toNat n
    (act.foldl (fun s t =>
      let s := if w then s else s.setVs t f.toNat xs
      s.modThread t fun th => if th.y.length < n then th else { th with y := xs.reverse ++ th.y.drop n }) s).giveRegs u act ds vs
  | .vwrite r n :: ds, v :: vs =>
    if n > 2 then s.giveRegs u act ds (v :: vs)
    else (act.foldl (fun s t => s.setVs t r (toWords v.toNat n)) s).giveRegs u act ds vs
  | .pwrite p :: ds, v :: vs => (act.foldl (fun s t => s.setP t p (v != 0)) s).giveRegs u act ds vs
  | _ :: ds, vs => s.giveRegs u act ds vs

/-- Register destinations of a word before its predicates. -/
def logDests (i : Instr) : List Use :=
  let us := usesOf i
  let pred := fun (d : Use) => match d with
    | .pwrite _ => true
    | _ => false
  us.filter (fun d => !pred d) ++ us.filter pred

/-- The code of R489 for the VAL records `recs` that the log holds at a bundle, where the word needs those of `want`: VALUE where one
names another opcode or register, INPUT where one is missing. -/
def valCode (want recs : List (BitVec 128)) : Option Nat :=
  let inLane := fun (l : List (BitVec 128)) (n : Nat) => (l.filter fun r => valLane r == n).length
  if recs.any fun r => !want.any fun x => valOp x == valOp r && valSr x == valSr r then some 3
  else if want.any fun x => decide (inLane recs (valLane x) < inLane want (valLane x)) then some 4
  else none

/-- The values that the log holds for a wave's part of a bundle take the place of those computed; records that are not those of
the word, or of the last word of a chain, are a divergence (R486, R489). -/
def State.logGives (s : State) (i : Instr) (u : Nat) (act : List TRef) : State :=
  match s.replaying (s.wave u).ctx, opcodeOf i with
  | true, some op =>
    if lateOps.contains op then s
    else
      let want := (s.wave u).recd.pend.map Prod.snd
      let s := s.modWave u fun w => { w with recd := { w.recd with pend := [] } }
      let recs := (s.logAt u).filter fun r => r.toNat % 16 == 3 && !lateOps.contains (valOp r)
      let at_ := fun (lane : Nat) => (recs.filter fun r => valLane r == lane && valOp r == op).map valOf
      let given := act.foldl (fun s t => s.giveRegs u [t] (logDests i) (at_ t.i)) (s.giveRegs u act (logDests i) (at_ 127))
      if want.isEmpty && chainBit i then s
      else match valCode want recs with
        | some code => s.diverge u code
        | none => given
  | _, _ => s

/-- An engine's completion that a logged value reports, and that the value computed does not show yet (R488). -/
def State.logWaits (s : State) (i : Instr) (u : Nat) (act : List TRef) : Bool :=
  match s.replaying (s.wave u).ctx, opcodeOf i with
  | true, some op =>
    (match ((s.logVals u op).find? fun r => valLane r == 127).map (fun r => (valOf r).toNat), act.head?, i with
     | some v, some t, .bqry _ f => (upto 0 16).any fun b => v.testBit b && !(s.vreg t (bsD f)).getLsbD b
     | some v, some t, .bart _ f => v == 1 && !s.preg t (f.xmod.extractLsb' 0 3).toNat
     | some v, some _, .spqry _ f =>
       let w := (s.sreg u f.u1.toNat).toNat
       decide (bits w 28 0 < bits v 28 0) || (w.testBit 31 && !v.testBit 31)
     | some v, some _, .mstat _ f => decide (bits v 7 0 < bits (s.sreg u f.u0.toNat).toNat 7 0)
     | _, _, _ => false)
  | _, _ => false

/-! ## The word -/

/-- The word issues with this outcome: it takes effect, or it enters the operand log, which is no trap (R420). -/
def Res.issues : Res → Bool
  | .ok _ | .part _ _ | .waves _ _ | .log _ | .hold _ => true
  | .trap _ _ | .stall | .again _ | .walk _ => false

/-- The precise MCHK of sprout threads whose burst carried an error, at their first word (R330). -/
def State.badBursts (s : State) (l : List TRef) : List Hit :=
  l.filterMap fun t => (s.thread t).burst.map fun e => { hit t rankMchk .mchk (if e.2 then 4 else 0) with pa := e.1 }

/-- The word reads, or writes, in a thread a register that carries an error (R527). -/
def State.errRead (s : State) (i : Instr) (t : TRef) (e : RegErr) : Bool :=
  let us := s.threadUses i t
  match e.kind with
  | 0 => e.i == t.i && us.any fun u => u.vreads.contains e.reg
  | 1 => e.i == t.i && ((guardsOf i).contains e.reg || us.any fun u => u.preads.contains e.reg)
  | _ => us.any fun u => u.sreads.contains e.reg
def State.errWritten (s : State) (i : Instr) (t : TRef) (e : RegErr) : Bool :=
  let us := s.threadUses i t
  match e.kind with
  | 0 => e.i == t.i && us.any fun u => u.vwrites.contains e.reg
  | 1 => e.i == t.i && us.any fun u => u.pwrites.contains e.reg
  | _ => us.any fun u => u.swrites.contains e.reg

/-- The precise MCHK of threads whose word reads a register that carries an uncorrectable error (R527). -/
def State.badRegs (s : State) (i : Instr) (l : List TRef) : List Hit :=
  (l.filter fun t => (s.wave t.u).errs.any (s.errRead i t)).map fun t => hit t rankMchk .mchk 0

/-- The registers that a word has written in threads carry no error; `old` is the state before it. -/
def State.heal (s old : State) (i : Instr) (l : List TRef) : State :=
  (wavesOf l).foldl (fun s u =>
    if (s.wave u).errs.isEmpty then s
    else s.modWave u fun w => { w with errs := w.errs.filter fun e => !l.any fun t => t.u == u && old.errWritten i t e }) s

/-- The state after a word has run for the bundle. -/
def wordNext (i : Instr) (b : Issue) (s : State) (body : State → List TRef → Res) : State :=
  let act := b.threads.filter (s.active i)
  let pre := s.preHits i b act
  if !pre.isEmpty then s.unitTrap i b pre [] false
  else
    let s1 := s.openChain i b
    let r := body (s1.advance b |>.shiftIdle i b) act
    let bad := s.badBursts b.threads ++ s.badRegs i b.threads
    if r.issues && !bad.isEmpty then s.unitTrap i b bad [] false
    else match r with
    | .ok s2 =>
      let us := (wavesOf b.threads).map fun u => (u, act.filter fun t => t.u == u)
      if us.any fun e => s2.logWaits i e.1 e.2 then { s.undo with stalled := true }
      else ((us.foldl (fun s e => s.logGives i e.1 e.2) s2).heal s i act).endUnit i b
    | .part s2 left => (((wavesOf b.threads).foldl (fun s u =>
        s.logGives i u (act.filter fun t => t.u == u && !left.contains t)) s2).heal s i (act.filter fun t => !left.contains t)).endPart s i b left
    | .waves s2 left => (((wavesOf b.threads).foldl (fun s u =>
        s.logGives i u (act.filter fun t => t.u == u && !left.contains t.u)) s2).heal s i (act.filter fun t => !left.contains t.u)).endPart s i b
          (b.threads.filter fun t => left.contains t.u)
    | .again f => f s.undo
    | .trap hits flags => s.unitTrap i b hits flags false
    | .stall => { s.undo with stalled := true }
    | .walk l => s.undo.startWalks b l
    | .log l => s.enterLog ((s1.advance b).heal s i act) i b l
    | .hold l => ((((s1.advance b).heal s i act).logSynced i b).holdLog l).endUnit i b

/-- A word's meaning: what its entry does to the active threads, in the frame that every word shares. No
bundle is issuing in a state that step never makes: a fault. -/
def runWord (i : Instr) (body : State → List TRef → Res) (s : State) : Host.Outcome State Fault Refusal :=
  match s.issue with
  | none => .fault .noBundle
  | some b => .next (wordNext i b s body)

/-- The words of a chain, or an undecodable word, raise ILLEGAL in the whole bundle (R63). -/
def State.illegalUnit (s : State) (b : Issue) : State :=
  s.unitTrap (.nop default default) b (b.threads.map fun t => hit t 0 .illegal 0) [] false

end Sys2Proof.Machine
end

