-- ==== Sys2Proof/Machine/Integer.lean ====
section
/-! DEFINITION. Classes 1 and 2: integer, logic, shift and address arithmetic (R123 to R143). Each word
computes its result from its sources only. -/

namespace Sys2Proof.Machine

/-! ## Values -/

/-- `Int(v, TYPE)` of R132: signed for the i types, natural for the others. -/
def intRead (ty v : Nat) : Int :=
  if ty == 0 || ty == 2 then sext v (32 * tyWords ty) else (v : Int)

/-- x mod 2^n for a value of `n` words. -/
def wrapWords (x : Int) (n : Nat) : Nat := (x % (2 ^ (32 * n) : Int)).toNat

/-- `Sat(x, TYPE)` of R126 if SAT, then x mod 2^n. -/
def satWrap (ty : Nat) (sat : Bool) (x : Int) : Nat :=
  wrapWords (if sat then satInt ty x else x) (tyWords ty)

/-- A value sign-extended from `n` bits to `k` words. -/
def sextTo (v n k : Nat) : Nat := wrapWords (sext v n) k

/-! ## Shapes -/

/-- For each active thread, a result of `n` words from the state. -/
def eachResult (d : BitVec 8) (w : Bool) (n : Nat) (g : State → TRef → Nat) (s : State) (l : List TRef) : Res :=
  perThread l s fun s t => .ok (s.result t d w n (g s t))

/-- Source A, B or C of a format-F word as a number, of the TYPE's width. -/
def State.fa (s : State) (t : TRef) (h : Hdr) (f : FmtF) : Nat := s.srcNat t h f.a f.ua (tyWords (tyOf f.mod))
def State.fb (s : State) (t : TRef) (h : Hdr) (f : FmtF) : Nat := s.srcNat t h f.b f.ub (tyWords (tyOf f.mod))
def State.fc (s : State) (t : TRef) (h : Hdr) (f : FmtF) : Nat := s.srcNat t h f.c f.uc (tyWords (tyOf f.mod))

/-- A word of two integer sources in the default layout (R132): the exact result. -/
def intWord (h : Hdr) (f : FmtF) (g : Int → Int → Int) : State → List TRef → Res :=
  let ty := tyOf f.mod
  eachResult f.d f.w (tyWords ty) fun s t => satWrap ty (satOf f.mod) (g (intRead ty (s.fa t h f)) (intRead ty (s.fb t h f)))

/-- A word of two sources read as bits. -/
def bitsWord (h : Hdr) (f : FmtF) (g : Nat → Nat → Nat) : State → List TRef → Res :=
  eachResult f.d f.w (tyWords (tyOf f.mod)) fun s t => g (s.fa t h f) (s.fb t h f)

/-- The immediate of a format-I word: IMM24, or the IMX value in its place (R54), extended to `n` words. -/
def immOf (h : Hdr) (f : FmtI) (signed : Bool) (n : Nat) : Nat :=
  match h.imx with
  | some x => if signed then sextTo x.toNat 32 n else x.toNat
  | none => if signed then sextTo f.imm.toNat 24 n else f.imm.toNat

/-! ## Moves (R128 to R130) -/

/-- MOV. -/
def execMov (h : Hdr) (f : FmtF) : State → Host.Outcome State Fault Refusal :=
  runWord (.mov h f) (eachResult f.d f.w (tyWords (tyOf f.mod)) fun s t => s.fa t h f)

/-- What MOVI loads (R129). -/
def moviValue (h : Hdr) (f : FmtI) : Nat :=
  match (f.mod.extractLsb' 0 2).toNat with
  | 0 => immOf h f true 1
  | 1 => immOf h f false 1
  | _ => immOf h f true 2

/-- MOVI. -/
def execMovi (h : Hdr) (f : FmtI) : State → Host.Outcome State Fault Refusal :=
  runWord (.movi h f) (eachResult f.d f.w (if f.mod.extractLsb' 0 2 == 2 then 2 else 1) fun _ _ => moviValue h f)

/-- The thread of a wave whose registers a wave-level word reads: the lowest active one (R130). -/
def leadOf (l : List TRef) : TRef := ((sortBy TRef.i l).head?).getD default

/-- MOVS: one write for each wave with an active thread (R130). -/
def execMovs (h : Hdr) (f : FmtF) : State → Host.Outcome State Fault Refusal :=
  runWord (.movs h f) fun s l => perWave l s fun s u mine =>
    .ok (s.setSs u f.d.toNat (toWords (s.fa (leadOf mine) h f) (tyWords (tyOf f.mod))))

/-! ## Addition, subtraction, minimum and maximum (R131 to R135) -/

/-- IADD. -/
def execIadd (h : Hdr) (f : FmtF) : State → Host.Outcome State Fault Refusal :=
  runWord (.iadd h f) (intWord h f fun a b => a + b)

/-- TYPE of IADDI (R131). -/
def iaddiTy (f : FmtI) : Nat := (f.mod.extractLsb' 4 2).toNat

/-- IADDI: the signed immediate is added to A as its TYPE reads it. -/
def execIaddi (h : Hdr) (f : FmtI) : State → Host.Outcome State Fault Refusal :=
  let ty := iaddiTy f
  let n := tyWords ty
  runWord (.iaddi h f) (eachResult f.d f.w n fun s t =>
    satWrap ty (f.mod.getLsbD 3) (intRead ty (s.srcNat t h f.a f.ua n) + sext (immOf h f true n) (32 * n)))

/-- ISUB. -/
def execIsub (h : Hdr) (f : FmtF) : State → Host.Outcome State Fault Refusal :=
  runWord (.isub h f) (intWord h f fun a b => a - b)

/-- The carry-in of IADDC and ISUBB (R133). -/
def State.carryIn (s : State) (t : TRef) (f : FmtF) : Int :=
  if s.preg t (f.c.extractLsb' 0 3).toNat != f.c.getLsbD 3 then 1 else 0

/-- A word with a carry: the exact result, and the carry out of it (R133). -/
def carryWord (h : Hdr) (f : FmtF) (g : Int → Int → Int → Int) (co : Int → Nat → Bool) : State → List TRef → Res :=
  fun s l => perThread l s fun s t =>
    let n := tyWords (tyOf f.mod)
    let x := g (s.fa t h f) (s.fb t h f) (s.carryIn t f)
    .ok ((s.result t f.d f.w n (wrapWords x n)).setP t (f.c.extractLsb' 4 3).toNat (co x n))

/-- IADDC. -/
def execIaddc (h : Hdr) (f : FmtF) : State → Host.Outcome State Fault Refusal :=
  runWord (.iaddc h f) (carryWord h f (fun a b c => a + b + c) fun x n => decide (x ≥ 2 ^ (32 * n)))

/-- ISUBB. -/
def execIsubb (h : Hdr) (f : FmtF) : State → Host.Outcome State Fault Refusal :=
  runWord (.isubb h f) (carryWord h f (fun a b c => a - b - c) fun x _ => decide (x < 0))

/-- IMIN. -/
def execImin (h : Hdr) (f : FmtF) : State → Host.Outcome State Fault Refusal :=
  runWord (.imin h f) (intWord h f fun a b => if a ≤ b then a else b)

/-- IMAX. -/
def execImax (h : Hdr) (f : FmtF) : State → Host.Outcome State Fault Refusal :=
  runWord (.imax h f) (intWord h f fun a b => if a ≥ b then a else b)

/-- IABS. -/
def execIabs (h : Hdr) (f : FmtF) : State → Host.Outcome State Fault Refusal :=
  let ty := tyOf f.mod
  runWord (.iabs h f) (eachResult f.d f.w (tyWords ty) fun s t =>
    let a := intRead ty (s.fa t h f)
    satWrap ty (satOf f.mod) (if a < 0 then -a else a))

/-- ICMP (R134). -/
def execIcmp (h : Hdr) (f : FmtF) : State → Host.Outcome State Fault Refusal :=
  let ty := tyOf f.mod
  runWord (.icmp h f) fun s l => perThread l s fun s t =>
    let a := s.fa t h f
    let b := s.fb t h f
    .ok (s.setPair t f.d (f.mod.extractLsb' 2 2).toNat
      (intCompare (f.mod.extractLsb' 4 3).toNat (intRead ty a) (intRead ty b) a b) false)

/-- ICMPI: 32-bit values only (R134). -/
def execIcmpi (h : Hdr) (f : FmtI) : State → Host.Outcome State Fault Refusal :=
  let ty := if f.mod.getLsbD 5 then 1 else 0
  runWord (.icmpi h f) fun s l => perThread l s fun s t =>
    let a := s.srcNat t h f.a f.ua 1
    let b := immOf h f (ty == 0) 1
    .ok (s.setPair t f.d (f.mod.extractLsb' 0 2).toNat
      (intCompare (f.mod.extractLsb' 2 3).toNat (intRead ty a) (intRead ty b) a b) false)

/-- A select predicate in a C field: [2:0] negated by [3] (R135). -/
def State.selPred (s : State) (t : TRef) (c : BitVec 8) : Bool := s.preg t (c.extractLsb' 0 3).toNat != c.getLsbD 3

/-- ISEL. -/
def execIsel (h : Hdr) (f : FmtF) : State → Host.Outcome State Fault Refusal :=
  runWord (.isel h f) (eachResult f.d f.w (tyWords (tyOf f.mod)) fun s t =>
    if s.selPred t f.c then s.fa t h f else s.fb t h f)

/-! ## Address arithmetic (R136) -/

/-- The address that LEA forms. -/
def State.leaValue (s : State) (t : TRef) (h : Hdr) (f : FmtF) : Nat :=
  let sh := (f.mod.extractLsb' 7 3).toNat
  if f.mod.getLsbD 6 then
    (s.srcNat t h f.a f.ua 1 + s.srcNat t h f.b f.ub 1 * 2 ^ sh + s.srcNat t h f.c f.uc 1) % 2 ^ 32
  else
    let idx := match (f.mod.extractLsb' 10 2).toNat with
      | 0 => sextTo (s.srcNat t h f.b f.ub 1) 32 2
      | 1 => s.srcNat t h f.b f.ub 1
      | _ => s.srcNat t h f.b f.ub 2
    (s.srcNat t h f.a f.ua 2 + idx * 2 ^ sh + sextTo (s.srcNat t h f.c f.uc 1) 32 2) % 2 ^ 64

/-- LEA. -/
def execLea (h : Hdr) (f : FmtF) : State → Host.Outcome State Fault Refusal :=
  runWord (.lea h f) (eachResult f.d f.w (if f.mod.getLsbD 6 then 1 else 2) fun s t => s.leaValue t h f)

/-! ## Logic (R137) -/

/-- AND NOT at a width of `n` words. -/
def andNot (n a b : Nat) : Nat := a &&& (b ^^^ (2 ^ (32 * n) - 1))

/-- AND. -/
def execAnd (h : Hdr) (f : FmtF) : State → Host.Outcome State Fault Refusal :=
  runWord (.and h f) (bitsWord h f fun a b => a &&& b)
/-- OR. -/
def execOr (h : Hdr) (f : FmtF) : State → Host.Outcome State Fault Refusal :=
  runWord (.or h f) (bitsWord h f fun a b => a ||| b)
/-- XOR. -/
def execXor (h : Hdr) (f : FmtF) : State → Host.Outcome State Fault Refusal :=
  runWord (.xor h f) (bitsWord h f fun a b => a ^^^ b)
/-- ANDN. -/
def execAndn (h : Hdr) (f : FmtF) : State → Host.Outcome State Fault Refusal :=
  runWord (.andn h f) (bitsWord h f fun a b => andNot (tyWords (tyOf f.mod)) a b)

/-- A logic word with an immediate: W64 and SX (R137). -/
def logicImm (h : Hdr) (f : FmtI) (g : Nat → Nat → Nat) : State → List TRef → Res :=
  let n := if f.mod.getLsbD 5 then 2 else 1
  eachResult f.d f.w n fun s t => g (s.srcNat t h f.a f.ua n) (immOf h f (f.mod.getLsbD 4) n)

/-- ANDI. -/
def execAndi (h : Hdr) (f : FmtI) : State → Host.Outcome State Fault Refusal :=
  runWord (.andi h f) (logicImm h f fun a b => a &&& b)
/-- ORI. -/
def execOri (h : Hdr) (f : FmtI) : State → Host.Outcome State Fault Refusal :=
  runWord (.ori h f) (logicImm h f fun a b => a ||| b)
/-- XORI. -/
def execXori (h : Hdr) (f : FmtI) : State → Host.Outcome State Fault Refusal :=
  runWord (.xori h f) (logicImm h f fun a b => a ^^^ b)

/-! ## Shifts and bit fields (R138 to R140) -/

/-- The amount of a shift. -/
def State.shiftAmount (s : State) (t : TRef) (h : Hdr) (f : FmtF) : Nat :=
  if f.mod.getLsbD 6 then (f.mod.extractLsb' 0 6).toNat else s.srcNat t h f.b f.ub 1

/-- The four shifts of R138 on `n` bits. -/
def shiftLeft (n a k : Nat) : Nat := if k ≥ n then 0 else a * 2 ^ k % 2 ^ n
def shiftRight (n a k : Nat) : Nat := if k ≥ n then 0 else a / 2 ^ k
def shiftArith (n a k : Nat) : Nat :=
  if k ≥ n then (if a.testBit (n - 1) then 2 ^ n - 1 else 0) else ((sext a n / (2 ^ k : Int)) % (2 ^ n : Int)).toNat
def rotate (n a k : Nat) : Nat := (a * 2 ^ (k % n) ||| a / 2 ^ (n - k % n)) % 2 ^ n

/-- A shift word. -/
def shiftWord (h : Hdr) (f : FmtF) (g : Nat → Nat → Nat → Nat) : State → List TRef → Res :=
  let n := tyWords (tyOf f.mod)
  eachResult f.d f.w n fun s t => g (32 * n) (s.fa t h f) (s.shiftAmount t h f)

/-- SHL. -/
def execShl (h : Hdr) (f : FmtF) : State → Host.Outcome State Fault Refusal :=
  runWord (.shl h f) (shiftWord h f shiftLeft)
/-- SHR. -/
def execShr (h : Hdr) (f : FmtF) : State → Host.Outcome State Fault Refusal :=
  runWord (.shr h f) (shiftWord h f shiftRight)
/-- SHA. -/
def execSha (h : Hdr) (f : FmtF) : State → Host.Outcome State Fault Refusal :=
  runWord (.sha h f) (shiftWord h f shiftArith)
/-- ROT. -/
def execRot (h : Hdr) (f : FmtF) : State → Host.Outcome State Fault Refusal :=
  runWord (.rot h f) (shiftWord h f rotate)

/-- Position and length of BFE and BFI after the limits of R139; `ctl` is the control source. -/
def fieldOf (f : FmtF) (n ctl : Nat) : Nat × Nat :=
  let im := f.mod.getLsbD 6
  let pos := if im then f.c.toNat else bits ctl 7 0
  let len := if im then (f.mod.extractLsb' 0 6).toNat + 1 else bits ctl 15 8
  (pos, if pos ≥ n then 0 else min len (n - pos))

/-- The field that BFE extracts. -/
def extractField (ty n a pos len : Nat) : Nat :=
  if len == 0 then 0
  else
    let x := a / 2 ^ pos % 2 ^ len
    if ty == 0 || ty == 2 then ((sext x len) % (2 ^ n : Int)).toNat else x

/-- BFE. -/
def execBfe (h : Hdr) (f : FmtF) : State → Host.Outcome State Fault Refusal :=
  let ty := tyOf f.mod
  let n := tyWords ty
  runWord (.bfe h f) (eachResult f.d f.w n fun s t =>
    let p := fieldOf f (32 * n) (s.srcNat t h f.b f.ub 1)
    extractField ty (32 * n) (s.fa t h f) p.1 p.2)

/-- What BFI inserts into B. -/
def insertField (n a b pos len : Nat) : Nat :=
  let mask := (2 ^ len - 1) * 2 ^ pos
  ((b &&& (mask ^^^ (2 ^ n - 1))) ||| (a * 2 ^ pos &&& mask)) % 2 ^ n

/-- BFI. -/
def execBfi (h : Hdr) (f : FmtF) : State → Host.Outcome State Fault Refusal :=
  let n := tyWords (tyOf f.mod)
  runWord (.bfi h f) (eachResult f.d f.w n fun s t =>
    let p := fieldOf f (32 * n) (s.srcNat t h f.c f.uc 1)
    insertField (32 * n) (s.fa t h f) (s.fb t h f) p.1 p.2)

/-- The number of 1 bits among the low `n`. -/
def popCount (n a : Nat) : Nat := ((upto 0 n).filter fun i => a.testBit i).length

/-- POPC: D is one register (R140). -/
def execPopc (h : Hdr) (f : FmtF) : State → Host.Outcome State Fault Refusal :=
  runWord (.popc h f) (eachResult f.d f.w 1 fun s t => popCount (32 * tyWords (tyOf f.mod)) (s.fa t h f))

/-- CLZ. -/
def execClz (h : Hdr) (f : FmtF) : State → Host.Outcome State Fault Refusal :=
  runWord (.clz h f) (eachResult f.d f.w 1 fun s t => 32 * tyWords (tyOf f.mod) - bitLen (s.fa t h f))

/-- The low `n` bits in reverse. -/
def reverseBits (n a : Nat) : Nat := (upto 0 n).foldl (fun x i => if a.testBit i then x + 2 ^ (n - 1 - i) else x) 0

/-- BREV. -/
def execBrev (h : Hdr) (f : FmtF) : State → Host.Outcome State Fault Refusal :=
  let n := tyWords (tyOf f.mod)
  runWord (.brev h f) (eachResult f.d f.w n fun s t => reverseBits (32 * n) (s.fa t h f))

/-! ## Multiplication and division (R141, R142) -/

/-- IMUL. -/
def execImul (h : Hdr) (f : FmtF) : State → Host.Outcome State Fault Refusal :=
  runWord (.imul h f) (intWord h f fun a b => a * b)

/-- IMULH: the high half of the exact product. -/
def execImulh (h : Hdr) (f : FmtF) : State → Host.Outcome State Fault Refusal :=
  runWord (.imulh h f) (intWord h f fun a b => a * b / (2 ^ (32 * tyWords (tyOf f.mod)) : Int))

/-- IMAD. -/
def execImad (h : Hdr) (f : FmtF) : State → Host.Outcome State Fault Refusal :=
  let ty := tyOf f.mod
  runWord (.imad h f) (eachResult f.d f.w (tyWords ty) fun s t =>
    satWrap ty (satOf f.mod) (intRead ty (s.fa t h f) * intRead ty (s.fb t h f) + intRead ty (s.fc t h f)))

/-- IMADW: 32-bit factors, a 64-bit sum of the same signedness. -/
def execImadw (h : Hdr) (f : FmtF) : State → Host.Outcome State Fault Refusal :=
  let ty := tyOf f.mod
  runWord (.imadw h f) (eachResult f.d f.w 2 fun s t =>
    wrapWords (intRead ty (s.srcNat t h f.a f.ua 1) * intRead ty (s.srcNat t h f.b f.ub 1)
      + intRead (ty + 2) (s.srcNat t h f.c f.uc 2)) 2)

/-- Quotient, remainder and exception flag of R142. -/
def divide (ty : Nat) (a b : Int) : Int × Int × Bool :=
  let n := 32 * tyWords ty
  if b = 0 then (2 ^ n - 1, a, true)
  else if (ty == 0 || ty == 2) && decide (a = -(2 ^ (n - 1))) && decide (b = -1) then (a, 0, true)
  else (Int.tdiv a b, Int.tmod a b, false)

/-- A divide word: its result, and the exception predicate. -/
def divWord (h : Hdr) (f : FmtF) (g : Int × Int × Bool → Int) : State → List TRef → Res :=
  let ty := tyOf f.mod
  let n := tyWords ty
  fun s l => perThread l s fun s t =>
    let r := divide ty (intRead ty (s.fa t h f)) (intRead ty (s.fb t h f))
    .ok ((s.result t f.d f.w n (wrapWords (g r) n)).setP t (f.c.extractLsb' 0 3).toNat r.2.2)

/-- IDIV. -/
def execIdiv (h : Hdr) (f : FmtF) : State → Host.Outcome State Fault Refusal :=
  runWord (.idiv h f) (divWord h f fun r => r.1)

/-- IREM. -/
def execIrem (h : Hdr) (f : FmtF) : State → Host.Outcome State Fault Refusal :=
  runWord (.irem h f) (divWord h f fun r => r.2.1)

end Sys2Proof.Machine
end

