-- ==== Sys2Proof/Machine/Control.lean ====
section
/-! DEFINITION. Class 0 but MWAIT: branches, exit, waiting and lane masks (R99 to R111). -/

namespace Sys2Proof.Machine

/-! ## Branches (R100, R101) -/

/-- The address of the word that is running. -/
def State.here (s : State) : Nat := ((s.issue.map Issue.wordPc)).getD 0

/-- An address moved by a displacement in words, modulo 2^56 (R47). -/
def relTo (a : Nat) (rel : BitVec 32) : Nat := (((a : Int) + 8 * rel.toInt) % (2 ^ 56 : Int)).toNat

/-- The thread goes on at an address. -/
def State.jump (s : State) (t : TRef) (a : Nat) : State := s.modThread t fun th => { th with pc := a }

/-- The link register pair receives the address of the next word. -/
def State.link (s : State) (t : TRef) (d : BitVec 8) : State :=
  s.setVs t d.toNat (toWords ((s.here + 8) % 2 ^ 56) 2)

/-- The target of BRX, CALLX and RET for a thread, or the cause that it meets. -/
def State.indirect (s : State) (t : TRef) (a : BitVec 8) (rel : BitVec 32) : Except Hit Nat :=
  let x := (s.vreg t (a.toNat + 1) ++ s.vreg t a.toNat).toNat
  if x ≥ 2 ^ 56 then .error { hit t (rankOwn 0) .memfault 5 with addr := some x }
  else
    let y := relTo x rel
    if y % 8 ≠ 0 then .error (hit t (rankOwn 1) .align 0) else .ok y

/-- A branch word: each active thread's target, and whether it links. -/
def branchWord (f : FmtJ) (link : Bool) (target : State → TRef → Except Hit Nat) : State → List TRef → Res :=
  fun s l => perThread l s fun s t =>
    match target s t with
    | .ok a => .ok ((if link then s.link t f.ld else s).jump t a)
    | .error h => .error h

/-- BRA. -/
def execBra (h : Hdr) (f : FmtJ) : State → Host.Outcome State Fault Refusal :=
  runWord (.bra h f) (branchWord f false fun s _ => .ok (relTo s.here f.rel))
/-- BRX. -/
def execBrx (h : Hdr) (f : FmtJ) : State → Host.Outcome State Fault Refusal :=
  runWord (.brx h f) (branchWord f false fun s t => s.indirect t f.a f.rel)
/-- CALL. -/
def execCall (h : Hdr) (f : FmtJ) : State → Host.Outcome State Fault Refusal :=
  runWord (.call h f) (branchWord f true fun s _ => .ok (relTo s.here f.rel))
/-- CALLX: the target register is read before the link is written. -/
def execCallx (h : Hdr) (f : FmtJ) : State → Host.Outcome State Fault Refusal :=
  runWord (.callx h f) (branchWord f true fun s t => s.indirect t f.a f.rel)
/-- RET. -/
def execRet (h : Hdr) (f : FmtJ) : State → Host.Outcome State Fault Refusal :=
  runWord (.ret h f) (branchWord f false fun s t => s.indirect t f.a 0)

/-! ## NOP, EXIT, YIELD, SLEEP, BRK (R102 to R106) -/

/-- NOP. -/
def execNop (h : Hdr) (f : FmtS) : State → Host.Outcome State Fault Refusal :=
  runWord (.nop h f) fun s _ => .ok s

/-- EXIT: each active thread ends; of a sprout thread, as by SPEND. -/
def execExit (h : Hdr) (f : FmtS) : State → Host.Outcome State Fault Refusal :=
  runWord (.exit h f) fun s l => .ok (l.foldl (fun s t => (s.markSpend t).exitThread t) s)

/-- A thread's ready time is the one after now (R104). -/
def State.yieldThread (s : State) (t : TRef) : State := s.modThread t fun th => { th with readyAt := s.steps + 1 }

/-- YIELD. -/
def execYield (h : Hdr) (f : FmtS) : State → Host.Outcome State Fault Refusal :=
  runWord (.yield h f) fun s l => .ok (l.foldl State.yieldThread s)

/-- The ticks that SLEEP asks for (R105). -/
def State.sleepTicks (s : State) (t : TRef) (h : Hdr) (f : FmtI) : Nat :=
  min (s.srcNat t h f.a f.ua 1 + immOf h f false 1) 0xFFFFFFFF

/-- The key of a SLEEP among those whose wait was abandoned: its unit's address, and whether a handler runs it. -/
def Thread.sleepKey (th : Thread) : Nat := 2 * th.at_ + (if th.inh then 1 else 0)

/-- A thread goes to sleep for some ticks; 0 ticks act as YIELD. A SLEEP that issues again after its wait was abandoned
keeps its deadline, and goes on at once where that has passed (R105). -/
def State.sleepThread (s : State) (t : TRef) (d : Nat) : State :=
  let th := s.thread t
  let s1 := s.setThread t { th with slept := fdel th.slept th.sleepKey }
  match fget th.slept th.sleepKey with
  | some tick => if tick ≤ s.ptb then s1 else s1.modThread t fun th => { th with st := .waiting (.sleep tick) }
  | none => if d == 0 then s.yieldThread t else s.modThread t fun th => { th with st := .waiting (.sleep (s.ptb + d)) }

/-- The waves of some threads end their chunks with SYNC once the word has retired (R469). -/
def State.syncWaves (s : State) (l : List TRef) (obj : Option Nat) : State :=
  (wavesOf l).foldl (fun s u => s.markSync u obj) s

/-- SLEEP. -/
def execSleep (h : Hdr) (f : FmtI) : State → Host.Outcome State Fault Refusal :=
  runWord (.sleep h f) fun s l =>
    .ok ((l.foldl (fun s t => s.sleepThread t (s.sleepTicks t h f)) s).syncWaves l none)

/-- BRK: DEBUG with DSRC 0 and the code (R106, R448). -/
def execBrk (h : Hdr) (f : FmtS) : State → Host.Outcome State Fault Refusal :=
  runWord (.brk h f) fun s l =>
    if l.isEmpty then .ok s else hitAll l (rankOwn 0) .debug (f.body.extractLsb' 0 16).toNat

/-! ## Lane masks (R92, R109, R110) -/

/-- K of JOIN, LEAVE and WAITM. -/
def maskK (f : FmtS) : Nat := (f.body.extractLsb' 44 4).toNat

/-- The mask bits of the active threads of a wave. -/
def activeBits (mine : List TRef) : Dword := BitVec.ofNat 64 (bitsOf (mine.map TRef.i))

/-- A word that rewrites one mask of each wave with active threads. -/
def maskWord (k : Nat) (g : State → Nat → List TRef → Dword) : State → List TRef → Res :=
  fun s l => perWave l s fun s u mine => .ok (s.setM u k (g s u mine))

/-- JOIN. -/
def execJoin (h : Hdr) (f : FmtS) : State → Host.Outcome State Fault Refusal :=
  runWord (.join h f) (maskWord (maskK f) fun s u mine => s.mreg u (maskK f) ||| activeBits mine)
/-- LEAVE. -/
def execLeave (h : Hdr) (f : FmtS) : State → Host.Outcome State Fault Refusal :=
  runWord (.leave h f) (maskWord (maskK f) fun s u mine => s.mreg u (maskK f) &&& ~~~(activeBits mine))

/-- MSET.none. -/
def execMsetNone (h : Hdr) (f : FmtI) : State → Host.Outcome State Fault Refusal :=
  runWord (.msetNone h f) (maskWord f.d.toNat fun _ _ _ => 0)
/-- MSET.live: every thread of the wave not exited. -/
def execMsetLive (h : Hdr) (f : FmtI) : State → Host.Outcome State Fault Refusal :=
  runWord (.msetLive h f) (maskWord f.d.toNat fun s u _ => BitVec.ofNat 64 (bitsOf (s.wave u).live))
/-- MSET.here: the wave's active threads in this bundle. -/
def execMsetHere (h : Hdr) (f : FmtI) : State → Host.Outcome State Fault Refusal :=
  runWord (.msetHere h f) (maskWord f.d.toNat fun _ _ mine => activeBits mine)
/-- MSET with an immediate. -/
def execMsetImm (h : Hdr) (f : FmtI) : State → Host.Outcome State Fault Refusal :=
  runWord (.msetImm h f) (maskWord f.d.toNat fun _ _ _ => BitVec.ofNat 64 (immOf h f false 2))
/-- MSET from a uniform pair. -/
def execMsetSreg (h : Hdr) (f : FmtI) : State → Host.Outcome State Fault Refusal :=
  runWord (.msetSreg h f) (maskWord f.d.toNat fun s u _ => s.sreg64 u f.a.toNat)

/-! ## WAITM (R95, R97, R98) -/

/-- A thread is named in a mask of its wave. -/
def State.named (s : State) (t : TRef) (k : Nat) : Bool := (s.mreg t.u k).getLsbD t.i

/-- A thread waits on a mask that names it. At the end of a chain the threads have been released before
its first word, and go on. -/
def State.waitmThread (s : State) (t : TRef) (k : Nat) : State :=
  let inChain := ((s.issue.map Issue.inChain)).getD false
  if s.named t k && !inChain then s.modThread t fun th => { th with st := .waiting (.waitm k) } else s

/-- WAITM. -/
def execWaitm (h : Hdr) (f : FmtS) : State → Host.Outcome State Fault Refusal :=
  runWord (.waitm h f) fun s l => .ok ((l.foldl (fun s t => s.waitmThread t (maskK f)) s).syncWaves l none)

end Sys2Proof.Machine
end

