-- ==== Sys2Proof/Machine/Exchange.lean ====
section
/-! DEFINITION. Class 5: lane exchange and mask operations (R112 to R122). -/

namespace Sys2Proof.Machine

/-! ## Participants (R112, R113) -/

/-- The participants that a selector names in a wave: a mask's threads, or the live ones. A sprout thread
is its own only participant (R98). -/
def State.participants (s : State) (u sel : Nat) : List Nat :=
  let w := s.wave u
  if w.isSprout then [0]
  else if sel == 15 then w.live
  else (upto 0 w.width).filter fun i => (s.mreg u sel).getLsbD i

/-- The thread is a participant: the selector names it, or it was released as one (R113). -/
def State.takesPart (s : State) (sel : Nat) (t : TRef) : Bool :=
  (s.participants t.u sel).contains t.i || ((s.issue.map fun b => b.gang.contains t).getD false)

/-- The groups that carry the instruction out: the active participants together, and each other active thread alone. -/
def State.groups (s : State) (sel : Nat) (l : List TRef) : List (Nat × List Nat) :=
  (wavesOf l).flatMap fun u =>
    let mine := threadsOf l u
    let inn := mine.filter fun i => s.takesPart sel ⟨u, i⟩
    let out := mine.filter fun i => !s.takesPart sel ⟨u, i⟩
    (if inn.isEmpty then [] else [(u, inn)]) ++ out.map fun i => (u, [i])

/-- An exchange: what it does once for each group, with the flags it raises; inputs are read from the state
before any group wrote (R113). An enabled flag is MATH in every thread of its group. -/
def exchangeWord (f : FmtF) (g : State → State → Nat → List Nat → State × Nat) : State → List TRef → Res :=
  fun s l =>
    let gs := s.groups f.c.toNat l
    let r := gs.foldl (fun (a : State × List (TRef × Nat)) e =>
      let x := g s a.1 e.1 e.2
      (x.1, a.2 ++ e.2.map fun i => ({ u := e.1, i := i }, x.2))) (s, [])
    let on := r.2.filter fun x => x.2 &&& s.enOf x.1.u != 0
    let flags : FMap Nat := r.2.foldl (fun m x => fput m x.1.u (fgetD m x.1.u 0 ||| x.2)) []
    if on.isEmpty then .ok (flags.foldl (fun s e => s.raise e.1 e.2) r.1)
    else .trap (on.map fun x => hit x.1 rankMath .math (on.foldl (fun d y => d ||| (y.2 &&& s.enOf y.1.u)) 0)) flags

/-- A v destination of `n` words written unless W; class 5 shifts no latch. -/
def State.putV (s : State) (t : TRef) (d : BitVec 8) (w : Bool) (n v : Nat) : State :=
  if w then s else s.setVs t d.toNat (toWords v n)

/-- Every thread of a group receives a value. -/
def State.putGroup (s : State) (u : Nat) (l : List Nat) (f : FmtF) (n : Nat) (v : Nat → Nat) : State :=
  l.foldl (fun s i => s.putV { u := u, i := i } f.d f.w n (v i)) s

/-- Threads of a group whose value passes a test, as bits. -/
def groupBits (l : List Nat) (p : Nat → Bool) : Nat := bitsOf (l.filter p)

/-- The predicate operand of BALLOT and VOTE. -/
def State.votePred (s : State) (u i : Nat) (f : FmtF) : Bool :=
  s.preg { u := u, i := i } (f.a.extractLsb' 0 3).toNat != f.a.getLsbD 3

/-! ## The exchange instructions -/

/-- BALLOT (R115). -/
def execBallot (h : Hdr) (f : FmtF) : State → Host.Outcome State Fault Refusal :=
  runWord (.ballot h f) (exchangeWord f fun s0 s u l =>
    let b := groupBits l fun i => s0.votePred u i f
    (if x5 f.mod then s.setM u f.d.toNat (BitVec.ofNat 64 b) else s.putGroup u l f 2 fun _ => b, 0))

/-- The answer of VOTE (R116): any, all, uni. -/
def voteResult (op : Nat) (l : List Bool) : Bool :=
  match op with
  | 0 => l.any id
  | 1 => l.all id
  | _ => l.all id || !l.any id

/-- VOTE. -/
def execVote (h : Hdr) (f : FmtF) : State → Host.Outcome State Fault Refusal :=
  runWord (.vote h f) (exchangeWord f fun s0 s u l =>
    let r := voteResult (op5 f.mod) (l.map fun i => s0.votePred u i f)
    (l.foldl (fun s i => s.setPair { u := u, i := i } f.d 0 r false) s, 0))

/-- The thread that SHFL reads (R117); none for an index below 0. -/
def shflFrom (op i k : Nat) : Option Nat :=
  match op with
  | 0 => some k
  | 1 => if k ≤ i then some (i - k) else none
  | 2 => some (i + k)
  | _ => some (i ^^^ k)

/-- SHFL: own A where the thread read is no contributor. -/
def execShfl (h : Hdr) (f : FmtF) : State → Host.Outcome State Fault Refusal :=
  let n := tyWords (tyOf f.mod)
  runWord (.shfl h f) (exchangeWord f fun s0 s u l =>
    (s.putGroup u l f n fun i =>
      let k := s0.srcNat { u := u, i := i } h f.b f.ub 1 % 64
      match shflFrom (op5 f.mod) i k with
      | some j => s0.fa { u := u, i := if l.contains j then j else i } h f
      | none => s0.fa { u := u, i := i } h f, 0))

/-- BCAST: A of thread B[5:0], 0 where it is no contributor. -/
def execBcast (h : Hdr) (f : FmtF) : State → Host.Outcome State Fault Refusal :=
  let n := tyWords (tyOf f.mod)
  runWord (.bcast h f) (exchangeWord f fun s0 s u l =>
    let val := fun i =>
      let j := s0.srcNat { u := u, i := i } h f.b f.ub 1 % 64
      if l.contains j then s0.fa { u := u, i := j } h f else 0
    (if x5 f.mod then s.setSs u f.d.toNat (toWords (val (l.head?.getD 0)) n) else s.putGroup u l f n val, 0))

/-! ## Folds (R118, R119) -/

/-- One application of the operator of RDX and SCAN: the value and the flags. -/
def foldOp (op ty a b : Nat) : Nat × Nat :=
  if ty == 10 || ty == 11 then
    let f := ffmt ty
    match op with
    | 0 => f.add 0 false 0 (f.decode a) (f.decode b)
    | 1 => f.minmax false a b (f.decode a) (f.decode b)
    | _ => f.minmax true a b (f.decode a) (f.decode b)
  else
    let n := tyWords ty
    let v := match op with
      | 0 => (a + b) % 2 ^ (32 * n)
      | 1 => if intRead ty a ≤ intRead ty b then a else b
      | 2 => if intRead ty a ≥ intRead ty b then a else b
      | 3 => a &&& b
      | 4 => a ||| b
      | _ => a ^^^ b
    (v, 0)

/-- The identity of an exclusive SCAN (R118). -/
def foldIdentity (op ty : Nat) : Nat :=
  let n := 32 * tyWords ty
  if ty == 10 || ty == 11 then
    match op with
    | 0 => 0
    | 1 => (ffmt ty).infCode false
    | _ => (ffmt ty).infCode true
  else match op with
    | 1 => if ty == 0 || ty == 2 then 2 ^ (n - 1) - 1 else 2 ^ n - 1
    | 2 => if ty == 0 || ty == 2 then 2 ^ (n - 1) else 0
    | 3 => 2 ^ n - 1
    | _ => 0

/-- The left folds of a list after each element, with the flags of all of them. -/
def foldsOf (op ty : Nat) : List Nat → List Nat × Nat
  | [] => ([], 0)
  | x :: xs =>
    let r := xs.foldl (fun (a : List Nat × Nat × Nat) y =>
      let v := foldOp op ty a.2.1 y
      (a.1 ++ [v.1], v.1, a.2.2 ||| v.2)) ([x], x, 0)
    (r.1, r.2.2)

/-- RDX. -/
def execRdx (h : Hdr) (f : FmtF) : State → Host.Outcome State Fault Refusal :=
  let ty := tyOf f.mod
  runWord (.rdx h f) (exchangeWord f fun s0 s u l =>
    let r := foldsOf (op5 f.mod) ty (l.map fun i => s0.fa { u := u, i := i } h f)
    (s.putGroup u l f (tyWords ty) fun _ => r.1.getLast?.getD 0, r.2))

/-- SCAN: inclusive, or exclusive with X. An exclusive scan folds no further than its last participant
needs. -/
def execScan (h : Hdr) (f : FmtF) : State → Host.Outcome State Fault Refusal :=
  let ty := tyOf f.mod
  runWord (.scan h f) (exchangeWord f fun s0 s u l =>
    let xs := l.map fun i => s0.fa { u := u, i := i } h f
    let r := foldsOf (op5 f.mod) ty (if x5 f.mod then xs.dropLast else xs)
    let vs := if x5 f.mod then foldIdentity (op5 f.mod) ty :: r.1 else r.1
    (s.putGroup u l f (tyWords ty) fun i => vs.getD ((l.takeWhile fun j => j != i).length) 0, r.2))

/-- MATCH (R120). -/
def execMatchLanes (h : Hdr) (f : FmtF) : State → Host.Outcome State Fault Refusal :=
  runWord (.matchLanes h f) (exchangeWord f fun s0 s u l =>
    (s.putGroup u l f 2 fun i => groupBits l fun j => s0.fa { u := u, i := j } h f == s0.fa { u := u, i := i } h f, 0))

/-! ## Mask operations (R121) -/

/-- MMOV. -/
def execMmov (h : Hdr) (f : FmtF) : State → Host.Outcome State Fault Refusal :=
  runWord (.mmov h f) fun s l =>
    match op5 f.mod with
    | 0 => maskWord f.d.toNat (fun s u _ => s.mreg u f.a.toNat) s l
    | 1 => maskWord f.d.toNat (fun s u _ => s.sreg64 u f.a.toNat) s l
    | 2 => perThread l s fun s t => .ok (s.putV t f.d f.w 2 (s.mreg t.u f.a.toNat).toNat)
    | _ => perWave l s fun s u _ => .ok (s.setSs u f.d.toNat (toWords (s.mreg u f.a.toNat).toNat 2))

/-- A mask operation of two masks. -/
def maskLogic (f : FmtF) (g : Dword → Dword → Dword) : State → List TRef → Res :=
  maskWord f.d.toNat fun s u _ => g (s.mreg u f.a.toNat) (s.mreg u f.b.toNat)

/-- MAND. -/
def execMand (h : Hdr) (f : FmtF) : State → Host.Outcome State Fault Refusal :=
  runWord (.mand h f) (maskLogic f fun a b => a &&& b)
/-- MOR. -/
def execMor (h : Hdr) (f : FmtF) : State → Host.Outcome State Fault Refusal :=
  runWord (.mor h f) (maskLogic f fun a b => a ||| b)
/-- MXOR. -/
def execMxor (h : Hdr) (f : FmtF) : State → Host.Outcome State Fault Refusal :=
  runWord (.mxor h f) (maskLogic f fun a b => a ^^^ b)
/-- MANDN. -/
def execMandn (h : Hdr) (f : FmtF) : State → Host.Outcome State Fault Refusal :=
  runWord (.mandn h f) (maskLogic f fun a b => a &&& ~~~b)

/-- MPOPC; with OP 1 the rank of the thread in the mask. -/
def execMpopc (h : Hdr) (f : FmtF) : State → Host.Outcome State Fault Refusal :=
  runWord (.mpopc h f) fun s l => perThread l s fun s t =>
    .ok (s.putV t f.d f.w 1 (popCount (if op5 f.mod == 1 then t.i else 64) (s.mreg t.u f.a.toNat).toNat))

end Sys2Proof.Machine
end

