-- ==== Sys2Proof/Machine/Float.lean ====
section
/-! DEFINITION. Class 3: floating-point words (R199 to R213). -/

namespace Sys2Proof.Machine

/-! ## Shapes -/

/-- A code with the sign bit of its format flipped if asked (R199). -/
def negCode (bits c : Nat) (b : Bool) : Nat := if b then c ^^^ 2 ^ (bits - 1) else c

/-- The draws that `n` elements of a thread take, in order, and the state after them (R192). -/
def State.draws (s : State) (t : TRef) (mode : Nat) : Nat → List Nat × State
  | 0 => ([], s)
  | n + 1 =>
    let (g, s) := s.drawIf t mode
    let r := s.draws t mode n
    (g :: r.1, r.2)

/-- A word that gives each active thread a result of `n` words with flags; `k` elements of it round. -/
def fpEach (d : BitVec 8) (w : Bool) (n mode k : Nat) (g : State → TRef → List Nat → Nat × Nat) :
    State → List TRef → Res :=
  fun s l => mathThreads l s fun s t =>
    let (ds, s1) := s.draws t mode k
    let r := g s t ds
    (s1.result t d w n r.1, r.2)

/-- The format of a class 3 word whose default is `dflt` (R199). -/
def fpTy (f : FmtF) (dflt : Nat) : Nat := if tyOf f.mod == 0 then dflt else tyOf f.mod

/-- One element of an operation on up to three codes with their negations already applied. -/
abbrev FpOp := FFmt → Nat → Bool → Nat → Nat → Nat → Nat → Nat × Nat

/-- The elements of an operation on three source values cut into `n` elements of `b` bits, each with its own
rounding, NaN and flags: the packed result and the flags of all. -/
def elements (op : FpOp) (ff : FFmt) (mode : Nat) (sat : Bool) (b na nb nc : Nat) (m : BitVec 12) : List Nat → Nat → Nat × Nat
  | [], _ => (0, 0)
  | g :: gs, k =>
    let e := fun (x : Nat) (neg : Bool) => negCode b (x / 2 ^ (b * k) % 2 ^ b) neg
    let r := op ff mode sat g (e na (naOf m)) (e nb (nbOf m)) (e nc (ncOf m))
    let rest := elements op ff mode sat b na nb nc m gs (k + 1)
    (r.1 * 2 ^ (b * k) + rest.1, r.2 ||| rest.2)

/-- A class 3 word of `k` elements of `b` bits in `n` words (R200, R204, R205). -/
def fpWord (h : Hdr) (f : FmtF) (op : FpOp) (ty b n k : Nat) : State → List TRef → Res :=
  fpEach f.d f.w n (rndOf f.mod) k fun s t ds =>
    elements op (ffmt ty) (rndOf f.mod) (satOf f.mod) b (s.srcNat t h f.a f.ua n) (s.srcNat t h f.b f.ub n)
      (s.srcNat t h f.c f.uc n) f.mod ds 0

/-- A scalar f32 word, or its pair form with TYPE 9 (R205). -/
def f32Word (h : Hdr) (f : FmtF) (op : FpOp) : State → List TRef → Res :=
  if tyOf f.mod == 9 then fpWord h f op 10 32 2 2 else fpWord h f op 10 32 1 1

/-- A packed-half word (R204). -/
def halfWord (h : Hdr) (f : FmtF) (op : FpOp) : State → List TRef → Res := fpWord h f op (fpTy f 12) 16 1 2

/-- An f64 word. -/
def doubleWord (h : Hdr) (f : FmtF) (op : FpOp) : State → List TRef → Res := fpWord h f op 11 64 2 1

/-! ## Element operations (R201, R202, R212) -/

/-- Sum, difference, product, fused product, quotient. -/
def opAdd : FpOp := fun f m s g a b _ => f.add m s g (f.decode a) (f.decode b)
def opSub : FpOp := fun f m s g a b _ => f.add m s g (f.decode a) ((f.decode b).negIf !(f.decode b).isNan)
def opMul : FpOp := fun f m s g a b _ => f.mul m s g (f.decode a) (f.decode b)
def opFma : FpOp := fun f m s g a b c => f.fma m s g (f.decode a) (f.decode b) (f.decode c)
def opDiv : FpOp := fun f m s g a b _ => f.div m s g (f.decode a) (f.decode b)

/-- Minimum, maximum, and FMIN of FMAX (R202). -/
def opMin : FpOp := fun f _ _ _ a b _ => f.minmax false a b (f.decode a) (f.decode b)
def opMax : FpOp := fun f _ _ _ a b _ => f.minmax true a b (f.decode a) (f.decode b)
def opClamp : FpOp := fun f _ _ _ a b c =>
  let x := f.minmax true a b (f.decode a) (f.decode b)
  let y := f.minmax false x.1 c (f.decode x.1) (f.decode c)
  (y.1, x.2 ||| y.2)

/-- Reciprocal, reciprocal root, root, and the functions of R212. -/
def opRcp : FpOp := fun f m s g a _ _ => f.rcp m s g (f.decode a)
def opRsq : FpOp := fun f m s g a _ _ => f.rsq m s g (f.decode a)
def opSqrt : FpOp := fun f m s g a _ _ => f.sqrt m s g (f.decode a)
def opTransc (k : Nat) : FpOp := fun f m s g a _ _ => f.transc k m s g (f.decode a)

/-- FRND (R208): over the integers, the sign of a zero result kept, and no NX. -/
def opRnd : FpOp := fun f m _ g a _ _ =>
  match f.decode a with
  | .num s k e =>
    if k == 0 then (a, 0)
    else
      let r := roundAt ⟨s, k, e, false⟩ 0 m g
      if e ≥ 0 then (a, 0) else (f.encode s r.k r.q, 0)
  | .inf _ => (a, 0)
  | v => f.nanResult [v]

/-- floor of (-1)^s times k times 2^e, for e below 0. -/
def floorOf (s : Bool) (k : Nat) (e : Int) : Int :=
  let d := 2 ^ (-e).toNat
  if s then -((k + d - 1) / d : Nat) else (k / d : Nat)

/-- FFRAC (R209). -/
def opFrac : FpOp := fun f m _ g a _ _ =>
  match f.decode a with
  | .num s k e =>
    if e ≥ 0 || k == 0 then (0, 0)
    else
      let n := floorOf s k e
      let x := exAdd s k e (decide (0 ≤ n)) n.natAbs 0
      let r := f.finish m false g false x
      (if r.1 == 0x3F800000 then 0x3F7FFFFF else r.1, r.2 &&& fNX)
  | .inf _ => (0x7FC00000, fIV)
  | v => f.nanResult [v]

/-! ## Arithmetic words -/

/-- FADD. -/
def execFadd (h : Hdr) (f : FmtF) : State → Host.Outcome State Fault Refusal := runWord (.fadd h f) (f32Word h f opAdd)
/-- FSUB. -/
def execFsub (h : Hdr) (f : FmtF) : State → Host.Outcome State Fault Refusal := runWord (.fsub h f) (f32Word h f opSub)
/-- FMUL. -/
def execFmul (h : Hdr) (f : FmtF) : State → Host.Outcome State Fault Refusal := runWord (.fmul h f) (f32Word h f opMul)
/-- FFMA. -/
def execFfma (h : Hdr) (f : FmtF) : State → Host.Outcome State Fault Refusal := runWord (.ffma h f) (f32Word h f opFma)
/-- FMIN. -/
def execFmin (h : Hdr) (f : FmtF) : State → Host.Outcome State Fault Refusal := runWord (.fmin h f) (f32Word h f opMin)
/-- FMAX. -/
def execFmax (h : Hdr) (f : FmtF) : State → Host.Outcome State Fault Refusal := runWord (.fmax h f) (f32Word h f opMax)
/-- FCLAMP. -/
def execFclamp (h : Hdr) (f : FmtF) : State → Host.Outcome State Fault Refusal := runWord (.fclamp h f) (f32Word h f opClamp)
/-- FRND. -/
def execFrnd (h : Hdr) (f : FmtF) : State → Host.Outcome State Fault Refusal := runWord (.frnd h f) (f32Word h f opRnd)
/-- FFRAC. -/
def execFfrac (h : Hdr) (f : FmtF) : State → Host.Outcome State Fault Refusal := runWord (.ffrac h f) (f32Word h f opFrac)
/-- FRCP. -/
def execFrcp (h : Hdr) (f : FmtF) : State → Host.Outcome State Fault Refusal := runWord (.frcp h f) (f32Word h f opRcp)
/-- FRSQ. -/
def execFrsq (h : Hdr) (f : FmtF) : State → Host.Outcome State Fault Refusal := runWord (.frsq h f) (f32Word h f opRsq)
/-- FSQRT. -/
def execFsqrt (h : Hdr) (f : FmtF) : State → Host.Outcome State Fault Refusal := runWord (.fsqrt h f) (f32Word h f opSqrt)
/-- FDIV. -/
def execFdiv (h : Hdr) (f : FmtF) : State → Host.Outcome State Fault Refusal := runWord (.fdiv h f) (f32Word h f opDiv)
/-- FEXP2. -/
def execFexp2 (h : Hdr) (f : FmtF) : State → Host.Outcome State Fault Refusal := runWord (.fexp2 h f) (f32Word h f (opTransc 0))
/-- FLOG2. -/
def execFlog2 (h : Hdr) (f : FmtF) : State → Host.Outcome State Fault Refusal := runWord (.flog2 h f) (f32Word h f (opTransc 1))
/-- FSIN. -/
def execFsin (h : Hdr) (f : FmtF) : State → Host.Outcome State Fault Refusal := runWord (.fsin h f) (f32Word h f (opTransc 2))
/-- FCOS. -/
def execFcos (h : Hdr) (f : FmtF) : State → Host.Outcome State Fault Refusal := runWord (.fcos h f) (f32Word h f (opTransc 3))
/-- FTANH. -/
def execFtanh (h : Hdr) (f : FmtF) : State → Host.Outcome State Fault Refusal := runWord (.ftanh h f) (f32Word h f (opTransc 4))
/-- HADD2. -/
def execHadd2 (h : Hdr) (f : FmtF) : State → Host.Outcome State Fault Refusal := runWord (.hadd2 h f) (halfWord h f opAdd)
/-- HMUL2. -/
def execHmul2 (h : Hdr) (f : FmtF) : State → Host.Outcome State Fault Refusal := runWord (.hmul2 h f) (halfWord h f opMul)
/-- HFMA2. -/
def execHfma2 (h : Hdr) (f : FmtF) : State → Host.Outcome State Fault Refusal := runWord (.hfma2 h f) (halfWord h f opFma)
/-- HMIN2. -/
def execHmin2 (h : Hdr) (f : FmtF) : State → Host.Outcome State Fault Refusal := runWord (.hmin2 h f) (halfWord h f opMin)
/-- HMAX2. -/
def execHmax2 (h : Hdr) (f : FmtF) : State → Host.Outcome State Fault Refusal := runWord (.hmax2 h f) (halfWord h f opMax)
/-- DADD. -/
def execDadd (h : Hdr) (f : FmtF) : State → Host.Outcome State Fault Refusal := runWord (.dadd h f) (doubleWord h f opAdd)
/-- DMUL. -/
def execDmul (h : Hdr) (f : FmtF) : State → Host.Outcome State Fault Refusal := runWord (.dmul h f) (doubleWord h f opMul)
/-- DFMA. -/
def execDfma (h : Hdr) (f : FmtF) : State → Host.Outcome State Fault Refusal := runWord (.dfma h f) (doubleWord h f opFma)

/-! ## Select and compares (R203, R206, R207) -/

/-- FSEL: the selected operand's bits after negation; no flag. -/
def execFsel (h : Hdr) (f : FmtF) : State → Host.Outcome State Fault Refusal :=
  runWord (.fsel h f) (eachResult f.d f.w 1 fun s t =>
    if s.selPred t f.c then negCode 32 (s.srcNat t h f.a f.ua 1) (naOf f.mod)
    else negCode 32 (s.srcNat t h f.b f.ub 1) (nbOf f.mod))

/-- The compare of two codes of `b` bits, negated by NA at bit `na` and NB at bit `nb` of MOD. -/
def cmpCodes (ty b cmp x y : Nat) (na nb : Bool) : Bool × Bool × Nat :=
  let ff := ffmt ty
  fcompare cmp (ff.decode (negCode b (x % 2 ^ b) na)) (ff.decode (negCode b (y % 2 ^ b) nb))

/-- FCMP and DCMP: one compare, its predicate pair by PM (R206). -/
def fcmpWord (h : Hdr) (f : FmtF) (ty n : Nat) : State → List TRef → Res :=
  fun s l => mathThreads l s fun s t =>
    let r := cmpCodes ty (tyBits ty) (f.mod.extractLsb' 4 3).toNat (s.srcNat t h f.a f.ua n) (s.srcNat t h f.b f.ub n)
      (f.mod.getLsbD 1) (f.mod.getLsbD 0)
    (s.setPair t f.d (f.mod.extractLsb' 2 2).toNat r.1 r.2.1, r.2.2)

/-- FCMP. -/
def execFcmp (h : Hdr) (f : FmtF) : State → Host.Outcome State Fault Refusal :=
  runWord (.fcmp h f) (fcmpWord h f (fpTy f 10) 1)
/-- DCMP. -/
def execDcmp (h : Hdr) (f : FmtF) : State → Host.Outcome State Fault Refusal :=
  runWord (.dcmp h f) (fcmpWord h f 11 2)

/-- HCMP2: one predicate for each half. -/
def execHcmp2 (h : Hdr) (f : FmtF) : State → Host.Outcome State Fault Refusal :=
  runWord (.hcmp2 h f) fun s l => mathThreads l s fun s t =>
    let a := s.srcNat t h f.a f.ua 1
    let b := s.srcNat t h f.b f.ub 1
    let cmp := (f.mod.extractLsb' 4 3).toNat
    let lo := cmpCodes (fpTy f 12) 16 cmp a b (naOf f.mod) (nbOf f.mod)
    let hi := cmpCodes (fpTy f 12) 16 cmp (a / 65536) (b / 65536) (naOf f.mod) (nbOf f.mod)
    ((s.setP t (f.d.extractLsb' 0 3).toNat lo.1).setP t (f.d.extractLsb' 3 3).toNat hi.1, lo.2.2 ||| hi.2.2)

/-! ## Classification and the status word (R210, R211) -/

/-- The class mask of a code of a format. -/
def classMask (ty c : Nat) : Nat :=
  let c := c % 2 ^ tyBits ty
  if ty == 19 then
    (if c == 0 then 2 ^ 6 else if c == 8 then 2 ^ 6 + 2 ^ 10 else if c < 8 then 2 ^ 8 else 2 ^ 3)
  else if ty == 21 then
    (if c == 0 then 2 ^ 6 else if c == 2 then 2 ^ 6 + 2 ^ 10 else if c == 1 then 2 ^ 8 else 2 ^ 3)
  else
    let ff := ffmt ty
    let v := ff.decode c
    match v with
    | .nan _ _ _ => if v.signalling then 1 else 2
    | .inf s => if s then 2 ^ 2 else 2 ^ 9
    | .num s m _ =>
      if m == 0 then (if s then 2 ^ 5 else 2 ^ 6)
      else if bits c (ff.eb + ff.mb - 1) ff.mb == 0 then (if s then 2 ^ 4 else 2 ^ 7)
      else (if s then 2 ^ 3 else 2 ^ 8)

/-- FCLASS, classify. -/
def execFclass (h : Hdr) (f : FmtF) : State → Host.Outcome State Fault Refusal :=
  let ty := fpTy f 10
  runWord (.fclass h f) (eachResult f.d f.w 1 fun s t => classMask ty (s.srcNat t h f.a f.ua (if ty == 11 then 2 else 1)))

/-- FCLASS.rdsw: every active thread reads its wave's FPSW; the value is logged (R211, R462). -/
def execFclassRdsw (h : Hdr) (f : FmtF) : State → Host.Outcome State Fault Refusal :=
  runWord (.fclassRdsw h f) fun s l =>
    let s := l.foldl (fun s t => s.result t f.d f.w 1 (s.wave t.u).fpsw.toNat) s
    .ok ((wavesOf l).foldl (fun s u => (s.recVal u 127 0x0CB 0 ((s.wave u).fpsw.zeroExtend 64)).markSync u none) s)

/-- FPSW of each wave with active threads, rewritten from the lowest one's A (R211). -/
def fpswWord (h : Hdr) (f : FmtF) (g : Nat → Nat → Nat) : State → List TRef → Res :=
  fun s l => perWave l s fun s u mine =>
    let a := s.srcNat (leadOf mine) h f.a f.ua 1
    .ok ((s.modWave u fun w => { w with fpsw := BitVec.ofNat 32 (g w.fpsw.toNat a) }).markSync u none)

/-- FCLASS.clrsw: the flags named in A become 0. -/
def execFclassClrsw (h : Hdr) (f : FmtF) : State → Host.Outcome State Fault Refusal :=
  runWord (.fclassClrsw h f) (fpswWord h f fun p a => setBits p 4 0 (andNot 1 (bits p 4 0) (bits a 4 0)))

/-- FCLASS.wren: the enables become A[12:8]. -/
def execFclassWren (h : Hdr) (f : FmtF) : State → Host.Outcome State Fault Refusal :=
  runWord (.fclassWren h f) (fpswWord h f fun p a => setBits p 12 8 (bits a 12 8))

end Sys2Proof.Machine
end

