-- ==== Sys2Proof/Machine/Convert.lean ====
section
/-! DEFINITION. Class 4: conversion, packing and block encoding (R214 to R223), and the paired word, whose
halves are words of classes 1 to 3 (R38 to R42). -/

namespace Sys2Proof.Machine

/-! ## Conversion (R215 to R218) -/

/-- CVT: B is the source format. -/
def execCvt (h : Hdr) (f : FmtF) : State → Host.Outcome State Fault Refusal :=
  let dt := tyOf f.mod
  let st := f.b.toNat
  runWord (.cvt h f) (fpEach f.d f.w (fmtWords dt) (rndOf f.mod) 1 fun s t ds =>
    cvtCode dt st (rndOf f.mod) (satOf f.mod) (ds.getD 0 0) (s.srcNat t h f.a f.ua (fmtWords st)))

/-- A pair of codes placed by a packed form: both halves, or two bytes of C (R217, R219). -/
def packPair (eight : Bool) (half : Bool) (a b c : Nat) : Nat :=
  if eight then setBits c (if half then 31 else 15) (if half then 16 else 0) (b % 256 * 256 + a % 256)
  else b % 65536 * 65536 + a % 65536

/-- The two elements that a packed form reads (R218, R219). -/
def unpackPair (eight : Bool) (half : Bool) (a : Nat) : Nat × Nat :=
  if eight then (let x := if half then a / 65536 else a; (x % 256, x / 256 % 256))
  else (a % 65536, a / 65536 % 65536)

/-- H of a packed form. -/
def halfOf (f : FmtF) : Bool := f.mod.getLsbD 2

/-- CVTP. -/
def execCvtp (h : Hdr) (f : FmtF) : State → Host.Outcome State Fault Refusal :=
  let ty := tyOf f.mod
  runWord (.cvtp h f) (fpEach f.d f.w 1 (rndOf f.mod) 2 fun s t ds =>
    let a := convertTo ty (rndOf f.mod) (satOf f.mod) (ds.getD 0 0) (f32.decode (s.srcNat t h f.a f.ua 1))
    let b := convertTo ty (rndOf f.mod) (satOf f.mod) (ds.getD 1 0) (f32.decode (s.srcNat t h f.b f.ub 1))
    (packPair (byteTy ty) (halfOf f) a.1 b.1 (s.srcNat t h f.c f.uc 1), a.2 ||| b.2))

/-- CVTX. -/
def execCvtx (h : Hdr) (f : FmtF) : State → Host.Outcome State Fault Refusal :=
  let ty := tyOf f.mod
  runWord (.cvtx h f) (fpEach f.d f.w 2 0 0 fun s t _ =>
    let e := unpackPair (byteTy ty) (halfOf f) (s.srcNat t h f.a f.ua 1)
    let a := convertTo 10 0 false 0 (valueOf ty e.1)
    let b := convertTo 10 0 false 0 (valueOf ty e.2)
    (b.1 * 2 ^ 32 + a.1, a.2 ||| b.2))

/-! ## Packing of integers and bytes (R219, R220) -/

/-- A 32-bit value narrowed to an integer type: saturated, or its low bits. -/
def narrow (ty : Nat) (sat : Bool) (v : Nat) : Nat :=
  if sat then (satInt ty (if tySigned ty then sext v 32 else (v : Int)) % (2 ^ tyBits ty : Int)).toNat else v % 2 ^ tyBits ty

/-- PACK2. -/
def execPack2 (h : Hdr) (f : FmtF) : State → Host.Outcome State Fault Refusal :=
  let ty := tyOf f.mod
  runWord (.pack2 h f) (eachResult f.d f.w 1 fun s t =>
    packPair (byteTy ty) (halfOf f) (narrow ty (satOf f.mod) (s.srcNat t h f.a f.ua 1))
      (narrow ty (satOf f.mod) (s.srcNat t h f.b f.ub 1)) (s.srcNat t h f.c f.uc 1))

/-- UNPK2. -/
def execUnpk2 (h : Hdr) (f : FmtF) : State → Host.Outcome State Fault Refusal :=
  let ty := tyOf f.mod
  runWord (.unpk2 h f) (eachResult f.d f.w 2 fun s t =>
    let e := unpackPair (byteTy ty) (halfOf f) (s.srcNat t h f.a f.ua 1)
    placeCode ty e.2 * 2 ^ 32 + placeCode ty e.1)

/-- Byte `i` of PRMT's result. -/
def prmtByte (ba c i : Nat) : Nat :=
  let x := bits c (4 * i + 3) (4 * i)
  let b := ba / 2 ^ (8 * (x % 8)) % 256
  if x ≥ 8 then (if b ≥ 128 then 255 else 0) else b

/-- PRMT. -/
def execPrmt (h : Hdr) (f : FmtF) : State → Host.Outcome State Fault Refusal :=
  runWord (.prmt h f) (eachResult f.d f.w 1 fun s t =>
    let ba := s.srcNat t h f.b f.ub 1 * 2 ^ 32 + s.srcNat t h f.a f.ua 1
    let c := s.srcNat t h f.c f.uc 1
    (upto 0 4).foldl (fun x i => x + prmtByte ba c i * 2 ^ (8 * i)) 0)

/-! ## Block encoding (R221 to R223) -/

/-- A value is a NaN or infinite. -/
def FVal.special : FVal → Bool
  | .num _ _ _ => false
  | _ => true

/-- The larger of two magnitudes. -/
def maxMag (a b : FVal) : FVal :=
  let absOf := fun (v : FVal) => v.negIf v.sgn
  if (absOf a).lt false (absOf b) then absOf b else absOf a

/-- The scale byte of a block of finite values, unless one is given (R221). -/
def blockScale (ty : Nat) (vs : List FVal) (given : Option Nat) : Nat :=
  if vs.any FVal.special then 0xFF
  else match given with
    | some c => c % 256
    | none => match vs.foldl maxMag (.num false 0 0) with
      | .num _ m e => if m == 0 then 0 else leastScale ty m e
      | _ => 0xFF

/-- The elements of a block are rounded: no NaN scale and no zero scale. -/
def scaleRounds (sc : Nat) : Bool := sc != 0xFF && (scaleVal sc).1 != 0

/-- One element: the quotient by the scale, rounded (R221). -/
def blockElem (ty mode sc g : Nat) (v : FVal) : Nat × Nat :=
  if !scaleRounds sc then (0, 0)
  else match v with
    | .num s m e => if m == 0 then (if isFloatTy ty then (ffmt ty).zero s else 0, 0)
                    else roundElem ty mode g (exDiv s m e (scaleVal sc).1 (scaleVal sc).2)
    | _ => (0, 0)

/-- The packing of a block's elements, element 0 lowest (R187), and the flags of all. -/
def packBlock (ty mode sc : Nat) : List FVal → List Nat → Nat × Nat
  | [], _ => (0, 0)
  | v :: vs, gs =>
    let r := blockElem ty mode sc (gs.headD 0) v
    let rest := packBlock ty mode sc vs gs.tail
    (r.1 + rest.1 * 2 ^ tyBits ty, r.2 ||| rest.2)

/-- QENC. Only elements that are rounded take draws. -/
def execQenc (h : Hdr) (f : FmtF) : State → Host.Outcome State Fault Refusal :=
  let ty := tyOf f.mod
  runWord (.qenc h f) fun s l => mathThreads l s fun s t =>
    let vs := (upto 0 8).map fun k => f32.decode (s.vreg t (f.a.toNat + k)).toNat
    let given := if !f.uc && f.c == 244 then none else some (s.srcNat t h f.c f.uc 1)
    let sc := blockScale ty vs given
    let (ds, s1) := s.draws t (rndOf f.mod) (if scaleRounds sc then 8 else 0)
    let r := packBlock ty (rndOf f.mod) sc vs ds
    (s1.result t f.d f.w 2 (sc * 2 ^ 56 + r.1), r.2 ||| (if vs.any FVal.special then fIV else 0))

/-- The f32 code of an element's value times its scale, exact (R222). -/
def decodeElem (ty c : Nat) (sc : Option Nat) : Nat :=
  match sc with
  | none => (convertTo 10 0 false 0 (valueOf ty c)).1
  | some k => if k == 0xFF then 0x7FC00000
              else (f32.mul 0 false 0 (valueOf ty c) (.num false (scaleVal k).1 (scaleVal k).2)).1

/-- QDEC. -/
def execQdec (h : Hdr) (f : FmtF) : State → Host.Outcome State Fault Refusal :=
  let ty := tyOf f.mod
  let w := tyBits ty
  runWord (.qdec h f) (eachResult f.d f.w 8 fun s t =>
    let x := s.srcNat t h f.a f.ua 2
    let sc := if f.mod.getLsbD 3 then none else some (x / 2 ^ 56)
    (upto 0 8).foldl (fun r k => r + decodeElem ty (x / 2 ^ (w * k) % 2 ^ w) sc * 2 ^ (32 * k)) 0)

/-- BSCL.enc: the scale byte of a block with this maximum. -/
def execBsclEnc (h : Hdr) (f : FmtF) : State → Host.Outcome State Fault Refusal :=
  runWord (.bsclEnc h f) fun s l => mathThreads l s fun s t =>
    let v := f32.decode (s.srcNat t h f.a f.ua 1)
    (s.result t f.d f.w 1 (blockScale (tyOf f.mod) [v] none), if v.special then fIV else 0)

/-- BSCL.dec: the f32 value of a scale byte. -/
def execBsclDec (h : Hdr) (f : FmtF) : State → Host.Outcome State Fault Refusal :=
  runWord (.bsclDec h f) (eachResult f.d f.w 1 fun s t =>
    let c := s.srcNat t h f.a f.ua 1 % 256
    if c == 0xFF then 0x7FC00000
    else (convertTo 10 0 false 0 (.num false (scaleVal c).1 (scaleVal c).2)).1)

/-! ## The paired word (R39 to R42) -/

/-- What a half computes from S and D: the result and the flags. -/
def halfValue (h : PHalf) (x d : Nat) : Nat × Nat :=
  let im := h.imm6.toNat
  let two := fun (op : FpOp) (b n : Nat) => elements op (ffmt (if b == 16 then 12 else 10)) 0 false b d x 0 0 (List.replicate n 0) 0
  match h.op6.toNat with
  | 0x01 => (x, 0)
  | 0x02 => (wrapWords (x + sext im 6) 1, 0)
  | 0x03 => ((d + x) % 2 ^ 32, 0)
  | 0x04 => (wrapWords ((d : Int) - x) 1, 0)
  | 0x05 => (if sext d 32 ≤ sext x 32 then d else x, 0)
  | 0x06 => (if sext d 32 ≥ sext x 32 then d else x, 0)
  | 0x07 => (d &&& x, 0)
  | 0x08 => (d ||| x, 0)
  | 0x09 => (d ^^^ x, 0)
  | 0x0A => (x &&& im, 0)
  | 0x0B => (shiftLeft 32 x im, 0)
  | 0x0C => (shiftRight 32 x im, 0)
  | 0x0D => (shiftArith 32 x im, 0)
  | 0x0E => two opAdd 32 1
  | 0x0F => two opMul 32 1
  | 0x10 => two opMin 32 1
  | 0x11 => two opMax 32 1
  | 0x12 => two opAdd 16 2
  | 0x13 => two opMul 16 2
  | _ => (wrapWords (sext im 6) 1, 0)

/-- A half's result from the state before either half: none of a NOP half; the unchanged destination
where its guard is false (R42, R89). -/
def State.halfResult (s : State) (t : TRef) (h : PHalf) : Option (Nat × Nat) :=
  if h.op6 == 0 then none
  else
    let d := (s.vreg t h.d.toNat).toNat
    if s.halfOn t h then some (halfValue h (s.srcWord t none h.s false 0).toNat d) else some (d, 0)

/-- A half's result written and shifted into the latches. -/
def State.putHalf (s : State) (t : TRef) (h : PHalf) (on : Bool) (r : Option (Nat × Nat)) : State :=
  match r with
  | none => s
  | some v => s.result t h.d (!on) 1 v.1

/-- Both halves of a paired word in one thread. -/
def State.pairThread (s : State) (t : TRef) (a b : PHalf) : State × Nat :=
  let ra := s.halfResult t a
  let rb := s.halfResult t b
  let s1 := (s.putHalf t a (s.halfOn t a) ra).putHalf t b (s.halfOn t b) rb
  (s1, (ra.map Prod.snd).getD 0 ||| (rb.map Prod.snd).getD 0)

/-- A paired word: a thread in which both guards are false only shifts its latches (R42). -/
def execPairedWord (c : Bool) (a b : PHalf) : State → Host.Outcome State Fault Refusal :=
  runWord (.pairedWord c a b) fun s _ =>
    mathThreads ((s.issue.map Issue.threads).getD []) s fun s t => s.pairThread t a b

end Sys2Proof.Machine
end

