-- ==== Sys2Proof/Machine/L2.lean ====
section
/-! DEFINITION. Accesses on their way (R151 to R154, R172 to R174, R228, R251, R254, R259 to R262): what an
access does to the bytes it names, how a die's L2 serves its sectors' accesses in order, and what comes
back to the thread. -/

namespace Sys2Proof.Machine

/-! ## An access and its bytes -/

/-- The access writes if it is performed: a store or an atomic. -/
def Access.isWrite (a : Access) : Bool :=
  match a.kind with
  | .store | .rmw _ _ => true
  | _ => false

/-- What an access makes of the `n` bytes it finds: the new bytes if it writes, the value it returns, and the
failure flag of a bounded atomic (R267). -/
def Access.apply (a : Access) (old : Nat) : Option Nat × Nat × Bool :=
  match a.kind with
  | .load _ | .mwait _ => (none, old, false)
  | .pref _ => (none, 0, false)
  | .store => (some a.data.toNat, 0, false)
  | .rmw op ty =>
    let r := atomApply op ty old a.data.toNat a.data2.toNat
    (if r.2.1 then some r.1 else none, old, r.2.2)

/-- The access changed. -/
def State.modAcc (s : State) (id : Nat) (f : Access → Access) : State :=
  { s with accs := s.accs.map fun a => if a.id == id then f a else a }
/-- The access is over. -/
def State.delAcc (s : State) (id : Nat) : State := { s with accs := s.accs.filter fun a => a.id != id }

/-- The context of a thread. -/
def State.ctxOf (s : State) (t : TRef) : Nat := (s.wave t.u).ctx

/-- A performed access with nothing to return is over; another waits for its data to be written. -/
def State.settle (s : State) (a : Access) (v : Nat) (fail : Bool) : State :=
  let quiet := match a.kind with
    | .store | .pref _ => true
    | .rmw _ _ => a.dest == .none && a.pf.isNone
    | _ => false
  if quiet && a.acq.isNone then s.delAcc a.id
  else s.modAcc a.id fun a => { a with st := .done (BitVec.ofNat 128 v) fail }

/-! ## L1 (R148, R151, R153, R154) -/

/-- A line takes its place among an L1's: beyond the ways of its set the first line of the set goes, with its sectors. A line
that is used goes last; under `.stream` it goes first (R148, R153, log entry 6). -/
def CoreState.l1Place (k : CoreState) (line pol : Nat) : CoreState :=
  let set := fun (l : Nat) => Config.l1Set l % 64
  let rest := k.l1Lines.filter (· != line)
  let mine := rest.filter fun l => set l == set line
  let out := if mine.length < partL1 k.part.toNat then none else mine.head?
  let rest := rest.filter fun l => some l != out
  { k with l1Lines := if pol == 2 then line :: rest else rest ++ [line],
           l1 := k.l1.filter fun e => some (e.1 / 4) != out }

/-- A sector filled into a core's L1: untracked under ro, not at all under nal1 and nal2. A core that no launch has given
granules of L1 has none. -/
def State.l1Fill (s : State) (core x pol : Nat) (d : SectorData) : State :=
  let k := s.core core
  if pol == 3 || pol == 4 || partL1 k.part.toNat == 0 then s
  else
    let k := k.l1Place (x / 4) pol
    s.setCore core { k with l1 := fput k.l1 x { data := d, tracked := pol != 1 } }

/-- A load has hit a line of a core's L1. -/
def State.l1Use (s : State) (core x pol : Nat) : State := s.setCore core ((s.core core).l1Place (x / 4) pol)

/-- A store of a core that the L2 performs: its own tracked copy takes the value, its untracked copy and the
other L1s of the die drop theirs (R151, R154). -/
def State.l1Store (s : State) (core x : Nat) (d : SectorData) : State :=
  let s := s.dropL1s (dieOf core) x (some core)
  let k := s.core core
  match fget k.l1 x with
  | some c => s.setCore core (if c.tracked then { k with l1 := fput k.l1 x { c with data := d } } else { k with l1 := fdel k.l1 x })
  | none => s

/-- The data of a core's L1 that a load may take: a tracked copy, or under ro any copy. R154 lets a load of another policy
hit an untracked copy or not; here it does not (log entry 77). -/
def State.l1Hit (s : State) (core x pol : Nat) : Option SectorData :=
  match fget (s.core core).l1 x with
  | some c => if c.tracked || pol == 1 then some c.data else none
  | none => none

/-! ## Recording of an access that leaves the core (R465) -/

/-- The recorded units of a die are checked against an access that its L2 serves: those of other cores, and units of the
same core whose accesses it has performed since the access issued (log entry 25). -/
def State.probeDie (s : State) (a : Access) : State :=
  let c := s.ctxOf a.t
  let die := dieOf a.core
  let r := s.recProbe c (fun k => dieOf k == die) a.t.u (recXMem a.pa) a.isWrite
  r.1.recClock a.t.u r.2

/-- The written bytes of an access enter its unit's HASH (R473). -/
def State.hashAccess (s : State) (a : Access) (new : Option Nat) : State :=
  match new, a.kind with
  | some v, .rmw _ _ => s.recHash a.t a.va (leBytes v a.n)
  | _, _ => s

/-! ## The L2 of a die (R251, R254) -/

/-- A message to the home. -/
def State.sendHome (s : State) (k : MsgKind) (a : Agent) (x : Nat) (d : SectorData) (dirty flag poison : Bool) (ts : Nat) : State :=
  { s with toHome := s.toHome ++ [{ kind := k, agent := a, x := x, data := d, dirty := dirty, flag := flag, poison := poison, ts := ts,
                                        sent := s.ptb }] }

/-- A message to an agent. -/
def State.sendAgent (s : State) (k : MsgKind) (a : Agent) (x : Nat) (d : SectorData) (dirty flag poison : Bool) (ts : Nat) : State :=
  { s with toAgent := s.toAgent ++ [{ kind := k, agent := a, x := x, data := d, dirty := dirty, flag := flag, poison := poison, ts := ts,
                                        sent := s.ptb }] }

/-- A die evicts a sector: silently from S, with EvC from E, with WBD from M or O (R251); the L1s of the die
drop their tracked copies. -/
def State.evictL2 (s : State) (d x : Nat) : State :=
  match s.l2copy d x with
  | none => s
  | some c =>
    let out := fun (s : State) => (s.dropL1s d x none).fireMonitorsAt d x
    match c.st with
    | .s => (out s).dropL2 d x
    | .e => ((out s).setL2 d x { c with st := .miA, dirty := false }).sendHome .evC (.l2 d) x c.data false false c.poison 0
    | .m | .o => ((out s).setL2 d x { c with st := .miA, dirty := true }).sendHome .wbD (.l2 d) x c.data true false c.poison 0
    | _ => s

/-- A full L2 makes room: a sector at the eviction end goes, or one that the manual leaves open (R22, R153, log entry 6). What
stands in its write-back buffers takes no place in it. -/
def State.roomL2 (s : State) (d : Nat) : State :=
  let mine := s.l2.filter fun e => e.1 / 2 ^ 52 == d && e.2.st != .miA
  if mine.length < Config.l2Sectors then s
  else
    let may := mine.filter fun e => e.2.st == .s || e.2.st == .e || e.2.st == .m || e.2.st == .o
    match may.find? (fun e => e.2.early) with
    | some e => s.evictL2 d (e.1 % 2 ^ 52)
    | none => (match may[Config.l2Victim s.steps d % may.length]? with
      | some e => s.evictL2 d (e.1 % 2 ^ 52)
      | none => s)

/-- The die's copy, one in I where it has none. -/
def State.copyOf (s : State) (d x : Nat) : L2Copy :=
  (s.l2copy d x).getD { st := .i, data := 0, dirty := false, poison := false, early := false }

/-- A die requests a sector: its copy takes the waiting state. -/
def State.l2Request (s : State) (d x pol : Nat) (k : MsgKind) (st : CSt) : State :=
  let c := s.copyOf d x
  let s := if (s.l2copy d x).isSome then s else s.roomL2 d
  ((s.setL2 d x { c with st := st, early := pol == 2 }).count 2 d 1 1).sendHome k (.l2 d) x 0 false false false 0

/-- An access performed on the die's copy of its sector (R228). -/
def State.l2Perform (s : State) (d x : Nat) (c : L2Copy) (a : Access) : State :=
  let off := a.pa % 64
  let reads := a.isRead
  if c.poison && reads then s.modAcc a.id fun a => { a with st := .poisoned false false }
  else
    let s := (s.probeDie a).count 2 d 0 1
    let s := match a.kind with
      | .rmw _ _ => { s.count 2 d 3 1 with nearLast := fput s.nearLast (l2Key d x) s.cycle }
      | _ => s
    let r := a.apply (pick c.data off a.n)
    let s := s.hashAccess a r.1
    match r.1 with
    | some v =>
      let data := patch c.data off (leBytes v a.n)
      let s := s.setL2 d x { c with st := .m, data := data, poison := c.poison && a.n < 64 }
      let s := (s.l1Store a.core x data).fireMonitors x
      s.settle a r.2.1 r.2.2
    | none =>
      let s := match a.kind with
        | .load _ => s.l1Fill a.core x a.pol c.data
        | .pref 1 => s.l1Fill a.core x a.pol c.data
        | _ => s
      s.settle a r.2.1 r.2.2

/-- Place of a sector's predictor counter, among the 2,048 of its slice of the die's L2 (R261). -/
def predKey (d x : Nat) : Nat := (d * 16 + Config.l2Slice x % 16) * 2048 + Config.predIndex x % 2048

/-- An atomic that the die's L2 does not hold in E or M goes to the home: on host memory, and unless the page is P in a
recorded context or by the predictor (R259, R261). -/
def State.goesFar (s : State) (d x : Nat) (a : Access) : Bool :=
  (s.target a.pa).1 == .host
    || (a.cls != 0 && (s.tracking (s.ctxOf a.t) || decide (fgetD s.pred (predKey d x) 0 ≥ 2)))

/-- A home-side operation is sent to the sector's home (R253). -/
def State.sendHomeOp (s : State) (x pa : Nat) (op : HomeOp) : State :=
  { s with next := s.next + 1, homeOps := s.homeOps ++ [{ n := s.next, x := x, pa := pa, op := op }] }

/-- The access is performed at the home. -/
def State.toHomeSide (s : State) (a : Access) : State :=
  let s := match a.kind with
    | .rmw _ _ => s.count 2 (dieOf a.core) 4 1
    | _ => s
  (s.modAcc a.id fun a => { a with st := .atHome }).sendHomeOp (sectorOf a.pa) a.pa (.access a.id)

/-- One access at the head of its sector's order in a die's L2: served, sent to the home, or waiting; the
answer tells whether the next one may be looked at (R153, R251, R259). -/
def State.serveL2 (s : State) (d x : Nat) (a : Access) : State × Bool :=
  let st := s.l2st d x
  let c := s.copyOf d x
  let rmw := match a.kind with
    | .rmw _ _ => true
    | _ => false
  let held := st == .e || st == .m
  let far := a.pol == 4 && !rmw
  if rmw && !(held && (s.target a.pa).1 != .host) && st != .isD && st != .imD && st != .smA && st != .omA && st != .miA
      && (s.goesFar d x a) then (s.toHomeSide a, false)
  else if rmw && s.tracking (s.ctxOf a.t) && a.cls != 0 && held then (s.toHomeSide a, false)
  else match st with
    | .e | .m => (s.l2Perform d x c a, true)
    | .s => if a.isWrite then (if far then (s.toHomeSide a, false) else (s.l2Request d x a.pol .upg .smA, false))
            else (s.l2Perform d x c a, true)
    | .o => if a.isWrite then (if far then (s.toHomeSide a, false) else (s.l2Request d x a.pol .upg .omA, false))
            else (s.l2Perform d x c a, true)
    | .i =>
      if far then (s.toHomeSide a, false)
      else if a.isWrite then (s.l2Request d x a.pol .rdX .imD, false)
      else (s.l2Request d x a.pol .rdS .isD, false)
    | _ => (s, false)

/-- The access stands in the order of a die's sector. -/
def Access.inOrder (a : Access) (d x : Nat) : Bool :=
  a.scr.isNone && dieOf a.core == d && sectorOf a.pa == x && (a.st == .atL2 || a.st == .atHome)

/-- The accesses of a die to a sector are served in order as far as they go (R174, R251). -/
def State.drainFrom (s : State) (d x : Nat) : Nat → State
  | 0 => s
  | fuel + 1 =>
    match s.accs.find? (fun a => a.inOrder d x) with
    | none => s
    | some a =>
      if a.st == .atHome then s
      else
        let r := s.serveL2 d x a
        if r.2 then r.1.drainFrom d x fuel else r.1

/-- All that can be served now. -/
def State.drain (s : State) (d x : Nat) : State := s.drainFrom d x (s.accs.length + 1)

/-! ## Scratchpads (R149, R150, R259) -/

/-- A scratchpad access performed in its bank. -/
def State.bankPerform (s : State) (a : Access) (b : Nat) : State :=
  let r := a.apply (s.scrRead b a.pa a.n)
  let s := match r.1 with
    | some v => s.scrWrite b a.pa (leBytes v a.n)
    | none => s
  (s.hashAccess a r.1).settle a r.2.1 r.2.2

/-! ## What comes back to the thread (R152, R169, R173, R267) -/

/-- The words that a value of an access gives its destination. -/
def Access.words (a : Access) (v : Nat) : List Word :=
  match a.kind with
  | .load sx => if a.n ≤ 4 then toWords (if sx then sextTo v (8 * a.n) 1 else v) 1 else toWords v (a.n / 4)
  | _ => toWords v (a.n / 4)

/-- The destination is written; a register of an exited thread is not (R102). -/
def State.writeDest (s : State) (t : TRef) (d : Dest) (l : List Word) : State :=
  if (s.thread t).st == TState.exited then
    (match d with
     | .sreg r _ => s.setSs t.u r l
     | _ => s)
  else match d with
    | .none => s
    | .vreg r _ => s.setVs t r l
    | .sreg r _ => s.setSs t.u r l

/-- The effect of a completed acquire of block scope or wider: the core's untracked copies go (R154). -/
def State.acquire (s : State) (core : Nat) (scope : Nat) : State := if scope ≥ 1 then s.dropUntracked core else s

/-- The access's target is host memory or another device, which a replay does not reach (R487). -/
def State.offDevice (s : State) (a : Access) : Bool :=
  a.scr.isNone && (match (s.target a.pa).1 with
    | .host | .aperture _ => true
    | _ => false)

/-- The value that an access brings from host memory or an aperture is an input of its unit (R462). An atomic that returns a value
reads there as a load does (log entry 87); MWAIT's value is logged as its own. -/
def State.isInput (s : State) (a : Access) : Bool :=
  s.offDevice a && (a.dest != .none || a.pf.isSome) && (match a.kind with
    | .mwait _ => false
    | _ => true)

/-- WHAT of the INPUT record of such a value (R471). -/
def State.inputWhat (s : State) (a : Access) : Nat :=
  match (s.target a.pa).1 with
  | .aperture _ => 1
  | _ => 0

/-- The value and the failure flag of an access: in a replay those of host memory or an aperture come from the log (R486, R487,
R489). -/
def State.returned (s : State) (a : Access) (v : Nat) (fail : Bool) : Nat × Bool × State :=
  if !s.replaying (s.ctxOf a.t) || !s.isInput a then (v, fail, s)
  else
    let q := s.takeInput a.t.u (s.inputWhat a) a.va a.t.i a.n
    match q.1 with
    | some v => (v, (a.apply v).2.2, q.2)
    | none => (v, fail, s.diverge a.t.u 4)

/-- The value of an access reaches its thread: destination, failure flag, acquire, and the INPUT record of a
host or aperture load (R462). -/
def State.deliver (s : State) (a : Access) (v : Nat) (fail : Bool) : State :=
  let r := s.returned a v fail
  let v := r.1
  let fail := r.2.1
  let s := r.2.2.writeDest a.t a.dest (a.words v)
  let s := match a.pf with
    | some p => if (s.thread a.t).st == TState.exited then s else s.setP a.t p fail
    | none => s
  let s := match a.acq with
    | some sc => s.acquire a.core sc
    | none => s
  let s := if s.isInput a then s.recInput a.t.u (s.inputWhat a) a.va a.t.i (leBytes v a.n) else s
  s.delAcc a.id

/-! ## MWAIT (R108) -/

/-- MWAITs of a core that hold a monitor. -/
def State.monitors (s : State) (core : Nat) : Nat :=
  (s.accs.filter fun a => a.core == core && (match a.st with
    | .watching mon _ => mon
    | _ => false)).length

/-- An MWAIT's access watches its sector, or waits 1,024 ticks where no monitor is free (R108). -/
def State.mwaitWatch (s : State) (a : Access) : State :=
  let free := decide (s.monitors a.core < 64)
  let s := match a.acq with
    | some sc => s.acquire a.core sc
    | none => s
  s.modAcc a.id fun a => { a with st := .watching free (s.ptb + if free then 65536 else 1024) }

/-- The access's thread waits in it, an MWAIT. -/
def State.mwaitsIn (s : State) (a : Access) : Bool := (s.thread a.t).st == .waiting (.mwait a.id)

/-- The thread of an MWAIT goes on, if it is that MWAIT that it waits in: the thread of one that was continued past a page
fault went on long ago (R431). -/
def State.mwaitOver (s : State) (a : Access) : State :=
  if s.mwaitsIn a then s.ready a.t else s

/-- An MWAIT's read has its value: in a replay it watches on until the location holds the logged one (R488); it is returned,
or the access watches its sector after the first read that equals B. -/
def State.mwaitValue (s : State) (a : Access) (v : Nat) (first : Bool) : State :=
  let wanted := (s.lateVal a.t.u a.t.i 0x009 v).1
  if wanted != v && !s.offDevice a then (s.modAcc a.id fun a => { a with kind := .mwait true, fired := false }).mwaitWatch a
  else if first && v == a.data.toNat && !s.replaying (s.ctxOf a.t) then s.mwaitWatch a
  else
    let r := s.lateVal a.t.u a.t.i 0x009 v
    let v := r.1
    let s := r.2.deliver a v false
    (s.recVal a.t.u a.t.i 0x009 0 (BitVec.ofNat 64 v)).mwaitOver a

/-- A performed access whose value has come (LOAD_DATA_RETURN). -/
def State.returnValue (s : State) (a : Access) : State :=
  match a.st with
  | .done v fail =>
    (match a.kind with
     | .mwait first => s.mwaitValue a v.toNat first
     | _ => s.deliver a v.toNat fail)
  | _ => s

end Sys2Proof.Machine
end

