-- ==== Sys2Proof/Machine/Coherence.lean ====
section
/-! DEFINITION. The sector protocol between the L2s, the host's caching agent and the home slices (R246 to
R255): the directory, the sector queues, the home-side operations, and the steps of R251. -/

namespace Sys2Proof.Machine

/-! ## Messages on a link (R247) -/

/-- The first message of an agent to the home slice of a sector, if it is of a kind and about that sector:
messages of one agent to one slice are taken in the order sent. -/
def State.nextToHome (s : State) (k : MsgKind) (a : Agent) (x : Nat) : Option Msg :=
  match s.toHome.find? (fun m => m.agent == a && s.homeOf (64 * m.x) == s.homeOf (64 * x)) with
  | some m => if m.kind == k && m.x == x then some m else none
  | none => none

/-- The first message of a sector's home slice to an agent, if it is of a kind and about that sector. -/
def State.nextToAgent (s : State) (k : MsgKind) (a : Agent) (x : Nat) : Option Msg :=
  match s.toAgent.find? (fun m => m.agent == a && s.homeOf (64 * m.x) == s.homeOf (64 * x)) with
  | some m => if m.kind == k && m.x == x then some m else none
  | none => none

/-- A message has been taken by its home. -/
def State.takenHome (s : State) (m : Msg) : State := { s with toHome := eraseFirst (· == m) s.toHome }
/-- A message has been taken by its agent. -/
def State.takenAgent (s : State) (m : Msg) : State := { s with toAgent := eraseFirst (· == m) s.toAgent }

/-! ## Recording (R465, R531) -/

/-- The cores that a home slice's probe table names for a sector are probed before it serves a request. -/
def State.probeHome (s : State) (x but : Nat) (write : Bool) : State × Nat :=
  let hits := s.probeTab.filter fun p => p.x == x
  let s := { s with probeTab := s.probeTab.filter fun p => p.x != x }
  hits.foldl (fun a p =>
    let r := a.1.recProbe p.ctx (fun k => k == p.core) but x write
    (r.1, max a.2 r.2)) (s, 0)

/-- The contexts that are being recorded. -/
def State.recorded (s : State) : List Nat := (upto 0 64).filter s.recording

/-- The unit whose access a home-side operation is, 0 for none. -/
def HomeReq.unit (s : State) (r : HomeReq) : Nat :=
  match r.op with
  | .access id => ((s.accs.find? (fun a => a.id == id)).map fun a => a.t.u).getD 0
  | .grant _ u _ _ => u
  | _ => 0

/-- The unit whose home-side operation a sector's home is busy with, 0 for none: its own access is no conflict. -/
def State.homeUnit (s : State) (x : Nat) : Nat := ((s.homeOps.find? fun r => r.x == x).map (HomeReq.unit s)).getD 0

/-- A message that reaches a die's L2 is checked against the recorded units of all its cores. -/
def State.probeAll (s : State) (die x : Nat) (write : Bool) : State × Nat :=
  s.recorded.foldl (fun a c =>
    let r := (a.1.count 2 die 5 1).recProbe c (fun k => dieOf k == die) (s.homeUnit x) (recXMem (64 * x)) write
    (r.1, max a.2 r.2)) (s, 0)

/-- A host write or an aperture write that arrives is logged for every recorded context (R462, R471, R531):
a HOME record, and an INPUT record with its DATA records, in the input silo. -/
def State.recArrive (s : State) (what pa : Nat) (bytes : List Byte) : State :=
  let slice := s.homeOf pa
  let s := (fkeys s.replays).foldl (fun s c => match s.homeHead c slice with
    | some h => if bits h.toNat 11 10 == what then ((s.homeNext c slice).inputNext c what pa).homeTouch c 0 (sectorOf pa) else s
    | none => s) s
  s.recorded.foldl (fun s c =>
    let s := (s.homeRecord c (sectorOf pa) what 0 0xFF).homeTouch c 0 (sectorOf pa)
    s.emitAll c 40
      (BitVec.ofNat 128 (10 + what * 2 ^ 4 + pa % 2 ^ 52 * 2 ^ 8 + (bytes.length - 1) * 2 ^ 64) :: dataRecs bytes.length bytes)) s

/-! ## Directory entries (R248) -/

/-- An entry in a stable state. -/
def DirEntry.stableAs (e : DirEntry) (st : DSt) (own : Option Agent) (sh : List Agent) : DirEntry :=
  { e with st := st, own := own, sh := sh, acks := [], fwd := none, task := .none, back := st, data := 0, dirty := false,
           bad := false, ts := 0 }

/-- The sector's point of coherence is at the host (R246). -/
def State.hostSector (s : State) (x : Nat) : Bool := (s.target (64 * x)).1 == .host

/-- The home sends Inv to agents. -/
def State.invAll (s : State) (x : Nat) (l : List Agent) : State :=
  l.foldl (fun s a => s.sendAgent .inv a x 0 false false false 0) s

/-- The home grants a sector, or the upgrade of one, with the data of its transient entry. -/
def State.grant (s : State) (k : MsgKind) (q : Agent) (x : Nat) (dirty : Bool) : State :=
  let e := s.dirOf x
  s.sendAgent k q x e.data dirty false e.bad e.ts

/-- The entry becomes transient: it awaits answers, with the home's own data until one brings newer. -/
def State.awaitDir (s : State) (x : Nat) (st : DSt) (acks : List Agent) (fwd : Option Agent) (task : DirTask) (ts : Nat) : State :=
  let e := s.dirOf x
  let s := s.touchL3 x
  s.setDir x { e with st := st, back := e.st, acks := acks, fwd := fwd, task := task, data := s.homeSector x, dirty := false,
                      bad := s.poison.contains x, ts := ts }

/-- The entry of a sector in O awaits the InvAcks of an upgrade. The owner's dirty data then stands in the upgrading copy
alone, until Cmp makes it M: the model keeps it in the entry and in Cmp (R228, R249). -/
def State.awaitUpg (s : State) (x : Nat) (acks : List Agent) (q : Agent) (ts : Nat) : State :=
  let d := s.latest x
  let s := s.awaitDir x .hInv acks none (.serve .upg q) ts
  s.setDir x { s.dirOf x with data := d, dirty := true }

/-! ## Serving a request in a stable state (R249, R252) -/

/-- Agent `q` becomes the owner in E. -/
def State.giveE (s : State) (x : Nat) (k : MsgKind) (q : Agent) (dirty : Bool) : State :=
  let s := s.grant k q x dirty
  s.setDir x ((s.dirOf x).stableAs .e (some q) [])

/-- A read is granted as shared, and the entry is as given. -/
def State.giveS (s : State) (x : Nat) (q : Agent) (st : DSt) (own : Option Agent) (sh : List Agent) : State :=
  let s := s.grant .dataS q x false
  s.setDir x ((s.dirOf x).stableAs st own (dedup (sh ++ [q])))

/-- What the home does once the answers to its messages are in. `back` is the state it served in. A reader whose owner has
left is given the sector in E (R252): the sharers of an O entry are invalidated first, since no other agent may hold a
sector in E (R248, log entry 68). -/
def State.finishServe (s : State) (x : Nat) (k : MsgKind) (q : Agent) : State :=
  let e := s.dirOf x
  match k, e.back with
  | .rdS, .s => s.giveS x q .s e.own e.sh
  | .rdS, .o =>
    (match e.own with
     | some o => s.giveS x q .o (some o) e.sh
     | none =>
       let others := e.sh.filter (· != q)
       if others.isEmpty then s.giveE x .dataE q false
       else (s.awaitDir x .hInv others none (.serve .rdX q) e.ts).invAll x others)
  | .rdS, _ =>
    (match e.own with
     | some o => if e.dirty then s.giveS x q .o (some o) [] else s.giveS x q .s none [o]
     | none => s.giveE x .dataE q false)
  | .upg, .o => s.giveE x .cmp q true
  | .upg, _ => s.giveE x .cmp q false
  | _, _ => s.giveE x .dataE q e.dirty

/-! ## Home-side operations (R253) -/

/-- The operation only reads. -/
def HomeReq.reads (s : State) (r : HomeReq) : Bool :=
  match r.op with
  | .access id => (match s.accs.find? (fun a => a.id == id) with
    | some a => !a.isWrite
    | none => true)
  | .hostRead _ | .apRead _ _ | .scrub => true
  | _ => false

/-- The entry of a sector after a home-side operation: as it was for a read, I for a write. -/
def State.closeOp (s : State) (x : Nat) (read : Bool) : State :=
  let e := s.dirOf x
  s.setDir x (if read then e.stableAs e.back e.own e.sh else e.stableAs .i none [])

/-- A far atomic's reply lowers the predictor's counter when the home found the sector in I or owned by the
requesting die (R261). -/
def State.farReply (s : State) (d x : Nat) (foundI : Bool) : State :=
  if foundI then
    let k := predKey d x
    { s with pred := fsetD s.pred k (fgetD s.pred k 0 - 1) 0 }
  else s

/-- A thread's access performed at the home on the entry's data. -/
def State.performAccess (s : State) (x : Nat) (a : Access) : State :=
  let e := s.dirOf x
  let rmw := match a.kind with
    | .rmw _ _ => true
    | _ => false
  let s := if rmw then s.homeRecUnit a.t.u x false
           else (s.homeTouch (s.ctxOf a.t) a.t.u x).probeEnter x a.core (s.ctxOf a.t)
  let s := s.recClock a.t.u e.ts
  let s := if rmw then s.farReply (dieOf a.core) x (e.back == .i || e.own == some (.l2 (dieOf a.core))) else s
  let s := if a.isWrite then (s.setHomeSector x e.data).setPoison x e.bad else s
  if e.bad && a.isRead then
    (s.modAcc a.id fun a => { a with st := .poisoned false false }).closeOp x (!a.isWrite)
  else
    let off := a.pa % 64
    let r := a.apply (pick e.data off a.n)
    let s := s.hashAccess a r.1
    let s := match r.1 with
      | some v =>
        ((s.setHomeSector x (patch e.data off (leBytes v a.n))).setPoison x (e.bad && a.n < 64)).fireMonitors x
      | none => s
    (s.settle a r.2.1 r.2.2).closeOp x (!a.isWrite)

/-- Bytes from outside written at the home. -/
def State.performWrite (s : State) (r : HomeReq) (what : Nat) (bytes : List Byte) : State :=
  let e := s.dirOf r.x
  let d := patch e.data (r.pa % 64) bytes
  let s := (s.setHomeSector r.x d).setPoison r.x (e.bad && bytes.length < 64)
  ((s.fireMonitors r.x).recArrive what r.pa bytes).closeOp r.x false

/-- Write-backs and notices of an agent that wait behind the operation are answered as from a non-owner, before
the agent is given the sector anew (R252). -/
def State.flushLeave (s : State) (q : Agent) (x : Nat) : State :=
  let e := s.dirOf x
  let gone := fun (r : QReq) => r.msg.agent == q && (r.msg.kind == .wbD || r.msg.kind == .evC)
  (e.queue.filter gone).foldl (fun s _ => s.sendAgent .wbAck q x 0 false false false 0)
    (s.setDir x { e with queue := e.queue.filter fun r => !gone r })

/-- What a writing operation that writes nothing has recalled enters L3 (R253). -/
def State.keepRecalled (s : State) (x : Nat) : State :=
  let e := s.dirOf x
  ((s.setHomeSector x e.data).setPoison x e.bad).closeOp x false

/-- A home-side operation is performed on the data of its transient entry, and is over. -/
def State.performOp (s : State) (r : HomeReq) : State :=
  let s := { s with homeOps := s.homeOps.filter fun q => q.n != r.n }
  match r.op with
  | .access id =>
    (match s.accs.find? (fun a => a.id == id) with
     | some a => ((s.performAccess r.x a).drain (dieOf a.core) r.x)
     | none => s.closeOp r.x true)
  | .grant die u status req =>
    let s := s.homeRecUnit u r.x true
    let s := s.flushLeave (.l2 die) r.x
    let e := s.dirOf r.x
    let s := s.grant .dataE (.l2 die) r.x e.dirty
    let s := s.setDir r.x ((s.dirOf r.x).stableAs .e (some (.l2 die)) [])
    { s with next := s.next + 1,
             lockReplies := s.lockReplies ++ [{ n := s.next, u := u, x := r.x, status := status, req := req, again := none }] }
  | .hostRead _ | .apRead _ _ => s.closeOp r.x true
  | .hostWrite bytes => s.performWrite r 2 bytes
  | .apWrite _ bytes => s.performWrite r 3 bytes
  | .apRmw _ op ty d d2 =>
    let n := atomBytes ty
    let e := s.dirOf r.x
    let x := atomApply op ty (pick e.data (r.pa % 64) n) d d2
    if x.2.1 && !e.bad then s.performWrite r 3 (leBytes x.1 n) else s.keepRecalled r.x
  | .scrub => s.closeOp r.x true
  | .invalidate => if (s.dirOf r.x).dirty then s.keepRecalled r.x else s.closeOp r.x false

/-- A slice of a replay holds an operation that the log names until the operations logged before it are performed
(R486), also where the order of the chunks is another (log entry 104). -/
def State.homeHeld (s : State) (r : HomeReq) : Bool :=
  let named := fun (u op : Nat) =>
    let w := s.wave u
    s.replaying w.ctx && (op == 1 || s.homeOther u r.x)
      && (match s.homeHead w.ctx (s.homeOf (64 * r.x)) with
          | some h => !(bits h.toNat 11 10 == op && bits h.toNat 95 64 == w.tag.toNat)
          | none => false)
  match r.op with
  | .access id => (match s.accs.find? (fun a => a.id == id) with
    | some a => (match a.kind with
      | .rmw _ _ => named a.t.u 0
      | _ => false)
    | none => false)
  | .grant _ u _ _ => named u 1
  | _ => false

/-- A home-side operation takes its place in H.OP: a read sends Peek, another Recall and Inv (R253). -/
def State.startOp (s : State) (r : HomeReq) : State :=
  let e := s.dirOf r.x
  let read := r.reads s
  let p := s.probeHome r.x (r.unit s) (!read)
  let s := p.1
  let own := match e.st with
    | .e | .o => e.own
    | _ => none
  let acks := if read then [] else e.sh
  let s := s.awaitDir r.x .hOp acks own (.homeOp r.n) p.2
  let s := if s.hostSector r.x && e.st == .i then
      s.setDir r.x { s.dirOf r.x with data := s.hostValue r.x, bad := false }
    else s
  let s := match own with
    | some o => s.sendAgent (if read then .peek else .recallMsg) o r.x 0 false false false 0
    | none => s
  let s := s.invAll r.x acks
  if own.isNone && acks.isEmpty then s.performOp r else s

/-- The answers of a transient entry are in: the home goes on. -/
def State.finishDir (s : State) (x : Nat) : State :=
  let e := s.dirOf x
  if e.st.stable || !e.acks.isEmpty || e.fwd.isSome then s
  else match e.task with
    | .serve k q => s.finishServe x k q
    | .homeOp n => (match s.homeOps.find? (fun r => r.n == n) with
      | some r => s.performOp r
      | none => s.closeOp x true)
    | .host _ _ | .none => s

/-- The home serves a request, a write-back or an eviction notice in a stable state (R249). -/
def State.homeServe (s : State) (m : Msg) : State :=
  let x := m.x
  let q := m.agent
  let but := match m.agent with
    | .l2 d => ((s.accs.find? (fun (a : Access) => a.inOrder d x)).map fun a => a.t.u).getD 0
    | _ => 0
  let p := if m.kind.isRequest then s.probeHome x but (m.kind != .rdS) else (s, 0)
  let s := p.1
  let ts := p.2
  let e := s.dirOf x
  let others := e.sh.filter (· != q)
  match m.kind, e.st with
  | .wbD, _ | .evC, _ =>
    if e.own == some q && (e.st == .e || (e.st == .o && m.kind == .wbD)) then
      let s := if m.kind == .wbD then ((s.touchL3 x).setHomeSector x m.data).setPoison x m.poison else s
      let s := s.sendAgent .wbAck q x 0 false true false 0
      s.setDir x ((s.dirOf x).stableAs (if e.st == .o then .s else .i) none (if e.st == .o then e.sh else []))
    else s.sendAgent .wbAck q x 0 false false false 0
  | .rdS, .i | .rdX, .i | .upg, .i =>
    if s.hostSector x && q != .host then s.awaitDir x .hRd [] none (.host m.kind q) ts
    else (s.awaitDir x .hRd [] none (.serve .rdX q) ts).finishDir x
  | .rdS, .s => (s.awaitDir x .hRd [] none (.serve .rdS q) ts).finishDir x
  | .upg, .s =>
    let s := s.awaitDir x .hInv others none (.serve (if e.sh.contains q then .upg else .rdX) q) ts
    (s.invAll x others).finishDir x
  | .rdX, .s => ((s.awaitDir x .hInv others none (.serve .rdX q) ts).invAll x others).finishDir x
  | k, .e =>
    (match e.own with
     | some o =>
       if o == q then s
       else (s.awaitDir x .hFwd [] (some o) (.serve (if k == .rdS then .rdS else .rdX) q) ts).sendAgent
              (if k == .rdS then .fwdS else .fwdX) o x 0 false false false 0
     | none => s)
  | k, .o =>
    (match e.own with
     | some o =>
       if k == .rdS then
         if o == q then s
         else (s.awaitDir x .hFwd [] (some o) (.serve .rdS q) ts).sendAgent .fwdS o x 0 false false false 0
       else if k == .upg && o == q then
         ((s.awaitUpg x e.sh q ts).invAll x e.sh).finishDir x
       else if k == .upg && e.sh.contains q then
         (s.awaitUpg x (others ++ [o]) q ts).invAll x (others ++ [o])
       else if o == q then s
       else ((s.awaitDir x .hFwdInv others (some o) (.serve .rdX q) ts).sendAgent .fwdX o x 0 false false false 0).invAll x others
     | none => s)
  | _, _ => s

/-- Requests that wait in the sector queues of a home slice. -/
def State.sliceQueued (s : State) (x : Nat) : Nat :=
  let h := s.homeOf (64 * x)
  (s.dir.filter fun e => s.homeOf (64 * e.1) == h).foldl (fun n e => n + e.2.queue.length) 0

/-- A request reaches its home: served at once, queued, or turned away with Retry (R250). -/
def State.homeRequest (s : State) (m : Msg) : State :=
  let e := s.dirOf m.x
  if e.st.stable && e.queue.isEmpty then s.homeServe m
  else if s.sliceQueued m.x < 256 then s.setDir m.x { e with queue := e.queue ++ [{ msg := m }] }
  else { s with retries := s.retries ++ [m] }

/-- An answer reaches the home (R249, R252). -/
def State.homeAnswer (s : State) (m : Msg) : State :=
  let x := m.x
  let e := s.dirOf x
  match m.kind with
  | .invAck =>
    (s.setDir x { e with acks := e.acks.filter (· != m.agent), ts := max e.ts m.ts }).finishDir x
  | .fwdData =>
    if e.fwd == some m.agent then
      let s := if m.flag && m.dirty then (s.setHomeSector x m.data).setPoison x m.poison else s
      (s.setDir x { e with fwd := none, data := m.data, dirty := m.dirty, bad := m.poison, ts := max e.ts m.ts,
                           own := if m.flag then none else e.own }).finishDir x
    else s
  | .peekData =>
    if e.fwd == some m.agent then
      (s.setDir x { e with fwd := none, data := m.data, bad := m.poison, ts := max e.ts m.ts }).finishDir x
    else s
  | _ => s

/-! ## What the host's agent sends (R255) -/

/-- The host's agent may send a request for a sector: it does not own it, but for an upgrade from O, and has none
outstanding; the sector's home answers (R255, R409). -/
def State.hostMay (s : State) (k : MsgKind) (x : Nat) : Bool :=
  ((s.dirOf x).own != some .host || (k == .upg && (s.dirOf x).st == .o)) && !s.lostHome (64 * x) && (s.hostRequests x).isEmpty
    && !(s.toAgent.any fun m => m.agent == .host && m.x == x && (m.kind == .dataS || m.kind == .dataE || m.kind == .cmp))

/-- A message of the host's agent with the data that the outside world gives it. -/
def hostMsg (k : MsgKind) (x : Nat) (d : Option (BitVec 512)) (flag : Bool) : Msg :=
  { kind := k, agent := .host, x := x, data := d.getD 0, dirty := d.isSome, flag := flag, poison := false, ts := 0, sent := 0 }

/-- The message of the home to the host's agent that an answer of it answers. -/
def State.hostAsked (s : State) (x : Nat) (l : List MsgKind) : Option Msg :=
  s.toAgent.find? fun m => m.agent == .host && m.x == x && l.contains m.kind

/-- A write-back of the host's agent is on its way or waiting. -/
def State.hostLeaving (s : State) (x : Nat) : Bool :=
  ((s.dirOf x).queue.map QReq.msg ++ s.toHome).any fun m => m.agent == .host && m.x == x && (m.kind == .wbD || m.kind == .evC)

/-- The host's agent answers a message of the home; without data, as one that holds the sector clean. -/
def State.hostAnswer (s : State) (k : MsgKind) (x : Nat) (d : Option (BitVec 512)) : State :=
  let asked := match k with
    | .invAck => [MsgKind.inv]
    | .fwdData => [MsgKind.fwdS, .fwdX, .recallMsg]
    | _ => [MsgKind.peek]
  match s.hostAsked x asked with
  | some m =>
    let clean := s.homeSector x
    (s.takenAgent m).homeAnswer { hostMsg k x d (s.hostLeaving x) with data := d.getD clean }
  | none => s

/-! ## The die's L2 (R251, R254) -/

/-- The predictor's counter rises when the L2 loses a sector within 4,096 clk of a near atomic to it (R261). -/
def State.predLose (s : State) (d x : Nat) : State :=
  match fget s.nearLast (l2Key d x) with
  | none => s
  | some at_ =>
    let s := { s with nearLast := fdel s.nearLast (l2Key d x) }
    if s.cycle - at_ ≤ 4096 then
      let k := predKey d x
      { s with pred := fput s.pred k (min 3 (fgetD s.pred k 0 + 1)) }
    else s

/-- A die loses a sector to an Inv, FwdX or Recall: its L1s drop it, its cores' monitors on it fire, and the predictor
learns of it. -/
def State.loseSector (s : State) (d x : Nat) : State := ((s.dropL1s d x none).predLose d x).fireMonitorsAt d x

/-- A sector's data arrives at a die that waits for it (R251): its accesses are served in order. The clocks of
the recorded units that wait follow the answer (R467). -/
def State.l2Data (s : State) (d : Nat) (m : Msg) (st : CSt) : State :=
  let s := s.setL2 d m.x { st := st, data := m.data, dirty := false, poison := m.poison, early := (s.copyOf d m.x).early }
  let s := (s.accs.filter fun a => a.inOrder d m.x).foldl (fun s a => s.recClock a.t.u m.ts) s
  s.drain d m.x

/-- DataS and DataE. A sector that a lock grant brings unasked finds room made for it (R22, R253). -/
def State.l2Fill (s : State) (d : Nat) (m : Msg) : State :=
  let s := if (s.l2copy d m.x).isSome then s else s.roomL2 d
  match s.l2st d m.x with
  | .isD => s.l2Data d m (if m.kind == .dataE then (if m.dirty then .m else .e) else .s)
  | _ => s.l2Data d m (if m.dirty || (s.l2st d m.x) == .imD then .m else .e)

/-- Cmp: the upgrade is complete. -/
def State.l2Cmp (s : State) (d : Nat) (m : Msg) : State :=
  let c := s.copyOf d m.x
  s.l2Data d { m with data := c.data, poison := c.poison } .m

/-- Inv: the copy goes; an upgrade that waits becomes a wait for the data (R251). -/
def State.l2Inv (s : State) (d x : Nat) : State :=
  let p := s.probeAll d x true
  let c := p.1.copyOf d x
  let s := p.1.loseSector d x
  let s := match c.st with
    | .smA | .omA => s.setL2 d x { c with st := .imD }
    | .isD | .imD | .miA => s
    | _ => s.dropL2 d x
  s.sendHome .invAck (.l2 d) x 0 false false false p.2

/-- FwdS: the sector is supplied and kept shared. -/
def State.l2FwdS (s : State) (d x : Nat) : State :=
  let p := s.probeAll d x false
  let s := p.1
  let c := s.copyOf d x
  let send := fun (s : State) (dirty wbp : Bool) => s.sendHome .fwdData (.l2 d) x c.data dirty wbp c.poison p.2
  match c.st with
  | .miA => send s c.dirty true
  | .m => send (s.setL2 d x { c with st := .o }) true false
  | .o | .omA => send s true false
  | .e => send (s.setL2 d x { c with st := .s }) false false
  | _ => send s false false

/-- FwdX or Recall: the sector is supplied and given up; a clean sharer answers a Recall with InvAck. -/
def State.l2FwdX (s : State) (d x : Nat) (back : Bool) : State :=
  let p := s.probeAll d x true
  let c := p.1.copyOf d x
  let s := p.1.loseSector d x
  let send := fun (s : State) (dirty wbp : Bool) => s.sendHome .fwdData (.l2 d) x c.data dirty wbp c.poison p.2
  match c.st with
  | .miA => send s c.dirty true
  | .omA => send (s.setL2 d x { c with st := .imD }) true false
  | .m | .o => send (s.dropL2 d x) true false
  | .e => send (s.dropL2 d x) false false
  | .s => if back then (s.dropL2 d x).sendHome .invAck (.l2 d) x 0 false false false p.2 else send (s.dropL2 d x) false false
  | _ => send s false false

/-- Peek: the sector is supplied, and the copy stays as it is. -/
def State.l2Peek (s : State) (d x : Nat) : State :=
  let p := s.probeAll d x false
  let c := p.1.copyOf d x
  p.1.sendHome .peekData (.l2 d) x c.data false false c.poison p.2

/-- WBAck: the write-back buffer is free; accesses that waited for it go on. -/
def State.l2WbAck (s : State) (d x : Nat) : State :=
  match s.l2st d x with
  | .miA => (s.dropL2 d x).drain d x
  | _ => s

/-! ## The events -/

/-- A request of an agent reaches its home. Where the host's agent has none under way, it sends one. -/
def requestEvent (k : MsgKind) (s : State) : State :=
  match s.nextToHome k s.arg.a s.arg.n with
  | some m => (s.takenHome m).homeRequest m
  | none =>
    if s.arg.a == .host && s.hostMay k s.arg.n then s.homeRequest (hostMsg k s.arg.n none false) else s

/-- A write-back or an eviction notice reaches its home. Where none is under way, the agent evicts the sector:
a die by R251, the host's agent what it holds; after HOSTCOH it holds nothing, and the home answers as it answers any
non-owner (R249, R255). -/
def leaveEvent (k : MsgKind) (s : State) : State :=
  match s.nextToHome k s.arg.a s.arg.n with
  | some m => (s.takenHome m).homeRequest m
  | none =>
    match s.arg.a with
    | .host =>
      if s.hostLeaving s.arg.n then s
      else s.homeRequest { hostMsg k s.arg.n s.arg.d true with data := s.arg.d.getD (s.homeSector s.arg.n) }
    | .l2 d =>
      let st := s.l2st d s.arg.n
      if (k == .evC && (st == .e || st == .s)) || (k == .wbD && (st == .m || st == .o)) then s.evictL2 d s.arg.n else s

/-- An answer reaches its home. -/
def answerEvent (k : MsgKind) (s : State) : State :=
  match s.nextToHome k s.arg.a s.arg.n with
  | some m => (s.takenHome m).homeAnswer m
  | none => if s.arg.a == .host then s.hostAnswer k s.arg.n s.arg.d else s

/-- A message of the home reaches its agent; the same step may evict another sector of the die. The host's
agent keeps a message that it must answer until it does. -/
def agentEvent (k : MsgKind) (f : State → Nat → Msg → State) (s : State) : State :=
  match s.nextToAgent k s.arg.a s.arg.n with
  | none => s
  | some m =>
    match s.arg.a with
    | .host =>
      (match k with
       | .dataS | .dataE | .cmp | .wbAck =>
         let s := s.takenAgent m
         if k == .dataE || k == .cmp then s.fireMonitors m.x else s
       | _ => s)
    | .l2 d =>
      let s := f (s.takenAgent m) d m
      match s.arg.e with
      | some y => s.evictL2 d y
      | none => s

/-- RDS. -/
def execRds (s : State) : Host.Outcome State Fault Refusal := .next (requestEvent .rdS s)
/-- RDX_REQUEST. -/
def execRdxRequest (s : State) : Host.Outcome State Fault Refusal := .next (requestEvent .rdX s)
/-- UPG. -/
def execUpg (s : State) : Host.Outcome State Fault Refusal := .next (requestEvent .upg s)
/-- WBD. -/
def execWbd (s : State) : Host.Outcome State Fault Refusal := .next (leaveEvent .wbD s)
/-- EVC. -/
def execEvc (s : State) : Host.Outcome State Fault Refusal := .next (leaveEvent .evC s)
/-- INVACK. -/
def execInvack (s : State) : Host.Outcome State Fault Refusal := .next (answerEvent .invAck s)
/-- FWDDATA. -/
def execFwddata (s : State) : Host.Outcome State Fault Refusal := .next (answerEvent .fwdData s)
/-- PEEKDATA. -/
def execPeekdata (s : State) : Host.Outcome State Fault Refusal := .next (answerEvent .peekData s)
/-- DATAS. -/
def execDatas (s : State) : Host.Outcome State Fault Refusal := .next (agentEvent .dataS State.l2Fill s)
/-- DATAE. -/
def execDatae (s : State) : Host.Outcome State Fault Refusal := .next (agentEvent .dataE State.l2Fill s)
/-- CMP. -/
def execCmp (s : State) : Host.Outcome State Fault Refusal := .next (agentEvent .cmp State.l2Cmp s)
/-- INV. -/
def execInvMsg (s : State) : Host.Outcome State Fault Refusal := .next (agentEvent .inv (fun s d m => s.l2Inv d m.x) s)
/-- FWDS. -/
def execFwds (s : State) : Host.Outcome State Fault Refusal := .next (agentEvent .fwdS (fun s d m => s.l2FwdS d m.x) s)
/-- FWDX. -/
def execFwdx (s : State) : Host.Outcome State Fault Refusal := .next (agentEvent .fwdX (fun s d m => s.l2FwdX d m.x false) s)
/-- RECALL. -/
def execRecall (s : State) : Host.Outcome State Fault Refusal := .next (agentEvent .recallMsg (fun s d m => s.l2FwdX d m.x true) s)
/-- PEEK. -/
def execPeek (s : State) : Host.Outcome State Fault Refusal := .next (agentEvent .peek (fun s d m => s.l2Peek d m.x) s)
/-- WBACK. -/
def execWback (s : State) : Host.Outcome State Fault Refusal := .next (agentEvent .wbAck (fun s d m => s.l2WbAck d m.x) s)

/-- RETRY_RESEND: an agent's request that was turned away is sent again (R250). -/
def execRetryResend (s : State) : Host.Outcome State Fault Refusal :=
  .next (match s.retries.find? (fun m => m.agent == s.arg.a && m.x == s.arg.n) with
    | some m => { s with retries := eraseFirst (· == m) s.retries }.homeRequest m
    | none => s)

/-- SECTOR_QUEUE_NEXT: the home takes the next request of a sector whose entry is stable (R250). -/
def execSectorQueueNext (s : State) : Host.Outcome State Fault Refusal :=
  .next (
    let e := s.dirOf s.arg.n
    match e.queue with
    | r :: rest => if e.st.stable then (s.setDir s.arg.n { e with queue := rest }).homeServe r.msg else s
    | [] => s)

/-- HOME_SIDE_OPERATION: the home takes up an operation of its own once the entry is stable (R253). -/
def execHomeSideOperation (s : State) : Host.Outcome State Fault Refusal :=
  .next (match s.homeOps.find? (fun r => r.n == s.arg.n) with
    | some r => if (s.dirOf r.x).st.stable && (s.dirOf r.x).queue.isEmpty && !s.homeHeld r then s.startOp r else s
    | none => s)

/-- HOSTCOH: the host's agent has left a message unanswered for 20 µs: the home takes it as a clean drop,
uses the L3 copy, and posts HOSTCOH with the sector's address (R255). -/
def execHostcoh (s : State) : Host.Outcome State Fault Refusal :=
  .next (
    let x := s.arg.n
    match s.hostAsked x [.inv, .fwdS, .fwdX, .recallMsg, .peek] with
    | none => s
    | some m =>
      if s.ptb < m.sent + 20000 then s
      else
        let s := (s.takenAgent m).post 0 "HOSTCOH" (BitVec.ofNat 64 (64 * x))
        let e := s.dirOf x
        let s := if m.kind == .peek && e.own == some .host then
            s.setDir x { e with own := none, back := if e.back == .o then .s else .i }
          else s
        if m.kind == .inv then s.homeAnswer (hostMsg .invAck x none false)
        else s.homeAnswer { hostMsg (if m.kind == .peek then .peekData else .fwdData) x none true with data := s.homeSector x })

/-- PROXY_HOME_HOST_RESPONSE: the host has sent the proxy home a sector of its memory, with exclusive
ownership, and the home serves the request that waited for it (R246): what the device wrote there last, unless the host has
written it since (log entry 8). -/
def execProxyHomeHostResponse (s : State) : Host.Outcome State Fault Refusal :=
  .next (
    let x := s.arg.n
    let e := s.dirOf x
    match e.task with
    | .host _ q =>
      let d := s.hostValue x
      let s := (s.setHomeSector x d).setPoison x false
      (s.setDir x { e with task := .serve .rdX q, data := d, bad := false }).finishDir x
    | _ => s)

end Sys2Proof.Machine
end

