-- ==== Sys2Proof/WellFormed.lean ====
section
/-! DEFINITION. Which instructions are well-formed: the encodings that the manual makes legal (R63). The
rules themselves, per instruction shape, stand in Machine/Encoding.lean and Machine/Legal.lean. -/

namespace Sys2Proof

/-- The word is legal as encoded. -/
def WellFormed (i : Instr) : Prop := Machine.legalWord i = true

/-- The word is well-formed and is one that a bundle issues. -/
def WellFormedWord (i : Instr) : Prop := WellFormed i ∧ Machine.isWord i = true

end Sys2Proof
end

