-- ==== Sys2Proof/Decode.lean ====
section
/-! DEFINITION. Decoding of instruction words (R36 to R57, R63, R64): from the words at an address to one
issue unit with its prefixes, or a refusal by name; and the encoder. -/

namespace Sys2Proof

/-- Why words are not an instruction (R54, R55, R57, R63). Each makes the unit raise ILLEGAL. -/
inductive Reject where
  /-- An opcode that is not assigned. -/
  | opcode (op : Nat)
  /-- A reserved value in the field that selects the instruction within its opcode. -/
  | subcode (op value : Nat)
  /-- A PFX or IMX word whose own fields are illegal. -/
  | badPrefixWord
  /-- A prefix in a place where none may stand, or before a paired word. -/
  | badPrefixPlace
  /-- The words end before the instruction's own word. -/
  | shortUnit
  deriving DecidableEq, Repr

/-! ## Fields -/

/-- Format F (R43). -/
def fmtFOf (b : BitVec 48) : FmtF :=
  { d := b.extractLsb' 40 8, a := b.extractLsb' 32 8, b := b.extractLsb' 24 8, c := b.extractLsb' 16 8,
    w := b.getLsbD 15, ua := b.getLsbD 14, ub := b.getLsbD 13, uc := b.getLsbD 12, mod := b.extractLsb' 0 12 }
/-- The bits of format F. -/
def fmtFBits (f : FmtF) : BitVec 48 :=
  f.d ++ f.a ++ f.b ++ f.c ++ BitVec.ofBool f.w ++ BitVec.ofBool f.ua ++ BitVec.ofBool f.ub ++ BitVec.ofBool f.uc ++ f.mod

/-- Format I (R45). -/
def fmtIOf (b : BitVec 48) : FmtI :=
  { d := b.extractLsb' 40 8, a := b.extractLsb' 32 8, w := b.getLsbD 31, ua := b.getLsbD 30,
    mod := b.extractLsb' 24 6, imm := b.extractLsb' 0 24 }
/-- The bits of format I. -/
def fmtIBits (f : FmtI) : BitVec 48 :=
  f.d ++ f.a ++ BitVec.ofBool f.w ++ BitVec.ofBool f.ua ++ f.mod ++ f.imm

/-- Format M (R46). -/
def fmtMOf (b : BitVec 48) : FmtM :=
  { d := b.extractLsb' 40 8, ar := b.extractLsb' 32 8, b := b.extractLsb' 24 8, w := b.getLsbD 23,
    ua := b.getLsbD 22, sz := b.extractLsb' 18 4, off := b.extractLsb' 0 18 }
/-- The bits of format M. -/
def fmtMBits (f : FmtM) : BitVec 48 :=
  f.d ++ f.ar ++ f.b ++ BitVec.ofBool f.w ++ BitVec.ofBool f.ua ++ f.sz ++ f.off

/-- Format J (R47). -/
def fmtJOf (b : BitVec 48) : FmtJ := { ld := b.extractLsb' 40 8, a := b.extractLsb' 32 8, rel := b.extractLsb' 0 32 }
/-- The bits of format J. -/
def fmtJBits (f : FmtJ) : BitVec 48 := f.ld ++ f.a ++ f.rel

/-- Format X (R48). -/
def fmtXOf (b : BitVec 48) : FmtX :=
  { u0 := b.extractLsb' 42 6, u1 := b.extractLsb' 36 6, u2 := b.extractLsb' 30 6, u3 := b.extractLsb' 24 6,
    u4 := b.extractLsb' 18 6, u5 := b.extractLsb' 12 6, xmod := b.extractLsb' 0 12 }
/-- The bits of format X. -/
def fmtXBits (f : FmtX) : BitVec 48 := f.u0 ++ f.u1 ++ f.u2 ++ f.u3 ++ f.u4 ++ f.u5 ++ f.xmod

/-- Format S (R49). -/
def fmtSOf (b : BitVec 48) : FmtS := { body := b }
/-- The bits of format S. -/
def fmtSBits (f : FmtS) : BitVec 48 := f.body

/-- A half of a paired word (R38). -/
def pHalfOf (b : BitVec 31) : PHalf :=
  { p := b.extractLsb' 28 3, op6 := b.extractLsb' 22 6, d := b.extractLsb' 14 8, s := b.extractLsb' 6 8,
    imm6 := b.extractLsb' 0 6 }
/-- The bits of a half. -/
def pHalfBits (h : PHalf) : BitVec 31 := h.p ++ h.op6 ++ h.d ++ h.s ++ h.imm6

/-- The fields of a PFX word (R55). -/
def pfxOf (b : BitVec 48) : Pfx :=
  { ovo := b.getLsbD 47, ord := b.extractLsb' 45 2, scope := b.extractLsb' 42 3, ovs := b.getLsbD 41,
    space := b.extractLsb' 38 3, ovp := b.getLsbD 37, pol := b.extractLsb' 33 4, ovx := b.getLsbD 32,
    off32 := b.extractLsb' 0 32 }
/-- The bits of a PFX word's fields. -/
def pfxBits (p : Pfx) : BitVec 48 :=
  BitVec.ofBool p.ovo ++ p.ord ++ p.scope ++ BitVec.ofBool p.ovs ++ p.space ++ BitVec.ofBool p.ovp ++ p.pol
    ++ BitVec.ofBool p.ovx ++ p.off32

/-! ## The opcode map (R64) -/

/-- The words of class 0. -/
def decodeClass0 (x : Nat) (h : Hdr) (b : BitVec 48) : Except Reject Instr :=
  match x with
  | 0x00 => .ok (.nop h (fmtSOf b))
  | 0x01 => .ok (.bra h (fmtJOf b))
  | 0x02 => .ok (.brx h (fmtJOf b))
  | 0x03 => .ok (.call h (fmtJOf b))
  | 0x04 => .ok (.callx h (fmtJOf b))
  | 0x05 => .ok (.ret h (fmtJOf b))
  | 0x06 => .ok (.exit h (fmtSOf b))
  | 0x07 => .ok (.yield h (fmtSOf b))
  | 0x08 => .ok (.sleep h (fmtIOf b))
  | 0x09 => .ok (.mwait h (fmtMOf b))
  | 0x0A => .ok (.brk h (fmtSOf b))
  | 0x0B => .ok (.join h (fmtSOf b))
  | 0x0C => .ok (.leave h (fmtSOf b))
  | 0x0D => .ok (.waitm h (fmtSOf b))
  | 0x0E => match (b.extractLsb' 24 3).toNat with
    | 0 => .ok (.msetNone h (fmtIOf b))
    | 1 => .ok (.msetLive h (fmtIOf b))
    | 2 => .ok (.msetHere h (fmtIOf b))
    | 3 => .ok (.msetImm h (fmtIOf b))
    | 4 => .ok (.msetSreg h (fmtIOf b))
    | v => .error (.subcode 0x00E v)
  | x => .error (.opcode (0 + x))

/-- The words of class 1. -/
def decodeClass1 (x : Nat) (h : Hdr) (b : BitVec 48) : Except Reject Instr :=
  match x with
  | 0x00 => .ok (.mov h (fmtFOf b))
  | 0x01 => .ok (.movi h (fmtIOf b))
  | 0x02 => .ok (.movs h (fmtFOf b))
  | 0x03 => .ok (.iadd h (fmtFOf b))
  | 0x04 => .ok (.iaddi h (fmtIOf b))
  | 0x05 => .ok (.isub h (fmtFOf b))
  | 0x06 => .ok (.iaddc h (fmtFOf b))
  | 0x07 => .ok (.isubb h (fmtFOf b))
  | 0x08 => .ok (.imin h (fmtFOf b))
  | 0x09 => .ok (.imax h (fmtFOf b))
  | 0x0A => .ok (.iabs h (fmtFOf b))
  | 0x0B => .ok (.icmp h (fmtFOf b))
  | 0x0C => .ok (.icmpi h (fmtIOf b))
  | 0x0D => .ok (.isel h (fmtFOf b))
  | 0x0E => .ok (.lea h (fmtFOf b))
  | x => .error (.opcode (64 + x))

/-- The words of class 2. -/
def decodeClass2 (x : Nat) (h : Hdr) (b : BitVec 48) : Except Reject Instr :=
  match x with
  | 0x00 => .ok (.and h (fmtFOf b))
  | 0x01 => .ok (.or h (fmtFOf b))
  | 0x02 => .ok (.xor h (fmtFOf b))
  | 0x03 => .ok (.andn h (fmtFOf b))
  | 0x04 => .ok (.andi h (fmtIOf b))
  | 0x05 => .ok (.ori h (fmtIOf b))
  | 0x06 => .ok (.xori h (fmtIOf b))
  | 0x07 => .ok (.shl h (fmtFOf b))
  | 0x08 => .ok (.shr h (fmtFOf b))
  | 0x09 => .ok (.sha h (fmtFOf b))
  | 0x0A => .ok (.rot h (fmtFOf b))
  | 0x0B => .ok (.bfe h (fmtFOf b))
  | 0x0C => .ok (.bfi h (fmtFOf b))
  | 0x0D => .ok (.popc h (fmtFOf b))
  | 0x0E => .ok (.clz h (fmtFOf b))
  | 0x0F => .ok (.brev h (fmtFOf b))
  | 0x10 => .ok (.imul h (fmtFOf b))
  | 0x11 => .ok (.imulh h (fmtFOf b))
  | 0x12 => .ok (.imad h (fmtFOf b))
  | 0x13 => .ok (.imadw h (fmtFOf b))
  | 0x14 => .ok (.idiv h (fmtFOf b))
  | 0x15 => .ok (.irem h (fmtFOf b))
  | x => .error (.opcode (128 + x))

/-- The words of class 3. -/
def decodeClass3 (x : Nat) (h : Hdr) (b : BitVec 48) : Except Reject Instr :=
  match x with
  | 0x00 => .ok (.fadd h (fmtFOf b))
  | 0x01 => .ok (.fsub h (fmtFOf b))
  | 0x02 => .ok (.fmul h (fmtFOf b))
  | 0x03 => .ok (.ffma h (fmtFOf b))
  | 0x04 => .ok (.fmin h (fmtFOf b))
  | 0x05 => .ok (.fmax h (fmtFOf b))
  | 0x06 => .ok (.fcmp h (fmtFOf b))
  | 0x07 => .ok (.fsel h (fmtFOf b))
  | 0x08 => .ok (.fclamp h (fmtFOf b))
  | 0x09 => .ok (.frnd h (fmtFOf b))
  | 0x0A => .ok (.ffrac h (fmtFOf b))
  | 0x0B => match (b.extractLsb' 4 3).toNat with
    | 0 => .ok (.fclass h (fmtFOf b))
    | 1 => .ok (.fclassRdsw h (fmtFOf b))
    | 2 => .ok (.fclassClrsw h (fmtFOf b))
    | 3 => .ok (.fclassWren h (fmtFOf b))
    | v => .error (.subcode 0x0CB v)
  | 0x0C => .ok (.frcp h (fmtFOf b))
  | 0x0D => .ok (.frsq h (fmtFOf b))
  | 0x0E => .ok (.fsqrt h (fmtFOf b))
  | 0x0F => .ok (.fdiv h (fmtFOf b))
  | 0x10 => .ok (.fexp2 h (fmtFOf b))
  | 0x11 => .ok (.flog2 h (fmtFOf b))
  | 0x12 => .ok (.fsin h (fmtFOf b))
  | 0x13 => .ok (.fcos h (fmtFOf b))
  | 0x14 => .ok (.ftanh h (fmtFOf b))
  | 0x15 => .ok (.hadd2 h (fmtFOf b))
  | 0x16 => .ok (.hmul2 h (fmtFOf b))
  | 0x17 => .ok (.hfma2 h (fmtFOf b))
  | 0x18 => .ok (.hmin2 h (fmtFOf b))
  | 0x19 => .ok (.hmax2 h (fmtFOf b))
  | 0x1A => .ok (.hcmp2 h (fmtFOf b))
  | 0x1B => .ok (.dadd h (fmtFOf b))
  | 0x1C => .ok (.dmul h (fmtFOf b))
  | 0x1D => .ok (.dfma h (fmtFOf b))
  | 0x1E => .ok (.dcmp h (fmtFOf b))
  | x => .error (.opcode (192 + x))

/-- The words of class 4. -/
def decodeClass4 (x : Nat) (h : Hdr) (b : BitVec 48) : Except Reject Instr :=
  match x with
  | 0x00 => .ok (.cvt h (fmtFOf b))
  | 0x01 => .ok (.cvtp h (fmtFOf b))
  | 0x02 => .ok (.cvtx h (fmtFOf b))
  | 0x03 => .ok (.qenc h (fmtFOf b))
  | 0x04 => .ok (.qdec h (fmtFOf b))
  | 0x05 => match (b.extractLsb' 4 3).toNat with
    | 0 => .ok (.bsclEnc h (fmtFOf b))
    | 1 => .ok (.bsclDec h (fmtFOf b))
    | v => .error (.subcode 0x105 v)
  | 0x06 => .ok (.prmt h (fmtFOf b))
  | 0x07 => .ok (.pack2 h (fmtFOf b))
  | 0x08 => .ok (.unpk2 h (fmtFOf b))
  | x => .error (.opcode (256 + x))

/-- The words of class 5. -/
def decodeClass5 (x : Nat) (h : Hdr) (b : BitVec 48) : Except Reject Instr :=
  match x with
  | 0x00 => .ok (.ballot h (fmtFOf b))
  | 0x01 => .ok (.vote h (fmtFOf b))
  | 0x02 => .ok (.shfl h (fmtFOf b))
  | 0x03 => .ok (.bcast h (fmtFOf b))
  | 0x04 => .ok (.rdx h (fmtFOf b))
  | 0x05 => .ok (.scan h (fmtFOf b))
  | 0x06 => .ok (.matchLanes h (fmtFOf b))
  | 0x07 => .ok (.mmov h (fmtFOf b))
  | 0x08 => .ok (.mand h (fmtFOf b))
  | 0x09 => .ok (.mor h (fmtFOf b))
  | 0x0A => .ok (.mxor h (fmtFOf b))
  | 0x0B => .ok (.mandn h (fmtFOf b))
  | 0x0C => .ok (.mpopc h (fmtFOf b))
  | x => .error (.opcode (320 + x))

/-- The words of class 6. -/
def decodeClass6 (x : Nat) (h : Hdr) (b : BitVec 48) : Except Reject Instr :=
  match x with
  | 0x00 => .ok (.ld h (fmtMOf b))
  | 0x01 => .ok (.st h (fmtMOf b))
  | 0x02 => .ok (.ldw h (fmtMOf b))
  | 0x03 => .ok (.stw h (fmtMOf b))
  | 0x04 => .ok (.lds h (fmtMOf b))
  | 0x05 => .ok (.sts h (fmtMOf b))
  | 0x06 => .ok (.ldc h (fmtMOf b))
  | 0x07 => .ok (.stc h (fmtMOf b))
  | 0x08 => .ok (.ldu h (fmtMOf b))
  | 0x09 => .ok (.stu h (fmtMOf b))
  | 0x0A => .ok (.pref h (fmtMOf b))
  | 0x0B => match (b.extractLsb' 40 8).toNat with
    | 0 => .ok (.cctlInv1 h (fmtMOf b))
    | 1 => .ok (.cctlEv2 h (fmtMOf b))
    | 2 => .ok (.cctlUnp3 h (fmtMOf b))
    | 3 => .ok (.cctlZero h (fmtMOf b))
    | v => .error (.subcode 0x18B v)
  | 0x0C => .ok (.fence h (fmtSOf b))
  | x => .error (.opcode (384 + x))

/-- The words of class 7. -/
def decodeClass7 (x : Nat) (h : Hdr) (b : BitVec 48) : Except Reject Instr :=
  match x with
  | 0x00 => .ok (.atomAdd h (fmtMOf b))
  | 0x01 => .ok (.atomAnd h (fmtMOf b))
  | 0x02 => .ok (.atomOr h (fmtMOf b))
  | 0x03 => .ok (.atomXor h (fmtMOf b))
  | 0x04 => .ok (.atomMin h (fmtMOf b))
  | 0x05 => .ok (.atomMax h (fmtMOf b))
  | 0x06 => .ok (.atomXchg h (fmtMOf b))
  | 0x07 => .ok (.atomIncw h (fmtMOf b))
  | 0x08 => .ok (.atomAddb h (fmtMOf b))
  | 0x09 => .ok (.atomFadd h (fmtMOf b))
  | 0x0A => .ok (.atomFmin h (fmtMOf b))
  | 0x0B => .ok (.atomFmax h (fmtMOf b))
  | 0x0C => .ok (.acas h (fmtMOf b))
  | 0x0D => .ok (.acas2 h (fmtMOf b))
  | 0x10 => .ok (.redAdd h (fmtMOf b))
  | 0x11 => .ok (.redAnd h (fmtMOf b))
  | 0x12 => .ok (.redOr h (fmtMOf b))
  | 0x13 => .ok (.redXor h (fmtMOf b))
  | 0x14 => .ok (.redMin h (fmtMOf b))
  | 0x15 => .ok (.redMax h (fmtMOf b))
  | 0x16 => .ok (.redIncw h (fmtMOf b))
  | 0x17 => .ok (.redFadd h (fmtMOf b))
  | 0x18 => .ok (.redFmin h (fmtMOf b))
  | 0x19 => .ok (.redFmax h (fmtMOf b))
  | 0x20 => .ok (.lock h (fmtXOf b))
  | 0x21 => .ok (.lockt h (fmtXOf b))
  | 0x22 => .ok (.trylk h (fmtXOf b))
  | 0x23 => .ok (.unlock h (fmtXOf b))
  | 0x24 => .ok (.lkqry h (fmtXOf b))
  | x => .error (.opcode (448 + x))

/-- The words of class 8. -/
def decodeClass8 (x : Nat) (h : Hdr) (b : BitVec 48) : Except Reject Instr :=
  match x with
  | 0x00 => .ok (.sprd h (fmtXOf b))
  | 0x01 => .ok (.sprd2 h (fmtXOf b))
  | 0x02 => .ok (.sprx h (fmtMOf b))
  | 0x03 => .ok (.spctx h (fmtXOf b))
  | 0x04 => .ok (.spwait h (fmtXOf b))
  | 0x05 => .ok (.spcan h (fmtXOf b))
  | 0x06 => .ok (.spqry h (fmtXOf b))
  | 0x07 => .ok (.spend h (fmtSOf b))
  | x => .error (.opcode (512 + x))

/-- The words of class 9. -/
def decodeClass9 (x : Nat) (h : Hdr) (b : BitVec 48) : Except Reject Instr :=
  match x with
  | 0x00 => .ok (.copy h (fmtXOf b))
  | 0x01 => .ok (.copy2 h (fmtXOf b))
  | 0x02 => .ok (.copym h (fmtXOf b))
  | 0x03 => .ok (.copyx h (fmtXOf b))
  | 0x04 => .ok (.bseal h (fmtSOf b))
  | 0x05 => .ok (.bwait h (fmtSOf b))
  | 0x06 => .ok (.bqry h (fmtSOf b))
  | 0x07 => .ok (.slotq h (fmtXOf b))
  | 0x08 => .ok (.slotret h (fmtXOf b))
  | 0x09 => .ok (.bari h (fmtXOf b))
  | 0x0A => .ok (.bara h (fmtXOf b))
  | 0x0B => .ok (.barx h (fmtXOf b))
  | 0x0C => .ok (.barw h (fmtXOf b))
  | 0x0D => .ok (.bart h (fmtXOf b))
  | x => .error (.opcode (576 + x))

/-- The words of class 10. -/
def decodeClass10 (x : Nat) (h : Hdr) (b : BitVec 48) : Except Reject Instr :=
  match x with
  | 0x00 => .ok (.mma h (fmtXOf b))
  | 0x01 => .ok (.mmas h (fmtXOf b))
  | 0x02 => .ok (.mmat h (fmtXOf b))
  | 0x03 => .ok (.mzero h (fmtXOf b))
  | 0x04 => .ok (.mlda h (fmtXOf b))
  | 0x05 => .ok (.msta h (fmtXOf b))
  | 0x06 => .ok (.mcvt h (fmtXOf b))
  | 0x07 => .ok (.mepi h (fmtXOf b))
  | 0x08 => .ok (.mdrain h (fmtXOf b))
  | 0x09 => .ok (.mseq h (fmtXOf b))
  | 0x0A => .ok (.mstat h (fmtXOf b))
  | 0x0B => .ok (.mfence h (fmtXOf b))
  | x => .error (.opcode (640 + x))

/-- The words of class 11. -/
def decodeClass11 (x : Nat) (h : Hdr) (b : BitVec 48) : Except Reject Instr :=
  match x with
  | 0x00 => .ok (.tbar h (fmtXOf b))
  | 0x01 => .ok (.tarr h (fmtXOf b))
  | 0x02 => .ok (.twait h (fmtXOf b))
  | 0x03 => .ok (.tqry h (fmtXOf b))
  | 0x04 => .ok (.reshape h (fmtXOf b))
  | 0x05 => .ok (.launch h (fmtXOf b))
  | 0x06 => .ok (.lwait h (fmtXOf b))
  | 0x07 => .ok (.msgs h (fmtXOf b))
  | 0x08 => .ok (.msgr h (fmtXOf b))
  | 0x09 => .ok (.msgq h (fmtXOf b))
  | 0x0A => .ok (.coll h (fmtXOf b))
  | 0x0B => .ok (.collw h (fmtXOf b))
  | 0x0C => .ok (.evsig h (fmtXOf b))
  | 0x0D => .ok (.evwait h (fmtXOf b))
  | x => .error (.opcode (704 + x))

/-- The words of class 12. -/
def decodeClass12 (x : Nat) (h : Hdr) (b : BitVec 48) : Except Reject Instr :=
  match x with
  | 0x00 => .ok (.trap h (fmtSOf b))
  | 0x01 => match (b.extractLsb' 46 2).toNat with
    | 0 => .ok (.tretRetry h (fmtSOf b))
    | 1 => .ok (.tretSkip h (fmtSOf b))
    | 2 => .ok (.tretEnd h (fmtSOf b))
    | v => .error (.subcode 0x301 v)
  | 0x02 => .ok (.pdone h (fmtSOf b))
  | 0x03 => .ok (.srd h (fmtSOf b))
  | 0x04 => .ok (.swr h (fmtSOf b))
  | 0x05 => .ok (.csave h (fmtSOf b))
  | 0x06 => .ok (.crest h (fmtSOf b))
  | 0x07 => .ok (.oplr h (fmtSOf b))
  | 0x08 => .ok (.fresume h (fmtSOf b))
  | 0x09 => .ok (.tlbinv h (fmtSOf b))
  | 0x0A => .ok (.tlbsync h (fmtSOf b))
  | 0x0B => match (b.extractLsb' 40 2).toNat with
    | 0 => .ok (.haltHalt h (fmtSOf b))
    | 1 => .ok (.haltRel h (fmtSOf b))
    | 2 => .ok (.haltStep h (fmtSOf b))
    | v => .error (.subcode 0x30B v)
  | 0x0C => .ok (.idrd h (fmtSOf b))
  | 0x0D => .ok (.seccall h (fmtSOf b))
  | 0x0E => .ok (.secwait h (fmtSOf b))
  | 0x0F => .ok (.attest h (fmtSOf b))
  | x => .error (.opcode (768 + x))

/-- The words of class 13. -/
def decodeClass13 (x : Nat) (h : Hdr) (b : BitVec 48) : Except Reject Instr :=
  match x with
  | 0x00 => .ok (.recmark h (fmtSOf b))
  | 0x01 => .ok (.recst h (fmtSOf b))
  | 0x02 => .ok (.ckptreq h (fmtSOf b))
  | 0x03 => .ok (.samparm h (fmtSOf b))
  | 0x04 => .ok (.sampstop h (fmtSOf b))
  | 0x05 => .ok (.perfrd h (fmtSOf b))
  | 0x06 => .ok (.histrd h (fmtSOf b))
  | 0x07 => .ok (.telrd h (fmtSOf b))
  | x => .error (.opcode (832 + x))

/-- A full word's instruction by class and index (R37, R64). -/
def decodeFull (op : Nat) (h : Hdr) (b : BitVec 48) : Except Reject Instr :=
  match op / 64 with
  | 0 => decodeClass0 (op % 64) h b
  | 1 => decodeClass1 (op % 64) h b
  | 2 => decodeClass2 (op % 64) h b
  | 3 => decodeClass3 (op % 64) h b
  | 4 => decodeClass4 (op % 64) h b
  | 5 => decodeClass5 (op % 64) h b
  | 6 => decodeClass6 (op % 64) h b
  | 7 => decodeClass7 (op % 64) h b
  | 8 => decodeClass8 (op % 64) h b
  | 9 => decodeClass9 (op % 64) h b
  | 10 => decodeClass10 (op % 64) h b
  | 11 => decodeClass11 (op % 64) h b
  | 12 => decodeClass12 (op % 64) h b
  | 13 => decodeClass13 (op % 64) h b
  | _ => .error (.opcode op)

/-- The opcode bits of a full word (R37). -/
def wordOp (w : IWord) : Nat := (w.extractLsb' 48 10).toNat

/-- One word that is no prefix, with the prefixes that stand before it (R36 to R38, R54). -/
def decodeWord (p : Option Pfx) (x : Option Word) (w : IWord) : Except Reject Instr :=
  if w.getLsbD 63 then
    if p.isSome || x.isSome then .error .badPrefixPlace
    else .ok (.pairedWord (w.getLsbD 31) (pHalfOf (w.extractLsb' 32 31)) (pHalfOf (w.extractLsb' 0 31)))
  else
    decodeFull (wordOp w)
      { pfx := p, imx := x, chain := w.getLsbD 62, neg := w.getLsbD 61, pred := w.extractLsb' 58 3 } (w.extractLsb' 0 48)

/-- The word is a PFX, or an IMX (R54, R55). -/
def isPfx (w : IWord) : Bool := !w.getLsbD 63 && wordOp w == 0x380
def isImx (w : IWord) : Bool := !w.getLsbD 63 && wordOp w == 0x381

/-- A prefix word's header: no chain bit and the guard p7 (R54, R55). -/
def prefixHeadOk (w : IWord) : Bool := w.extractLsb' 58 5 == 7

/-- The unit from its IMX on: the instruction and the words taken. -/
def decodeImx (p : Option Pfx) (n : Nat) : List IWord → Except Reject (Instr × Nat)
  | [] => .error .shortUnit
  | w :: rest =>
    if isPfx w then .error .badPrefixPlace
    else if isImx w then
      if !prefixHeadOk w || w.extractLsb' 32 16 != 0 then .error .badPrefixWord
      else match rest with
        | [] => .error .shortUnit
        | v :: _ =>
          if isPfx v || isImx v then .error .badPrefixPlace
          else (decodeWord p (some (w.extractLsb' 0 32)) v).map fun i => (i, n + 2)
    else (decodeWord p none w).map fun i => (i, n + 1)

/-- One issue unit from the words at an address: the instruction, and the number of words it takes (R57). -/
def decodeUnit : List IWord → Except Reject (Instr × Nat)
  | [] => .error .shortUnit
  | w :: rest =>
    if isPfx w then
      if !prefixHeadOk w then .error .badPrefixWord
      else decodeImx (some (pfxOf (w.extractLsb' 0 48))) 1 rest
    else decodeImx none 0 (w :: rest)

/-- Place in a rejected unit of the word that is at fault: a prefix whose own fields or whose place is bad, or else
the word that is no instruction (R61). -/
def rejectPlace : List IWord → Nat
  | [] => 0
  | w :: rest =>
    let bad := fun (v : IWord) => isPfx v || v.getLsbD 63
    if isPfx w then
      match rest with
      | [] => 0
      | v :: rest => if !prefixHeadOk w || bad v then 0
        else if isImx v then
          (match rest with
           | [] => 1
           | u :: _ => if !prefixHeadOk v || v.extractLsb' 32 16 != 0 || bad u || isImx u then 1 else 2)
        else 1
    else if isImx w then
      match rest with
      | [] => 0
      | u :: _ => if !prefixHeadOk w || w.extractLsb' 32 16 != 0 || bad u || isImx u then 0 else 1
    else 0

/-! ## The encoder -/

/-- A full word from its header and format fields (R37). -/
def fullWord (h : Hdr) (op : Nat) (b : BitVec 48) : IWord :=
  0#1 ++ BitVec.ofBool h.chain ++ BitVec.ofBool h.neg ++ h.pred ++ BitVec.ofNat 10 op ++ b

/-- A PFX word (R55). -/
def pfxWord (p : Pfx) : IWord := 0x1F80#16 ++ pfxBits p

/-- An IMX word (R54). -/
def imxWord (x : Word) : IWord := 0x1F810000#32 ++ x

/-- The words of a full word's issue unit. -/
def unitWords (h : Hdr) (op : Nat) (b : BitVec 48) : List IWord :=
  (match h.pfx with | some p => [pfxWord p] | none => [])
    ++ (match h.imx with | some x => [imxWord x] | none => []) ++ [fullWord h op b]

/-- The words of an instruction; an event has none. -/
def encode : Instr → List IWord
  | .pairedWord c a b => [1#1 ++ pHalfBits a ++ BitVec.ofBool c ++ pHalfBits b]
  | .nop h f => unitWords h 0x000 (fmtSBits f)
  | .bra h f => unitWords h 0x001 (fmtJBits f)
  | .brx h f => unitWords h 0x002 (fmtJBits f)
  | .call h f => unitWords h 0x003 (fmtJBits f)
  | .callx h f => unitWords h 0x004 (fmtJBits f)
  | .ret h f => unitWords h 0x005 (fmtJBits f)
  | .exit h f => unitWords h 0x006 (fmtSBits f)
  | .yield h f => unitWords h 0x007 (fmtSBits f)
  | .sleep h f => unitWords h 0x008 (fmtIBits f)
  | .mwait h f => unitWords h 0x009 (fmtMBits f)
  | .brk h f => unitWords h 0x00A (fmtSBits f)
  | .join h f => unitWords h 0x00B (fmtSBits f)
  | .leave h f => unitWords h 0x00C (fmtSBits f)
  | .waitm h f => unitWords h 0x00D (fmtSBits f)
  | .msetNone h f => unitWords h 0x00E (fmtIBits f)
  | .msetLive h f => unitWords h 0x00E (fmtIBits f)
  | .msetHere h f => unitWords h 0x00E (fmtIBits f)
  | .msetImm h f => unitWords h 0x00E (fmtIBits f)
  | .msetSreg h f => unitWords h 0x00E (fmtIBits f)
  | .mov h f => unitWords h 0x040 (fmtFBits f)
  | .movi h f => unitWords h 0x041 (fmtIBits f)
  | .movs h f => unitWords h 0x042 (fmtFBits f)
  | .iadd h f => unitWords h 0x043 (fmtFBits f)
  | .iaddi h f => unitWords h 0x044 (fmtIBits f)
  | .isub h f => unitWords h 0x045 (fmtFBits f)
  | .iaddc h f => unitWords h 0x046 (fmtFBits f)
  | .isubb h f => unitWords h 0x047 (fmtFBits f)
  | .imin h f => unitWords h 0x048 (fmtFBits f)
  | .imax h f => unitWords h 0x049 (fmtFBits f)
  | .iabs h f => unitWords h 0x04A (fmtFBits f)
  | .icmp h f => unitWords h 0x04B (fmtFBits f)
  | .icmpi h f => unitWords h 0x04C (fmtIBits f)
  | .isel h f => unitWords h 0x04D (fmtFBits f)
  | .lea h f => unitWords h 0x04E (fmtFBits f)
  | .and h f => unitWords h 0x080 (fmtFBits f)
  | .or h f => unitWords h 0x081 (fmtFBits f)
  | .xor h f => unitWords h 0x082 (fmtFBits f)
  | .andn h f => unitWords h 0x083 (fmtFBits f)
  | .andi h f => unitWords h 0x084 (fmtIBits f)
  | .ori h f => unitWords h 0x085 (fmtIBits f)
  | .xori h f => unitWords h 0x086 (fmtIBits f)
  | .shl h f => unitWords h 0x087 (fmtFBits f)
  | .shr h f => unitWords h 0x088 (fmtFBits f)
  | .sha h f => unitWords h 0x089 (fmtFBits f)
  | .rot h f => unitWords h 0x08A (fmtFBits f)
  | .bfe h f => unitWords h 0x08B (fmtFBits f)
  | .bfi h f => unitWords h 0x08C (fmtFBits f)
  | .popc h f => unitWords h 0x08D (fmtFBits f)
  | .clz h f => unitWords h 0x08E (fmtFBits f)
  | .brev h f => unitWords h 0x08F (fmtFBits f)
  | .imul h f => unitWords h 0x090 (fmtFBits f)
  | .imulh h f => unitWords h 0x091 (fmtFBits f)
  | .imad h f => unitWords h 0x092 (fmtFBits f)
  | .imadw h f => unitWords h 0x093 (fmtFBits f)
  | .idiv h f => unitWords h 0x094 (fmtFBits f)
  | .irem h f => unitWords h 0x095 (fmtFBits f)
  | .fadd h f => unitWords h 0x0C0 (fmtFBits f)
  | .fsub h f => unitWords h 0x0C1 (fmtFBits f)
  | .fmul h f => unitWords h 0x0C2 (fmtFBits f)
  | .ffma h f => unitWords h 0x0C3 (fmtFBits f)
  | .fmin h f => unitWords h 0x0C4 (fmtFBits f)
  | .fmax h f => unitWords h 0x0C5 (fmtFBits f)
  | .fcmp h f => unitWords h 0x0C6 (fmtFBits f)
  | .fsel h f => unitWords h 0x0C7 (fmtFBits f)
  | .fclamp h f => unitWords h 0x0C8 (fmtFBits f)
  | .frnd h f => unitWords h 0x0C9 (fmtFBits f)
  | .ffrac h f => unitWords h 0x0CA (fmtFBits f)
  | .fclass h f => unitWords h 0x0CB (fmtFBits f)
  | .fclassRdsw h f => unitWords h 0x0CB (fmtFBits f)
  | .fclassClrsw h f => unitWords h 0x0CB (fmtFBits f)
  | .fclassWren h f => unitWords h 0x0CB (fmtFBits f)
  | .frcp h f => unitWords h 0x0CC (fmtFBits f)
  | .frsq h f => unitWords h 0x0CD (fmtFBits f)
  | .fsqrt h f => unitWords h 0x0CE (fmtFBits f)
  | .fdiv h f => unitWords h 0x0CF (fmtFBits f)
  | .fexp2 h f => unitWords h 0x0D0 (fmtFBits f)
  | .flog2 h f => unitWords h 0x0D1 (fmtFBits f)
  | .fsin h f => unitWords h 0x0D2 (fmtFBits f)
  | .fcos h f => unitWords h 0x0D3 (fmtFBits f)
  | .ftanh h f => unitWords h 0x0D4 (fmtFBits f)
  | .hadd2 h f => unitWords h 0x0D5 (fmtFBits f)
  | .hmul2 h f => unitWords h 0x0D6 (fmtFBits f)
  | .hfma2 h f => unitWords h 0x0D7 (fmtFBits f)
  | .hmin2 h f => unitWords h 0x0D8 (fmtFBits f)
  | .hmax2 h f => unitWords h 0x0D9 (fmtFBits f)
  | .hcmp2 h f => unitWords h 0x0DA (fmtFBits f)
  | .dadd h f => unitWords h 0x0DB (fmtFBits f)
  | .dmul h f => unitWords h 0x0DC (fmtFBits f)
  | .dfma h f => unitWords h 0x0DD (fmtFBits f)
  | .dcmp h f => unitWords h 0x0DE (fmtFBits f)
  | .cvt h f => unitWords h 0x100 (fmtFBits f)
  | .cvtp h f => unitWords h 0x101 (fmtFBits f)
  | .cvtx h f => unitWords h 0x102 (fmtFBits f)
  | .qenc h f => unitWords h 0x103 (fmtFBits f)
  | .qdec h f => unitWords h 0x104 (fmtFBits f)
  | .bsclEnc h f => unitWords h 0x105 (fmtFBits f)
  | .bsclDec h f => unitWords h 0x105 (fmtFBits f)
  | .prmt h f => unitWords h 0x106 (fmtFBits f)
  | .pack2 h f => unitWords h 0x107 (fmtFBits f)
  | .unpk2 h f => unitWords h 0x108 (fmtFBits f)
  | .ballot h f => unitWords h 0x140 (fmtFBits f)
  | .vote h f => unitWords h 0x141 (fmtFBits f)
  | .shfl h f => unitWords h 0x142 (fmtFBits f)
  | .bcast h f => unitWords h 0x143 (fmtFBits f)
  | .rdx h f => unitWords h 0x144 (fmtFBits f)
  | .scan h f => unitWords h 0x145 (fmtFBits f)
  | .matchLanes h f => unitWords h 0x146 (fmtFBits f)
  | .mmov h f => unitWords h 0x147 (fmtFBits f)
  | .mand h f => unitWords h 0x148 (fmtFBits f)
  | .mor h f => unitWords h 0x149 (fmtFBits f)
  | .mxor h f => unitWords h 0x14A (fmtFBits f)
  | .mandn h f => unitWords h 0x14B (fmtFBits f)
  | .mpopc h f => unitWords h 0x14C (fmtFBits f)
  | .ld h f => unitWords h 0x180 (fmtMBits f)
  | .st h f => unitWords h 0x181 (fmtMBits f)
  | .ldw h f => unitWords h 0x182 (fmtMBits f)
  | .stw h f => unitWords h 0x183 (fmtMBits f)
  | .lds h f => unitWords h 0x184 (fmtMBits f)
  | .sts h f => unitWords h 0x185 (fmtMBits f)
  | .ldc h f => unitWords h 0x186 (fmtMBits f)
  | .stc h f => unitWords h 0x187 (fmtMBits f)
  | .ldu h f => unitWords h 0x188 (fmtMBits f)
  | .stu h f => unitWords h 0x189 (fmtMBits f)
  | .pref h f => unitWords h 0x18A (fmtMBits f)
  | .cctlInv1 h f => unitWords h 0x18B (fmtMBits f)
  | .cctlEv2 h f => unitWords h 0x18B (fmtMBits f)
  | .cctlUnp3 h f => unitWords h 0x18B (fmtMBits f)
  | .cctlZero h f => unitWords h 0x18B (fmtMBits f)
  | .fence h f => unitWords h 0x18C (fmtSBits f)
  | .atomAdd h f => unitWords h 0x1C0 (fmtMBits f)
  | .atomAnd h f => unitWords h 0x1C1 (fmtMBits f)
  | .atomOr h f => unitWords h 0x1C2 (fmtMBits f)
  | .atomXor h f => unitWords h 0x1C3 (fmtMBits f)
  | .atomMin h f => unitWords h 0x1C4 (fmtMBits f)
  | .atomMax h f => unitWords h 0x1C5 (fmtMBits f)
  | .atomXchg h f => unitWords h 0x1C6 (fmtMBits f)
  | .atomIncw h f => unitWords h 0x1C7 (fmtMBits f)
  | .atomAddb h f => unitWords h 0x1C8 (fmtMBits f)
  | .atomFadd h f => unitWords h 0x1C9 (fmtMBits f)
  | .atomFmin h f => unitWords h 0x1CA (fmtMBits f)
  | .atomFmax h f => unitWords h 0x1CB (fmtMBits f)
  | .acas h f => unitWords h 0x1CC (fmtMBits f)
  | .acas2 h f => unitWords h 0x1CD (fmtMBits f)
  | .redAdd h f => unitWords h 0x1D0 (fmtMBits f)
  | .redAnd h f => unitWords h 0x1D1 (fmtMBits f)
  | .redOr h f => unitWords h 0x1D2 (fmtMBits f)
  | .redXor h f => unitWords h 0x1D3 (fmtMBits f)
  | .redMin h f => unitWords h 0x1D4 (fmtMBits f)
  | .redMax h f => unitWords h 0x1D5 (fmtMBits f)
  | .redIncw h f => unitWords h 0x1D6 (fmtMBits f)
  | .redFadd h f => unitWords h 0x1D7 (fmtMBits f)
  | .redFmin h f => unitWords h 0x1D8 (fmtMBits f)
  | .redFmax h f => unitWords h 0x1D9 (fmtMBits f)
  | .lock h f => unitWords h 0x1E0 (fmtXBits f)
  | .lockt h f => unitWords h 0x1E1 (fmtXBits f)
  | .trylk h f => unitWords h 0x1E2 (fmtXBits f)
  | .unlock h f => unitWords h 0x1E3 (fmtXBits f)
  | .lkqry h f => unitWords h 0x1E4 (fmtXBits f)
  | .sprd h f => unitWords h 0x200 (fmtXBits f)
  | .sprd2 h f => unitWords h 0x201 (fmtXBits f)
  | .sprx h f => unitWords h 0x202 (fmtMBits f)
  | .spctx h f => unitWords h 0x203 (fmtXBits f)
  | .spwait h f => unitWords h 0x204 (fmtXBits f)
  | .spcan h f => unitWords h 0x205 (fmtXBits f)
  | .spqry h f => unitWords h 0x206 (fmtXBits f)
  | .spend h f => unitWords h 0x207 (fmtSBits f)
  | .copy h f => unitWords h 0x240 (fmtXBits f)
  | .copy2 h f => unitWords h 0x241 (fmtXBits f)
  | .copym h f => unitWords h 0x242 (fmtXBits f)
  | .copyx h f => unitWords h 0x243 (fmtXBits f)
  | .bseal h f => unitWords h 0x244 (fmtSBits f)
  | .bwait h f => unitWords h 0x245 (fmtSBits f)
  | .bqry h f => unitWords h 0x246 (fmtSBits f)
  | .slotq h f => unitWords h 0x247 (fmtXBits f)
  | .slotret h f => unitWords h 0x248 (fmtXBits f)
  | .bari h f => unitWords h 0x249 (fmtXBits f)
  | .bara h f => unitWords h 0x24A (fmtXBits f)
  | .barx h f => unitWords h 0x24B (fmtXBits f)
  | .barw h f => unitWords h 0x24C (fmtXBits f)
  | .bart h f => unitWords h 0x24D (fmtXBits f)
  | .mma h f => unitWords h 0x280 (fmtXBits f)
  | .mmas h f => unitWords h 0x281 (fmtXBits f)
  | .mmat h f => unitWords h 0x282 (fmtXBits f)
  | .mzero h f => unitWords h 0x283 (fmtXBits f)
  | .mlda h f => unitWords h 0x284 (fmtXBits f)
  | .msta h f => unitWords h 0x285 (fmtXBits f)
  | .mcvt h f => unitWords h 0x286 (fmtXBits f)
  | .mepi h f => unitWords h 0x287 (fmtXBits f)
  | .mdrain h f => unitWords h 0x288 (fmtXBits f)
  | .mseq h f => unitWords h 0x289 (fmtXBits f)
  | .mstat h f => unitWords h 0x28A (fmtXBits f)
  | .mfence h f => unitWords h 0x28B (fmtXBits f)
  | .tbar h f => unitWords h 0x2C0 (fmtXBits f)
  | .tarr h f => unitWords h 0x2C1 (fmtXBits f)
  | .twait h f => unitWords h 0x2C2 (fmtXBits f)
  | .tqry h f => unitWords h 0x2C3 (fmtXBits f)
  | .reshape h f => unitWords h 0x2C4 (fmtXBits f)
  | .launch h f => unitWords h 0x2C5 (fmtXBits f)
  | .lwait h f => unitWords h 0x2C6 (fmtXBits f)
  | .msgs h f => unitWords h 0x2C7 (fmtXBits f)
  | .msgr h f => unitWords h 0x2C8 (fmtXBits f)
  | .msgq h f => unitWords h 0x2C9 (fmtXBits f)
  | .coll h f => unitWords h 0x2CA (fmtXBits f)
  | .collw h f => unitWords h 0x2CB (fmtXBits f)
  | .evsig h f => unitWords h 0x2CC (fmtXBits f)
  | .evwait h f => unitWords h 0x2CD (fmtXBits f)
  | .trap h f => unitWords h 0x300 (fmtSBits f)
  | .tretRetry h f => unitWords h 0x301 (fmtSBits f)
  | .tretSkip h f => unitWords h 0x301 (fmtSBits f)
  | .tretEnd h f => unitWords h 0x301 (fmtSBits f)
  | .pdone h f => unitWords h 0x302 (fmtSBits f)
  | .srd h f => unitWords h 0x303 (fmtSBits f)
  | .swr h f => unitWords h 0x304 (fmtSBits f)
  | .csave h f => unitWords h 0x305 (fmtSBits f)
  | .crest h f => unitWords h 0x306 (fmtSBits f)
  | .oplr h f => unitWords h 0x307 (fmtSBits f)
  | .fresume h f => unitWords h 0x308 (fmtSBits f)
  | .tlbinv h f => unitWords h 0x309 (fmtSBits f)
  | .tlbsync h f => unitWords h 0x30A (fmtSBits f)
  | .haltHalt h f => unitWords h 0x30B (fmtSBits f)
  | .haltRel h f => unitWords h 0x30B (fmtSBits f)
  | .haltStep h f => unitWords h 0x30B (fmtSBits f)
  | .idrd h f => unitWords h 0x30C (fmtSBits f)
  | .seccall h f => unitWords h 0x30D (fmtSBits f)
  | .secwait h f => unitWords h 0x30E (fmtSBits f)
  | .attest h f => unitWords h 0x30F (fmtSBits f)
  | .recmark h f => unitWords h 0x340 (fmtSBits f)
  | .recst h f => unitWords h 0x341 (fmtSBits f)
  | .ckptreq h f => unitWords h 0x342 (fmtSBits f)
  | .samparm h f => unitWords h 0x343 (fmtSBits f)
  | .sampstop h f => unitWords h 0x344 (fmtSBits f)
  | .perfrd h f => unitWords h 0x345 (fmtSBits f)
  | .histrd h f => unitWords h 0x346 (fmtSBits f)
  | .telrd h f => unitWords h 0x347 (fmtSBits f)
  | .waitmRelease => []
  | .starvationPromotion => []
  | .loadDataReturn => []
  | .mwaitMonitorFire => []
  | .mwaitTimeout => []
  | .sleepWake => []
  | .rds => []
  | .rdxRequest => []
  | .upg => []
  | .wbd => []
  | .evc => []
  | .invack => []
  | .fwddata => []
  | .peekdata => []
  | .datas => []
  | .datae => []
  | .cmp => []
  | .invMsg => []
  | .fwds => []
  | .fwdx => []
  | .recallMsg => []
  | .peek => []
  | .wback => []
  | .retryResend => []
  | .sectorQueueNext => []
  | .homeSideOperation => []
  | .hostcoh => []
  | .pageWalkComplete => []
  | .pToSTransition => []
  | .collapse => []
  | .collapseRetry => []
  | .lockAcquireArrival => []
  | .lockTryArrival => []
  | .lockReleaseArrival => []
  | .lockAbandonArrival => []
  | .lockReply => []
  | .lockHeadReturn => []
  | .lockGraceExpiry => []
  | .lockDeadlineExpiry => []
  | .lockFullRetry => []
  | .deadlockScan => []
  | .deadlockConfirm => []
  | .copyUnitPerformed => []
  | .copyComplete => []
  | .copyxHandover => []
  | .carriedCommandTrap => []
  | .burstArrival => []
  | .sproutEnd => []
  | .matrixCommandExecute => []
  | .mseqStep => []
  | .mdrainReduction => []
  | .qtailDoorbell => []
  | .queueFetch => []
  | .launchReady => []
  | .blockDispatch => []
  | .blockSlotFree => []
  | .launchComplete => []
  | .completionEntryWrite => []
  | .teamWatchdogCheck => []
  | .messageDelivery => []
  | .mailboxFullRetry => []
  | .collectiveComplete => []
  | .fenceMarkerAnswer => []
  | .fabto => []
  | .fabricErrorPath => []
  | .apertureAccessArrival => []
  | .hostCxlMemRead => []
  | .hostCxlMemWrite => []
  | .eventCounterHostWrite => []
  | .ctxctlKill => []
  | .dieLost => []
  | .trapRecordRetry => []
  | .operandLogReissue => []
  | .oplogFailedDelivery => []
  | .deferredMchk => []
  | .pctlPre => []
  | .preempt => []
  | .forcedSave => []
  | .psaved => []
  | .pctlRes => []
  | .presumed => []
  | .haltEffect => []
  | .rctlModeRecord => []
  | .rctlModeOff => []
  | .conflictProbe => []
  | .clockForcedCheckpoint => []
  | .cut => []
  | .undoCopy => []
  | .segmentCloseTimeout => []
  | .domainCutMarker => []
  | .rpctlGo => []
  | .rpctlStop => []
  | .replay => []
  | .rpend => []
  | .replayBreakpoint => []
  | .samplerRow => []
  | .lifetimeHistogramUpdate => []
  | .dbgunlock => []
  | .lcset => []
  | .nonce => []
  | .keygen => []
  | .keymap => []
  | .mrext => []
  | .cert => []
  | .attestReport => []
  | .resetPackage => []
  | .frequencyChange => []
  | .thermalTrip => []
  | .patrolScrub => []
  | .registerWrite => []
  | .laneRetrain => []
  | .rankLost => []
  | .proxyHomeHostResponse => []

/-- The instruction that the decoder reads from an issue unit whose bits are `w`, the first word in the low
64 bits. The opcode table gives its rows no bits, so every unit is read whole, whatever `nbits`. -/
def decodeTableWord (nbits w : Nat) : Option Instr :=
  let bits := w % 2 ^ max nbits 192
  match decodeUnit [BitVec.ofNat 64 bits, BitVec.ofNat 64 (bits / 2 ^ 64), BitVec.ofNat 64 (bits / 2 ^ 128)] with
  | .ok r => some r.1
  | .error _ => none

end Sys2Proof
end

