-- ==== Sys2Proof/Machine/Fetch.lean ====
section
/-! DEFINITION. Fetching (R36, R57, R162): the words at an address, the issue unit they make, and a chain
whole up to its last word. -/

namespace Sys2Proof.Machine

/-- Why a word could not be fetched: MEMFAULT with a code of R162, or a machine check where its bytes are poisoned or their home is
lost (R437, R527, log entry 88). -/
structure FetchFault where
  cause : Cause
  det : Nat
  /-- The word's virtual address, and for a machine check the physical one. -/
  at_ : Nat
  pa : Nat
  deriving DecidableEq, Repr

/-- What stands at an address. -/
inductive Fetched where
  /-- A unit of `n` words. -/
  | unit (i : Instr) (n : Nat)
  /-- `n` words that are no instruction, the one at fault at place `k`: ILLEGAL (R63). -/
  | bad (n k : Nat)
  /-- A word that could not be fetched. -/
  | fault (f : FetchFault)
  /-- A word whose page needs a walk. -/
  | miss (at_ : Nat)
  deriving DecidableEq, Repr

/-- One instruction word at a virtual address, or the reason why there is none. -/
def State.fetchWord (s : State) (core c : Nat) (high : Bool) (va : Nat) (wf : FMap Nat) : Except Fetched IWord :=
  match s.translate core c va .fetch high wf with
  | .ok pa _ =>
    if s.lostHome pa then .error (.fault { cause := .mchk, det := 4, at_ := va, pa := pa })
    else if s.poisoned (sectorOf pa) then .error (.fault { cause := .mchk, det := 0, at_ := va, pa := pa })
    else .ok (BitVec.ofNat 64 (s.readAny pa 8))
  | .fault code => .error (.fault { cause := .memfault, det := code + 512, at_ := va, pa := 0 })
  | .miss => .error (.miss va)

/-- The words of the unit at an address: up to the first that is no prefix, three at most. -/
def State.unitAt (s : State) (core c : Nat) (high : Bool) (va : Nat) (wf : FMap Nat) : Nat → Except Fetched (List IWord)
  | 0 => .ok []
  | fuel + 1 =>
    match s.fetchWord core c high (va % 2 ^ 56) wf with
    | .error e => .error e
    | .ok w =>
      if isPfx w || isImx w then
        match s.unitAt core c high (va + 8) wf fuel with
        | .error e => .error e
        | .ok l => .ok (w :: l)
      else .ok [w]

/-- The unit at an address, as a thread with these walk faults fetches it. -/
def State.fetchUnit (s : State) (core c : Nat) (high : Bool) (va : Nat) (wf : FMap Nat) : Fetched :=
  match s.unitAt core c high va wf 3 with
  | .error e => e
  | .ok l =>
    match decodeUnit l with
    | .ok (i, n) => .unit i n
    | .error _ => .bad l.length (rejectPlace l)

/-- A chain as it is fetched: its units with their addresses and lengths, and what ended it (R58, R162):
`stop` is the address after the last word. -/
structure Chained where
  units : List (Nat × Instr × Nat)
  stop : Nat
  /-- An undecodable unit ends it: the position of the word at fault. -/
  bad : Option Nat
  /-- A word could not be fetched: its position, and why. -/
  fault : Option (Nat × FetchFault)
  miss : Option Nat
  deriving DecidableEq, Repr

/-- The chain from an address on, at a position counting prefixes. -/
def State.chainFrom (s : State) (core c : Nat) (high : Bool) (wf : FMap Nat) (va pos : Nat) : Nat → Chained
  | 0 => { units := [], stop := va, bad := none, fault := none, miss := none }
  | fuel + 1 =>
    match s.fetchUnit core c high va wf with
    | .unit i n =>
      let next := (va + 8 * n) % 2 ^ 56
      if chainBit i && decide (pos + n < 8) then
        let r := s.chainFrom core c high wf next (pos + n) fuel
        { r with units := (va, i, n) :: r.units }
      else { units := [(va, i, n)], stop := next, bad := none, fault := none, miss := none }
    | .bad n k => { units := [], stop := (va + 8 * n) % 2 ^ 56, bad := some (pos + k), fault := none, miss := none }
    | .fault f => { units := [], stop := f.at_, bad := none, fault := some (pos + (f.at_ + 2 ^ 56 - va) % 2 ^ 56 / 8, f), miss := none }
    | .miss at_ => { units := [], stop := at_, bad := none, fault := none, miss := some at_ }

/-- The chain, or single unit, at a thread's PC. -/
def State.chainAt (s : State) (t : TRef) : Chained :=
  let w := s.wave t.u
  let th := w.thread t.i
  s.chainFrom w.core w.ctx w.high th.wfault th.pc 0 8

/-- The address after the unit or chain at a thread's PC: SKIP of R444. -/
def State.skipOf (s : State) (t : TRef) : Nat := (s.chainAt t).stop

/-- Words of a chain that retire as bundles, and whether it is one: more than one unit (R62). -/
def Chained.length (k : Chained) : Nat := k.units.length

/-- The last unit of a chain. -/
def Chained.last (k : Chained) : Option Instr := k.units.getLast?.map fun e => e.2.1

end Sys2Proof.Machine
end

