-- ==== Sys2Proof/Machine/Memory.lean ====
section
/-! DEFINITION. Class 6, the atomics of class 7 and MWAIT (R108, R168 to R180, R225, R241, R242, R263 to
R275): the addresses, the checks in the order of R172, and how an access is issued. One description of each
word serves its issue and its reissue from the operand log (R432). -/

namespace Sys2Proof.Machine

/-! ## Fields -/

/-- ORD of an access (R225). -/
def ordOf (h : Hdr) : Nat := match h.pfx with
  | some p => if p.ovo then p.ord.toNat else 0
  | none => 0

/-- The address space, `base` unless PFX overrides it (R168). -/
def spaceOf (h : Hdr) (base : Nat) : Nat := match h.pfx with
  | some p => if p.ovs then p.space.toNat else base
  | none => base

/-- The scope of an access of a context; on scratchpad at most cluster (R56, R225). -/
def State.scopeOf (s : State) (c : Nat) (h : Hdr) (space : Nat) : Nat :=
  let d := bits (s.ctx c).memdef.toNat 2 0
  let sc := match h.pfx with
    | some p => if p.ovo then p.scope.toNat else d
    | none => d
  if space == 0 then sc else min sc 2

/-- The cache policy of an access of a context (R153). -/
def State.polOf (s : State) (c : Nat) (h : Hdr) : Nat :=
  let d := bits (s.ctx c).memdef.toNat 7 4
  match h.pfx with
  | some p => if p.ovp then p.pol.toNat else d
  | none => d

/-- The offset (R170): OFF32 with OVX, else the word's own, sign-extended. -/
def offOf (h : Hdr) (own : Int) : Int := match h.pfx with
  | some p => if p.ovx then p.off32.toInt else own
  | none => own

/-- Bytes of SZ 0 to 6 (R169). -/
def szBytes (sz : Nat) : Nat :=
  match sz with
  | 0 | 1 => 1
  | 2 | 3 => 2
  | 4 => 4
  | 5 => 8
  | _ => 16

/-- 32-bit words of a register operand of `n` bytes. -/
def regWords (n : Nat) : Nat := if n ≤ 4 then 1 else n / 4

/-- A source of `n` words as a number. -/
def State.srcWide (s : State) (t : TRef) (imx : Option Word) (f : BitVec 8) (n : Nat) : Nat :=
  (upto 0 n).foldl (fun v k => v + (s.srcWord t imx f false k).toNat * 2 ^ (32 * k)) 0

/-- `n` uniform registers from `r` as a number. -/
def State.sregWide (s : State) (u r n : Nat) : Nat :=
  (upto 0 n).foldl (fun v k => v + (s.sreg u (r + k)).toNat * 2 ^ (32 * k)) 0

/-! ## What a memory word does -/

/-- A memory word, told once for its issue and its reissue. -/
structure MemOp where
  h : Hdr
  /-- Base register and whether it is uniform. -/
  ar : BitVec 8
  ua : Bool
  /-- The field B, if it is an index; the offset. -/
  idx : Option (BitVec 8)
  off : Int
  /-- 0 global, 1 scratchpad, 2 cluster scratchpad. -/
  space : Nat
  /-- Bytes of one access, and the alignment it needs; 0 where it may only not cross a sector. -/
  n : Nat
  align : Nat
  /-- Group size of LDW and STW (R176). -/
  group : Option Nat
  /-- Acts once a wave (R177). -/
  once : Bool
  kind : AccKind
  /-- Data and second data operand: a source field and its words. -/
  data : Option (BitVec 8 × Nat)
  data2 : Option (BitVec 8 × Nat)
  /-- Data from uniform registers (STU). -/
  sdata : Option (Nat × Nat)
  dest : Dest
  pf : Option Nat
  /-- A RED (R263). -/
  red : Bool
  /-- A prefetch or cache operation: a failed translation drops it (R178, R179). -/
  hint : Bool
  /-- CCTL's operation on the caches, 0 to 2. -/
  cctl : Option Nat
  /-- Each lane's index names the register that it loads (CREST). -/
  spread : Bool
  deriving DecidableEq, Repr

/-- The defaults of a memory word. -/
def memBase (h : Hdr) (f : FmtM) (space n : Nat) (kind : AccKind) : MemOp :=
  { h := h, ar := f.ar, ua := f.ua, idx := some f.b, off := offOf h f.off.toInt, space := spaceOf h space, n := n,
    align := if n == 16 then 16 else 0, group := none, once := false, kind := kind, data := none, data2 := none,
    sdata := none, dest := .none, pf := none, red := false, hint := false, cctl := none, spread := false }

/-- LD, LDS, LDC (R173). -/
def memLoad (h : Hdr) (f : FmtM) (space : Nat) : MemOp :=
  let n := szBytes f.sz.toNat
  { memBase h f space n (.load (f.sz.toNat == 1 || f.sz.toNat == 3)) with
    dest := if f.w then .none else .vreg f.d.toNat (regWords n) }

/-- ST, STS, STC (R173). -/
def memStore (h : Hdr) (f : FmtM) (space : Nat) : MemOp :=
  let n := szBytes f.sz.toNat
  { memBase h f space n .store with data := some (f.d, regWords n) }

/-- Group size and element bytes of LDW and STW (R176). -/
def groupOf (f : FmtM) : Nat := 2 ^ (bits f.sz.toNat 3 1 + 1)
def elemBytes (f : FmtM) : Nat := if f.sz.getLsbD 0 then 8 else 4

/-- An atomic of class 7 (R263 to R267). -/
def memAtom (h : Hdr) (f : FmtM) (op : AOp) (red : Bool) : MemOp :=
  let n := atomBytes f.sz.toNat
  let k := n / 4
  { memBase h f 0 n (.rmw op f.sz.toNat) with
    align := n, idx := none, data := some (f.b, k),
    data2 := if op == .addb || op == .cas || op == .cas2 then some (f.d, k) else none,
    off := offOf h (if op == .addb then (f.off.extractLsb' 0 15).toInt else f.off.toInt),
    dest := if red || f.w then .none else .vreg f.d.toNat k, red := red,
    pf := if op == .addb && f.off.extractLsb' 15 3 != 7 then some (f.off.extractLsb' 15 3).toNat else none }

/-- MWAIT (R107, R108). -/
def memMwait (h : Hdr) (f : FmtM) : MemOp :=
  let n := if f.sz.getLsbD 0 then 8 else 4
  { memBase h f 0 n (.mwait true) with
    space := if f.sz.getLsbD 3 then 1 else 0, align := n, idx := none, data := some (f.b, n / 4),
    dest := if f.w then .none else .vreg f.d.toNat (n / 4) }

/-- CSAVE and CREST of the thread's own registers (R452): the lanes carry address, register and data. -/
def memSpan (h : Hdr) (f : FmtS) (store : Bool) : MemOp :=
  { h := h, ar := 0, ua := true, idx := none, off := 0, space := 0, n := 4, align := 4, group := none, once := false,
    kind := if store then .store else .load false, data := none, data2 := none, sdata := none,
    dest := if store then .none else .vreg (csF f) (csN f), pf := none, red := false, hint := false, cctl := none, spread := !store }

/-- What a word does to memory; none for a word of another kind. -/
def memOp (i : Instr) : Option MemOp :=
  match i with
  | .ld h f => some (memLoad h f 0)
  | .lds h f => some (memLoad h f 1)
  | .ldc h f => some (memLoad h f 2)
  | .st h f => some (memStore h f 0)
  | .sts h f => some (memStore h f 1)
  | .stc h f => some (memStore h f 2)
  | .ldw h f => some { memBase h f 0 (elemBytes f) (.load false) with
      group := some (groupOf f), dest := if f.w then .none else .vreg f.d.toNat (elemBytes f / 4) }
  | .stw h f => some { memBase h f 0 (elemBytes f) .store with group := some (groupOf f), data := some (f.d, elemBytes f / 4) }
  | .ldu h f => some { memLoad h f 0 with once := true, dest := .sreg f.d.toNat (regWords (szBytes f.sz.toNat)) }
  | .stu h f => some { memBase h f 0 (szBytes f.sz.toNat) .store with
      once := true, sdata := some (f.d.toNat, regWords (szBytes f.sz.toNat)) }
  | .pref h f => some { memBase h f 0 1 (.pref (f.d.toNat + 1)) with hint := true }
  | .cctlInv1 h f => some { memBase h f 0 1 (.pref 0) with hint := true, cctl := some 0 }
  | .cctlEv2 h f => some { memBase h f 0 1 (.pref 0) with hint := true, cctl := some 1 }
  | .cctlUnp3 h f => some { memBase h f 0 1 (.pref 0) with hint := true, cctl := some 2 }
  | .cctlZero h f => some { memBase h f 0 64 .store with align := 64 }
  | .atomAdd h f => some (memAtom h f .add false)
  | .atomAnd h f => some (memAtom h f .and false)
  | .atomOr h f => some (memAtom h f .or false)
  | .atomXor h f => some (memAtom h f .xor false)
  | .atomMin h f => some (memAtom h f .min false)
  | .atomMax h f => some (memAtom h f .max false)
  | .atomXchg h f => some (memAtom h f .xchg false)
  | .atomIncw h f => some (memAtom h f .incw false)
  | .atomAddb h f => some (memAtom h f .addb false)
  | .atomFadd h f => some (memAtom h f .fadd false)
  | .atomFmin h f => some (memAtom h f .fmin false)
  | .atomFmax h f => some (memAtom h f .fmax false)
  | .acas h f => some (memAtom h f .cas false)
  | .acas2 h f => some (memAtom h f .cas2 false)
  | .redAdd h f => some (memAtom h f .add true)
  | .redAnd h f => some (memAtom h f .and true)
  | .redOr h f => some (memAtom h f .or true)
  | .redXor h f => some (memAtom h f .xor true)
  | .redMin h f => some (memAtom h f .min true)
  | .redMax h f => some (memAtom h f .max true)
  | .redIncw h f => some (memAtom h f .incw true)
  | .redFadd h f => some (memAtom h f .fadd true)
  | .redFmin h f => some (memAtom h f .fmin true)
  | .redFmax h f => some (memAtom h f .fmax true)
  | .mwait h f => some (memMwait h f)
  | .csave h f => if sb f 25 then none else some (memSpan h f true)
  | .crest h f => if sb f 25 then none else some (memSpan h f false)
  | _ => none

/-- The access writes, or may write. -/
def MemOp.writes (m : MemOp) : Bool :=
  match m.kind with
  | .store | .rmw _ _ => true
  | _ => false

/-- The access is an atomic. -/
def MemOp.isRmw (m : MemOp) : Bool :=
  match m.kind with
  | .rmw _ _ => true
  | _ => false

/-- A word of the load class: a load, MWAIT, or an atomic that returns a value (R152). -/
def MemOp.loads (m : MemOp) : Bool :=
  match m.kind with
  | .load _ | .mwait _ => true
  | .rmw _ _ => m.dest != .none || m.pf.isSome
  | _ => false

/-! ## Sources (R170, R431) -/

/-- The address of an access: modulo 2^64 in global space, 2^32 in a scratchpad (R170). -/
def State.memEa (s : State) (t : TRef) (m : MemOp) : Nat × Dword :=
  let ix : Word := match m.idx with
    | some b => s.src t m.h b false
    | none => 0
  let ix64 : Dword := match m.idx with
    | some b => if b.toNat == 255 then s.src64 t m.h b false else ix.signExtend 64
    | none => 0
  if m.space == 0 then
    ((s.src64 t m.h m.ar m.ua + ix64 + BitVec.ofInt 64 m.off).toNat, ix64)
  else ((s.src t m.h m.ar m.ua + ix + BitVec.ofInt 32 m.off).toNat, ix64)

/-- The source values that a thread's access reads. -/
def State.memLane (s : State) (m : MemOp) (t : TRef) : LogLane :=
  let a := s.memEa t m
  let get := fun (d : Option (BitVec 8 × Nat)) => match d with
    | some (f, n) => s.srcWide t m.h.imx f n
    | none => 0
  let d := match m.sdata with
    | some (r, n) => s.sregWide t.u r n
    | none => get m.data
  { i := t.i, ea := a.1, index := a.2, data := BitVec.ofNat 128 d, data2 := BitVec.ofNat 128 (get m.data2) }

/-- The first address of what the thread's base names, and the address of its own access: its element of the
group's block (R176). The block's bytes come last. -/
def State.memPlace (s : State) (m : MemOp) (t : TRef) (ea : Nat) : Nat × Nat :=
  match m.group with
  | none => (ea, m.align)
  | some g =>
    let g := min g (s.wave t.u).width
    ((ea + (t.i % g) * m.n) % (if m.space == 0 then 2 ^ 64 else 2 ^ 32), g * m.n)

/-! ## Checks (R171, R172) -/

/-- What the checks make of a lane. -/
inductive LaneRes where
  /-- A physical address and page class. -/
  | glob (pa cls : Nat)
  /-- A block's scratchpad and the offset. -/
  | scr (b off : Nat)
  | bad (h : Hit)
  /-- A fault of code 1, 2 or 3. -/
  | soft (code : Nat)
  /-- The page needs a walk, for a write or for a read. -/
  | miss (write : Bool)
  /-- The request is dropped. -/
  | drop
  deriving DecidableEq, Repr

/-- A translation of a thread's address, from the TLBs, or made whole at once for the operand log. -/
def State.laneTrans (s : State) (now : Bool) (t : TRef) (va : Nat) (want : Want) : TRes × State :=
  let w := s.wave t.u
  if now then s.translateNow w.core w.ctx va want w.high false
  else (s.translate w.core w.ctx va want w.high (w.thread t.i).wfault, s)

/-- Rank of a translation code among an entry's causes (R172). -/
def codeRank (code : Nat) : Nat :=
  match code with
  | 4 => 3
  | 6 => 4
  | 7 => 5
  | _ => 6

/-- A MEMFAULT of a lane: the code and the write bit of DET (R422). -/
def memHit (t : TRef) (code ea : Nat) (write : Bool) : Hit :=
  { hit t (rankOwn (if code == 5 then 0 else codeRank code)) .memfault (code + if write then 256 else 0) with addr := some ea }

/-- The answer of a translation for a lane. -/
def laneOf (m : MemOp) (t : TRef) (ea : Nat) (want : Want) (r : TRes) : LaneRes :=
  match r with
  | .ok pa cls => .glob pa cls
  | .miss => .miss (want == .write)
  | .fault code =>
    if m.hint then .drop
    else if code == 1 || code == 2 || code == 3 then .soft code
    else .bad (memHit t code ea m.writes)

/-- A scratchpad access's bounds (R171). -/
def State.scrLane (s : State) (m : MemOp) (t : TRef) (ea : Nat) : LaneRes :=
  let w := s.wave t.u
  let out := LaneRes.bad { hit t (rankOwn 2) .bounds 1 with addr := some ea }
  if m.space == 1 then
    if ea + m.n > (s.block w.block).scratch then out else .scr w.block ea
  else if ea / 2 ^ 24 ≠ 0 then out
  else match s.memberBlock w.block (bits ea 23 22) with
    | none => out
    | some b => if bits ea 21 0 + m.n > (s.block b).scratch then out else .scr b (bits ea 21 0)

/-- One lane's address and translation checked in the order of R172; a translation may change page tables. -/
def State.placeLane (s : State) (m : MemOp) (now : Bool) (t : TRef) (l : LogLane) : LaneRes × State :=
  let p := s.memPlace m t l.ea
  let ea := p.1
  if m.space == 0 && l.ea ≥ 2 ^ 56 then
    (if m.hint then .drop else .bad (memHit t 5 l.ea m.writes), s)
  else if (p.2 ≠ 0 && l.ea % p.2 ≠ 0) || (p.2 == 0 && ea % 64 + m.n > 64) then
    (.bad { hit t (rankOwn 1) .align 0 with addr := some l.ea }, s)
  else if m.space ≠ 0 then (s.scrLane m t ea, s)
  else
    let want : Want := if m.writes then .write else .read
    if !m.isRmw then
      let r := s.laneTrans now t ea want
      (laneOf m t ea want r.1, r.2)
    else
      let r := s.laneTrans now t ea .read
      match r.1 with
      | .ok _ _ =>
        let r := r.2.laneTrans now t ea .write
        (laneOf m t ea .write r.1, r.2)
      | .fault 3 => (laneOf m t ea .write (.fault (if (s.laneTrans now t ea .write).1 == .fault 2 then 2 else 3)), s)
      | x => (laneOf m t ea .read x, r.2)

/-- One lane checked. A load-class access or an atomic to a home that is lost raises MCHK; a store or RED there is discarded (R410,
R437). -/
def State.checkLane (s : State) (m : MemOp) (now : Bool) (t : TRef) (l : LogLane) : LaneRes × State :=
  let r := s.placeLane m now t l
  match r.1 with
  | .glob pa _ =>
    if !m.hint && (m.loads || (m.isRmw && !m.red)) && r.2.lostHome pa then (.bad { hit t rankMchk .mchk 4 with pa := pa }, r.2) else r
  | _ => r

/-- A lane with what came of its checks, and the wave indices of the threads that it acts for. -/
structure Lane where
  t : TRef
  l : LogLane
  r : LaneRes
  who : List Nat
  deriving DecidableEq, Repr

/-- Every lane checked. -/
def State.checkLanes (s : State) (m : MemOp) (now : Bool) (lanes : List (TRef × LogLane)) : List Lane × State :=
  lanes.foldl (fun a x =>
    let r := a.2.checkLane m now x.1 x.2
    (a.1 ++ [{ t := x.1, l := x.2, r := r.1, who := [x.1.i] }], r.2)) ([], s)

/-! ## Order (R225, R231, R242) -/

/-- The miss entries of a core in use: one for each sector that the accesses of a bundle have missed the L1 on (R152). -/
def State.missesOf (s : State) (core : Nat) : Nat :=
  (dedup ((s.accs.filter fun a => a.core == core && a.missed && !a.watches && a.st != .failed).map fun a => (a.step, sectorOf a.pa))).length

/-- A load-class access to a sector misses the core's L1, which another device's memory never enters (R146, R152). -/
def State.missesL1 (s : State) (m : MemOp) (core pa pol : Nat) : Bool :=
  m.loads && (match (s.target pa).1 with
    | .aperture _ => false
    | _ => true) && !((match m.kind with
    | .load _ => true
    | _ => false) && (s.l1Hit core (sectorOf pa) pol).isSome)

/-- The sectors that a word's lanes miss the L1 on (R152). -/
def State.missedBy (s : State) (m : MemOp) (lanes : List Lane) : List Nat :=
  dedup (lanes.filterMap fun x =>
    let w := s.wave x.t.u
    match x.r with
    | .glob pa _ => if s.missesL1 m w.core pa (s.polOf w.ctx m.h) then some (sectorOf pa) else none
    | _ => none)

/-- A lane has to wait: for the accesses that a release orders before it, for a collapse that holds an earlier
write of the thread to the page, or for miss entries; a CREST of more sectors than there are entries waits for all of them
(log entry 103). -/
def State.laneWaits (s : State) (m : MemOp) (lanes : List Lane) : Bool :=
  let need := min (s.missedBy m lanes).length 256
  (need != 0 && (lanes.head?.map fun x => decide (s.missesOf (s.wave x.t.u).core + need > 256)) == some true)
    || lanes.any fun x =>
      let w := s.wave x.t.u
      let ord := ordOf m.h
      (m.writes && (ord == 2 || ord == 3) && !s.allDone x.t (s.scopeOf w.ctx m.h m.space))
        || (s.accs.any fun a => a.isOf x.t && a.st == .collapse && a.va / 65536 == x.l.ea / 65536)

/-! ## Issue of an access -/

/-- A line is marked persistent in L3: a ninth mark of a set clears that of the line least recently used (R155). -/
def State.markPers (s : State) (pa : Nat) : State :=
  let s := s.touchL3 (sectorOf pa)
  let line := pa / 256
  let set := fun (l : Nat) => (s.homeOf (256 * l), Config.l3Set l % Config.l3Sets)
  let rest := s.pers.filter (· != line)
  let mine := rest.filter fun l => set l == set line
  let rest := if mine.length ≥ 8 then (match mine.head? with
    | some old => rest.filter (· != old)
    | none => rest) else rest
  { s with pers := rest ++ [line] }

/-- The effect of CCTL 0 to 2 on the sector of an address (R179). -/
def State.cctlOp (s : State) (core pa op : Nat) : State :=
  let x := sectorOf pa
  let k := s.core core
  if op == 0 then s.setCore core (k.dropL1 x true)
  else if op == 1 then
    let s := s.evictL2 (dieOf core) x
    let s := s.dropL1s (dieOf core) x none
    s.setCore core ((s.core core).dropL1 x true)
  else { s with pers := s.pers.filter (· != pa / 256) }

/-- Where a unit's accesses come from: the addresses of its first word, of its chain's first word and of the word after it; INCH and
CPOS of its word (R422); and whether the operand log reissues it. -/
structure Origin where
  pc : Nat
  start : Nat
  next : Nat
  inch : Nat
  late : Bool
  deriving DecidableEq, Repr

/-- The origin of the accesses of a word as it issues. -/
def Issue.origin (b : Issue) (i : Instr) : Origin :=
  { pc := b.unitPc, start := b.chainPc, next := b.skipPc, inch := inchOf b (b.pos + unitLen i - 1), late := false }

/-- What the chain in progress has written of a thread (R61). -/
def State.chainUndo (s : State) (t : TRef) : Option ChainUndo :=
  match s.chain.bind fun c => fget c.saved t.u with
  | none => none
  | some w =>
    let was := w.thread t.i
    let th := s.thread t
    let rs := dedup ((was.v ++ th.v).map Prod.fst)
    some { v := (rs.filter fun r => fgetD was.v r 0 != fgetD th.v r 0).map (fun r => (r, fgetD was.v r 0)),
           pm := was.p ^^^ th.p, p := was.p, draw := was.draw }

/-- A thread has what its chain has written taken back. -/
def State.unchain (s : State) (t : TRef) (k : ChainUndo) : State :=
  k.v.foldl (fun s e => s.setV t e.1 e.2) (s.modThread t fun th => { th with p := (th.p &&& ~~~k.pm) ||| (k.p &&& k.pm), draw := k.draw })

/-- An access that a unit issues. -/
def State.newAccess (s : State) (m : MemOp) (x : Lane) (o : Origin) (pa va cls : Nat) (scr : Option Nat) : Access :=
  let w := s.wave x.t.u
  let ord := ordOf m.h
  let sc := s.scopeOf w.ctx m.h m.space
  { id := s.next, prog := s.next, t := x.t, who := x.who, core := w.core, pc := o.pc, start := o.start, next := o.next, late := o.late, inch := o.inch,
    undo := x.who.filterMap (fun i => (s.chainUndo { u := x.t.u, i := i }).map fun k => (i, k)), step := s.steps, kind := m.kind, red := m.red,
    pa := pa, va := va, cls := cls, scr := scr, n := m.n, data := x.l.data, data2 := x.l.data2,
    dest := if m.spread then .vreg x.l.index.toNat 1 else m.dest, pf := m.pf,
    pol := s.polOf w.ctx m.h,
    acq := if (ord == 1 || ord == 3) && !(m.kind == .store) then some sc else none,
    fired := false, missed := scr.isNone && s.missesL1 m w.core pa (s.polOf w.ctx m.h), st := .atL2 }

/-- An access joins those under way; the thread's earlier try of the same unit, if its error was reported there, is over. -/
def State.pushAcc (s : State) (a : Access) : State :=
  { s with next := s.next + 1, accs := s.accs.filter (fun b => !(b.st == .failed && b.t == a.t && b.pc == a.pc)) ++ [a] }

/-- The scratchpad bytes of an access lie in a poisoned unit (R437). -/
def State.scrBad (s : State) (b off n : Nat) : Bool :=
  (s.block b).scrPoison.any fun p => decide (16 * p < off + n) && decide (off < 16 * p + 16)

/-- A store's bytes, for its chunk's HASH (R473). -/
def State.hashStore (s : State) (m : MemOp) (x : Lane) (ea : Nat) : State :=
  if m.kind == .store then s.recHash x.t ea (leBytes x.l.data.toNat m.n) else s

/-- The sector of a lane's access as the recorder names it, with how far it is checked at issue (R464, R465); none for a hint or a
CCTL that writes nothing. -/
def State.recLane (s : State) (m : MemOp) (x : Lane) : Option (Nat × Reach) :=
  let hint := match m.kind with
    | .pref _ => true
    | _ => false
  if hint || m.cctl.isSome then none else match x.r with
  | .glob pa _ => some (recXMem pa, .core)
  | .scr b off => some (recXScr (s.block b).core off, .cluster)
  | _ => none

/-- The accesses of a bundle are checked and enter the signatures, in ascending wave slot (R464, R466). -/
def State.recLanes (s : State) (m : MemOp) (l : List Lane) : State :=
  (sortBy (fun x => (s.wave x.t.u).slot) l).foldl (fun s x => match s.recLane m x with
    | some (k, r) => s.recAccess x.t.u k (m.kind != .store) m.writes r
    | none => s) s

/-- An access joins those under way; the thread of an MWAIT waits from its issue (R108), but for one that was continued
past a page fault (R431). -/
def State.startAcc (s : State) (a : Access) (now : Bool) : State :=
  match a.kind with
  | .mwait _ => if now then s.pushAcc a else (s.pushAcc a).modThread a.t fun th => { th with st := .waiting (.mwait a.id) }
  | _ => s.pushAcc a

/-- A scratchpad access is performed in its bank at once (R150, R228, R259). -/
def State.issueScr (s : State) (m : MemOp) (o : Origin) (x : Lane) (b off : Nat) : State :=
  let s := s.hashStore m x off
  let a := s.newAccess m x o off off 1 (some b)
  let s := s.startAcc a o.late
  if s.scrBad b off m.n && a.isRead then s.modAcc a.id fun a => { a with st := .poisoned false false }
  else s.bankPerform a b

/-- A global access is sent on its way (R146, R151, R165, R251). -/
def State.issueGlob (s : State) (m : MemOp) (o : Origin) (x : Lane) (ea pa cls : Nat) : State :=
  let w := s.wave x.t.u
  let a := s.newAccess m x o pa ea cls none
  let now := o.late
  match m.cctl with
  | some op => s.cctlOp w.core pa op
  | none =>
    let hint := match m.kind with
      | .pref _ => true
      | _ => false
    let s := s.hashStore m x ea
    let s := if m.writes && cls != 2 then s.undoPage w.ctx pa else s
    if s.replaying w.ctx && s.offDevice a then
      (if hint || m.kind == .store then s else s.startAcc { a with st := .done 0 false } now)
    else if s.lostHome pa then
      (if hint then s else s.pushAcc { a with st := .poisoned true true })
    else match (s.target pa).1 with
    | .aperture _ => if hint then s else s.startAcc { a with st := .remote } now
    | _ =>
      let s := if a.pol == 5 then s.markPers pa else s
      if m.kind == .pref 3 then s.touchL3 (sectorOf pa)
      else if m.writes && cls == 2 then (s.pushAcc { a with st := .collapse }).askCollapse w.ctx ea
      else if m.writes && s.collapsing pa then s.pushAcc { a with st := .collapse }
      else
        let sec := sectorOf pa
        let load := match m.kind with
          | .load _ => true
          | _ => false
        let free := !(s.accs.any fun b => b.core == w.core && b.inOrder (dieOf w.core) sec)
        let k := s.core w.core
        let s := if a.isWrite then (match fget k.l1 sec with
            | some c => if c.tracked then s else s.setCore w.core { k with l1 := fdel k.l1 sec }
            | none => s) else s
        let s := if load then s.count 0 w.core (if (s.l1Hit w.core sec a.pol).isSome then 5 else 6) 1 else s
        match s.l1Hit w.core sec a.pol with
        | some d =>
          if load && free then ((s.l1Use w.core sec a.pol).pushAcc a).settle a (pick d (pa % 64) m.n) false
          else (s.startAcc a now).drain (dieOf w.core) sec
        | none => (s.startAcc a now).drain (dieOf w.core) sec

/-- One lane's access is issued. -/
def State.issueLane (s : State) (m : MemOp) (o : Origin) (x : Lane) : State :=
  let ea := (s.memPlace m x.t x.l.ea).1
  match x.r with
  | .glob pa cls => s.issueGlob m o x ea pa cls
  | .scr b off => s.issueScr m o x b off
  | _ => s

/-- Order of the lanes of a bundle: ascending wave index, then ascending wave slot (R173, R262). -/
def State.laneKey (s : State) (t : TRef) : Nat := t.i * 64 + (s.wave t.u).slot

/-- The lanes that act: all, or one for each wave, for all its active threads (R177). -/
def actingLanes (m : MemOp) (l : List Lane) : List Lane :=
  if m.once then (dedup (l.map fun x => x.t.u)).filterMap fun u =>
    (l.find? fun x => x.t.u == u).map fun x => { x with who := (l.filter fun y => y.t.u == u).map fun y => y.t.i }
  else l

/-! ## The word -/

/-- The log entry of a wave's lanes: its own first fault, that of its lowest thread with it, or that of the bundle (R430, R431). -/
def State.logEntryOf (s : State) (i : Instr) (m : MemOp) (o : Origin) (all mine : List Lane) : LogEntry :=
  let code := fun (x : Lane) => match x.r with
    | .soft c => some c
    | _ => none
  let best := fun (l : List Lane) => (sortBy (fun x => (code x).getD 9 * 64 + x.t.i) (l.filter fun x => (code x).isSome)).head?
  let x := (best mine).orElse fun _ => best all
  let c := (x.bind code).getD 1
  let low := (sortBy (fun y => y.t.i) mine).head?.filter fun y => (code y).isSome
  let ea := fun (y : Option Lane) => (y.map fun y => (s.memPlace m y.t y.l.ea).1).getD 0
  { st := .wait, unit := i, pc := o.pc, next := o.next, lanes := sortBy LogLane.i (mine.map Lane.l), code := c, low := ea low,
    det := BitVec.ofNat 32 (c + if m.writes then 256 else 0), va := ea x,
    lane := (x.map fun y => y.t.i).getD 0, cause := .memfault, order := 0, num := 0, regs := [], rows := [] }

/-- The checks and the accesses of a unit's lanes (R172): traps first, then walks, then the operand log, then
the accesses in order. -/
def State.memPerform (s : State) (i : Instr) (m : MemOp) (o : Origin) (lanes : List (TRef × LogLane)) : Res :=
  let r := s.checkLanes m o.late lanes
  let s := r.2
  let l := r.1
  let hits := l.filterMap fun x => match x.r with
    | .bad h => some h
    | _ => none
  let early := hits.filter fun h => decide (h.rank ≤ rankOwn 2)
  let miss := l.filterMap fun x => match x.r with
    | .miss w => some (x.t, (s.memPlace m x.t x.l.ea).1, w)
    | _ => none
  let soft := l.any fun x => match x.r with
    | .soft _ => true
    | _ => false
  if !early.isEmpty then .trap (firstHits early) []
  else if !miss.isEmpty then .walk miss
  else if !hits.isEmpty then .trap (firstHits hits) []
  else if soft then
    .log ((dedup (l.map fun x => x.t.u)).map fun u => (u, s.logEntryOf i m o l (l.filter fun x => x.t.u == u)))
  else if s.laneWaits m l then .stall
  else
    let l := sortBy (fun x => s.laneKey x.t) (actingLanes m l)
    if l.any fun x => (s.recLane m x).any fun k => s.lateConflict x.t.u k.1 m.writes then .stall
    else .ok (l.foldl (fun s x => s.issueLane m o x) (s.recLanes m l))

/-- The word is a synchronisation instruction: an ordered access, or MWAIT (R111, R174, R275). -/
def MemOp.syncs (m : MemOp) : Bool :=
  ordOf m.h != 0 || (match m.kind with
    | .mwait _ => true
    | _ => false)

/-- A memory word. -/
def memWord (i : Instr) : State → List TRef → Res := fun s l =>
  match memOp i, s.issue with
  | some m, some b =>
    let lanes := l.map fun t => (t, s.memLane m t)
    (match s.memPerform i m (b.origin i) lanes with
     | .ok s' =>
       if !m.hint && !l.isEmpty && (wavesOf l).all s.reissAhead then
         .hold ((wavesOf l).map fun u => (u, s.logEntryOf i m (b.origin i) []
           ((lanes.filter fun x => x.1.u == u).map fun x => { t := x.1, l := x.2, r := .drop, who := [] })))
       else .ok (if m.syncs then s'.syncWaves l none else s')
     | r => r)
  | _, _ => .ok s

/-- LD. -/
def execLd (h : Hdr) (f : FmtM) : State → Host.Outcome State Fault Refusal := runWord (.ld h f) (memWord (.ld h f))
/-- ST. -/
def execSt (h : Hdr) (f : FmtM) : State → Host.Outcome State Fault Refusal := runWord (.st h f) (memWord (.st h f))
/-- LDW. -/
def execLdw (h : Hdr) (f : FmtM) : State → Host.Outcome State Fault Refusal := runWord (.ldw h f) (memWord (.ldw h f))
/-- STW. -/
def execStw (h : Hdr) (f : FmtM) : State → Host.Outcome State Fault Refusal := runWord (.stw h f) (memWord (.stw h f))
/-- LDS. -/
def execLds (h : Hdr) (f : FmtM) : State → Host.Outcome State Fault Refusal := runWord (.lds h f) (memWord (.lds h f))
/-- STS. -/
def execSts (h : Hdr) (f : FmtM) : State → Host.Outcome State Fault Refusal := runWord (.sts h f) (memWord (.sts h f))
/-- LDC. -/
def execLdc (h : Hdr) (f : FmtM) : State → Host.Outcome State Fault Refusal := runWord (.ldc h f) (memWord (.ldc h f))
/-- STC. -/
def execStc (h : Hdr) (f : FmtM) : State → Host.Outcome State Fault Refusal := runWord (.stc h f) (memWord (.stc h f))
/-- LDU. -/
def execLdu (h : Hdr) (f : FmtM) : State → Host.Outcome State Fault Refusal := runWord (.ldu h f) (memWord (.ldu h f))
/-- STU. -/
def execStu (h : Hdr) (f : FmtM) : State → Host.Outcome State Fault Refusal := runWord (.stu h f) (memWord (.stu h f))
/-- PREF. -/
def execPref (h : Hdr) (f : FmtM) : State → Host.Outcome State Fault Refusal := runWord (.pref h f) (memWord (.pref h f))
/-- CCTL.INV1. -/
def execCctlInv1 (h : Hdr) (f : FmtM) : State → Host.Outcome State Fault Refusal := runWord (.cctlInv1 h f) (memWord (.cctlInv1 h f))
/-- CCTL.EV2. -/
def execCctlEv2 (h : Hdr) (f : FmtM) : State → Host.Outcome State Fault Refusal := runWord (.cctlEv2 h f) (memWord (.cctlEv2 h f))
/-- CCTL.UNP3. -/
def execCctlUnp3 (h : Hdr) (f : FmtM) : State → Host.Outcome State Fault Refusal := runWord (.cctlUnp3 h f) (memWord (.cctlUnp3 h f))
/-- CCTL.ZERO. -/
def execCctlZero (h : Hdr) (f : FmtM) : State → Host.Outcome State Fault Refusal := runWord (.cctlZero h f) (memWord (.cctlZero h f))
/-- ATOM.ADD. -/
def execAtomAdd (h : Hdr) (f : FmtM) : State → Host.Outcome State Fault Refusal := runWord (.atomAdd h f) (memWord (.atomAdd h f))
/-- ATOM.AND. -/
def execAtomAnd (h : Hdr) (f : FmtM) : State → Host.Outcome State Fault Refusal := runWord (.atomAnd h f) (memWord (.atomAnd h f))
/-- ATOM.OR. -/
def execAtomOr (h : Hdr) (f : FmtM) : State → Host.Outcome State Fault Refusal := runWord (.atomOr h f) (memWord (.atomOr h f))
/-- ATOM.XOR. -/
def execAtomXor (h : Hdr) (f : FmtM) : State → Host.Outcome State Fault Refusal := runWord (.atomXor h f) (memWord (.atomXor h f))
/-- ATOM.MIN. -/
def execAtomMin (h : Hdr) (f : FmtM) : State → Host.Outcome State Fault Refusal := runWord (.atomMin h f) (memWord (.atomMin h f))
/-- ATOM.MAX. -/
def execAtomMax (h : Hdr) (f : FmtM) : State → Host.Outcome State Fault Refusal := runWord (.atomMax h f) (memWord (.atomMax h f))
/-- ATOM.XCHG. -/
def execAtomXchg (h : Hdr) (f : FmtM) : State → Host.Outcome State Fault Refusal := runWord (.atomXchg h f) (memWord (.atomXchg h f))
/-- ATOM.INCW. -/
def execAtomIncw (h : Hdr) (f : FmtM) : State → Host.Outcome State Fault Refusal := runWord (.atomIncw h f) (memWord (.atomIncw h f))
/-- ATOM.ADDB. -/
def execAtomAddb (h : Hdr) (f : FmtM) : State → Host.Outcome State Fault Refusal := runWord (.atomAddb h f) (memWord (.atomAddb h f))
/-- ATOM.FADD. -/
def execAtomFadd (h : Hdr) (f : FmtM) : State → Host.Outcome State Fault Refusal := runWord (.atomFadd h f) (memWord (.atomFadd h f))
/-- ATOM.FMIN. -/
def execAtomFmin (h : Hdr) (f : FmtM) : State → Host.Outcome State Fault Refusal := runWord (.atomFmin h f) (memWord (.atomFmin h f))
/-- ATOM.FMAX. -/
def execAtomFmax (h : Hdr) (f : FmtM) : State → Host.Outcome State Fault Refusal := runWord (.atomFmax h f) (memWord (.atomFmax h f))
/-- ACAS. -/
def execAcas (h : Hdr) (f : FmtM) : State → Host.Outcome State Fault Refusal := runWord (.acas h f) (memWord (.acas h f))
/-- ACAS2. -/
def execAcas2 (h : Hdr) (f : FmtM) : State → Host.Outcome State Fault Refusal := runWord (.acas2 h f) (memWord (.acas2 h f))
/-- RED.ADD. -/
def execRedAdd (h : Hdr) (f : FmtM) : State → Host.Outcome State Fault Refusal := runWord (.redAdd h f) (memWord (.redAdd h f))
/-- RED.AND. -/
def execRedAnd (h : Hdr) (f : FmtM) : State → Host.Outcome State Fault Refusal := runWord (.redAnd h f) (memWord (.redAnd h f))
/-- RED.OR. -/
def execRedOr (h : Hdr) (f : FmtM) : State → Host.Outcome State Fault Refusal := runWord (.redOr h f) (memWord (.redOr h f))
/-- RED.XOR. -/
def execRedXor (h : Hdr) (f : FmtM) : State → Host.Outcome State Fault Refusal := runWord (.redXor h f) (memWord (.redXor h f))
/-- RED.MIN. -/
def execRedMin (h : Hdr) (f : FmtM) : State → Host.Outcome State Fault Refusal := runWord (.redMin h f) (memWord (.redMin h f))
/-- RED.MAX. -/
def execRedMax (h : Hdr) (f : FmtM) : State → Host.Outcome State Fault Refusal := runWord (.redMax h f) (memWord (.redMax h f))
/-- RED.INCW. -/
def execRedIncw (h : Hdr) (f : FmtM) : State → Host.Outcome State Fault Refusal := runWord (.redIncw h f) (memWord (.redIncw h f))
/-- RED.FADD. -/
def execRedFadd (h : Hdr) (f : FmtM) : State → Host.Outcome State Fault Refusal := runWord (.redFadd h f) (memWord (.redFadd h f))
/-- RED.FMIN. -/
def execRedFmin (h : Hdr) (f : FmtM) : State → Host.Outcome State Fault Refusal := runWord (.redFmin h f) (memWord (.redFmin h f))
/-- RED.FMAX. -/
def execRedFmax (h : Hdr) (f : FmtM) : State → Host.Outcome State Fault Refusal := runWord (.redFmax h f) (memWord (.redFmax h f))
/-- MWAIT. -/
def execMwait (h : Hdr) (f : FmtM) : State → Host.Outcome State Fault Refusal := runWord (.mwait h f) (memWord (.mwait h f))

/-! ## FENCE (R241, R242) -/

/-- An earlier access that a fence orders before a later one that reads, or writes. -/
def fenceOrders (kind : Nat) (a : Access) (writes : Bool) : Bool :=
  match kind with
  | 0 => true
  | 1 => a.isRead
  | 2 => writes
  | _ => a.isRead || writes

/-- A fence of a thread still orders an access that is not performed before a later access (R242). -/
def State.fenceHolds (s : State) (t : TRef) (x : Fence) (writes : Bool) : Bool :=
  s.accs.any fun a => a.isOf t && decide (a.id < x.before) && fenceOrders x.kind a writes && !a.letGo x.scope x.past

/-- A fence is complete: it holds no access back any more. -/
def State.fenceOver (s : State) (t : TRef) (x : Fence) : Bool := !s.fenceHolds t x true

/-- The effect of a fence that is complete: but for `.rel`, an acquire (R154). -/
def State.passFence (s : State) (t : TRef) (x : Fence) : State :=
  if x.kind == 2 then s else s.acquire (s.wave t.u).core x.scope

/-- A later word of a thread has to wait for its fences; an engine's word counts as a write. -/
def State.fenced (s : State) (t : TRef) (i : Instr) : Bool :=
  let writes := match i with
    | .fence _ _ => none
    | i => some (match memOp i with
      | some m => m.writes
      | none => true)
  match writes with
  | some w => (s.thread t).fences.any fun x => s.fenceHolds t x w
  | none => false

/-- The fences of a thread that are complete at the end of a cycle are over. -/
def State.settleFences (s : State) (t : TRef) : State :=
  let l := (s.thread t).fences
  if l.isEmpty then s
  else
    let s := (l.filter (s.fenceOver t)).foldl (fun s x => s.passFence t x) s
    s.modThread t fun th => { th with fences := l.filter fun x => !s.fenceOver t x }

/-- KIND and SCOPE of FENCE. -/
def fenceKind (f : FmtS) : Nat := (f.body.extractLsb' 46 2).toNat
def fenceScope (f : FmtS) : Nat := (f.body.extractLsb' 43 3).toNat

/-- FENCE: the thread issues no later word that it orders until the earlier accesses are performed (R242); but for `.rel` it
is an acquire, when it is complete (R154). -/
def execFence (h : Hdr) (f : FmtS) : State → Host.Outcome State Fault Refusal :=
  runWord (.fence h f) fun s l =>
    let x : Fence := { kind := fenceKind f, scope := fenceScope f, before := s.next, past := 0 }
    .ok ((l.foldl (fun s t => if s.fenceOver t x then s.passFence t x else s.modThread t fun th => { th with fences := th.fences ++ [x] })
      s).syncWaves l none)

end Sys2Proof.Machine
end

