-- ==== Sys2Proof/Machine/Issue.lean ====
section
/-! DEFINITION. Which bundle issues next (R79 to R87, R97, R113, R152, R172): the scoreboard, the PC-merge
table, the rendezvous, and how a bundle and its words are made ready for their meaning. -/

namespace Sys2Proof.Machine

/-! ## The scoreboard (R79, R88, R152) -/

/-- v registers of a destination. -/
def Dest.vs : Dest → List Nat
  | .vreg r n => upto r n
  | _ => []
/-- Uniform registers of a destination. -/
def Dest.ss : Dest → List Nat
  | .sreg r n => upto r n
  | _ => []

/-- PS of a lock instruction, as the predicates it writes. -/
def lockPs (f : FmtX) : List Nat := if f.xmod.extractLsb' 0 3 == 7 then [] else [(f.xmod.extractLsb' 0 3).toNat]

/-- The destination of a logged unit, and the predicates that it writes. -/
def loggedDest (i : Instr) : Dest × List Nat :=
  match memOp i with
  | some m => (m.dest, m.pf.toList)
  | none => match i with
    | .lock _ f | .lockt _ f | .trylk _ f => (.none, lockPs f)
    | i => (match (usesOf i).find? fun u => !u.swrites.isEmpty with
      | some (.swrite r n) => .sreg r n
      | _ => .none, (usesOf i).filterMap fun u => match u with
        | .pwrite p => some p
        | _ => none)

/-- The log entries that hold a thread's lane. -/
def Wave.logsOf (w : Wave) (i : Nat) : List LogEntry :=
  (w.log.filter fun e => e.2.lanes.any fun l => l.i == i).map Prod.snd

/-- v registers of a thread that a matrix command will write (R364). -/
def MCmd.pendV (m : MCmd) (t : TRef) : List Nat :=
  if m.u == t.u && m.who.contains t.i then descRegs (fun r => fgetD m.regs r 0) m.unit true else []

/-- The destination of an access is pending: also after its error has been reported, but for the word itself that meets it
again (R180, log entry 66). -/
def State.pends (s : State) (a : Access) : Bool := !(a.st == .failed && (s.thread a.t).pc == a.start)

/-- v registers of a thread that are pending; `logs` counts those of operand-log entries too. -/
def State.pendV (s : State) (t : TRef) (logs : Bool) : List Nat :=
  ((s.accs.filter fun a => a.t == t && s.pends a).flatMap fun a => a.dest.vs) ++ s.mcmds.flatMap (fun m => m.pendV t)
    ++ (if logs then ((s.wave t.u).logsOf t.i).flatMap fun e => (loggedDest e.unit).1.vs else [])

/-- Predicates of a thread that are pending. -/
def State.pendP (s : State) (t : TRef) : List Nat :=
  ((s.accs.filter fun a => a.t == t && s.pends a).flatMap fun a => a.pf.toList)
    ++ (((s.wave t.u).logsOf t.i).flatMap fun e => (loggedDest e.unit).2)
    ++ (((s.wave t.u).lockers.filter fun e => e.i == t.i && e.late).map Locker.ps).filter (· != 7)

/-- Uniform registers of a wave that are pending. -/
def State.pendS (s : State) (u : Nat) : List Nat :=
  ((s.accs.filter fun a => a.t.u == u && s.pends a).flatMap fun a => a.dest.ss)
    ++ ((s.wave u).log.flatMap fun e => (loggedDest e.2.unit).1.ss)

/-- CSAVE and CREST do not wait for a register that an operand-log entry will write (R452). -/
def skipsLogs (i : Instr) : Bool :=
  match i with
  | .csave _ _ | .crest _ _ => true
  | _ => false

/-- None of the registers that uses name is pending. -/
def State.usesFree (s : State) (t : TRef) (i : Instr) (us : List Use) : Bool :=
  let v := s.pendV t (!skipsLogs i)
  let p := s.pendP t
  let q := s.pendS t.u
  us.all fun u =>
    (u.vreads ++ u.vwrites).all (fun r => !v.contains r) && (u.sreads ++ u.swrites).all (fun r => !q.contains r)
      && u.preads.all (fun r => !p.contains r)
      && (match u with
          | .pwrite r => !p.contains r
          | .ppair f _ => !p.contains (f.toNat % 8) && !p.contains (f.toNat / 8)
          | _ => true)

/-- All the uses of a word, whatever its guards. -/
def allUses (i : Instr) : List Use :=
  match i with
  | .pairedWord _ a b => halfUses a ++ halfUses b
  | i => usesOf i

/-- The registers that a matrix word's descriptors name are not pending (R352). A thread whose guard there is false
contributes nothing, and waits for its guard only (R89, R354). -/
def State.descFree (s : State) (t : TRef) (k : Chained) : Bool :=
  match k.last with
  | some i =>
    let v := s.pendV t true
    (k.units.length == 1 && !s.active i t) || (descRegs (s.sreg t.u) i false ++ descRegs (s.sreg t.u) i true).all fun r => !v.contains r
  | none => true

/-- The uniform registers of the stamp block that an SPRX of completion mode 2 names by another register (R325, R346). -/
def State.stampRegs (s : State) (t : TRef) (k : Chained) : List Nat :=
  match k.last with
  | some (.sprx _ f) =>
    let b := (s.sreg t.u (f.d.toNat + 2)).toNat
    if sxCm f != 2 || b > 60 || (k.units.length == 1 && !(k.last.any fun i => s.active i t)) then [] else upto b 4
  | _ => []

/-- The scoreboard lets a thread's unit or chain go (R60, R88, R89). -/
def State.scoreFree (s : State) (t : TRef) (k : Chained) : Bool :=
  s.descFree t k && (s.stampRegs t k).all (fun r => !(s.pendS t.u).contains r) &&
  match k.units with
  | [(_, i, _)] =>
    (guardsOf i).all (fun p => !(s.pendP t).contains p) && s.usesFree t i (s.threadUses i t)
  | l => l.all fun e =>
    (guardsOf e.2.1).all (fun p => !(s.pendP t).contains p) && s.usesFree t e.2.1 (allUses e.2.1)

/-! ## What a thread awaits (R79, R152, R495) -/

/-- A producer that a thread's next unit or chain awaits: its PC, whether a predicate is awaited of it, and whether it is a miss of the
L1. -/
structure Producer where
  pc : Nat
  pred : Bool
  missed : Bool
  deriving DecidableEq, Repr

/-- The registers and predicates that a thread's next unit or chain needs: v, uniform, predicates (R60, R88, R89, R352). -/
def State.needsOf (s : State) (t : TRef) (k : Chained) : List Nat × List Nat × List Nat :=
  let us : List Use := match k.units with
    | [(_, i, _)] => s.threadUses i t
    | l => l.flatMap fun e => allUses e.2.1
  let desc := match k.last with
    | some i => if k.units.length == 1 && !s.active i t then [] else descRegs (s.sreg t.u) i false ++ descRegs (s.sreg t.u) i true
    | none => []
  (us.flatMap (fun u => u.vreads ++ u.vwrites) ++ desc, us.flatMap (fun u => u.sreads ++ u.swrites) ++ s.stampRegs t k,
   (k.units.flatMap fun e => guardsOf e.2.1) ++ us.flatMap fun u => u.preads ++ (match u with
     | .pwrite r => [r]
     | .ppair f _ => [f.toNat % 8, f.toNat / 8]
     | _ => []))

/-- The producers that a thread's next unit or chain awaits: of registers first, the accesses before the operand-log entries and
the matrix commands. -/
def State.producers (s : State) (t : TRef) (k : Chained) : List Producer :=
  let n := s.needsOf t k
  let regs := fun (d : Dest) (mine : Bool) => (mine && d.vs.any n.1.contains) || d.ss.any n.2.1.contains
  let w := s.wave t.u
  let accs := s.accs.filter fun a => a.t.u == t.u && s.pends a
  let logs := w.log.map Prod.snd
  let here := fun (e : LogEntry) => e.lanes.any fun l => l.i == t.i
  (accs.filter (fun a => regs a.dest (a.t == t))).map (fun a => ⟨a.pc, false, a.missed⟩)
    ++ (logs.filter (fun e => regs (loggedDest e.unit).1 (here e))).map (fun e => ⟨e.pc, false, false⟩)
    ++ (s.mcmds.filter (fun m => (m.pendV t).any n.1.contains)).map (fun m => ⟨m.pc, false, false⟩)
    ++ (accs.filter (fun a => a.t == t && a.pf.any n.2.2.contains)).map (fun a => ⟨a.pc, true, a.missed⟩)
    ++ (logs.filter (fun e => here e && (loggedDest e.unit).2.any n.2.2.contains)).map (fun e => ⟨e.pc, true, false⟩)

/-- A word that has to wait waits for room in the operand log, which it does ready (R431), or for miss entries, in the paddock
(R152); else it waits in the waiting state. -/
def State.wordState (s : State) (t : TRef) : Nat :=
  if (s.wave t.u).freeLog.isNone then 0 else if ((s.chainAt t).last.bind memOp).isSome then 2 else 3

/-- A line lock of the thread that was reissued from the operand log has had no reply: the thread waits for it, but for a
handler (R290, R291). -/
def State.lateLock (s : State) (t : TRef) : Bool := !(s.thread t).inh && (s.wave t.u).lockers.any fun e => e.i == t.i && e.late

/-- The state of a thread (R79) as a thread record gives it (R444): 0 ready, 1 operand wait, 2 parked, 3 waiting, 4 trapped, 5
exited. A thread is parked where what it awaits has missed the L1 (R152). -/
def State.threadState (s : State) (t : TRef) : Nat :=
  match (s.thread t).st with
  | .ready =>
    let k := s.chainAt t
    if s.lateLock t then 3 else if s.scoreFree t k then 0 else if (s.producers t k).any Producer.missed then 2 else 1
  | .waiting (.record _) => 0
  | .waiting .word => s.wordState t
  | .waiting .walk => 0
  | .waiting _ => 3
  | .trapped => 4
  | .exited => 5

/-! ## What holds a thread's memory/engine words (R172, R231, R242) -/

/-- A unit of the operand log that acts for its whole wave. -/
def waveUnit (i : Instr) : Bool :=
  match memOp i with
  | some m => m.once
  | none => true

/-- A memory/engine word of the thread has to wait: for a unit in the operand log, but not in a pre-emption
handler (R441), for an acquire, or for an MWAIT that was continued past a page fault, whose last read comes before it at its
own location too (R229, R231). -/
def State.portHeld (s : State) (t : TRef) : Bool :=
  let w := s.wave t.u
  (!(w.thread t.i).inhPre && (w.log.any (fun e => waveUnit e.2.unit || e.2.lanes.any fun l => l.i == t.i)
      || w.lockers.any fun e => e.i == t.i && e.late))
    || s.carriedTraps.any (fun e => e.2.1 == t.u)
    || s.accs.any fun a => a.isOf t && (a.acq.isSome || a.isMwait) && a.st != .failed

/-- The words of a recorded or replayed unit wait for its last bundle to retire (log entry 25). -/
def State.hashHeld (s : State) (u : Nat) : Bool := (s.wave u).recd.late != 0

/-! ## Asynchronous causes (R420, R437) -/

/-- Order of the asynchronous causes of R420. -/
def Async.order (a : Async) : Nat :=
  match a.cause with
  | .replay => 2
  | .watchdog => 3
  | .debug => 4
  | .preempt => 5
  | .mchk => if a.info.getLsbD 0 then 0 else 1
  | _ => 1

/-- A deferred MCHK has reached one of the points of R437 at a thread's next unit: `pf` is the predicate that its access has
pending, which stands with its register. -/
def mchkPoint (i : Instr) (us : List Use) (a : Async) (pf : Option Nat) : Bool :=
  memPort i || (pf.any fun p => (guardsOf i).contains p || us.any fun u => u.preads.contains p || (match u with
    | .pwrite r => r == p
    | .ppair f _ => f.toNat % 8 == p || f.toNat / 8 == p
    | _ => false)) || (match i with
    | .exit _ _ => true
    | _ => false)
    || (match a.dest with
        | .vreg r n => us.any fun u => (u.vreads ++ u.vwrites).any fun x => decide (r ≤ x) && decide (x < r + n)
        | .sreg r n => us.any fun u => (u.sreads ++ u.swrites).any fun x => decide (r ≤ x) && decide (x < r + n)
        | .none => false)

/-- The asynchronous cause that a thread takes at its boundary now, if there is one. The one before it has been handled, in R420's words,
once its trap has been taken: the next is taken at the first boundary in its handler (log entry 99). -/
def State.asyncDue (s : State) (t : TRef) (k : Chained) : Option Async :=
  let l := sortBy Async.order (s.thread t).async
  l.find? fun a =>
    if a.order == 0 then k.units.any fun e => mchkPoint e.2.1 (allUses e.2.1) a ((s.accs.find? fun b => b.id == a.acc).bind Access.pf) else true

/-! ## Threads that may issue -/

/-- A wave may issue at all: on a core, not halted but for a step, its context neither saved nor being
restored. -/
def State.waveRuns (s : State) (u : Nat) : Bool :=
  let w := s.wave u
  let pst := (s.ctx w.ctx).pst
  !w.saved && !w.retired && (!w.halted || w.stepping) && w.stop == 0 && pst != 2 && pst != 3 && pst != 4
    && !s.cutReq.contains w.ctx

/-- A thread stands before its next word: ready, or with a word that has to wait. -/
def Thread.stands (th : Thread) : Bool := th.st == .ready || th.st == .waiting .word

/-- A thread's next unit or chain ends in a memory/engine word that acts for it: one whose guard is false waits for nothing but the guard
(R89). -/
def State.memNext (s : State) (t : TRef) (k : Chained) : Bool :=
  k.last.any fun i => memPort i && (decide (k.units.length > 1) || s.active i t)

/-- A thread's next word or chain may issue. -/
def State.canIssue (s : State) (t : TRef) : Bool :=
  let th := s.thread t
  th.stands && s.waveRuns t.u && decide (th.readyAt ≤ s.steps) && !s.hashHeld t.u && !s.lateLock t
    && (let k := s.chainAt t
        (s.asyncDue t k).isNone && s.scoreFree t k
          && (match k.last with
              | some i => !s.memNext t k || !(s.portHeld t || s.fenced t i)
              | none => true))

/-! ## What the log of a replay lets issue (R486, R489) -/

/-- RPCTL.STATE (R485). -/
def State.rpState (s : State) (c : Nat) : Nat := bits (s.ctx c).rpctl.toNat 39 36

/-- A wave follows the log of its replay: one that handles a REPLAY of its own does not. -/
def State.follows (s : State) (u : Nat) : Bool := s.replaying (s.wave u).ctx && !s.strayed u

/-- The unit may go on with its chunk, or start it: no chunk of the context with a smaller TS is still to end, and the
replay has not diverged. -/
def State.chunkTurn (s : State) (u : Nat) (k : LogChunk) : Bool :=
  let w := s.wave u
  decide (w.recd.len > 0) || (s.rpState w.ctx == 2 && !s.birthFirst w.ctx k.ts && s.waves.all fun e =>
    e.2.ctx != w.ctx || e.2.saved || e.2.retired || e.2.live.isEmpty || (match s.curChunk e.1 with
      | some j => decide (k.ts ≤ j.ts)
      | none => true))

/-- A reissue that the log names here has still to be done. -/
def State.reissDue (s : State) (u : Nat) : Bool :=
  (s.logAt u).any fun r => r.toNat % 16 == 4 && (fget (s.wave u).log (bits r.toNat 26 25)).isSome

/-- The log has a value here for an MWAIT, a line lock or a RESHAPE that threads of the unit still wait in: in the recording it
had come before the bundle that the unit stands before (R471, R486, R488). -/
def State.lateDue (s : State) (u : Nat) : Bool :=
  let w := s.wave u
  let waits := fun (i : Nat) (p : Wait → Bool) => match (s.thread { u := u, i := i }).st with
    | .waiting x => p x
    | _ => false
  (s.logAt u).any fun r => r.toNat % 16 == 3
    && ((valOp r == 0x009 && waits (valLane r) fun x => match x with
          | .mwait _ => true
          | _ => false)
      || (w.lockers.any fun e => e.op == valOp r && (e.late || waits e.i (· == .lock)))
      || (valOp r == 0x2C4 && w.reshape.isSome && w.live.any fun i => waits i fun x => match x with
          | .team _ _ => true
          | _ => false))

/-- The threads of a unit's next bundle in the log. -/
def State.loggedBundle (s : State) (u : Nat) : Option (List TRef) :=
  match s.curChunk u with
  | none => none
  | some k =>
    let n := (s.wave u).recd.len
    if n < k.len && s.chunkTurn u k && !s.reissDue u && !s.lateDue u then
      some (((upto 0 64).filter fun i => (k.masks.getD n 0).testBit i).map fun i => { u := u, i := i })
    else none

/-- A unit stands before the bundle that trapped at the end of its chunk. -/
def State.beforeTrap (s : State) (u : Nat) : Bool :=
  match s.curChunk u with
  | none => false
  | some k => k.trapped && (s.wave u).recd.len == k.len && s.chunkTurn u k && !s.reissDue u && !s.lateDue u

/-- The logged bundle cannot be formed: its threads do not stand at one PC, or one of them has exited or is trapped. -/
def State.schedBad (s : State) (u : Nat) : Bool :=
  match s.loggedBundle u with
  | none => false
  | some b =>
    let gone := fun (t : TRef) => !((s.wave t.u).live.contains t.i) || (s.thread t).st == .trapped
    b.isEmpty || b.any gone
      || (b.all (fun t => (s.thread t).stands || (s.thread t).st == .waiting .rdv)
        && (dedup (b.map fun t => (s.thread t).pc)).length > 1)

/-- The ready threads of a core that may issue, but for those whose bundles the log of a replay names. -/
def State.readyThreads (s : State) (core : Nat) : List TRef :=
  (s.waves.filter fun e => e.2.core == core && (!s.follows e.1 || s.beforeTrap e.1)).flatMap fun e =>
    ((e.2.threads.filter fun t => t.2.st == .ready).map fun t => ({ u := e.1, i := t.1 } : TRef)).filter s.canIssue

/-! ## The PC-merge table (R80, R81, R85) -/

/-- The set of a PC. -/
def pcSet (pc : Nat) : Nat := bits pc 8 3 ^^^ bits pc 14 9 ^^^ bits pc 20 15 ^^^ bits pc 26 21

/-- A thread's key: its block and PC. -/
def State.keyOf (s : State) (t : TRef) : Nat × Nat := ((s.wave t.u).block, (s.thread t).pc)

/-- The threads of a list at an entry. -/
def State.atEntry (s : State) (l : List TRef) (e : MergeEntry) : List TRef :=
  l.filter fun t => s.keyOf t == (e.block, e.pc)

/-- Age of a set of threads: the earliest ready time. -/
def State.ageOf (s : State) (l : List TRef) : Nat :=
  (l.map fun t => (s.thread t).readyAt).foldl min s.steps

/-- A thread has been ready for 4,096 clk without issuing (R85). -/
def State.overdue (s : State) (t : TRef) : Bool := decide ((s.thread t).readyAt + 4096 ≤ s.steps)

/-- The table of a core with its ready threads: entries without threads are freed, and the keys without an
entry take free ways in the order of their ready times, promoted where a thread of theirs has starved (R85); those that
find none are the overflow list. -/
def State.mergeTable (s : State) (core : Nat) (l : List TRef) : List MergeEntry :=
  let kept := (s.core core).table.filter fun e => !(s.atEntry l e).isEmpty
  let keys := dedup ((sortBy (fun t => (s.thread t).readyAt) l).map s.keyOf)
  keys.foldl (fun tab k =>
    if tab.any fun e => (e.block, e.pc) == k then tab
    else
      let set := pcSet k.2
      match (upto 0 4).find? (fun w => !tab.any fun e => e.set == set && e.way == w) with
      | some w => tab ++ [{ set := set, way := w, block := k.1, pc := k.2,
                            promoted := l.any fun t => s.keyOf t == k && s.overdue t }]
      | none => tab) kept

/-- A core's table at the end of a cycle (R80, R81). -/
def State.settleTable (s : State) (core : Nat) : State :=
  let k := s.core core
  let tab := s.mergeTable core (s.readyThreads core)
  let prom := fun (l : List MergeEntry) => (l.filter MergeEntry.promoted).map fun e => (e.block, e.pc)
  let s := if tab == k.table then s else s.setCore core { k with table := tab }
  let n := ((prom tab).filter fun e => !(prom k.table).contains e).length
  if n == 0 then s else s.count 0 core 8 n

/-- Order in which a selector tries the entries (R83). -/
def State.entryKey (s : State) (l : List TRef) (e : MergeEntry) : Nat :=
  (((if e.promoted then 0 else 2 ^ 64) + s.ageOf (s.atEntry l e)) * 64 + e.set) * 4 + e.way

/-- The starvation guard promotes the entry of a thread that has been ready for 4,096 clk (R85). A thread on
the overflow list takes the way of the youngest entry of its set that is not promoted. -/
def State.promote (s : State) (t : TRef) : State :=
  let core := (s.wave t.u).core
  let l := s.readyThreads core
  let tab := s.mergeTable core l
  let k := s.keyOf t
  let tab :=
    if tab.any fun e => (e.block, e.pc) == k then
      tab.map fun e => if (e.block, e.pc) == k then { e with promoted := true } else e
    else
      let set := pcSet k.2
      let cands := tab.filter fun e => e.set == set && !e.promoted
      match (sortBy (fun e => 4 * s.ageOf (s.atEntry l e) + e.way) cands).getLast? with
      | some v => tab.map fun e =>
          if e == v then { set := set, way := v.way, block := k.1, pc := k.2, promoted := true } else e
      | none => tab
  (s.setCore core { s.core core with table := tab }).count 0 core 8 1

/-! ## The bundle (R83, R97, R113, R352) -/

/-- What the last word of a unit or chain gathers: the participant selector of an exchange, or the live
threads for a matrix word. -/
def gatherSel (i : Instr) : Option Nat :=
  match i with
  | .ballot _ f | .vote _ f | .shfl _ f | .bcast _ f | .rdx _ f | .scan _ f | .matchLanes _ f => some f.c.toNat
  | .tbar _ _ | .tarr _ _ | .twait _ _ | .tqry _ _ | .reshape _ _ => some 15
  | i => if classOf i == some 10 then some 15 else none

/-- Every live thread of the wave takes part in the word, and the wave acts once for all of them (R352, R393). -/
def gathersWave (i : Instr) : Bool := gatherSel i == some 15 && classOf i != some 5

/-- The mask of a WAITM that ends a chain. -/
def waitSel (k : Chained) : Option Nat :=
  match k.last with
  | some (.waitm _ f) => if k.units.length > 1 then some (maskK f) else none
  | _ => none

/-- The unit or chain before which a thread stands has a rendezvous that the thread takes part in: the mask of its WAITM
names it, or the selector of its exchange (R97, R113). A sprout thread is alone (R98). -/
def State.gathered (s : State) (k : Chained) (t : TRef) : Bool :=
  !(s.wave t.u).isSprout && (match waitSel k with
    | some m => s.named t m
    | none => match k.last.bind gatherSel with
      | some sel => (s.participants t.u sel).contains t.i
      | none => false)

/-- The threads that have been released together with a thread and still stand where they stood. -/
def State.gangOf (s : State) (t : TRef) : List TRef :=
  let th := s.thread t
  ((s.wave t.u).threads.filter fun e => e.2.go == th.go && e.2.pc == th.pc && e.2.stands).map fun e => { u := t.u, i := e.1 }

/-- The threads that must go together with a thread of an entry, or none if they are not all there. -/
def State.companions (s : State) (here : List TRef) (k : Chained) (t : TRef) : Option (List TRef) :=
  if (s.thread t).go != 0 then
    let g := s.gangOf t
    if g.length == (s.thread t).go && g.all here.contains then some g else none
  else if s.gathered k t then none else some [t]

/-- Rank of a thread within a lane: ready time, then wave slot, then birth of a sprout thread (R83). -/
def State.laneRank (s : State) (t : TRef) : Nat :=
  let w := s.wave t.u
  (s.thread t).readyAt * 2 ^ 64 + (match w.sprout with
    | some p => 64 + p.birth
    | none => w.slot)

/-- A thread that its exchange instruction's selector does not name issues alone (R113), unless its guard there is
false. -/
def State.aloneAt (s : State) (k : Chained) (t : TRef) : Bool :=
  match k.last with
  | none => false
  | some i => match gatherSel i with
    | none => false
    | some sel => (decide (sel < 12) || sel == 15) && (s.thread t).go == 0 && !(s.participants t.u sel).contains t.i
        && (decide (k.units.length > 1) || (hdrOf i).all fun h => s.guard t h.neg h.pred)

/-- The bundle of an entry: threads join in the order of their rank, each with its companions, while their
lanes are free. -/
def State.bundleOf (s : State) (here : List TRef) : List TRef :=
  match here with
  | [] => []
  | t0 :: _ =>
    let k := s.chainAt t0
    (sortBy s.laneRank here).foldl (fun b t =>
      if b.contains t || (!b.isEmpty && (s.aloneAt k t || b.any (s.aloneAt k))) then b
      else match s.companions here k t with
        | none => b
        | some g =>
          if g.any fun x => b.any fun y => s.laneid x == s.laneid y then b else b ++ g) []

/-- The bundles that logs of replays name on a core for a port. -/
def State.loggedCandidates (s : State) (core : Nat) (mem : Bool) : List (List TRef) :=
  (s.waves.filter fun e => e.2.core == core && s.follows e.1).filterMap fun e =>
    match s.loggedBundle e.1 with
    | some (t :: r) =>
      let k := s.chainAt t
      let port := match k.units with
        | (_, i, _) :: _ => memPort i
        | [] => false
      if port == mem && !s.schedBad e.1 && (t :: r).all (fun x => s.canIssue x && ((s.thread x).go != 0 || !s.gathered k x))
      then some (t :: r) else none
    | _ => none

/-- The threads of a core whose words have to wait, by wave and address: each is tried again by itself (R297, R352). -/
def State.waitGroups (s : State) (core : Nat) : List (List TRef) :=
  (s.waves.filter fun e => e.2.core == core && (!s.follows e.1 || s.beforeTrap e.1)).flatMap fun e =>
    let l := ((e.2.threads.filter fun t => t.2.st == .waiting .word).map fun t => ({ u := e.1, i := t.1 } : TRef)).filter s.canIssue
    (dedup (l.map fun t => (s.thread t).pc)).map fun a => l.filter fun t => (s.thread t).pc == a

/-- The bundle of a group of threads at one address for a port. -/
def State.bundleFor (s : State) (mem : Bool) (here : List TRef) : Option (List TRef) :=
  match here with
  | [] => none
  | t :: _ =>
    let port := match (s.chainAt t).units with
      | (_, i, _) :: _ => memPort i
      | [] => false
    if port != mem then none
    else
      let b := s.bundleOf here
      if b.isEmpty then none else some (sortBy s.laneKey b)

/-- The bundles that a core's selector may form for a port, best first: the waves whose words have had to wait, the oldest
first, so that what one of them waits for goes to no newcomer (R297, R324, R352), and those of the table's entries (R83). -/
def State.candidates (s : State) (core : Nat) (mem : Bool) : List (List TRef) :=
  let l := s.readyThreads core
  let tab := (s.mergeTable core l).map fun e => (s.entryKey l e, s.atEntry l e)
  let held := (s.waitGroups core).map fun g => (s.ageOf g, g)
  s.loggedCandidates core mem ++ (sortBy Prod.fst held ++ sortBy Prod.fst tab).filterMap fun e => s.bundleFor mem e.2

/-- A bundle is chosen: the port is the one that issued last, an entry all of whose threads go is freed (R80), and words
that had to wait are tried again. -/
def State.picked (s : State) (c : Nat) (mem : Bool) (b : List TRef) : State :=
  let k := s.core c
  let l := s.readyThreads c
  let tab := k.table.filter fun e => !(s.atEntry l e).all b.contains
  b.foldl (fun s t => if (s.thread t).st == .waiting .word then s.modThread t fun th => { th with st := .ready } else s)
    (s.setCore c { k with memPort := mem, table := tab })

/-- The threads of a bundle whose word had to wait stand before it, without a place in the table: those with a true guard, or
all of a word that gathers its wave. -/
def State.parked (s : State) (i : Instr) (b : List TRef) : State :=
  b.foldl (fun s t => if (s.thread t).st == .ready && (gathersWave i || s.active i t) then
    s.modThread t fun th => { th with st := .waiting .word, wfault := [] } else s) s

/-! ## The end of a cycle (R79, R85, R93, R95, R113) -/

/-- A thread that enters the paddock is counted (R493). -/
def State.settlePark (s : State) (t : TRef) : State :=
  let th := s.thread t
  let now := match th.st with
    | .ready | .waiting .word => s.threadState t == 2
    | _ => false
  if now == th.parked then s
  else
    let s := s.setThread t { th with parked := now }
    if now then s.count 0 (s.wave t.u).core 7 1 else s

/-- A thread's ready time is the step in which its next word came to be able to issue (R79); one that is ready at a
rendezvous has arrived there, and one of a released group that is no longer whole has not been released. -/
def State.settleThread (s : State) (t : TRef) : State :=
  let th := s.thread t
  let s := s.settlePark t
  if th.st != .ready then s
  else
    let k := s.chainAt t
    let able := s.scoreFree t k
    let whole := th.go == 0 || (s.gangOf t).length == th.go
    let th := s.thread t
    let th1 := { th with able := able, readyAt := if able && !th.able then max th.readyAt s.steps else th.readyAt,
                         go := if whole then th.go else 0 }
    let th1 := if th1.go == 0 && s.gathered k t && s.canIssue t then { th1 with st := .waiting .rdv } else th1
    if th1 == th then s else s.setThread t th1

/-- A thread waits on mask `k`: at a WAITM, or before a chain that ends in one (R95, R97). -/
def State.waitsOn (s : State) (t : TRef) (k : Nat) : Bool :=
  let th := s.thread t
  th.st == TState.waiting (Wait.waitm k) || (th.st == TState.waiting Wait.rdv && waitSel (s.chainAt t) == some k)

/-- A thread leaves its rendezvous: it is ready, released with `n` threads. -/
def State.letGo (s : State) (t : TRef) (n : Nat) : State :=
  s.modThread t fun th => { th with st := .ready, readyAt := s.steps, able := true, go := n }

/-- The release of one mask of a wave: all the named threads if all of them wait on it, and each waiting
thread that is not named. Those before chains issue with the others at their address (R97). -/
def State.releaseMask (s : State) (u k : Nat) : State :=
  let w := s.wave u
  let named := (upto 0 w.width).filter fun i => (s.mreg u k).getLsbD i
  let held := (upto 0 w.width).filter fun i => s.waitsOn { u := u, i := i } k
  let all := named.all held.contains
  let chains := held.filter fun i => (w.thread i).st == TState.waiting Wait.rdv
  held.foldl (fun s i =>
    let t : TRef := { u := u, i := i }
    if !named.contains i then s.letGo t 0
    else if !all then s
    else if chains.contains i then
      s.letGo t (chains.filter fun j => named.contains j && (w.thread j).pc == (w.thread i).pc).length
    else s.ready t) s

/-- The release of the exchanges and of the words of whole waves: the participants of one that have all arrived at one
address, and each thread that its selector no longer names (R113, R352). -/
def State.releaseRdv (s : State) (u : Nat) : State :=
  let w := s.wave u
  let here := (w.threads.filter fun e => e.2.st == TState.waiting Wait.rdv && (waitSel (s.chainAt ⟨u, e.1⟩)).isNone).map Prod.fst
  (dedup (here.map fun i => (w.thread i).pc)).foldl (fun s a =>
    let at_ := here.filter fun i => (w.thread i).pc == a
    match at_ with
    | [] => s
    | i :: _ =>
      let p := match (s.chainAt ⟨u, i⟩).last.bind gatherSel with
        | some sel => s.participants u sel
        | none => []
      let all := p.all at_.contains
      at_.foldl (fun s j => if !p.contains j then s.letGo ⟨u, j⟩ 0 else if all then s.letGo ⟨u, j⟩ p.length else s) s) s

/-- The end of a cycle for a wave on a core: its threads' ready times and arrivals, then what its masks and selectors
release. -/
def State.settleWave (s : State) (u : Nat) : State :=
  let w := s.wave u
  if w.saved || w.retired then s
  else
    let s := w.threads.foldl (fun s e => s.settleFences ⟨u, e.1⟩) s
    let s := if s.chain.isSome then s else w.threads.foldl (fun s e => s.settleThread ⟨u, e.1⟩) s
    if (s.wave u).threads.any fun e => match e.2.st with
        | .waiting (.waitm _) | .waiting .rdv => true
        | _ => false
    then ((upto 0 12).foldl (fun s k => s.releaseMask u k) s).releaseRdv u else s

/-- The end of a cycle (R80, R81, R93, R95): every wave, then every core's table. While a chain runs merging is frozen, and
only releases happen (R84). -/
def State.settleCycle (s : State) : State :=
  let s := (fkeys s.waves).foldl State.settleWave s
  if s.chain.isSome then s else (dedup (s.waves.map fun e => e.2.core)).foldl State.settleTable s

/-! ## A bundle's unit or chain -/

/-- The issue of a unit of a bundle. -/
def issueOf (core block : Nat) (threads : List TRef) (va n start stop : Nat) (inChain : Bool) (pos : Nat)
    (rest : List (Nat × Option Instr × Nat)) (gang : List TRef) : Issue :=
  { core := core, block := block, threads := threads, unitPc := va, wordPc := (va + 8 * (n - 1)) % 2 ^ 56,
    nextPc := (va + 8 * n) % 2 ^ 56, chainPc := start, skipPc := stop, inChain := inChain, pos := pos, rest := rest, gang := gang }

/-- The units of a chain after its first, an undecodable one last. -/
def Chained.tail (k : Chained) : List (Nat × Option Instr × Nat) :=
  (k.units.drop 1).map (fun e => (e.1, some e.2.1, e.2.2)) ++ (if k.units.isEmpty then [] else (k.bad.toList.map fun p => (k.stop, none, p)))

/-- A fetch fault is taken before any word of the chain issues (R162): with the address of the word that could not be
fetched, and one of codes 1 to 3 to the fault queue whatever the vector table holds (R425). The resume PC is the chain's
first word, and of a lone unit its first word, also where a prefix stands before the word that could not be fetched
(R57, log entry 67). -/
def State.fetchTrap (s : State) (threads : List TRef) (pc stop : Nat) (inChain : Bool) (pos : Nat) (f : FetchFault) : State :=
  let inch := if inChain then 2 ^ 31 + pos % 8 * 2 ^ 28 else 0
  s.takeTrap threads (threads.map fun t =>
    { t := t, cause := f.cause, info := f.det + inch, addr := f.at_, tpc := pc, skip := stop, recPc := pc, pa := f.pa })
    (f.cause == .memfault && decide (f.det % 16 ≤ 3))

/-- Recorded units whose chunk the coming chain would carry past 4,096 bundles close it first (R62). -/
def State.fullFirst (s : State) (threads : List TRef) (n : Nat) : State :=
  (wavesOf threads).foldl (fun s u =>
    let w := s.wave u
    if s.recording w.ctx && decide (w.recd.len > 0) && decide (w.recd.len + n > 4096) then s.closeChunk u flgFull else s) s

/-- The bundle begins its unit or chain: what step does with it, and the instruction to run, if one is to
run. -/
def State.begin (s : State) (b : List TRef) : State × Option Instr :=
  match b with
  | [] => (s, none)
  | t :: _ =>
    let w := s.wave t.u
    let pc := (s.thread t).pc
    let k := s.chainAt t
    let many := decide (k.units.length > 1) || (!k.units.isEmpty && (k.bad.isSome || k.fault.isSome || k.miss.isSome))
    let is := fun (va n : Nat) => issueOf w.core w.block b va n pc k.stop many 0 k.tail (b.filter fun t => (s.thread t).go != 0)
    match k.fault, k.miss with
    | some (pos, f), _ => (s.fetchTrap b pc k.stop many pos f, none)
    | none, some at_ => (s.startWalks (is pc 1) [(t, at_, false)], none)
    | none, none =>
      match k.units with
      | (va, i, n) :: _ =>
        let s := s.fullFirst b k.units.length
        ({ s with issue := some (is va n), lastCore := w.core }, some i)
      | [] => (s.illegalUnit { is pc ((k.stop - pc) / 8) with pos := k.bad.getD 0 }, none)

/-- The next word of the chain in progress. -/
def State.resumeChain (s : State) (c : Chain) : State × Option Instr :=
  match c.rest with
  | (va, some i, n) :: rest =>
    ({ s with issue := some (issueOf c.core c.block c.threads va n c.start c.stop true c.pos rest c.gang) }, some i)
  | (_, none, p) :: _ => (s.illegalUnit (issueOf c.core c.block c.threads c.stop 1 c.start c.stop true p [] c.gang), none)
  | [] => (s.illegalUnit (issueOf c.core c.block c.threads c.stop 1 c.start c.stop true c.pos [] c.gang), none)

end Sys2Proof.Machine
end

