-- ==== Sys2Proof/Machine/Returns.lean ====
section
/-! DEFINITION. The core's own steps besides issue: data that returns to threads (R152), MWAIT's second read
(R108), wake-ups (R95, R105), page walks and their consequences (R160 to R165), machine checks (R437), the
asynchronous causes (R420), and the retries of trap records (R427). -/

namespace Sys2Proof.Machine

/-! ## Asynchronous causes (R420, R437, R462) -/

/-- An ATRAP record (R471). -/
def State.recAtrap (s : State) (u : Nat) (cause : Nat) : State :=
  let w := s.wave u
  if !s.recording w.ctx then s
  else s.emit w.ctx (clusterOf w.core)
    (BitVec.ofNat 128 (6 + w.recd.unit % 512 * 2 ^ 4 + cause * 2 ^ 13 + w.recd.clock % 2 ^ 40 * 2 ^ 64))

/-- The registers of a deferred MCHK are written with 0 and are no longer pending (R437). -/
def State.zeroAsync (s : State) (t : TRef) (a : Async) : State :=
  match s.accs.find? (fun b => b.id == a.acc) with
  | none => s
  | some b =>
    let s := match a.dest with
      | .vreg r n => s.setVs t r (List.replicate n 0)
      | .sreg r n => s.setSs t.u r (List.replicate n 0)
      | .none => s
    let s := match b.pf with
      | some p => s.setP t p false
      | none => s
    s.delAcc b.id

/-- A thread takes an asynchronous cause at its boundary: TPC is its next word. A deferred MCHK writes its
registers with 0, and its record names the erring PC (R437). -/
def State.deliverAsync (s : State) (t : TRef) (a : Async) : State :=
  let th := s.thread t
  let mchk := a.order == 0
  let s1 := if mchk then s.zeroAsync t a else s
  let s1 := s1.modThread t fun th => { th with async := eraseFirst (· == a) th.async }
  let r : Report := { t := t, cause := a.cause, info := a.info.toNat, addr := if a.order == 1 then a.pc else th.pc, tpc := th.pc, skip := s.skipOf t,
                      recPc := if mchk || a.order == 1 then a.pc else th.pc, pa := a.pa }
  let s2 := s1.takeTrapAs [t] [r] false (if mchk then 2 else 0)
  match (s2.thread t).st with
  | .waiting (.record d) => s.modThread t fun th => { th with st := .waiting (.record d) }
  | _ => s2.recAtrap t.u a.cause.code

/-- The asynchronous cause that is due at a thread, taken. -/
def State.takeAsync (s : State) (t : TRef) : State :=
  if ((s.thread t).stands || (s.thread t).st == .waiting .rdv) && s.chain.isNone && !s.hashHeld t.u then
    match s.asyncDue t (s.chainAt t) with
    | some a => (s.modThread t fun th => { th with st := .ready, go := 0 }).deliverAsync t a
    | none => s
  else s

/-- DEFERRED_MCHK: a thread stands at a point of R437 with a deferred machine check. -/
def execDeferredMchk (s : State) : Host.Outcome State Fault Refusal := .next (s.takeAsync s.arg.t)

/-! ## Data that returns (R152, R180, R437) -/

/-- The number of a destination's first register in DET[15:8] (R422). -/
def Dest.named : Dest → Nat
  | .vreg r _ | .sreg r _ => r
  | .none => 0

/-- The thread of an access has not issued past it: it stands after it, or waits in it (R437). -/
def State.notPast (s : State) (a : Access) : Bool :=
  let th := s.thread a.t
  (match th.st with
   | .waiting (.mwait id) => id == a.id
   | _ => false)
    || ((th.stands || th.st == .waiting .rdv || th.st == .waiting .walk) && th.step == a.step && th.pc == a.next)

/-- An access whose data cannot be used: a precise MCHK where its thread has issued nothing since, else one deferred to the
points of R437, as for a store or RED. A precise one at the end of a chain takes back what the chain has written (R61, log
entry 82). Its destination is not written, and stays pending (R180, R273, R437). -/
def State.failAccess (s : State) (a : Access) (store lost : Bool) : State :=
  let live := a.who.filter fun i => (s.thread { u := a.t.u, i := i }).st != TState.exited
  let det := (if store then 2 else 0) + (if lost then 4 else 0)
  let s1 := if live.isEmpty || (a.dest == .none && a.pf.isNone) then s.delAcc a.id else s.modAcc a.id fun a => { a with st := .failed }
  let s1 := if s.mwaitsIn a then s1.ready a.t else s1
  if live.isEmpty then s1
  else if !store && !a.red && !a.late && s.notPast a then
    let ts := live.map fun i => ({ u := a.t.u, i := i } : TRef)
    let s2 := ts.foldl (fun s t => match fget a.undo t.i with
      | some k => s.unchain t k
      | none => s) s1
    let s2 := s2.takeTrap ts (ts.map fun t => { t := t, cause := .mchk, info := det + a.inch, addr := a.start, tpc := a.start, skip := a.next,
                                                recPc := a.start, pa := a.pa }) false
    match (s2.thread a.t).st with
    | .waiting (.record _) => s
    | _ => s2
  else
    live.foldl (fun s i => s.modThread { u := a.t.u, i := i } fun th => { th with async := th.async ++
      [{ cause := .mchk, info := BitVec.ofNat 32 (1 + det + 256 * a.dest.named), dest := a.dest, acc := a.id, pc := a.pc, pa := a.pa }] }) s1

/-- Another device has performed a load or an atomic of this one: what it found is a free value (log entry 9). -/
def State.remoteValue (s : State) (a : Access) : State :=
  let r := a.apply (pick (Config.remoteData s.steps (sectorOf a.pa)) (a.pa % 64) a.n)
  (s.hashAccess a r.1).settle a r.2.1 r.2.2

/-- LOAD_DATA_RETURN: a performed access's value reaches its thread, or its error does. -/
def execLoadDataReturn (s : State) : Host.Outcome State Fault Refusal :=
  .next (match s.accs.find? (fun a => a.id == s.arg.n) with
    | none => s
    | some a =>
      match a.st with
      | .done _ _ => s.returnValue a
      | .poisoned store lost => s.failAccess a store lost
      | .remote => if a.isRead then s.remoteValue a else s
      | _ => s)

/-! ## Waits that end (R95, R105, R108, R427) -/

/-- An MWAIT whose second read has no translation issues again, to take its fault (R108, log entry 69); one that was continued
past a page fault returns what it read first. -/
def State.restartMwait (s : State) (a : Access) : State :=
  if s.mwaitsIn a then (s.delAcc a.id).modThread a.t fun th => { th with st := .ready, readyAt := s.steps, pc := th.at_ }
  else s.modAcc a.id fun a => { a with kind := .mwait false, st := .done a.data false }

/-- An MWAIT that watched reads again, in the order of its sector, through the translation as it is now (R108, R256). The read enters its
unit's signature as a load does (R462), and waits for a bundle that it conflicts with (R466). -/
def State.rereadMwait (s : State) (a : Access) : State :=
  match a.scr with
  | some k =>
    let x := recXScr (s.block k).core a.pa
    let b := { a with kind := .mwait false, st := .atL2 }
    if s.lateConflict a.t.u x false then s
    else ((s.recAccess a.t.u x true false .cluster).modAcc a.id fun _ => b).bankPerform b k
  | none =>
    let r := s.translateNow a.core (s.ctxOf a.t) a.va .read (s.wave a.t.u).high false
    (match r.1 with
     | .ok pa cls =>
       let b := { a with kind := .mwait false, st := .atL2, pa := pa, cls := cls }
       if r.2.lateConflict a.t.u (recXMem pa) false then s else
       let s := (r.2.recAccess a.t.u (recXMem pa) true false .core).modAcc a.id fun _ => b
       (match (s.target pa).1 with
        | .aperture _ => s.modAcc a.id fun a => { a with st := .remote }
        | _ => if s.lostHome pa then s.modAcc a.id fun a => { a with st := .poisoned false true }
               else s.drain (dieOf a.core) (sectorOf pa))
     | .miss => s.askPage a.core (s.ctxOf a.t) a.va false (s.wave a.t.u).high
     | .fault _ => s.restartMwait a)

/-- MWAIT_MONITOR_FIRE: the MWAIT `n`, whose monitor has fired, reads again. -/
def execMwaitMonitorFire (s : State) : Host.Outcome State Fault Refusal :=
  .next (match s.accs.find? (fun a => a.id == s.arg.n) with
    | some a => (match a.st with
      | .watching mon _ => if mon && s.monitorFired a then s.rereadMwait a else s
      | _ => s)
    | none => s)

/-- MWAIT_TIMEOUT: the ticks of the MWAIT `n` have passed. -/
def execMwaitTimeout (s : State) : Host.Outcome State Fault Refusal :=
  .next (match s.accs.find? (fun a => a.id == s.arg.n) with
    | some a => (match a.st with
      | .watching _ d => if d ≤ s.ptb then s.rereadMwait a else s
      | _ => s)
    | none => s)

/-- SLEEP_WAKE: a sleeping thread's deadline has come. -/
def execSleepWake (s : State) : Host.Outcome State Fault Refusal :=
  .next (match (s.thread s.arg.t).st with
    | .waiting (.sleep d) => if d ≤ s.ptb then s.ready s.arg.t else s
    | _ => s)

/-- TRAP_RECORD_RETRY: a thread that found no place for its record tries again (R427). -/
def execTrapRecordRetry (s : State) : Host.Outcome State Fault Refusal :=
  .next (match (s.thread s.arg.t).st with
    | .waiting (.record d) => if d ≤ s.ptb then s.modThread s.arg.t fun th => { th with st := .ready } else s
    | _ => s)

/-- WAITM_RELEASE: the check of a wave's masks that the end of every cycle makes (R95). -/
def execWaitmRelease (s : State) : Host.Outcome State Fault Refusal :=
  .next ((upto 0 12).foldl (fun s k => s.releaseMask s.arg.n k) s)

/-- STARVATION_PROMOTION (R85). -/
def execStarvationPromotion (s : State) : Host.Outcome State Fault Refusal :=
  .next (if s.canIssue s.arg.t then s.promote s.arg.t else s)

/-! ## Page walks (R156, R160 to R165) -/

/-- A walk is over. -/
def State.dropWalk (s : State) (id : Nat) : State := { s with walks := s.walks.filter fun w => w.id != id }

/-- The leaf fills the core's TLBs, and the threads that waited try again; a write that the page does not permit sets no D
(R160). -/
def State.walkFill (s : State) (w : Walk) (at_ p log : Nat) : State :=
  let q := leafUpdate p w.core (w.write && s.leafWrites w.core w.va p log w.high)
  let s := if q == p then s else s.putPte at_ q
  let s := s.tlbFill w.core { ctx := w.ctx, va := pageBase w.va log, log := log, pte := BitVec.ofNat 64 q, at_ := at_ }
  (s.dropWalk w.id).wakeWalks w.who

/-- The walk ends in a fault: the waiting threads hold its code for their next word. -/
def State.walkFault (s : State) (w : Walk) (code : Nat) : State :=
  let s := w.who.foldl (fun s t => if (s.thread t).st == .waiting .walk then
    s.modThread t fun th => { th with wfault := fput th.wfault (w.va / 65536) code } else s) s
  (s.dropWalk w.id).wakeWalks w.who

/-- A walk is among the 64 that its die makes at once: the first of its list (R161). -/
def State.walkActive (s : State) (w : Walk) : Bool :=
  ((s.walks.filter fun v => dieOf v.core == dieOf w.core).take 64).any fun v => v.id == w.id

/-- PAGE_WALK_COMPLETE. -/
def execPageWalkComplete (s : State) : Host.Outcome State Fault Refusal :=
  .next (match s.walks.find? (fun w => w.id == s.arg.n) with
    | none => s
    | some w =>
      if w.ptos || s.inPtoS w.ctx w.va || !s.walkActive w then s
      else
        let s := s.count 2 (dieOf w.core) 2 1
        match s.walk w.ctx w.va with
        | .fault code => s.walkFault w code
        | .leaf at_ p log => if leafForeign p w.core then s.walkForeign w at_ p log else s.walkFill w at_ p log)

/-- P_TO_S_TRANSITION: the owner's L1 has dropped the page, no TLB holds it, and the walk goes on (R164). -/
def execPToSTransition (s : State) : Host.Outcome State Fault Refusal :=
  .next (match s.walks.find? (fun w => w.id == s.arg.n && w.ptos) with
    | none => s
    | some w =>
      let on := { s with walks := s.walks.map fun x => if x.id == w.id then { x with ptos := false } else x }
      match s.ptos.find? (fun p => p.ctx == w.ctx && p.va ≤ w.va && w.va < p.va + 2 ^ p.log) with
      | none => on
      | some p => { on.finishPtoS p with ptos := eraseFirst (· == p) s.ptos })

/-! ## Collapses (R165) -/

/-- Pins of a request numbered below `before` hold a frame of a slot: it reads through a replica translation. -/
def State.pinsReplica (s : State) (j before id : Nat) (pins : FMap Nat) : Bool :=
  decide (id < before) && pins.any fun e => (upto 0 4).any fun n => e.2 == s.slotFrame n j

/-- A read through a replica translation of the page is under way: step 4 waits for it (R165, R257). -/
def State.replicaReads (s : State) (k : Collapse) : Bool :=
  let j := k.slot
  let held := s.pinsReplica j k.before
  (s.accs.any fun a => a.id < k.before && a.cls == 2 && a.scr.isNone && a.isRead && !a.isWrite && !a.watches && !a.performedAt 6
      && (upto 0 4).any fun n => a.pa / 65536 * 65536 == s.slotFrame n j)
    || (s.copies.any fun c => held c.id c.srcPins) || (s.sprReqs.any fun r => !r.left.isEmpty && held r.id r.pins)
    || (s.mcmds.any fun m => held m.id m.pins || held m.id m.pins2) || (s.colls.any fun c => !c.done && held c.id c.srcPins)
    || s.secReqs.any fun q => held q.num q.ppins

/-- A waiting write goes on at its place in region 0's frame, and the entry that gives that frame is dirty (R160, R165); its page is
kept first (R480). A
store never meets a machine check there (R180). -/
def State.releaseWrite (s : State) (a : Access) : State :=
  let pa := if a.cls == 2 then s.slotFrame 0 0 + (a.pa - s.slotFrame (dieOf a.core) 0) else a.pa
  let s := match s.walk (s.ctxOf a.t) a.va with
    | .leaf at_ p log =>
      let q := leafUpdate p a.core true
      if s.leafPa a.core a.va p log == pa && q != p then s.putPte at_ q else s
    | .fault _ => s
  let s := (s.undoPage (s.ctxOf a.t) pa).modAcc a.id fun a => { a with pa := pa, cls := 1, st := .atL2 }
  s.drain (dieOf a.core) (sectorOf pa)

/-- A write waits for the collapse of the page at `pte`. -/
def State.joined (s : State) (a : Access) (pte : Nat) : Bool :=
  a.st == .collapse && (match s.walk (s.ctxOf a.t) a.va with
    | .leaf at_ _ _ => at_ == pte
    | .fault _ => true)

/-- COLLAPSE: the reads of a running collapse have ended, and it makes step 5, the invalidation at the homes, and once they
have made it step 6: the waiting writes are performed in their order of arrival, and the next collapse starts. -/
def execCollapse (s : State) : Host.Outcome State Fault Refusal :=
  .next (match s.collapses.find? (fun k => k.ctx == s.arg.n && k.va == pageBase s.arg.k 16 && k.running) with
    | none => s
    | some k =>
      let xs := s.replicaSectors k.slot
      if s.replicaReads k then s
      else if !k.inv && !xs.isEmpty then
        xs.foldl (fun s x => s.sendHomeOp x (64 * x) .invalidate)
          { s with collapses := s.collapses.map fun x => if x == k then { x with inv := true } else x }
      else if s.homeOps.any fun r => r.op == .invalidate && s.onReplica k.slot r.x then s
      else
        let late := s.accs.filter fun a => s.joined a k.pte
        let s := { s.dropReplica k.slot with collapses := eraseFirst (· == k) s.collapses }
        (late.foldl State.releaseWrite s).startCollapses)

/-- COLLAPSE_RETRY: a write that found the collapse queue full asks again (R165). -/
def execCollapseRetry (s : State) : Host.Outcome State Fault Refusal :=
  .next (match s.accs.find? (fun a => a.id == s.arg.n && a.st == .collapse) with
    | some a => if (s.collapseOf (s.ctxOf a.t) a.va).isSome then s else match s.walk (s.ctxOf a.t) a.va with
      | .leaf _ p _ => if pteCls p == 2 then s.askCollapse (s.ctxOf a.t) a.va else s.releaseWrite a
      | .fault _ => s.releaseWrite a
    | none => s)

end Sys2Proof.Machine
end

