-- ==== Sys2Proof/Machine/Locks.lean ====
section
/-! DEFINITION. Line locks (R276 to R295): the lock units of the home slices, the five lock instructions, and
the deadlock scanner. -/

namespace Sys2Proof.Machine

/-! ## Lock records (R277, R278) -/

/-- The lock record of a sector; an empty one where it has none. -/
def State.lockOf (s : State) (x : Nat) : LockRec := fgetD s.locks x { holder := none, queue := [], grace := none, aband := false }

/-- The state with a sector's lock record; one without holder and waiter is freed. -/
def State.setLock (s : State) (x : Nat) (r : LockRec) : State :=
  { s with locks := if r.holder.isNone && r.queue.isEmpty then fdel s.locks x else fput s.locks x r }

/-- A waiter is absent while its wave is saved (R282). -/
def State.absent (s : State) (u : Nat) : Bool := (s.wave u).saved

/-- The records of a home slice's lock unit, and its waiters. -/
def State.lockCount (s : State) (h : Nat) : Nat := (s.locks.filter fun e => s.homeOf (64 * e.1) == h).length
def State.waiterCount (s : State) (h : Nat) : Nat :=
  (s.locks.filter fun e => s.homeOf (64 * e.1) == h).foldl (fun n e => n + e.2.queue.length) 0

/-- A reply to a wave. -/
def State.lockAnswer (s : State) (u x req status : Nat) (again : Option (Nat × Nat × Option Nat)) : State :=
  { s with next := s.next + 1,
           lockReplies := s.lockReplies ++ [{ n := s.next, u := u, x := x, status := status, req := req, again := again }] }

/-- A grant (R279): the wave is the holder, the abandoned mark is cleared, and the home-side operation that
brings the sector to the wave's die ends in its reply. -/
def State.lockGrant (s : State) (x u req : Nat) (passed aband : Bool) (queue : List LockWaiter) : State :=
  let status := if aband || s.lockMarks.contains x then 2 else if passed then 5 else 0
  let s := { s with lockMarks := s.lockMarks.filter (· != x) }
  let s := s.setLock x { holder := some u, queue := queue, grace := none, aband := false }
  s.sendHomeOp x (64 * x) (.grant (dieOf (s.wave u).core) u status req)

/-- The deadline tick is past: a grant would come too late (R281). -/
def LockWaiter.late (w : LockWaiter) (now : Nat) : Bool := match w.deadline with
  | some d => decide (d < now)
  | none => false

/-- The sector has no holder, and a queue: the first waiter whose deadline is not past is granted if it is present, or its
grace starts if it is absent, and those before it are answered TIMEOUT (R281); with no waiter the record is freed, and a
pending abandoned status becomes the sector's mark (R278). -/
def State.lockHead (s : State) (x : Nat) (aband : Bool) : List LockWaiter → State
  | [] =>
    let s := s.setLock x { holder := none, queue := [], grace := none, aband := false }
    if aband && !s.lockMarks.contains x then { s with lockMarks := s.lockMarks ++ [x] } else s
  | w :: rest =>
    if w.late s.ptb then (s.lockAnswer w.u x w.req 1 none).lockHead x aband rest
    else if s.absent w.u then s.setLock x { holder := none, queue := w :: rest, grace := some s.ptb, aband := aband }
    else s.lockGrant x w.u w.req w.passed aband rest

/-- The sector's lock has lost its holder. -/
def State.lockNext (s : State) (x : Nat) (aband : Bool) : State := s.lockHead x aband (s.lockOf x).queue

/-- A waiter's place by its stamp among the waiters that have not been passed. -/
def insertWaiter (w : LockWaiter) : List LockWaiter → List LockWaiter
  | [] => [w]
  | y :: ys =>
    if !y.passed && (decide (w.tick < y.tick) || (w.tick == y.tick && decide (w.order < y.order)))
    then w :: y :: ys else y :: insertWaiter w ys

/-- The arrival stamp of a request at a lock unit (R277). -/
def State.stamp (s : State) (h : Nat) : (Nat × Nat) × State :=
  let l := fgetD s.lockStamps h (0, 0)
  let o := if l.1 == s.ptb then l.2 else 0
  ((s.ptb, o), { s with lockStamps := fput s.lockStamps h (s.ptb, o + 1) })

/-- A sector without holder and waiter. -/
def LockRec.free (r : LockRec) : Bool := r.holder.isNone && r.queue.isEmpty

/-- An acquire reaches the lock unit (R278, R281). -/
def State.lockAcquire (s : State) (u x req : Nat) (deadline : Option Nat) (stamp : Option (Nat × Nat)) : State :=
  let h := s.homeOf (64 * x)
  let p := match stamp with
    | some t => (t, s)
    | none => s.stamp h
  let s := p.2
  let r := s.lockOf x
  let w : LockWaiter := { u := u, req := req, tick := p.1.1, order := p.1.2, deadline := deadline, passed := false }
  let again := some (p.1.1, p.1.2, deadline)
  if r.free then
    if stamp.isSome && w.late s.ptb then s.lockAnswer u x req 1 none
    else if s.lockCount h ≥ 4096 then s.lockAnswer u x req 4 again else s.lockGrant x u req false false []
  else if (match deadline with
    | some d => decide (d ≤ s.ptb)
    | none => false) then s.lockAnswer u x req 1 none
  else if s.waiterCount h ≥ 4096 then s.lockAnswer u x req 4 again
  else match r.grace, r.queue with
    | some g, [hd] =>
      if r.holder.isNone && g + 50000 ≤ s.ptb && s.absent hd.u then
        (s.setLock x { r with queue := [w, { hd with passed := true }] }).lockNext x r.aband
      else s.setLock x { r with queue := insertWaiter w r.queue }
    | _, _ => s.setLock x { r with queue := insertWaiter w r.queue }

/-- A try reaches the lock unit. -/
def State.lockTry (s : State) (u x req : Nat) : State :=
  let r := s.lockOf x
  if !r.free then s.lockAnswer u x req 1 none
  else if s.lockCount (s.homeOf (64 * x)) ≥ 4096 then s.lockAnswer u x req 4 none
  else s.lockGrant x u req false false []

/-- The holder's release or abandon reaches the lock unit. -/
def State.lockRelease (s : State) (u x : Nat) (aband : Bool) : State :=
  let r := s.lockOf x
  if r.holder == some u then (s.setLock x { r with holder := none }).lockNext x aband else s

/-- A waiter leaves its queue; where it was the reserved head, the next one is treated as after a release
(R278). -/
def State.lockRemove (s : State) (u x : Nat) : State :=
  let r := s.lockOf x
  match r.queue with
  | [] => s
  | hd :: _ =>
    let q := r.queue.filter fun w => w.u != u
    let s := { s with locks := fput s.locks x { r with queue := q } }
    if r.holder.isNone && hd.u == u then s.lockNext x r.aband else s.setLock x { r with queue := q }

/-! ## The units' events -/

/-- A message may leave its core: the accesses of its wave before it are performed, but for
an MWAIT that another thread still waits in; none of them stands in the operand
log, and no earlier message of its wave is still there (R283, R292), but for those that a replay keeps back (R295). -/
def State.lockMsgReady (s : State) (m : LockMsg) : Bool :=
  s.accs.all (fun a => a.t.u != m.u || decide (m.after ≤ a.prog) || a.letGo m.scope m.past || (a.watches && s.mwaitsIn a))
    && (s.wave m.u).log.all (fun e => (memOp e.2.unit).isNone || decide (m.after ≤ e.2.num))
    && !s.heldBack m
    && (match s.lockMsgs.find? (fun k => k.u == m.u && !s.heldBack k) with
        | some k => k.n == m.n
        | none => false)

/-- A message of the kind that an event names reaches its lock unit. -/
def lockEvent (pick : LockKind → Bool) (f : State → LockMsg → State) (s : State) : State :=
  match s.lockMsgs.find? (fun m => m.n == s.arg.n) with
  | none => s
  | some m =>
    if pick m.kind && s.lockMsgReady m then f { s with lockMsgs := s.lockMsgs.filter fun k => k.n != m.n } m else s

/-- LOCK_ACQUIRE_ARRIVAL. -/
def execLockAcquireArrival (s : State) : Host.Outcome State Fault Refusal :=
  .next (lockEvent (fun k => match k with
      | .acquire _ _ => true
      | _ => false)
    (fun s m => match m.kind with
      | .acquire d t => s.lockAcquire m.u m.x m.req d t
      | _ => s) s)

/-- LOCK_TRY_ARRIVAL. -/
def execLockTryArrival (s : State) : Host.Outcome State Fault Refusal :=
  .next (lockEvent (fun k => k == .try_) (fun s m => s.lockTry m.u m.x m.req) s)

/-- LOCK_RELEASE_ARRIVAL. -/
def execLockReleaseArrival (s : State) : Host.Outcome State Fault Refusal :=
  .next (lockEvent (fun k => k == .release) (fun s m => s.lockRelease m.u m.x false) s)

/-- LOCK_ABANDON_ARRIVAL. -/
def execLockAbandonArrival (s : State) : Host.Outcome State Fault Refusal :=
  .next (lockEvent (fun k => k == .abandon) (fun s m => s.lockRelease m.u m.x true) s)

/-- LOCK_HEAD_RETURN: the reserved head is on a core again (R282). -/
def execLockHeadReturn (s : State) : Host.Outcome State Fault Refusal :=
  .next (
    let x := s.arg.n
    let r := s.lockOf x
    match r.queue with
    | w :: _ => if r.holder.isNone && !s.absent w.u then s.lockNext x r.aband else s
    | [] => s)

/-- LOCK_GRACE_EXPIRY: 50,000 ticks of grace have passed, the head is still absent, and another waiter is queued (R278, R282). -/
def execLockGraceExpiry (s : State) : Host.Outcome State Fault Refusal :=
  .next (
    let x := s.arg.n
    let r := s.lockOf x
    match r.grace, r.queue with
    | some g, hd :: y :: rest =>
      if r.holder.isNone && g + 50000 ≤ s.ptb && s.absent hd.u then
        (s.setLock x { r with queue := (y :: rest) ++ [{ hd with passed := true }] }).lockNext x r.aband
      else s
    | _, _ => s)

/-- A thread of `lockers` awaits the reply: it waits at the instruction, or has gone past it (R290, R291). -/
def State.asksStill (s : State) (u : Nat) (e : Locker) : Bool := e.late || s.waitsAt { u := u, i := e.i } e

/-- The status other than a grant that the log has for a lock instruction of a wave at the bundle that its unit is at: its
sector, its request and the status (R295). -/
def State.loggedFail (s : State) (u : Nat) : Option (Nat × Nat × Nat) :=
  ((s.wave u).lockers.filter (s.asksStill u)).findSome? fun e =>
    match (s.logVal u 127 e.op).map BitVec.toNat with
    | some st =>
      if (st == 1 || st == 3 || st == 4) && !s.lockReplies.any (fun r => r.req == e.req) then some (e.x, e.req, st) else none
    | none => none

/-- LOCK_DEADLINE_EXPIRY: a LOCKT waiter of a wave is removed with TIMEOUT (R281); in a replay a lock instruction of it ends
with the TIMEOUT, DEADLOCK or FULL that the log has there, whatever the time (R295). -/
def execLockDeadlineExpiry (s : State) : Host.Outcome State Fault Refusal :=
  .next (
    let u := s.arg.n
    let late := fun (d : Option Nat) => match d with
      | some t => decide (t ≤ s.ptb)
      | none => false
    match s.lockRetries.find? (fun r => r.u == u && late r.deadline) with
    | some r => { s with lockRetries := eraseFirst (· == r) s.lockRetries }.lockAnswer u r.x r.req 1 none
    | none =>
      match s.locks.findSome? (fun e => (e.2.queue.find? fun w => w.u == u && late w.deadline).map fun w => (e.1, w.req)) with
      | some (x, req) => (s.lockRemove u x).lockAnswer u x req 1 none
      | none => match s.loggedFail u with
        | some (x, req, st) =>
          ({ s with lockMsgs := s.lockMsgs.filter fun m => m.req != req || m.u != u }.lockRemove u x).lockAnswer u x req st none
        | none => s)

/-- LOCK_FULL_RETRY: the acquire of a wave is sent again with its original stamp (R280); one whose deadline has passed ends with
TIMEOUT at its core (R281). -/
def execLockFullRetry (s : State) : Host.Outcome State Fault Refusal :=
  .next (match s.lockRetries.find? (fun r => r.u == s.arg.n && r.next ≤ s.ptb) with
    | some r =>
      let s := { s with lockRetries := eraseFirst (· == r) s.lockRetries }
      if r.deadline.any fun d => decide (d ≤ s.ptb) then s.lockAnswer r.u r.x r.req 1 none
      else s.sendLock r.u r.x (.acquire r.deadline (some r.stamp)) r.req 0 0
    | none => s)

/-! ## The lock instructions (R289 to R294) -/

/-- The address pair of a lock instruction. -/
def State.lockEa (s : State) (u : Nat) (f : FmtX) : Nat := (s.sreg64 u f.u0.toNat).toNat

/-- The fields of a lock instruction, with its opcode. -/
def lockFields (i : Instr) : Option (Hdr × FmtX × Nat) :=
  match i with
  | .lock h f => some (h, f, 0x1E0)
  | .lockt h f => some (h, f, 0x1E1)
  | .trylk h f => some (h, f, 0x1E2)
  | .unlock h f => some (h, f, 0x1E3)
  | .lkqry h f => some (h, f, 0x1E4)
  | _ => none

/-- Scope of a lock instruction: device unless PFX gives one (R225). -/
def lockScope (h : Hdr) : Nat := match h.pfx with
  | some p => if p.ovo then p.scope.toNat else 4
  | none => 4

/-- The entry that translates an address, of a TLB or else of the tables, with log2 of its page's size. -/
def State.pageOf (s : State) (now : Bool) (core c va : Nat) : Option (Nat × Nat) :=
  match if now then none else s.tlbFind core c va with
  | some e => some (e.pte.toNat, e.log)
  | none => match s.walk c va with
    | .leaf _ p log => some (p, log)
    | .fault _ => none

/-- The physical address that the window or an entry gives, whatever the permissions (R290). -/
def State.physOf (s : State) (now : Bool) (core c va : Nat) : Option Nat :=
  if (s.ctx c).inWindow va then some ((s.ctx c).windowPa va)
  else (s.pageOf now core c va).map fun p => s.leafPa core va p.1 p.2

/-- The code that a write to the address would meet; a lock instruction needs W but writes nothing (R290). -/
def State.permits (s : State) (now : Bool) (core c va : Nat) (high : Bool) : Option Nat :=
  match if (s.ctx c).inWindow va then some (s.windowTrans c va .write high)
      else (s.pageOf now core c va).map fun p => s.leafTrans core va p.1 p.2 .write high with
  | some (.fault k) => some k
  | _ => none

/-- What the checks make of a wave's lock instruction: the sector, or what stops it (R290). -/
def State.lockPlace (s : State) (op : Nat) (now : Bool) (t : TRef) (ea : Nat) : LaneRes × State :=
  if ea ≥ 2 ^ 56 then (.bad (memHit t 5 ea (op != 0x1E4)), s)
  else if ea % 64 ≠ 0 then (.bad { hit t (rankOwn 1) .align 0 with addr := some ea }, s)
  else
    let w := op != 0x1E4
    let v := s.wave t.u
    let r := s.laneTrans now t ea .read
    let place := r.2.physOf now v.core v.ctx ea
    let noLock : Bool := match place with
      | some pa => (r.2.target pa).1 != .hbm
      | none => false
    let noWrite := w && r.2.permits now v.core v.ctx ea v.high == some 2
    let soft := fun (k : Nat) => if noLock then LaneRes.bad (hit t (rankOwn 7) .lockfault 4) else .soft k
    match r.1 with
    | .ok pa cls =>
      (if noLock then .bad (hit t (rankOwn 7) .lockfault 4)
       else if noWrite then .soft 2
       else if r.2.lostHome pa && !(op == 0x1E3 && v.dropped.contains (sectorOf pa)) then .bad { hit t rankMchk .mchk 4 with pa := pa }
       else .glob pa cls, r.2)
    | .miss => (.miss false, r.2)
    | .fault k => (if k == 3 && noWrite then soft 2 else if k == 1 || k == 2 || k == 3 then soft k else .bad (memHit t k ea w), r.2)

/-- LOCKFAULT codes 1 to 3 against the wave's held list and wait entry. -/
def State.lockFault (s : State) (op u x : Nat) : Option Nat :=
  let w := s.wave u
  if op == 0x1E3 then (if w.held.contains x || w.dropped.contains x then none else some 1)
  else if op == 0x1E4 then none
  else if !w.held.contains x && w.held.length ≥ 8 then some 2
  else if op != 0x1E2 && (match w.lockWait with
    | some y => y.1 != x
    | none => false) then some 3
  else none

/-- A wave's acquire of a sector has been answered FULL and has not ended (R280). -/
def State.retrying (s : State) (u x : Nat) : Bool :=
  s.lockRetries.any (fun k => k.u == u && k.x == x) || s.lockReplies.any (fun k => k.u == u && k.x == x && k.again.isSome)
    || s.lockMsgs.any fun k => k.u == u && k.x == x && (match k.kind with
      | .acquire _ (some _) => true
      | _ => false)

/-- The value of LKQRY (R293). -/
def State.lockQuery (s : State) (u x : Nat) : Nat :=
  let r := s.lockOf x
  let wst := if (s.wave u).held.contains x then 1
    else if s.retrying u x then 3
    else match r.queue.find? (fun w => w.u == u) with
      | some w => if w.passed then 4 else 2
      | none => 0
  let b := fun (c : Bool) (n : Nat) => if c then n else 0
  wst * 2 ^ 28 + min 4095 r.queue.length * 2 ^ 16 + b (s.waiterCount (s.homeOf (64 * x)) ≥ 4096) 8
    + b (r.holder.isNone && !r.queue.isEmpty) 4 + b (s.lockMarks.contains x) 2 + b r.holder.isSome 1

/-- A lock instruction of a wave ends with a status (R291, R294, R295): sr.lkstat, the held list, PS in its
threads `who`, and an acquire where the lock is taken. In a replay the status is the log's: that of a reply is its next one, that of a
wave that holds the sector already stands at the word (R295, R486). -/
def State.lockEnd (s : State) (u x op scope status : Nat) (reply : Bool) (pc : Nat) (who : List (Nat × Nat)) : State :=
  let r := if reply || (s.logVal u 127 op).isSome then s.lateVal u 127 op status else (status, s)
  let status := r.1
  let held := status == 0 || status == 2 || status == 5
  let s := r.2.modWave u fun w => { w with
    lkstat := BitVec.ofNat 32 status, held := if held && !w.held.contains x then w.held ++ [x] else w.held
    }.dropLockers fun e => e.pc == pc && e.op == op && who.any fun t => t.1 == e.i
  let s := who.foldl (fun s e =>
    let t : TRef := { u := u, i := e.1 }
    if (s.thread t).st == TState.exited || e.2 == 7 then s else s.setP t e.2 held) s
  let s := if held then s.acquire (s.wave u).core scope else s
  s.recVal u 127 op 0 (BitVec.ofNat 64 status)

/-- A wave's threads wait for the lock unit's reply to a request, unless they have gone past the instruction (R290, R291). -/
def State.lockHold (s : State) (u x op scope ps req pc : Nat) (late : Bool) (mine : List Nat) : State :=
  mine.foldl (fun s i =>
    let e : Locker := { i := i, pc := pc, ps := ps, x := x, op := op, scope := scope, req := req, n := s.steps, late := late }
    let s := s.modWave u fun w => { w with lockers := w.lockers.filter (fun k => k.i != i || k.pc != pc || k.late) ++ [e] }
    if late then s else s.modThread { u := u, i := i } fun th => if th.st == .ready then { th with st := .waiting .lock } else th) s

/-- The request that threads of a wave made at this lock instruction before they left their wait (R282). -/
def Wave.lockOwn (w : Wave) (x op pc : Nat) (mine : List Nat) : Option Nat :=
  (w.lockers.find? fun e => mine.contains e.i && e.pc == pc && e.x == x && e.op == op && !e.late).map Locker.req

/-- The request that a wave's lock instruction on a sector joins: its threads' own, or the wave's wait (R282, R291). -/
def Wave.lockJoins (w : Wave) (x op pc : Nat) (mine : List Nat) : Option Nat :=
  match w.lockOwn x op pc mine with
  | some r => some r
  | none => (w.lockWait.filter fun y => y.1 == x).map Prod.snd

/-- The effect of a lock instruction in a wave, on the sector that its translation gives; `late` says that it is reissued, its threads
past it (R290). UNLOCK sets sr.lkstat where it issues (log entry 102). -/
def State.lockWave (s : State) (h : Hdr) (f : FmtX) (op u x timeout pc : Nat) (late : Bool) (mine : List Nat) : State :=
  let s := if op == 0x1E4 then s else s.markSync u (objKey 5 x 0)
  let w := s.wave u
  let sc := lockScope h
  let ps := (f.xmod.extractLsb' 0 3).toNat
  if op == 0x1E4 then
    let v := s.lockQuery u x
    (s.setS u f.u1.toNat (BitVec.ofNat 32 v)).recVal u 127 op 0 (BitVec.ofNat 64 v)
  else if op == 0x1E3 then
    let s := s.setWave u ({ w with held := w.held.filter (· != x), dropped := w.dropped.filter (· != x), lkstat := 0 }.dropLockers fun e => e.x == x && (fget w.lockPost e.req).isSome)
    (if s.lostHome (64 * x) then s else s.sendLock u x .release 0 s.next sc).recVal u 127 op 0 0
  else
    match (w.lockOwn x op pc mine).bind (fget w.lockPost) with
    | some st => s.lockEnd u x op sc st true pc (mine.map fun i => (i, ps))
    | none =>
      if w.held.contains x then s.lockEnd u x op sc 0 false pc (mine.map fun i => (i, ps))
      else
        let joins := w.lockJoins x op pc mine
        let req := joins.getD s.next
        let s := s.lockHold u x op sc ps req pc late mine
        if joins.isSome then s
        else if op == 0x1E2 then s.sendLock u x .try_ req 0 0
        else
          let s := s.modWave u fun w => { w with lockWait := some (x, req) }
          let timed := op == 0x1E1 && (!s.replaying w.ctx || s.strayed u)
          s.sendLock u x (.acquire (if timed then some (s.ptb + timeout) else none) none) req 0 0

/-- The lanes of a lock instruction, with the timeout that LOCKT reads. -/
def State.lockLanes (s : State) (f : FmtX) (l : List TRef) : List (TRef × LogLane) :=
  l.map fun t => (t, { i := t.i, ea := s.lockEa t.u f, index := 0, data := (s.sreg t.u f.u1.toNat).setWidth 128, data2 := 0 })

/-- A log entry of a unit that acts once a wave. -/
def waveEntry (i : Instr) (pc next code ea : Nat) (write : Bool) (lanes : List LogLane) (regs : FMap Word) : LogEntry :=
  { st := .wait, unit := i, pc := pc, next := next, lanes := lanes, code := code,
    det := BitVec.ofNat 32 (code + if write then 256 else 0), va := ea, lane := (lanes.head?.map LogLane.i).getD 0, low := ea, cause := .memfault, order := 0, num := 0, regs := regs, rows := [] }

/-- A lock instruction with its lanes: once for each wave, in ascending wave slot (R290). -/
def State.lockPerform (s : State) (i : Instr) (now : Bool) (pc next : Nat) (lanes : List (TRef × LogLane)) : Res :=
  match lockFields i with
  | none => .ok s
  | some (h, f, op) =>
    let us := sortBy (fun u => (s.wave u).slot) (dedup (lanes.map fun x => x.1.u))
    let firsts := us.filterMap fun u => lanes.find? fun x => x.1.u == u
    let r := firsts.foldl (fun (a : List (TRef × LogLane × LaneRes) × State) x =>
      let q := a.2.lockPlace op now x.1 x.2.ea
      (a.1 ++ [(x.1, x.2, q.1)], q.2)) ([], s)
    let s := r.2
    let spread := fun (h : Hit) => (lanes.filter fun x => x.1.u == h.t.u).map fun x => { h with t := x.1 }
    let hits := r.1.flatMap fun x => match x.2.2 with
      | .bad h => spread h
      | _ => []
    let early := hits.filter fun h => decide (h.rank ≤ rankOwn 2)
    let miss := r.1.filterMap fun x => match x.2.2 with
      | .miss _ => some (x.1, x.2.1.ea, false)
      | _ => none
    let soft := (sortBy id (r.1.filterMap fun x => match x.2.2 with
      | .soft c => some c
      | _ => none)).head?
    let faults := r.1.flatMap fun x => match x.2.2 with
      | .glob pa _ => (match s.lockFault op x.1.u (sectorOf pa) with
        | some k => spread (hit x.1 (rankOwn 8) .lockfault k)
        | none => [])
      | _ => []
    if !early.isEmpty then .trap (firstHits early) []
    else if !miss.isEmpty then .walk miss
    else if !hits.isEmpty then .trap (firstHits hits) []
    else match soft with
      | some c => .log (us.map fun u =>
          let mine := (lanes.filter fun x => x.1.u == u).map Prod.snd
          (u, waveEntry i pc next c ((mine.head?.map LogLane.ea).getD 0) (op != 0x1E4) mine []))
      | none =>
        if !faults.isEmpty then .trap (firstHits faults) []
        else .ok (r.1.foldl (fun s x => match x.2.2 with
          | .glob pa _ =>
            s.lockWave h f op x.1.u (sectorOf pa) x.2.1.data.toNat pc now ((lanes.filter fun y => y.1.u == x.1.u).map fun y => y.1.i)
          | _ => s) s)

/-- A lock instruction. All but LKQRY end their waves' chunks (R295). -/
def lockWord (i : Instr) : State → List TRef → Res := fun s l =>
  match lockFields i, s.issue with
  | some (_, f, _), some b =>
    let lanes := s.lockLanes f l
    (match s.lockPerform i false b.unitPc b.skipPc lanes with
     | .ok s' =>
       if !l.isEmpty && (wavesOf l).all s.reissAhead then
         .hold ((wavesOf l).map fun u => (u, waveEntry i b.unitPc b.skipPc 1 0 false ((lanes.filter fun x => x.1.u == u).map Prod.snd) []))
       else .ok s'
     | r => r)
  | _, _ => .ok s

/-- LOCK. -/
def execLock (h : Hdr) (f : FmtX) : State → Host.Outcome State Fault Refusal := runWord (.lock h f) (lockWord (.lock h f))
/-- LOCKT. -/
def execLockt (h : Hdr) (f : FmtX) : State → Host.Outcome State Fault Refusal := runWord (.lockt h f) (lockWord (.lockt h f))
/-- TRYLK. -/
def execTrylk (h : Hdr) (f : FmtX) : State → Host.Outcome State Fault Refusal := runWord (.trylk h f) (lockWord (.trylk h f))
/-- UNLOCK. -/
def execUnlock (h : Hdr) (f : FmtX) : State → Host.Outcome State Fault Refusal := runWord (.unlock h f) (lockWord (.unlock h f))
/-- LKQRY. -/
def execLkqry (h : Hdr) (f : FmtX) : State → Host.Outcome State Fault Refusal := runWord (.lkqry h f) (lockWord (.lkqry h f))

/-- The reply to a request ends the lock instructions of the threads that await it, one after the other in the order of their issue, and
the waiting threads become ready together (R279, R291, R295). -/
def State.lockWake (s : State) (r : LockReply) (here : List Locker) : State :=
  let s := (dedup (here.map fun e => (e.n, e.op, e.scope, e.pc))).foldl (fun s k =>
    s.lockEnd r.u r.x k.2.1 k.2.2.1 r.status true k.2.2.2 ((here.filter fun e => (e.n, e.op, e.scope, e.pc) == k).map fun e => (e.i, e.ps))) s
  let s := s.recClock r.u (fgetD s.objClock (ocKey (s.wave r.u).ctx ((objKey 5 r.x 0).getD 0)) 0 + 1)
  here.foldl (fun s e => if e.late then s else s.ready { u := r.u, i := e.i }) s

/-- LOCK_REPLY: the reply reaches the wave, once the sector of a grant is in its die's L2. An acquire answered FULL is sent again later;
an outcome that meets threads that have left the instruction is kept for its next issue, and the lock of a request that has been taken back
is released (R280, R282, R291, R394). -/
def execLockReply (s : State) : Host.Outcome State Fault Refusal :=
  .next (match s.lockReplies.find? (fun r => r.n == s.arg.n) with
    | none => s
    | some r =>
      let held := r.status == 0 || r.status == 2 || r.status == 5
      if held && s.toAgent.any (fun m => m.kind == .dataE && m.x == r.x && m.agent == .l2 (dieOf (s.wave r.u).core)) then s
      else
      let s := { s with lockReplies := s.lockReplies.filter fun k => k.n != r.n }
      if (fget s.waves r.u).isNone then (if held then s.lockRelease r.u r.x true else s)
      else match r.again with
      | some (tick, order, d) =>
        { s with lockRetries := s.lockRetries ++
          [{ u := r.u, x := r.x, req := r.req, stamp := (tick, order), deadline := d, next := s.ptb + 1000 }] }
      | none =>
        let w := s.wave r.u
        let asked := w.lockers.filter fun e => e.req == r.req
        let here := asked.filter (s.asksStill r.u)
        if asked.isEmpty && !w.lockWait.any (fun y => y.2 == r.req) then (if held then s.lockRelease r.u r.x false else s)
        else
          let s := s.setWave r.u ({ w with
            lockWait := w.lockWait.filter fun y => y.2 != r.req,
            held := if held && !w.held.contains r.x then w.held ++ [r.x] else w.held,
            lockPost := fput w.lockPost r.req r.status }.dropLockers fun e =>
              e.req == r.req && !held && e.op == 0x1E2 && !here.contains e)
          if here.isEmpty then
            let s := if held then s.acquire w.core 4 else s
            if w.live.isEmpty then s.abandonLocks r.u s.next else s
          else s.lockWake r here)

/-! ## The deadlock scanner (R284 to R288) -/

/-- The wave that a waiter of a sector waits for: the holder, or the reserved head. -/
def State.lockBlocker (s : State) (x u : Nat) : Option Nat :=
  let r := s.lockOf x
  match r.holder with
  | some h => some h
  | none => match r.queue with
    | w :: _ => if w.u == u then none else some w.u
    | [] => none

/-- The sector in whose queue a wave waits. -/
def State.waitSector (s : State) (u : Nat) : Option Nat :=
  (s.locks.find? fun e => e.2.queue.any fun w => w.u == u).map Prod.fst

/-- The path of waits from a wave: waves with the sectors they wait for. -/
def State.waitPath (s : State) (u : Nat) : Nat → List (Nat × Nat)
  | 0 => []
  | fuel + 1 =>
    match s.waitSector u with
    | none => []
    | some x => match s.lockBlocker x u with
      | none => []
      | some v => (u, x) :: s.waitPath v fuel

/-- The cycle that starts at a wave, if its path comes back to it. -/
def State.cycleAt (s : State) (u n : Nat) : Option (List (Nat × Nat)) :=
  let p := s.waitPath u n
  match (p.drop 1).findIdx? (fun e => e.1 == u) with
  | some k => some (p.take (k + 1))
  | none => none

/-- Two lists of waits are the same cycle. -/
def sameCycle (a b : List (Nat × Nat)) : Bool := a.length == b.length && a.all fun e => b.contains e

/-- Every cycle of waits, once. -/
def State.lockCycles (s : State) : List (List (Nat × Nat)) :=
  let us := s.locks.flatMap fun e => e.2.queue.map LockWaiter.u
  us.foldl (fun acc u =>
    match s.cycleAt u (us.length + 1) with
    | some c => if acc.any (sameCycle c) then acc else acc ++ [c]
    | none => acc) []

/-- DEADLOCK_SCAN: the scanner collects the edges every 65,536 ticks, once the cycles found before are confirmed (R284). -/
def execDeadlockScan (s : State) : Host.Outcome State Fault Refusal :=
  .next (if s.lkctl.getLsbD 0 && s.scanCand.isEmpty && decide (s.scanTick + 65536 ≤ s.ptb) then
      let c := s.lockCycles
      { s with scanTick := s.ptb, scanCand := c, dlSeen := s.dlSeen.filter fun d => c.any (sameCycle d) }
    else s)

/-- The waiter of a wave in a sector's queue. -/
def State.waiterOf (s : State) (e : Nat × Nat) : LockWaiter :=
  ((s.lockOf e.2).queue.find? fun w => w.u == e.1).getD default

/-- Order of the participants' stamps (R285). -/
def State.stampKey (s : State) (e : Nat × Nat) : Nat :=
  let w := s.waiterOf e
  (w.tick * 2 ^ 32 + w.order) * 64 + s.homeOf (64 * e.2)

/-- A cycle with its newest waiter first (R288). -/
def State.fromNewest (s : State) (c : List (Nat × Nat)) : List (Nat × Nat) :=
  match (sortBy s.stampKey c).getLast? with
  | none => c
  | some e => match c.findIdx? (· == e) with
    | some k => c.drop k ++ c.take k
    | none => c

/-- The slot of a participant in a record (R288). -/
def State.dlSlot (s : State) (e : Nat × Nat) (failed : Bool) : Nat :=
  let w := s.wave e.1
  let ab := s.absent e.1
  let b := fun (c : Bool) (n : Nat) => if c then n else 0
  64 * e.2 % 2 ^ 52 + w.tag.toNat * 2 ^ 64 + w.ctx * 2 ^ 96
    + (b failed 1 + b ab 2 + b (s.waiterOf e).deadline.isSome 4) * 2 ^ 104 + (if ab then 0xFFFF else w.core) * 2 ^ 112

/-- The cycle is written to the report ring, if the ring is in use and has room (R287, R288). -/
def State.dlReport (s : State) (c : List (Nat × Nat)) (fail : Bool) : State :=
  let n := (c.length + 2) / 3
  let cap := 64 * 2 ^ bits s.dlrb.toNat 11 8
  let used := (s.dlrp.toNat + 2 ^ 32 - s.dlrc.toNat % 2 ^ 32) % 2 ^ 32
  if !s.dlrb.getLsbD 0 then s
  else if cap < used + n then { s with dlOver := true }
  else
    let base := bits s.dlrb.toNat 51 12 * 4096
    let s := (upto 0 n).foldl (fun s k =>
      let slot := fun (j : Nat) => match (c.drop (3 * k + j)).head? with
        | some e => s.dlSlot e (fail && 3 * k + j == 0)
        | none => 0
      let flg := (if k + 1 == n then 1 else 0) + (if fail then 2 else 0) + (if s.dlOver then 4 else 0)
      let r := s.ptb % 2 ^ 64 + s.dlCyc % 2 ^ 32 * 2 ^ 64 + c.length % 65536 * 2 ^ 96 + k % 256 * 2 ^ 112 + flg * 2 ^ 120
        + slot 0 * 2 ^ 128 + slot 1 * 2 ^ 256 + slot 2 * 2 ^ 384
      let s := s.agentPut (base + 64 * (s.dlrp.toNat % cap)) r 64
      { s with dlrp := BitVec.ofNat 64 ((s.dlrp.toNat + 1) % 2 ^ 32), dlOver := false }) s
    s

/-- DEADLOCK_CONFIRM: a cycle whose every edge is still there 4,096 ticks after the collection is reported once,
and its newest waiter is failed if LKCTL.FAIL is 1 (R284, R285). -/
def execDeadlockConfirm (s : State) : Host.Outcome State Fault Refusal :=
  .next (match s.scanCand with
    | [] => s
    | c :: rest =>
      if !s.lkctl.getLsbD 0 || decide (s.ptb < s.scanTick + 4096) then s
      else
        let s := { s with scanCand := rest }
        let still := c.all fun e => s.waitSector e.1 == some e.2 && s.lockCycles.any (sameCycle c)
        if !still then { s with dlSeen := s.dlSeen.filter fun d => !sameCycle c d }
        else if s.dlSeen.any (sameCycle c) then s
        else
          let fail := s.lkctl.getLsbD 2
          let c := s.fromNewest c
          let s := s.dlReport c fail
          let s := if s.lkctl.getLsbD 1 then s.post 0 "DEADLOCK" (BitVec.ofNat 64 s.dlCyc) else s
          let s := { s with dlCyc := s.dlCyc + 1, dlSeen := (s.dlSeen ++ [c]).reverse.take 64 |>.reverse }
          match c with
          | e :: _ => if fail then (s.lockRemove e.1 e.2).lockAnswer e.1 e.2 (s.waiterOf e).req 3 none else s
          | [] => s)

end Sys2Proof.Machine
end

