-- ==== Sys2Proof/Machine/MatNum.lean ====
section
/-! DEFINITION. The arithmetic of the matrix engine (R356 to R365, R376): exact group sums, the summation order,
masks and fills, and what finishes a tile. -/

namespace Sys2Proof.Machine

/-! ## Exact values (R357, R358) -/

/-- A NaN without a payload. -/
def engNan : FVal := .nan false 1 1

/-- The value 1. -/
def engOne : FVal := .num false 1 0

/-- The exact product. -/
def FVal.mulE (a b : FVal) : FVal :=
  if a.isNan || b.isNan || mulInvalid a b then engNan
  else match a, b with
    | .num s1 m1 e1, .num s2 m2 e2 => .num (s1 != s2) (m1 * m2) (e1 + e2)
    | a, b => .inf (a.sgn != b.sgn)

/-- The exact sum; a zero sum is -0 only of two -0. -/
def FVal.addE (a b : FVal) : FVal :=
  match a, b with
  | .num s1 m1 e1, .num s2 m2 e2 =>
    let x := exAdd s1 m1 e1 s2 m2 e2
    if x.m == 0 then .num (s1 && s2 && m1 == 0) 0 0 else .num x.s x.m x.e
  | .inf s, .num _ _ _ => .inf s
  | .num _ _ _, .inf s => .inf s
  | .inf s, .inf r => if s == r then .inf s else engNan
  | _, _ => engNan

/-- Every NaN that the engine writes is the default NaN, and it raises IV. -/
def FFmt.engine (f : FFmt) (r : Nat × Nat) : Nat × Nat :=
  if (f.decode r.1).isNan then (f.defNan, r.2 ||| fIV) else r

/-- An exact value rounded to the nearest even code. -/
def FFmt.roundV (f : FFmt) (v : FVal) : Nat × Nat :=
  match v with
  | .nan _ _ _ => (f.defNan, fIV)
  | .inf s => (f.infCode s, 0)
  | .num s m e => f.finish 0 false 0 s ⟨s, m, e, false⟩

/-! ## One element of a product (R357) -/

/-- What a product sums for one element: the decoded row of A and column of B, the block scales by group and the
super-scales. -/
structure ProdIn where
  group : Nat
  a : List FVal
  b : List FVal
  sa : List FVal
  sb : List FVal
  xa : FVal
  xb : FVal
  deriving DecidableEq, Repr

/-- The exact products. -/
def ProdIn.terms (p : ProdIn) : List FVal := List.zipWith FVal.mulE p.a p.b

/-- The exact sum of some values. -/
def sumE : List FVal → FVal
  | [] => .num false 0 0
  | x :: r => r.foldl FVal.addE x

/-- The exact value of group `g` with its scales. -/
def ProdIn.group8 (p : ProdIn) (g : Nat) : FVal :=
  let s := sumE ((p.terms.drop (8 * g)).take 8)
  (((s.mulE (p.sa.getD g engOne)).mulE (p.sb.getD g engOne)).mulE p.xa).mulE p.xb

/-- A value of an integer format as an integer. -/
def FVal.toInt : FVal → Int
  | .num s m e => (if s then -1 else 1) * (shiftNat m e : Int)
  | _ => 0

/-- The element after the product: its code, 32 bits or 64 for the f64 group, and the flags. -/
def ProdIn.elem (p : ProdIn) (c : Nat) : Nat × Nat :=
  if p.group == 2 then (((c : Int) + (p.terms.map FVal.toInt).foldl (· + ·) 0).emod (2 ^ 32) |>.toNat, 0)
  else if p.group ≥ 4 then
    let f := ffmt (if p.group == 5 then 11 else 10)
    (List.zip p.a p.b).foldl (fun r x =>
      let q := f.engine (f.fma 0 false 0 x.1 x.2 (f.decode r.1))
      (q.1, r.2 ||| q.2)) (c, 0)
  else
    (upto 0 (p.a.length / 8)).foldl (fun r g =>
      let x := f32.roundV (p.group8 g)
      let q := f32.engine (f32.add 0 false 0 (f32.decode r.1) (f32.decode x.1))
      (q.1, r.2 ||| x.2 ||| q.2)) (c, 0)

/-! ## Masks and fills of MMAT (R361) -/

/-- Element (i, j) is masked: `d` signed, `row0` and `col0` natural. -/
def matMasked (d : Int) (row0 col0 i j : Nat) : Bool := decide (((col0 + j : Nat) : Int) - ((row0 + i : Nat) : Int) > d)

/-- What a masked element becomes: none where it is unchanged. A NaN fill of an f64 pair is widened as CVT widens it, its
payload kept (log entry 80). -/
def matFill (fm group v : Nat) : Option Nat :=
  let dbl := group == 5
  let int := group == 2
  match fm with
  | 1 => some 0
  | 2 => some (if dbl then 0xFFF0000000000000 else if int then 0x80000000 else 0xFF800000)
  | 3 => some (if dbl then 0x7FF0000000000000 else if int then 0x7FFFFFFF else 0x7F800000)
  | 4 => some (if dbl then (cvtCode 11 10 0 false 0 v).1 else v)
  | _ => none

/-! ## MEPI (R365) -/

/-- 1 / (1 + e^-y) of a nonzero dyadic y. -/
def exSigm (s : Bool) (m : Nat) (e : Int) : Ex :=
  if e + bitLen m > 8 then (if s then ⟨false, 1, -4000, true⟩ else fxEx false (fxOne - 1) 0)
  else
    let x := shiftNat m (e + fxP) * fxOne / fxLn2
    let n := x / fxOne
    let f := x % fxOne
    let t := if f == 0 then fxOne >>> n else fxExp2 (fxOne - f) >>> (n + 1)
    fxEx false ((if s then t else fxOne) * fxOne / (fxOne + t)) 0

/-- The activation of an f32 code. -/
def matAct (act y : Nat) : Nat × Nat :=
  let v := f32.decode y
  if v.isNan then (f32.defNan, fIV)
  else match act with
    | 1 => (if v.sgn then 0 else y, 0)
    | 2 => f32.transc 4 0 false 0 v
    | 3 => (match v with
      | .inf s => (if s then 0 else f32.encode false 1 0, 0)
      | .num s m e => if m == 0 then (f32.encode false 1 (-1), 0) else f32.round 0 false 0 (exSigm s m e)
      | _ => (f32.defNan, fIV))
    | _ => (y, 0)

/-- MEPI of one element: the optional scale and bias, then the activation. -/
def matFinish (act x : Nat) (sc b : Option Nat) : Nat × Nat :=
  let v := f32.decode x
  let y := match sc, b with
    | none, none => (x, 0)
    | some c, none => f32.mul 0 false 0 v (f32.decode c)
    | none, some b => f32.add 0 false 0 v (f32.decode b)
    | some c, some b => f32.fma 0 false 0 v (f32.decode c) (f32.decode b)
  let y := f32.engine y
  let z := matAct act y.1
  (z.1, y.2 ||| z.2)

/-- MCVT of one element: CVT, with the default NaN; a NaN that is converted raises IV (R358, R364). -/
def matConvert (dt st mode : Nat) (sat : Bool) (g c : Nat) : Nat × Nat :=
  let r := cvtCode dt st mode sat g c
  let nan := isFloatTy st && ((ffmt st).decode c).isNan
  if !isFloatTy dt then (r.1 % 2 ^ elemBits dt, r.2)
  else if nan then (ffmt dt).engine r
  else (((ffmt dt).engine r).1, r.2)

/-! ## The shadow unit (R376, R377) -/

/-- The shadow result of one element: an FFMA chain in f32 from the element's value before the command. -/
def ProdIn.shadow (p : ProdIn) (c0 : FVal) : Nat :=
  ((p.terms.zipIdx.map fun e =>
      (((e.1.mulE (p.sa.getD (e.2 / 8) engOne)).mulE (p.sb.getD (e.2 / 8) engOne)).mulE p.xa).mulE p.xb).foldl
    (fun r x => (f32.roundV ((f32.decode r).addE x)).1) (f32.roundV c0).1)

/-- A magnitude as an f32 code. -/
def FVal.mag (v : FVal) : FVal := v.negIf v.sgn

/-- |r - s| and |r - s| / max(|s|, 2^-126) as f32 codes; none where either is not finite. -/
def shadowDiff (r s : FVal) : Option (Nat × Nat) :=
  match r, s with
  | .num _ _ _, .num _ _ _ =>
    let d := (r.addE (s.negIf true)).mag
    let low : FVal := .num false 1 (-126)
    let den := if s.mag.lt false low then low else s.mag
    match d, den with
    | .num _ m e, .num _ m2 e2 =>
      some ((f32.roundV d).1, if m == 0 then 0 else (f32.round 0 false 0 (exDiv false m e m2 e2)).1)
    | _, _ => some (0, 0)
  | _, _ => none

end Sys2Proof.Machine
end

