-- ==== Sys2Proof/Machine/Engine.lean ====
section
/-! DEFINITION. What the engines of a core share (R167, R298, R299, R311 to R313): ranges and their checks, pinned
pages, 16-byte units, barrier objects, and the words that act once for each wave and may stand in the operand
log. -/

namespace Sys2Proof.Machine

/-! ## Ranges -/

/-- A range of an engine: `rows` rows of `len` bytes, `pitch` bytes apart, in a space (0 global, 1 scratchpad,
2 cluster scratchpad). -/
structure Rng where
  space : Nat
  base : Nat
  pitch : Nat
  rows : Nat
  len : Nat
  write : Bool
  deriving DecidableEq, Repr

/-- From the first byte to the one after the last. -/
def Rng.extent (r : Rng) : Nat := (r.rows - 1) * r.pitch + r.len

/-- A range of no byte. -/
def Rng.none (r : Rng) : Bool := r.rows == 0 || r.len == 0

/-- A cause that an engine's word meets: its place in the entry's order, and the address it reports. -/
structure EngHit where
  rank : Nat
  cause : Cause
  det : Nat
  addr : Option Nat
  deriving DecidableEq, Repr

/-- The first cause among some, in the entry's order. -/
def firstEng (l : List EngHit) : Option EngHit := (sortBy EngHit.rank l).head?

/-- NONCANON of a global range (R298 order 2). -/
def Rng.noncanon (r : Rng) (rank : Nat) : List EngHit :=
  if r.space != 0 || r.none then []
  else
    let w := if r.write then 256 else 0
    if r.base ≥ 2 ^ 56 then [⟨rank, .memfault, 5 + w, some r.base⟩]
    else if r.base + r.extent > 2 ^ 56 then [⟨rank, .memfault, 5 + w, some (r.base + r.extent - 1)⟩]
    else []

/-- ALIGN of a range's address, row length and pitch (R298 order 3). -/
def Rng.misaligned (r : Rng) (n rank : Nat) : List EngHit :=
  if r.base % n ≠ 0 then [⟨rank, .align, 0, some r.base⟩]
  else if r.len % n ≠ 0 || r.pitch % n ≠ 0 then [⟨rank, .align, 0, .none⟩]
  else []

/-- The block and the offset that a scratchpad address names, if it names a block (R144, R150). -/
def State.scrPlace (s : State) (block space a : Nat) : Option (Nat × Nat) :=
  if space == 1 then some (block, a)
  else if a / 2 ^ 24 ≠ 0 then none
  else (s.memberBlock block (bits a 23 22)).map fun b => (b, bits a 21 0)

/-- RANGE of a scratchpad range (R298 order 4); the member that a cluster address names is met for no byte too. -/
def State.outside (s : State) (block rank : Nat) (r : Rng) : List EngHit :=
  if r.space == 0 then []
  else match s.scrPlace block r.space r.base with
    | none => [⟨rank, .bounds, 1, some r.base⟩]
    | some (b, off) => if !r.none && off + r.extent > (s.block b).scratch then [⟨rank, .bounds, 1, some r.base⟩] else []

/-! ## Pins (R167) -/

/-- The pages that a global range touches, by a first address in each. -/
def Rng.pages (r : Rng) : List Nat :=
  if r.space != 0 || r.none then []
  else dedup (((upto 0 r.rows).flatMap fun i => pagesOf (r.base + i * r.pitch) r.len).map fun a => a / 65536 * 65536)

/-- A page that a pin waits for: its P-to-S transition or its collapse comes first (R164, R165, R167). -/
structure PageAsk where
  core : Nat
  ctx : Nat
  va : Nat
  write : Bool
  high : Bool
  deriving DecidableEq, Repr

/-- What pins wait for is set going. -/
def State.askPages (s : State) (l : List PageAsk) : State := l.foldl (fun s a => s.askPage a.core a.ctx a.va a.write a.high) s

/-- There is something to set going for them. -/
def State.asksPages (s : State) (l : List PageAsk) : Bool := l.any fun a => s.asksPage a.core a.ctx a.va a.write

/-- Pages of a range as they are translated: the pins, the faults with their addresses, and the pages that are waited for. -/
structure Pinned where
  pins : FMap Nat
  faults : List (Nat × Nat)
  waits : List PageAsk
  deriving DecidableEq, Repr

/-- A page's translation joins the pins, or its fault the faults. -/
def State.pinPage (s : State) (core c : Nat) (write high : Bool) (a : Pinned) (page : Nat) : Pinned × State :=
  match s.translateNow core c page (if write then .write else .read) high true with
  | (.ok pa _, s) => ({ a with pins := fput a.pins (page / 65536) (pa - page % 65536) }, s)
  | (.fault k, s) => ({ a with faults := a.faults ++ [(k, page)] }, s)
  | (.miss, s) => ({ a with waits := a.waits ++ [{ core := core, ctx := c, va := page, write := write, high := high }] }, s)

/-- The pages of a range are translated for good: P pages turn S and R pages that are written collapse. -/
def State.pinRange (s : State) (core c : Nat) (high : Bool) (r : Rng) : Pinned × State :=
  r.pages.foldl (fun a p => a.2.pinPage core c r.write high a.1 p) ({ pins := [], faults := [], waits := [] }, s)

/-- The physical address of a pinned page's byte. -/
def pinned (pins : FMap Nat) (va : Nat) : Nat := fgetD pins (va / 65536) 0 + va % 65536

/-- What the translation of ranges comes to: codes 4, 6, 7 and 8 first, then 1, 2 and 3, the lowest first. -/
inductive PinRes where
  | ok (pins : List (FMap Nat)) (s : State)
  | bad (h : EngHit)
  | soft (code va : Nat) (write : Bool)
  | wait (l : List PageAsk)

/-- All ranges of a word pinned, or none. -/
def State.pinAll (s : State) (core c rank : Nat) (high : Bool) (l : List Rng) : PinRes :=
  let r := l.foldl (fun (a : List (FMap Nat) × List (Nat × Nat × Bool) × List PageAsk × State) x =>
    let p := a.2.2.2.pinRange core c high x
    (a.1 ++ [p.1.pins], a.2.1 ++ p.1.faults.map (fun f => (f.1, f.2, x.write)), a.2.2.1 ++ p.1.waits, p.2)) ([], [], [], s)
  let hard := r.2.1.filter fun f => !(f.1 == 1 || f.1 == 2 || f.1 == 3)
  match (sortBy (fun f => codeRank f.1) hard).head?, (sortBy (fun (f : Nat × Nat × Bool) => f.1) r.2.1).head? with
  | some (code, va, w), _ => .bad ⟨rank, .memfault, code + (if w then 256 else 0), some va⟩
  | none, some (code, va, w) => .soft code va w
  | none, none =>
    if r.2.2.1.isEmpty then
      .ok r.1 ((l.zip r.1).foldl (fun s x => if x.1.write then x.2.foldl (fun s p => s.undoPage c p.2) s else s) r.2.2.2)
    else .wait r.2.2.1

/-! ## Units (R299, R301) -/

/-- `n` bytes at a physical address as an engine reads them, and whether they carry an uncorrectable error. Of
another device's memory the value is free (log entry 9). -/
def State.engRead (s : State) (pa n : Nat) : Nat × Bool :=
  if s.lostHome pa then (0, true)
  else match (s.target pa).1 with
  | .nothing => (0, true)
  | .aperture _ => (s.readAny pa n, false)
  | _ => (s.readAny pa n, s.poisoned (sectorOf pa))

/-- An engine's unit at a physical address passes L3 under the policy of its instruction (R153, R155). -/
def State.engPass (s : State) (pol pa : Nat) : State :=
  if (s.target pa).1 != .hbm || s.lostHome pa then s else if pol == 5 then s.markPers pa else s.touchL3 (sectorOf pa)

/-- Bytes written by an engine at a physical address; those of another device's memory leave this device.
`bad` marks their sector. -/
def State.engWrite (s : State) (pa : Nat) (bytes : List Byte) (bad : Bool) : State :=
  match (s.target pa).1 with
  | .aperture _ | .nothing => s
  | _ =>
    if s.lostHome pa then s
    else
      let s := s.homeWrite pa bytes
      if bad then s.setPoison (sectorOf pa) true else s

/-- Bytes written by an engine for a context, whose page is kept first (R480); in a replay nothing leaves the device (R487). -/
def State.engStore (s : State) (c pa : Nat) (bytes : List Byte) (bad : Bool) : State :=
  let s := s.undoPage c pa
  if s.replaying c && (match (s.target pa).1 with
    | .hbm => false
    | _ => true) then s
  else s.engWrite pa bytes bad

/-- Bytes of a block's scratchpad read, and whether a unit of them is poisoned (R437). -/
def State.scrUnit (s : State) (b off n : Nat) : Nat × Bool := (s.scrRead b off n, s.scrBad b off n)

/-- Bytes written to a block's scratchpad by an engine; to that of a saved block they go to the same offsets of its image in the
save area (R300, R442). -/
def State.scrLand (s : State) (b off : Nat) (bytes : List Byte) : State :=
  let s := s.scrWrite b off bytes
  if (s.block b).saved then s.agentWrite ((s.block b).image + off) bytes else s

/-- Bytes written to a block's scratchpad by an engine; `bad` marks their unit. -/
def State.scrPut (s : State) (b off : Nat) (bytes : List Byte) (bad : Bool) : State :=
  let s := s.scrLand b off bytes
  if bad then
    let k := s.block b
    s.setBlock b { k with scrPoison := if k.scrPoison.contains (off / 16) then k.scrPoison else k.scrPoison ++ [off / 16] }
  else s

/-- A block is still there. -/
def State.blockLive (s : State) (b : Nat) : Bool := (fget s.blocks b).isSome

/-- A landing in a block's scratchpad is discarded: the block has ended and some of its pool space has been allocated anew
(R319). -/
def State.blockGone (s : State) (d : ScrDst) : Bool :=
  !s.blockLive d.block && d.grans.any fun g => fgetD (s.core d.core).pool g 0 != d.gen

/-- A block's scratchpad as the target of a landing (R319). -/
def State.scrDst (s : State) (b : Nat) : ScrDst :=
  let k := s.block b
  { block := b, core := k.core, member := k.member, gen := k.gen, grans := k.grans }

/-! ## Barrier objects (R311 to R313) -/

/-- The completion test of R312 on an object's value. -/
def barTest (o : Nat) : Nat :=
  if bits o 79 64 == bits o 95 80 && bits o 55 0 == 0 then
    let o := setBits o 127 96 (bits o 127 96 + 1)
    let o := setBits o 79 64 0
    let o := setBits o 57 57 (bits o 56 56)
    setBits o 56 56 0
  else o

/-- One operation on the barrier object at an offset of a block's scratchpad: atomic, with the test after it. -/
def State.barOp (s : State) (b off : Nat) (f : Nat → Nat) : State :=
  if s.blockLive b then s.scrLand b off (leBytes (barTest (f (s.scrRead b off 16))) 16) else s

/-- Bytes subtracted from PEND; `err` sets ERR, `arrive` adds one arrival. -/
def barCount (bytes : Nat) (err arrive : Bool) (o : Nat) : Nat :=
  let o := setBits o 55 0 (bits o 55 0 + 2 ^ 56 - bytes % 2 ^ 56)
  let o := if err then setBits o 56 56 1 else o
  if arrive then setBits o 79 64 (bits o 79 64 + 1) else o

/-! ## Words that act once for each wave -/

/-- What came of an engine's word in one wave. -/
inductive EngRes where
  | ok (s : State)
  | bad (h : EngHit)
  | soft (code va : Nat) (write : Bool)
  /-- The wave waits, for pages to be set going among other things. -/
  | wait (l : List PageAsk)

/-- The uniform registers that a word names as sources, with their values in a wave. -/
def State.namedRegs (s : State) (u : Nat) (i : Instr) : FMap Word :=
  ((usesOf i).flatMap Use.sreads).foldl (fun m r => fput m r (s.sreg u r)) []

/-- A register of a list of values. -/
def regOf (m : FMap Word) (r : Nat) : Word := fgetD m r 0
/-- A pair of them. -/
def regOf64 (m : FMap Word) (r : Nat) : Dword := regOf m (r + 1) ++ regOf m r

/-- A wave's part of an engine's word: its lanes and register values. -/
structure EngIn where
  u : Nat
  lanes : List (TRef × LogLane)
  regs : FMap Word
  /-- The rows of a matrix unit's register operands. -/
  rows : FMap (List Nat)
  /-- Address of the unit's first word, and of the word after it. -/
  pc : Nat
  next : Nat
  deriving DecidableEq, Repr

/-- Address of the engine's word: the last of its chain. -/
def EngIn.at_ (x : EngIn) (i : Instr) : Nat := (x.next + 2 ^ 56 - 8 * unitLen i) % 2 ^ 56

/-- The operand-log entry of a wave's part. -/
def EngIn.entry (x : EngIn) (i : Instr) (code va : Nat) (w : Bool) : LogEntry :=
  { waveEntry i x.pc x.next code va w (x.lanes.map Prod.snd) x.regs with
    rows := x.rows }

/-- An engine's word in the waves of a bundle, in ascending wave slot: traps first, then the operand log (R431), then
the effect; a wave that has to wait waits alone (R297, R306, R316, R324), once the pages it waits for have been set going. -/
def State.engPerform (s : State) (i : Instr) (ins : List EngIn) (f : State → EngIn → EngRes) : Res :=
  let r := ins.foldl (fun (a : State × List Hit × List (Nat × Nat × Bool) × List (Nat × List PageAsk)) x =>
    match f a.1 x with
    | .ok s' => (s', a.2)
    | .bad h => (a.1, a.2.1 ++ x.lanes.map (fun l => { hit l.1 (rankOwn h.rank) h.cause h.det with addr := h.addr }), a.2.2)
    | .soft code va w => (a.1, a.2.1, a.2.2.1 ++ [(code, va, w)], a.2.2.2)
    | .wait l => (a.1, a.2.1, a.2.2.1, a.2.2.2 ++ [(x.u, l)])) (s, [], [], [])
  let pages := r.2.2.2.flatMap Prod.snd
  if !r.2.1.isEmpty then .trap (firstHits r.2.1) []
  else match (sortBy (fun (e : Nat × Nat × Bool) => e.1) r.2.2.1).head? with
    | some (code, va, w) =>
      .log (ins.map fun x => (x.u, x.entry i code va w))
    | none =>
      if s.asksPages pages then .again fun s => s.askPages pages
      else Res.but r.1 (ins.map EngIn.u) (r.2.2.2.map Prod.fst)

/-- The waves' parts of an engine's word as it issues. -/
def State.engIns (s : State) (i : Instr) (l : List TRef) (lane : TRef → LogLane) : List EngIn :=
  match s.issue with
  | none => []
  | some b =>
    (sortBy (fun u => (s.wave u).slot) (wavesOf l)).map fun u =>
      { u := u, lanes := (l.filter fun t => t.u == u).map (fun t => (t, lane t)), regs := s.namedRegs u i, rows := [],
        pc := b.unitPc, next := b.skipPc }

/-- What came of an engine's word as it issues; in a replay a unit that the log reissues is held (R486). -/
def State.engIssue (s : State) (i : Instr) (ins : List EngIn) (r : Res) : Res :=
  match r with
  | .ok s' => if !ins.isEmpty && ins.all (fun x => s.reissAhead x.u) then .hold (ins.map fun x => (x.u, x.entry i 1 0 false)) else .ok s'
  | r => r

/-- A lane without an address. -/
def plainLane (t : TRef) : LogLane := { i := t.i, ea := 0, index := 0, data := 0, data2 := 0 }

/-- An engine's word as it issues; it may end its waves' chunks. -/
def engWord (i : Instr) (lane : State → TRef → LogLane) (sync : Bool) (f : State → EngIn → EngRes) : State → List TRef → Res :=
  fun s l =>
    match s.engIssue i (s.engIns i l (lane s)) (s.engPerform i (s.engIns i l (lane s)) f) with
    | .ok s' => .ok (if sync then s'.syncWaves l none else s')
    | .waves s' left => .waves (if sync then s'.syncWaves (l.filter fun t => !left.contains t.u) none else s') left
    | r => r

/-- The earlier accesses of a wave's threads are performed (R231, R234). -/
def State.lanesDone (s : State) (x : EngIn) : Bool := x.lanes.all fun l => s.allDone l.1 6

end Sys2Proof.Machine
end

