-- ==== Sys2Proof/Machine/Copies.lean ====
section
/-! DEFINITION. Class 9: the copy engine, batches, barrier objects and multicast credit (R297 to R320). -/

namespace Sys2Proof.Machine

/-! ## What a copy moves (R302 to R306) -/

/-- A copy instruction: its fields and its kind, COPY 0, COPY2 1, COPYM 2 or COPYX 3. -/
def copyFields (i : Instr) : Option (FmtX × Nat) :=
  match i with
  | .copy _ f => some (f, 0)
  | .copy2 _ f => some (f, 1)
  | .copym _ f => some (f, 2)
  | .copyx _ f => some (f, 3)
  | _ => none

/-- An address operand of a space. -/
def addrOf (r : FMap Word) (u : BitVec 6) (space : Nat) : Nat :=
  if space == 0 then (regOf64 r u.toNat).toNat else (regOf r u.toNat).toNat

/-- Rows, bytes of a row, and the pitches of a copy. -/
structure CpShape where
  rows : Nat
  len : Nat
  srcPitch : Nat
  dstPitch : Nat
  deriving DecidableEq, Repr

/-- The shape that a copy's registers give: one row, or that of R304. -/
def copyShape (f : FmtX) (kind : Nat) (r : FMap Word) : CpShape :=
  let n := (regOf r f.u2.toNat).toNat
  if kind == 1 then
    { rows := bits n 31 16 + 1, len := 16 * (bits n 11 0 + 1), srcPitch := (regOf r f.u3.toNat).toNat,
      dstPitch := (regOf r (f.u3.toNat + 1)).toNat }
  else { rows := 1, len := n, srcPitch := 0, dstPitch := 0 }

/-- SIZE (R302, R304). -/
def copySizeBad (kind n : Nat) (h : CpShape) : Bool :=
  match kind with
  | 0 => decide (n > 16777216)
  | 1 => bits n 15 12 != 0 || decide (h.rows * h.len > 16777216) || (decide (h.rows > 1) && decide (h.dstPitch < h.len))
  | _ => decide (n > 1048576)

/-- The receivers of a COPYM. -/
def cpMembers (f : FmtX) : List Nat := (upto 0 4).filter fun m => (cpMask f).testBit m

/-- The word that a COPYX carries, if it may carry it (R305). -/
def carriedWord (r : FMap Word) (f : FmtX) : Option Instr :=
  match decodeUnit [regOf64 r f.u3.toNat] with
  | .ok (i, 1) =>
    let ok := match i with
      | .mma h _ | .mmas h _ | .mmat h _ => !h.chain && !h.neg && h.pred == 7
      | _ => false
    if ok && legalWord i then some i else none
  | _ => none

/-- The uniform registers of a copy with those that its carried word names. -/
def State.copyRegs (s : State) (u : Nat) (i : Instr) : FMap Word :=
  let r := s.namedRegs u i
  match i with
  | .copyx _ f => match carriedWord r f with
    | some c => (s.namedRegs u c).foldl (fun m e => fput m e.1 e.2) r
    | none => r
  | _ => r

/-- A copy of a wave as its registers give it: ranges to check and to pin, and the entry that it would take. -/
structure CpPlan where
  shape : CpShape
  src : Rng
  dst : Rng
  stamp : Option Rng
  bar : Option Nat
  deriving DecidableEq, Repr

/-- The ranges of a copy; those of a COPYM's receivers are checked apart. -/
def copyPlan (f : FmtX) (kind : Nat) (r : FMap Word) : CpPlan :=
  let h := copyShape f kind r
  let d := cpDest f kind
  { shape := h,
    src := ⟨cpSsp f, addrOf r f.u1 (cpSsp f), h.srcPitch, h.rows, h.len, false⟩,
    dst := ⟨d, addrOf r f.u0 d, h.dstPitch, h.rows, h.len, true⟩,
    stamp := if cpSt f then some ⟨d, addrOf r f.u4 d, 0, 1, 8, true⟩ else none,
    bar := if cpBo f then some (regOf r f.u5.toNat).toNat else none }

/-- The carried word of a copy names a uniform register that is pending (R305). -/
def State.carriedPending (s : State) (u : Nat) (i : Instr) (r : FMap Word) : Bool :=
  match i with
  | .copyx _ f => match carriedWord r f with
    | some c => ((usesOf c).flatMap Use.sreads).any (s.pendS u).contains
    | none => false
  | _ => false

/-- The blocks that a range of a copy lies in: the receivers, or the one that its address names. -/
def State.copyBlocks (s : State) (f : FmtX) (kind block : Nat) (r : Rng) : List Nat :=
  if kind == 2 then (cpMembers f).filterMap fun m => s.memberBlock block m
  else match r.space with
    | 0 => []
    | sp => ((s.scrPlace block sp r.base).map Prod.fst).toList

/-- A range within a block's scratchpad, outside of which RANGE is met. -/
def State.blockRange (s : State) (b off n : Nat) : List EngHit :=
  if off + n > (s.block b).scratch then [⟨4, .bounds, 1, some off⟩] else []

/-- RANGE of a copy (R298 order 4). -/
def State.copyOutside (s : State) (f : FmtX) (kind block : Nat) (p : CpPlan) : List EngHit :=
  let bl := s.copyBlocks f kind block p.dst
  let homes := if kind == 2 || p.dst.space == 2 then bl else [block]
  let multi := kind == 2
  s.outside block 4 p.src
    ++ (if multi then
          (if bl.length < (cpMembers f).length then [⟨4, .bounds, 1, some p.dst.base⟩] else [])
            ++ (if p.dst.none then [] else bl.flatMap fun b => s.blockRange b p.dst.base p.dst.extent)
            ++ (match p.stamp with
                | some r => bl.flatMap fun b => s.blockRange b r.base 8
                | none => [])
        else s.outside block 4 p.dst ++ (match p.stamp with
          | some r => s.outside block 4 r
          | none => []))
    ++ (match p.bar with
        | some o => homes.flatMap fun b => s.blockRange b o 16
        | none => [])

/-- The checks of R298 but for translation, in order; the ILLEGAL of a carried word comes first (R305). -/
def State.copyChecks (s : State) (f : FmtX) (kind block : Nat) (r : FMap Word) (p : CpPlan) : List EngHit :=
  (if kind == 3 && (carriedWord r f).isNone then [⟨0, .illegal, 16, none⟩] else [])
    ++ (if copySizeBad kind (regOf r f.u2.toNat).toNat p.shape then [⟨1, .bounds, 2, none⟩] else [])
    ++ p.src.noncanon 2 ++ p.dst.noncanon 2 ++ (match p.stamp with
        | some t => t.noncanon 2
        | none => [])
    ++ p.src.misaligned 16 3 ++ p.dst.misaligned 16 3
    ++ (match p.stamp with
        | some t => if t.base % 8 ≠ 0 then [⟨3, .align, 0, some t.base⟩] else []
        | none => [])
    ++ (match p.bar with
        | some o => if o % 16 ≠ 0 then [⟨3, .align, 0, some o⟩] else []
        | none => [])
    ++ s.copyOutside f kind block p

/-! ## Entries (R297, R317) -/

/-- Copy entries of a core in use: copies, and the matrix commands that hold one. -/
def State.entriesUsed (s : State) (core : Nat) : Nat :=
  (s.copies.filter fun c => c.core == core).length + (s.mcmds.filter fun m => m.core == core && m.entry).length
    + (s.drains.filter fun d => d.core == core).length

/-- A receiver's slot counter at a block. -/
def Block.slot (k : Block) (m : Nat) : Nat := fgetD k.slots m k.credit

/-- The block takes, or gets back, slots for receivers. -/
def State.takeSlots (s : State) (b : Nat) (l : List Nat) : State :=
  let k := s.block b
  s.setBlock b { k with slots := l.foldl (fun m r => fput m r (k.slot r - 1)) k.slots }

/-- Slots for a receiver return: what exceeds C0 is discarded and flagged. -/
def State.addSlots (s : State) (b m n : Nat) : State :=
  let k := s.block b
  let x := k.slot m + n
  s.setBlock b { k with slots := fput k.slots m (min x k.credit),
                        overs := if x > k.credit then k.overs ||| 2 ^ m else k.overs }

/-- A slot returns with the receiver-gone flag (R319), if the sender is still there. -/
def State.goneSlot (s : State) (b m : Nat) : State :=
  if s.blockLive b then
    let s := s.addSlots b m 1
    let k := s.block b
    s.setBlock b { k with gone := k.gone ||| 2 ^ m }
  else s

/-! ## A unit of a copy (R299, R301, R303) -/

/-- A copy's source of a unit: the value and whether it carries an error; none where its device is lost. -/
def State.copyRead (s : State) (c : Copy) (k : Nat) : Option (Nat × Bool) :=
  let a := c.src + k / c.rowUnits * c.srcPitch + 16 * (k % c.rowUnits)
  if c.ssp == 0 then
    let pa := pinned c.srcPins a
    if s.unreached pa then none else some (s.engRead pa 16)
  else some (s.scrUnit c.srcBlock a 16)

/-- The state with a copy changed. -/
def State.modCopy (s : State) (id : Nat) (f : Copy → Copy) : State :=
  { s with copies := s.copies.map fun c => if c.id == id then f c else c }

/-- Bytes of a copy land in a scratchpad: they are discarded where its block is gone, and the copy completes with error
(R319). -/
def State.copyPut (s : State) (id : Nat) (d : ScrDst) (off : Nat) (bytes : List Byte) (bad : Bool) : State :=
  if s.blockGone d then s.modCopy id fun c => { c with err := true, lost := dedup (c.lost ++ [d.member]) }
  else if s.blockLive d.block then s.scrPut d.block off bytes bad else s

/-- Unit `k` of a copy is performed: for all receivers at once. -/
def State.copyUnit (s : State) (c : Copy) (k : Nat) : State :=
  let a := c.dst + k / c.rowUnits * c.dstPitch + 16 * (k % c.rowUnits)
  match s.copyRead c k with
  | none => s.modCopy c.id fun c => { c with err := true }
  | some (v, bad) =>
    let s := if bad then s.modCopy c.id fun c => { c with err := true } else s
    let s := if c.ssp == 0 then s.engPass c.pol (pinned c.srcPins (c.src + k / c.rowUnits * c.srcPitch + 16 * (k % c.rowUnits))) else s
    if c.dsp == 0 then
      let pa := pinned c.dstPins a
      if s.unreached pa then s.modCopy c.id fun c => { c with err := true }
      else (s.engPass c.pol pa).engStore c.ctx pa (leBytes v 16) bad
    else c.targets.foldl (fun s d => s.copyPut c.id d a (leBytes v 16) bad) s

/-- The ranges without their first `n` units from unit `k` on, and those units. -/
def takeUnits (k n : Nat) : List (Nat × Nat) → List Nat × List (Nat × Nat)
  | [] => ([], [])
  | (a, b) :: r =>
    if a ≤ k && k < b then
      let e := min b (k + n)
      (upto k (e - k), (if a < k then [(a, k)] else []) ++ (if e < b then [(e, b)] else []) ++ r)
    else
      let x := takeUnits k n r
      (x.1, (a, b) :: x.2)

/-- One subtraction counts units of a copy on its objects, and sets ERR with the last of a copy that has met an error (R313). -/
def State.copyCount (s : State) (c : Copy) (n : Nat) (err : Bool) : State :=
  match c.bar with
  | some o => if n == 0 then s else c.targets.foldl (fun s d =>
      if s.blockGone d then s else s.barOp d.block o (barCount (16 * n) err false)) s
  | none => s

/-- Units of a copy are performed, and one subtraction counts them (R313). The last units are counted as the copy completes, with
all that sets its error flag; units that an error keeps from being written are counted like the others (log entry 70). -/
def State.copyUnits (s : State) (c : Copy) (k n : Nat) : State :=
  let t := takeUnits k (max 1 (min n 16)) c.left
  let s := t.1.foldl (fun s k => s.copyUnit c k) s
  let s := s.count 0 c.core 11 t.1.length
  if t.2.isEmpty then s.modCopy c.id fun c => { c with left := [], owed := t.1.length }
  else (s.modCopy c.id fun c => { c with left := t.2 }).copyCount c t.1.length false

/-- COPY_UNIT_PERFORMED: unit `k` of copy `n`, and `m` of those after it in the same subtraction. -/
def execCopyUnitPerformed (s : State) : Host.Outcome State Fault Refusal :=
  .next (match s.copies.find? (fun c => c.id == s.arg.n) with
    | none => s
    | some c =>
      let k := if c.left.any (fun r => r.1 ≤ s.arg.k && s.arg.k < r.2) then s.arg.k else (c.left.head?.map Prod.fst).getD 0
      s.copyUnits c k s.arg.m)

/-! ## Completion (R300, R307, R319) -/

/-- A stamp is written in its space (R307). -/
def State.copyStamp (s : State) (c : Copy) : State :=
  match c.stamp with
  | none => s
  | some (a, v) =>
    if c.dsp == 0 then
      (if s.unreached a then s.modCopy c.id fun c => { c with err := true }
       else s.engStore c.ctx a (leBytes v.toNat 8) false)
    else c.stampTo.foldl (fun s d => s.copyPut c.id d a (leBytes v.toNat 8) false) s

/-- A batch of a wave is done: not open, and every copy in it complete. -/
def State.batchDone (s : State) (u b : Nat) : Bool :=
  ((s.wave u).batch != b || (s.wave u).sealed) && !s.copies.any fun c => c.u == u && c.batch == b

/-- Where the open batch of a wave is sealed and the next number is done, that is opened and its error flag cleared (R309). -/
def State.openBatch (s : State) (u : Nat) : State :=
  let w := s.wave u
  let nb := (w.batch + 1) % 16
  if w.sealed && s.batchDone u nb then
    s.setWave u { w with batch := nb, batchErr := w.batchErr &&& (0xFFFF - 2 ^ nb), sealed := false }
  else s

/-- A copy is complete: its stamp is written, its last units are counted, the slots of receivers that are gone return, and its
error marks its batch. -/
def State.copyDone (s : State) (c : Copy) : State :=
  let s := s.copyStamp c
  match s.copies.find? (fun x => x.id == c.id) with
  | none => s
  | some c =>
    let s := s.copyCount c c.owed c.err
    let s := if c.multicast then c.lost.foldl (fun s m => s.goneSlot c.block m) s else s
    let s := { s with copies := s.copies.filter fun x => x.id != c.id }
    if (fget s.waves c.u).isNone then s
    else (if c.err then s.modWave c.u fun w => { w with batchErr := w.batchErr ||| 2 ^ c.batch } else s).openBatch c.u

/-- A copy is ready to complete: its units are performed and its command has been handed over. -/
def Copy.ready (c : Copy) : Bool :=
  c.left.isEmpty && (match c.carried with
    | some k => k.landed
    | none => true)

/-- COPY_COMPLETE. -/
def execCopyComplete (s : State) : Host.Outcome State Fault Refusal :=
  .next (match s.copies.find? (fun c => c.id == s.arg.n) with
    | some c => if c.ready then s.copyDone c else s
    | none => s)

/-! ## Acceptance (R298, R303 to R306) -/

/-- The offset that a plan's range has in the blocks it names. -/
def planOff (kind : Nat) (r : Rng) : Nat := if kind == 2 || r.space ≠ 2 then r.base else bits r.base 21 0

/-- The pages of a stamp stay pinned with those of the data (R167). -/
def stampPins (p : CpPlan) (st : FMap Nat) : FMap Nat := match p.stamp with
  | some t => if t.space == 0 then st else []
  | none => []

/-- A copy of a wave is accepted with its pins. -/
def State.copyAccept (s : State) (x : EngIn) (i : Instr) (f : FmtX) (kind : Nat) (p : CpPlan) (srcPins dstPins stPins : FMap Nat) : State :=
  let w := s.wave x.u
  let bl := if p.dst.space == 0 then (if p.bar.isSome then [w.block] else []) else s.copyBlocks f kind w.block p.dst
  let stBl := match p.stamp with
    | some t => s.copyBlocks f kind w.block t
    | none => []
  let units := p.shape.rows * p.shape.len / 16
  let src := if p.src.space == 0 then (0, p.src.base) else (s.scrPlace w.block p.src.space p.src.base).getD (w.block, p.src.base)
  let s := if kind == 2 then s.takeSlots w.block (cpMembers f) else s
  let c : Copy := {
    id := s.next, u := x.u, ctx := w.ctx, core := w.core, block := w.block, batch := w.batch, pc := x.at_ i,
    pol := s.polOf w.ctx ((hdrOf i).getD default),
    dsp := if p.dst.space == 0 then 0 else 1, ssp := if p.src.space == 0 then 0 else 1, src := src.2,
    dst := planOff kind p.dst, srcPitch := p.shape.srcPitch, dstPitch := p.shape.dstPitch,
    rowUnits := max 1 (p.shape.len / 16), srcPins := srcPins,
    dstPins := (stampPins p stPins).foldl (fun m e => fput m e.1 e.2) dstPins, srcBlock := src.1,
    targets := bl.map s.scrDst, stampTo := stBl.map s.scrDst, multicast := kind == 2,
    left := if units == 0 then [] else [(0, units)],
    stamp := p.stamp.map fun t => (if t.space == 0 then pinned stPins t.base else planOff kind t,
      regOf64 x.regs (f.u4.toNat + 2)),
    bar := p.bar, owed := 0, err := false, lost := [],
    carried := if kind == 3 then (carriedWord x.regs f).map fun i => { unit := i, regs := x.regs, landed := false } else none }
  let s := ({ s with next := s.next + 1, copies := s.copies ++ [c] }).markSync x.u (objKey 3 x.u w.batch)
  if c.ready then s.copyDone c else s

/-- A copy instruction in one wave. -/
def copyWave (i : Instr) (f : FmtX) (kind : Nat) (s : State) (x : EngIn) : EngRes :=
  let w := s.wave x.u
  let p := copyPlan f kind x.regs
  match firstEng (s.copyChecks f kind w.block x.regs p) with
  | some h => .bad h
  | none =>
    match s.pinAll w.core w.ctx 5 w.high ([p.src, p.dst] ++ p.stamp.toList) with
    | .bad h => .bad h
    | .soft code va wr => .soft code va wr
    | .wait l => .wait l
    | .ok pins s =>
      if w.sealed || !s.lanesDone x || decide (s.entriesUsed w.core ≥ 64)
          || (kind == 2 && (cpMembers f).any fun m => (s.block w.block).slot m == 0) then .wait []
      else .ok (s.copyAccept x i f kind p (pins.getD 0 []) (pins.getD 1 []) (pins.getD 2 []))

/-- A copy instruction with its waves' register values. -/
def State.copyPerform (s : State) (i : Instr) (ins : List EngIn) : Res :=
  match copyFields i with
  | some (f, kind) => s.engPerform i ins (copyWave i f kind)
  | none => .ok s

/-- A copy instruction as it issues. -/
def copyWord (i : Instr) : State → List TRef → Res := fun s l =>
  let ins := (s.engIns i l plainLane).map fun x => { x with regs := s.copyRegs x.u i }
  match copyFields i with
  | some (f, kind) => s.engIssue i ins (s.engPerform i ins fun s x => if s.carriedPending x.u i x.regs then .wait [] else copyWave i f kind s x)
  | none => .ok s

/-- COPY. -/
def execCopy (h : Hdr) (f : FmtX) : State → Host.Outcome State Fault Refusal := runWord (.copy h f) (copyWord (.copy h f))
/-- COPY2. -/
def execCopy2 (h : Hdr) (f : FmtX) : State → Host.Outcome State Fault Refusal := runWord (.copy2 h f) (copyWord (.copy2 h f))
/-- COPYM. -/
def execCopym (h : Hdr) (f : FmtX) : State → Host.Outcome State Fault Refusal := runWord (.copym h f) (copyWord (.copym h f))
/-- COPYX. -/
def execCopyx (h : Hdr) (f : FmtX) : State → Host.Outcome State Fault Refusal := runWord (.copyx h f) (copyWord (.copyx h f))

/-! ## Batches (R307 to R310) -/

/-- The batch that a wave's threads at an address have sealed there. -/
def State.sealedBy (s : State) (pc : Nat) (mine : List TRef) : Option Nat :=
  mine.findSome? fun t => ((s.thread t).sealed.filter fun e => e.1 == pc).map Prod.snd

/-- A wave's threads are no longer at the word that sealed a batch. -/
def State.sealOver (s : State) (mine : List TRef) : State := mine.foldl (fun s t => s.modThread t fun th => { th with sealed := none }) s

/-- A wave's open batch is sealed by its threads at an address, and the next number opens at once if it is done. -/
def State.sealBatch (s : State) (u pc : Nat) (mine : List TRef) : State :=
  let b := (s.wave u).batch
  mine.foldl (fun s t => s.modThread t fun th => { th with sealed := some (pc, b) }) ((s.modWave u fun w => { w with sealed := true }).openBatch u)

/-- A sealed batch is followed by an open one. -/
def State.sealDone (s : State) (u b : Nat) : Bool := !((s.wave u).sealed && (s.wave u).batch == b)

/-- A word that may seal its waves' open batches: those that `seals` names and that have not been sealed there are sealed first
(R309), which stands also where the wave then waits. -/
def sealWord (seals : State → Nat → Bool) (f : State → Nat → List TRef → Nat → Except (Option Hit) State) (s : State) (l : List TRef) : Res :=
  let pc := (s.issue.map Issue.chainPc).getD 0
  let lanes := fun (u : Nat) => l.filter fun t => t.u == u
  let first := fun (s : State) => (wavesOf l).filter fun u => (s.sealedBy pc (lanes u)).isNone && !(s.wave u).sealed && seals s u
  let us := first s
  let s1 := us.foldl (fun s u => s.sealBatch u pc (lanes u)) s
  match perWave l s1 fun s u mine => match s.sealedBy pc mine with
      | some b => if s.sealDone u b then (match f s u mine b with
          | .ok s => .ok (s.sealOver mine)
          | e => e) else .error none
      | none => if seals s u then .error none else f s u mine 16 with
  | .stall => if us.isEmpty then .stall else .again fun s => us.foldl (fun s u => s.sealBatch u pc (lanes u)) s
  | .waves s2 left =>
    if us.any left.contains then .again fun s => (us.filter left.contains).foldl (fun s u => s.sealBatch u pc (lanes u)) s else .waves s2 left
  | r => r

/-- BSEAL: it seals the open batch, and waits until the next number is done. -/
def execBseal (h : Hdr) (f : FmtS) : State → Host.Outcome State Fault Refusal :=
  runWord (.bseal h f) (sealWord (fun _ _ => true) fun s u mine b =>
    let s := s.markSync u (objKey 3 u b)
    .ok (if bsD f == 244 then s else mine.foldl (fun s t => s.setV t (bsD f) (BitVec.ofNat 32 b)) s))

/-- The batch that BWAIT names in a wave. -/
def State.waitedBatch (s : State) (u : Nat) (f : FmtS) : Nat :=
  if bsRb f then (s.sreg u (bsUs f)).toNat % 16 else bsBn f

/-- BWAIT: an open batch is sealed first; the word waits until the batch is done. -/
def execBwait (h : Hdr) (f : FmtS) : State → Host.Outcome State Fault Refusal :=
  runWord (.bwait h f) (sealWord (fun s u => s.waitedBatch u f == (s.wave u).batch && !(s.wave u).sealed) fun s u mine x =>
    let b := if x == 16 then s.waitedBatch u f else x
    if !s.batchDone u b then .error none
    else
      let ok := !(s.wave u).batchErr.testBit b
      .ok ((mine.foldl (fun s t => s.setP t (bsPs f) ok) s).markSync u (objKey 3 u b)))

/-- ERR and DONE of BQRY (R310). -/
def State.batchStatus (s : State) (u : Nat) : Nat :=
  (s.wave u).batchErr * 65536 + bitsOf ((upto 0 16).filter fun b => s.batchDone u b)

/-- BQRY. -/
def execBqry (h : Hdr) (f : FmtS) : State → Host.Outcome State Fault Refusal :=
  runWord (.bqry h f) fun s l => perWave l s fun s u mine =>
    let v := s.batchStatus u
    .ok ((mine.foldl (fun s t => s.setV t (bsD f) (BitVec.ofNat 32 v)) s).recVal u 127 0x246 0 (BitVec.ofNat 64 v))

/-! ## Barrier objects (R311 to R316) -/

/-- CS, PT, TK and PS of a barrier instruction. -/
def barCs (f : FmtX) : Bool := f.xmod.getLsbD 11
def barPt (f : FmtX) : Bool := f.xmod.getLsbD 10
def barTk (f : FmtX) : Bool := f.xmod.getLsbD 9
def barPs (f : FmtX) : Nat := (f.xmod.extractLsb' 0 3).toNat

/-- The object that a barrier instruction names, or what it meets instead. -/
def State.barPlace (s : State) (x : EngIn) (f : FmtX) : Except EngHit (Nat × Nat) :=
  let a := (regOf x.regs f.u0.toNat).toNat
  if a % 16 ≠ 0 then .error ⟨1, .align, 0, some a⟩
  else match s.scrPlace (s.wave x.u).block (if barCs f then 2 else 1) a with
    | none => .error ⟨2, .bounds, 1, some a⟩
    | some (b, off) =>
      if off + 16 > (s.block b).scratch then .error ⟨2, .bounds, 1, some a⟩ else .ok (b, off)

/-- A barrier instruction: each wave with its object and its threads. -/
def barWord (i : Instr) (f : FmtX) (g : List EngIn → State → EngIn → Nat → Nat → EngRes) : State → List TRef → Res :=
  fun s l => s.engPerform i (s.engIns i l plainLane) fun s x =>
    match s.barPlace x f with
    | .error h => .bad h
    | .ok (b, off) => match g (s.engIns i l plainLane) s x b off with
      | .ok s' => .ok (s'.markSync x.u (objKey 6 b off))
      | r => r

/-- A release at the object's scope waits for the threads' earlier accesses (R231, R316). -/
def State.barReady (s : State) (x : EngIn) (f : FmtX) : Bool := x.lanes.all fun l => s.allDone l.1 (if barCs f then 2 else 1)

/-- BARI. -/
def execBari (h : Hdr) (f : FmtX) : State → Host.Outcome State Fault Refusal :=
  runWord (.bari h f) (barWord (.bari h f) f fun _ s x b off =>
    let n := (regOf x.regs f.u1.toNat).toNat
    if n == 0 || n > 65535 then .bad ⟨3, .bounds, 4, none⟩
    else if !s.barReady x f then .wait []
    else .ok (s.barOp b off fun _ => n * 2 ^ 80))

/-- BARX. -/
def execBarx (h : Hdr) (f : FmtX) : State → Host.Outcome State Fault Refusal :=
  runWord (.barx h f) (barWord (.barx h f) f fun _ s x b off =>
    .ok (s.barOp b off fun o => setBits o 55 0 (bits o 55 0 + (regOf x.regs f.u1.toNat).toNat)))

/-- The waves of a bundle in lower slots that arrive at a wave's object, and the wave itself, may arrive (R315). -/
def State.barsReady (s : State) (ins : List EngIn) (x : EngIn) (f : FmtX) : Bool :=
  let at_ := fun (y : EngIn) => match s.barPlace y f with
    | .ok p => some p
    | .error _ => none
  (ins.takeWhile (fun y => y.u != x.u) ++ [x]).all fun y => at_ y != at_ x || s.barReady y f

/-- BARA: the arrival, tested as it is performed, and the token if TK is set. -/
def execBara (h : Hdr) (f : FmtX) : State → Host.Outcome State Fault Refusal :=
  runWord (.bara h f) (barWord (.bara h f) f fun ins s x b off =>
    let k := if barPt f then x.lanes.length else 1
    let o := s.scrRead b off 16
    if !s.barsReady ins x f then .wait []
    else if bits o 79 64 + k > bits o 95 80 then .bad ⟨3, .bounds, 3, none⟩
    else
      let s := s.barOp b off fun o => setBits o 79 64 (bits o 79 64 + k)
      let tok := BitVec.ofNat 32 (bits o 127 96)
      .ok (if barTk f then (s.setS x.u f.u1.toNat tok).recVal x.u 127 0x24A 0 (tok.setWidth 64) else s))

/-- A predicate of every contributing thread, logged (R320). -/
def State.barAnswer (s : State) (x : EngIn) (f : FmtX) (op : Nat) (v : Bool) : State :=
  (x.lanes.foldl (fun s l => s.setP l.1 (barPs f) v) s).recVal x.u 127 op 0 (if v then 1 else 0)

/-- BARW: it waits until the phase is another than the token's. -/
def execBarw (h : Hdr) (f : FmtX) : State → Host.Outcome State Fault Refusal :=
  runWord (.barw h f) (barWord (.barw h f) f fun _ s x b off =>
    let o := s.scrRead b off 16
    if bits o 127 96 == (regOf x.regs f.u1.toNat).toNat then .wait []
    else .ok ((s.barAnswer x f 0x24C (!o.testBit 57)).acquire (s.wave x.u).core 1))

/-- BART. -/
def execBart (h : Hdr) (f : FmtX) : State → Host.Outcome State Fault Refusal :=
  runWord (.bart h f) (barWord (.bart h f) f fun _ s x b off =>
    let c := bits (s.scrRead b off 16) 127 96 != (regOf x.regs f.u1.toNat).toNat
    let s := s.barAnswer x f 0x24D c
    .ok (if c then s.acquire (s.wave x.u).core 1 else s))

/-! ## Multicast credit (R317, R318) -/

/-- The value of SLOTQ. -/
def Block.slotValue (k : Block) : Nat :=
  k.overs * 2 ^ 20 + k.gone * 2 ^ 16 + (upto 0 4).foldl (fun v m => v + k.slot m * 2 ^ (4 * m)) 0

/-- SLOTQ. -/
def execSlotq (h : Hdr) (f : FmtX) : State → Host.Outcome State Fault Refusal :=
  runWord (.slotq h f) fun s l => perWave l s fun s u _ =>
    let b := (s.wave u).block
    let k := s.block b
    let v := k.slotValue
    let s := s.setBlock b { k with overs := 0, gone := 0 }
    .ok (((s.setS u f.u0.toNat (BitVec.ofNat 32 v)).recVal u 127 0x247 0 (BitVec.ofNat 64 v)).markSync u none)

/-- SLOTRET. -/
def execSlotret (h : Hdr) (f : FmtX) : State → Host.Outcome State Fault Refusal :=
  runWord (.slotret h f) fun s l => perWave l s fun s u _ =>
    let b := (s.wave u).block
    match s.memberBlock b (f.xmod.extractLsb' 10 2).toNat with
    | none => .error (some (hit { u := u, i := 0 } (rankOwn 0) .bounds 1))
    | some k => .ok ((s.addSlots k (s.block b).member (f.xmod.extractLsb' 6 4).toNat).markSync u none)

end Sys2Proof.Machine
end

