-- ==== Sys2Proof/Machine/Sprouts.lean ====
section
/-! DEFINITION. Class 8: sprout requests, their bursts and the threads born from them (R322 to R349). -/

namespace Sys2Proof.Machine

/-! ## Records of births (R343, R463, R471) -/

/-- A WAVE record for a unit that starts or moves. -/
def State.recWave (s : State) (u : Nat) : State :=
  let w := s.wave u
  if !s.recording w.ctx then s
  else
    let b := s.block w.block
    let who := match w.sprout with
      | some p => 2 ^ 13 + p.req % 2 ^ 32 * 2 ^ 64 + p.ordinal % 65536 * 2 ^ 112
      | none => b.blin.toNat % 2 ^ 32 * 2 ^ 64 + w.wid % 256 * 2 ^ 104
    s.emit w.ctx (clusterOf w.core)
      (BitVec.ofNat 128 (2 + w.recd.unit % 512 * 2 ^ 4 + b.lnum % 2 ^ 18 * 2 ^ 14 + w.tag.toNat * 2 ^ 32 + w.core * 2 ^ 96 + who))

/-- Recorded sprout threads of a core. -/
def State.sproutUnits (s : State) (core : Nat) : List Nat :=
  (s.waves.filter fun e => e.2.core == core && e.2.isSprout && s.recording e.2.ctx && !e.2.saved).map fun e => e.2.recd.unit

/-- The lowest free sprout pair of a core, as a UNIT. -/
def State.freePair (s : State) (core : Nat) : Option Nat :=
  let used := s.sproutUnits core
  ((upto 0 64).map fun j => 256 + core % 4 * 64 + j).find? fun n => !used.contains n

/-! ## Requests (R323, R345, R346) -/

/-- An outstanding request of a block by its number. -/
def State.sprFind (s : State) (block n : Nat) : Option SprReq := s.sprReqs.find? fun r => r.block == block && r.n == n

/-- A completed request that the block still knows. -/
def State.sprKnown (s : State) (block n : Nat) : Option SprDone := s.sprDone.reverse.find? fun r => r.block == block && r.n == n

/-- The state with a request changed. -/
def State.modReq (s : State) (id : Nat) (f : SprReq → SprReq) : State :=
  { s with sprReqs := s.sprReqs.map fun r => if r.id == id then f r else r }

/-- Ordinals of ranges. -/
def rangeCount (l : List (Nat × Nat)) : Nat := l.foldl (fun n r => n + (r.2 - r.1)) 0

/-- The virtual address of an ordinal of a request. -/
def SprReq.addr (r : SprReq) (k : Nat) : Nat :=
  match fget r.addrs k with
  | some a => a
  | none => r.src + k / r.rowBursts * r.pitch + 64 * (k % r.rowBursts)

/-- Bursts of a request that wait in the buffer. -/
def State.buffered (s : State) (id : Nat) : Nat := (s.sprBuf.filter fun b => b.req == id).length

/-- Every burst of the request is born or discarded, and every thread has ended (R335). -/
def State.sprOver (s : State) (r : SprReq) : Bool := r.left.isEmpty && s.buffered r.id == 0 && r.ended == r.born

/-- The request's error flag, with what its handlers' ends have set (R340). -/
def State.sprErr (s : State) (r : SprReq) : Bool := r.err || s.reqErr.contains (r.block, r.n)

/-- The completion of a request's mode and its place among the completed ones (R335, R348). -/
def State.sprComplete (s : State) (r : SprReq) : State :=
  let s := if r.cm == 2 then
      (if r.sts then s.scrLand r.block r.stamp.1 (leBytes r.stamp.2.toNat 8) else s.engStore r.ctx r.stamp.1 (leBytes r.stamp.2.toNat 8) false)
    else s
  let d : SprDone := { block := r.block, n := r.n, err := s.sprErr r, cancelled := r.cancelled, born := r.born }
  let mine := s.sprDone.filter fun x => x.block == r.block
  let rest := if mine.length ≥ 64 then (match mine.head? with
    | some o => eraseFirst (· == o) s.sprDone
    | none => s.sprDone) else s.sprDone
  { s with sprReqs := s.sprReqs.filter (fun x => x.id != r.id), sprDone := rest ++ [d],
           reqErr := s.reqErr.filter fun e => e != (r.block, r.n) }

/-- Bytes of a request are counted on its barrier object, the last with the arrival and ERR; then the request
completes if it is over (R335). -/
def State.sprCount (s : State) (id bytes : Nat) : State :=
  match s.sprReqs.find? (fun r => r.id == id) with
  | none => s
  | some r =>
    let last := s.sprOver r
    let s := if r.cm == 1 || r.cm == 3 then
        s.barOp r.block r.bar (barCount bytes (last && s.sprErr r) (last && r.cm == 1))
      else s
    if last then s.sprComplete r else s

/-! ## Birth (R327 to R332) -/

/-- Live sprout threads of a block. -/
def State.sproutsOf (s : State) (block : Nat) : Nat := (s.waves.filter fun e => e.2.block == block && e.2.isSprout).length

/-- A frame of the block is free, and a signature pair where the context is recorded (R331, R343). -/
def State.frameFree (s : State) (r : SprReq) : Bool :=
  decide (s.sproutsOf r.block < (s.block r.block).sprouts) && (!s.recording r.ctx || (s.freePair r.core).isSome)

/-- Entries of a core's sprout buffer: the bytes not given to frames of its resident blocks (R331). -/
def State.sprBufSize (s : State) (core : Nat) : Nat :=
  let given := (s.blocks.filter fun e => e.2.core == core && !e.2.saved).foldl (fun n e => n + 128 * e.2.sprouts) 0
  (bits (s.core core).part.toNat 31 24 * 16384 - given) / 64

/-- A burst as it is born. In a recorded or replayed context its value is that of its sector at the birth, which R326 allows, so that its
read stands where the log has it (R343, log entry 25); one that was read for a save keeps what it read (R341). -/
def State.burstNow (s : State) (r : SprReq) (x : Burst) : Burst :=
  if !s.tracking r.ctx || r.pins.isEmpty then x
  else
    let d := s.engRead x.pa 64
    let lost := s.unreached x.pa
    { x with data := BitVec.ofNat 512 d.1, bad := d.2 || lost, lost := lost }

/-- A birth waits for a bundle that has not retired and that stores to the burst (R466), and in a replay for the chunks of the context
whose TS is smaller than that of the thread's first chunk (R486). -/
def State.birthHeld (s : State) (r : SprReq) (x : Burst) : Bool :=
  s.lateConflict r.u (recXMem x.pa) false || (match (fget s.replays r.ctx), s.loggedSprout r x.ordinal with
    | some p, some w =>
      (match (fgetD p.chunks (clusterOf r.core * 512 + bits w.toNat 12 4) []).head? with
       | some k => s.waves.any fun e => e.2.ctx == r.ctx && !e.2.saved && !e.2.retired && !e.2.live.isEmpty && (match s.curChunk e.1 with
           | some j => decide (j.ts < k.ts)
           | none => false)
       | none => false)
    | _, _ => false)

/-- A burst is born as a sprout thread (R327). The clock of a recorded one follows its request's, so that its chunks come after the one
that made the request (R468, log entry 86). -/
def State.birth (s : State) (r : SprReq) (x : Burst) : State :=
  let x := s.burstNow r x
  let k := x.ordinal
  let w := s.wave r.u
  let b := s.block r.block
  let coord := fun (n : Nat) => BitVec.ofNat 32 n
  let one := !r.addrs.isEmpty
  let th : Thread := { (default : Thread) with
    pc := r.pc, st := .ready, readyAt := s.steps,
    v := ((upto 0 16).map fun j => (j, x.data.extractLsb' (32 * j) 32)).filter (fun e => decide (e.2 ≠ 0)),
    burst := if x.bad then some (x.pa, x.lost) else none }
  let rec_ := s.loggedSprout r k
  let unit := (rec_.map fun w => bits w.toNat 12 4).getD ((s.freePair r.core).getD 256)
  let tag := (rec_.map fun w => bits w.toNat 63 32).getD (2 ^ 31 + s.next % 2 ^ 31)
  let nw : Wave := { (default : Wave) with
    ctx := r.ctx, core := r.core, block := r.block, slot := 32, wid := 0xFFFFFFFF, width := 1,
    lane := Config.sproutLane s.next % 64, regs := 32, tag := BitVec.ofNat 32 tag,
    sprout := some { req := r.n, ordinal := k, off := coord (64 * k),
                     row := if one then 0 else coord (k / r.rowBursts), col := if one then 0 else coord (64 * (k % r.rowBursts)),
                     fin := r.born + 1 == r.total, birth := s.next, ended := false },
    threads := [(0, th)], s := r.regs, fpsw := BitVec.ofNat 32 (b.en * 256), recd := { (default : RecUnit) with unit := unit, clock := fgetD s.objClock (ocKey r.ctx ((objKey 4 r.block r.n).getD 0)) 0 + 1 } }
  let u := s.next
  let s := ({ s with next := s.next + 1, waves := fput s.waves u nw }).modReq r.id fun r =>
    { r with born := r.born + 1, err := r.err || x.bad }
  let s := if s.recording r.ctx then
      s.emit r.ctx (clusterOf r.core)
        (BitVec.ofNat 128 (8 + w.recd.unit % 512 * 2 ^ 4 + r.n % 2 ^ 32 * 2 ^ 32 + k % 65536 * 2 ^ 64))
    else s
  (((s.recWave u).recAccess u (recXMem x.pa) true false .all).count 0 r.core 12 1).skipBare u

/-- Births of the request stop while its context is being saved or is saved (R341). -/
def State.birthsStop (s : State) (c : Nat) : Bool := (s.ctx c).pst == 1 || (s.ctx c).pst == 2 || (s.ctx c).pst == 3

/-- In a replay bursts are born in the order of the log of their cluster, each as its frame is free (R486). -/
def State.loggedBirths (s : State) (c cluster : Nat) : Nat → State
  | 0 => s
  | fuel + 1 =>
    match fget s.replays c with
    | none => s
    | some p =>
      match fgetD p.births cluster [] with
      | [] => s
      | (unit, n, k) :: rest =>
        match s.sprReqs.find? (fun r => r.ctx == c && r.n == n && clusterOf r.core == cluster && (s.wave r.u).recd.unit == unit) with
        | none => s
        | some r =>
          match s.sprBuf.find? (fun b => b.req == r.id && b.ordinal % 65536 == k) with
          | none => s
          | some b =>
            if !s.frameFree r || s.birthHeld r b then s
            else
              let s := { s with sprBuf := eraseFirst (· == b) s.sprBuf,
                                replays := fput s.replays c { p with births := fput p.births cluster rest } }
              (s.birth r b).loggedBirths c cluster fuel

/-- A frame is free: the oldest burst of the block that waits is born (R332). -/
def State.nextBirth (s : State) (block : Nat) : State :=
  let k := s.block block
  if s.replaying k.ctx then s.loggedBirths k.ctx (clusterOf k.core) (s.sprBuf.length + 1)
  else match s.sprBuf.find? (fun b => s.sprReqs.any fun r => r.id == b.req && r.block == block) with
  | none => s
  | some b =>
    match s.sprReqs.find? (fun r => r.id == b.req) with
    | none => s
    | some r =>
      if s.frameFree r && !s.birthsStop r.ctx && !s.birthHeld r b then
        ({ s with sprBuf := eraseFirst (· == b) s.sprBuf }).birth r b
      else s

/-- At the end of a cycle, bursts that wait are born where a frame, and a signature pair, has become free: also one of another
block, and bursts that were saved with their context (R332, R341, R343). -/
def State.settleBirths (s : State) : State :=
  (dedup (s.sprBuf.filterMap fun b => (s.sprReqs.find? fun r => r.id == b.req).map SprReq.block)).foldl State.nextBirth s

/-- The ordinals of a request that the log of a replay holds as born and that are not born yet, in their order (R343). -/
def State.loggedOrdinals (s : State) (r : SprReq) : List Nat :=
  match fget s.replays r.ctx with
  | none => []
  | some p => (fgetD p.births (clusterOf r.core) []).filterMap fun e =>
      if e.1 == (s.wave r.u).recd.unit && e.2.1 == r.n then some e.2.2 else none

/-- The ordinal of a request's next burst: the one asked for if it is not yet read, or else the lowest; in a replay the next
one that the log holds as born, one at a time (R326, R343). -/
def State.nextOrdinal (s : State) (r : SprReq) (k : Nat) : Option Nat :=
  if s.replaying r.ctx then (if s.buffered r.id == 0 then (s.loggedOrdinals r).head? else none)
  else if r.left.any (fun x => x.1 ≤ k && k < x.2) then some k else r.left.head?.map Prod.fst

/-- A burst of the request may arrive: its block has a free frame and no burst that waits, or the buffer has room. -/
def State.mayArrive (s : State) (r : SprReq) : Bool :=
  let waits := s.sprBuf.any fun b => s.sprReqs.any fun q => q.id == b.req && q.block == r.block
  let used := (s.sprBuf.filter fun b => s.sprReqs.any fun q => q.id == b.req && q.core == r.core && !(s.block q.block).saved).length
  (!waits && s.frameFree r && !s.birthsStop r.ctx) || decide (used < s.sprBufSize r.core) || s.birthsStop r.ctx || s.replaying r.ctx

/-- BURST_ARRIVAL: the burst of ordinal `k` of request `n` is read, and is born or waits in the buffer. -/
def execBurstArrival (s : State) : Host.Outcome State Fault Refusal :=
  .next (match s.sprReqs.find? (fun r => r.id == s.arg.n) with
    | none => s
    | some r =>
      if r.left.isEmpty || !s.mayArrive r then s
      else match s.nextOrdinal r s.arg.k with
      | none => s
      | some k =>
        let waits := s.sprBuf.any fun b => s.sprReqs.any fun q => q.id == b.req && q.block == r.block
        let pa := pinned r.pins (r.addr k)
        let x := s.engRead pa 64
        let lost := s.unreached pa
        let e : Burst := { req := r.id, ordinal := k, pa := pa, data := BitVec.ofNat 512 x.1, bad := x.2 || lost, lost := lost }
        let r' := { r with left := (takeUnits k 1 r.left).2 }
        let s1 := (s.modReq r.id fun _ => r').engPass r.pol pa
        if s.replaying r.ctx then ({ s1 with sprBuf := s1.sprBuf ++ [e] } : State).nextBirth r.block
        else if !waits && s1.frameFree r' && !s1.birthsStop r.ctx && !s1.birthHeld r' e then s1.birth r' e
        else { s1 with sprBuf := s1.sprBuf ++ [e] })

/-! ## The end of a sprout thread (R335, R336) -/

/-- The accesses of an ended sprout thread are performed at device scope, it holds no logged unit, and it has not been saved (R341). -/
def State.sproutOver (s : State) (u : Nat) : Bool :=
  let w := s.wave u
  (match w.sprout with
   | some p => p.ended
   | none => false) && !w.saved && w.log.isEmpty && s.allDone { u := u, i := 0 } 4

/-- A sprout thread leaves: its frame frees, and its end is counted towards its request. -/
def State.sproutGone (s : State) (u : Nat) : State :=
  let w := s.wave u
  match w.sprout with
  | none => s
  | some p =>
    let s := { s with waves := fdel s.waves u, accs := s.accs.filter fun a => a.t.u != u }
    match s.sprFind w.block p.req with
    | none => s
    | some r => ((s.modReq r.id fun r => { r with ended := r.ended + 1 }).sprCount r.id 64).nextBirth w.block

/-- SPROUT_END. -/
def execSproutEnd (s : State) : Host.Outcome State Fault Refusal :=
  .next (if s.sproutOver s.arg.n then s.sproutGone s.arg.n else s)

/-! ## The request words (R325, R345, R346) -/

/-- A request as its registers give it. -/
structure SpPlan where
  src : List Rng
  rows : Nat
  rowBursts : Nat
  pitch : Nat
  /-- For SPRX: the address of each ordinal. -/
  addrs : FMap Nat
  pc : Nat
  cm : Nat
  sts : Bool
  bar : Nat
  /-- Stamp address and value. -/
  stamp : Nat × Dword
  sizeBad : Bool
  /-- The register that receives the number. -/
  out : Nat
  deriving DecidableEq, Repr

/-- A stamp block's address and value. -/
def stampOf (r : FMap Word) (k : Nat) (sts : Bool) : Nat × Dword :=
  (if sts then (regOf r k).toNat else (regOf64 r k).toNat, regOf64 r (k + 2))

/-- SPRD (0) and SPRD2 (1). -/
def planSprd (f : FmtX) (kind : Nat) (r : FMap Word) : SpPlan :=
  let n := (regOf r f.u1.toNat).toNat
  let rows := if kind == 1 then bits n 31 16 + 1 else 1
  let rb := if kind == 1 then bits n 9 0 + 1 else n / 64
  let pitch := if kind == 1 then (regOf r f.u3.toNat).toNat else 0
  let len := if kind == 1 then 64 * rb else n
  { src := [⟨0, (regOf64 r f.u0.toNat).toNat, pitch, rows, len, false⟩], rows := rows, rowBursts := max 1 rb,
    pitch := pitch, addrs := [], pc := (regOf64 r f.u2.toNat).toNat, cm := spCm f, sts := spSts f,
    bar := (regOf r f.u4.toNat).toNat, stamp := stampOf r f.u4.toNat (spSts f),
    sizeBad := if kind == 1 then bits n 15 10 != 0 || (decide (rows > 1) && pitch != 0 && decide (pitch < len)) || decide (rows * rb > 65536)
               else decide (n > 4194304),
    out := f.u5.toNat }

/-- SPRX, with the addresses of its threads. -/
def planSprx (f : FmtM) (x : EngIn) : SpPlan :=
  let k := f.d.toNat
  let op := (regOf x.regs (k + 2)).toNat
  { src := x.lanes.map (fun l => ⟨0, l.2.ea, 0, 1, 64, false⟩), rows := 1, rowBursts := 0, pitch := 0,
    addrs := x.lanes.foldl (fun m l => fput m l.1.i l.2.ea) [], pc := (regOf64 x.regs k).toNat, cm := sxCm f, sts := sxSts f,
    bar := op, stamp := stampOf x.regs op (sxSts f),
    sizeBad := sxCm f == 2 && (op % 2 == 1 || decide (op > 60)), out := k + 3 }

/-- The plan of a request word in a wave. -/
def spPlan (i : Instr) (x : EngIn) : Option SpPlan :=
  match i with
  | .sprd _ f => some (planSprd f 0 x.regs)
  | .sprd2 _ f => some (planSprd f 1 x.regs)
  | .sprx _ f => some (planSprx f x)
  | _ => none

/-- The stamp of a plan as a range, if it has one. -/
def SpPlan.stampRng (p : SpPlan) : List Rng := if p.cm == 2 then [⟨if p.sts then 1 else 0, p.stamp.1, 0, 1, 8, true⟩] else []

/-- The checks of R325 but for translation. NOSPROUT is met by a block that has no sprouts now, after a RESHAPE too (log entry 96). -/
def State.sprChecks (s : State) (block : Nat) (p : SpPlan) : List EngHit :=
  let k := s.block block
  let barred := p.cm == 1 || p.cm == 3
  (if k.sprouts == 0 then [⟨1, .bounds, 5, none⟩] else [])
    ++ (if p.sizeBad then [⟨2, .bounds, 2, none⟩] else [])
    ++ p.src.flatMap (fun r => r.noncanon 3) ++ p.stampRng.flatMap (fun r => r.noncanon 3)
    ++ (if p.pc ≥ 2 ^ 56 then [⟨3, .memfault, 5, some p.pc⟩] else [])
    ++ p.src.flatMap (fun r => r.misaligned 64 4)
    ++ (if p.pc % 8 ≠ 0 then [⟨4, .align, 0, some p.pc⟩] else [])
    ++ p.stampRng.flatMap (fun r => if r.base % 8 ≠ 0 then [⟨4, .align, 0, some r.base⟩] else [])
    ++ (if barred && p.bar % 16 ≠ 0 then [⟨4, .align, 0, some p.bar⟩] else [])
    ++ (if barred && p.bar + 16 > k.scratch then [⟨5, .bounds, 1, some p.bar⟩] else [])
    ++ p.stampRng.flatMap (fun r => s.outside block 5 r)

/-- A request is accepted (R323, R342, R345). -/
def State.sprAccept (s : State) (x : EngIn) (i : Instr) (p : SpPlan) (srcPins stPins : FMap Nat) : State :=
  let w := s.wave x.u
  let b := s.block w.block
  let n := b.nextReq
  let total := if p.addrs.isEmpty then (match p.src with
    | r :: _ => r.rows * r.len / 64
    | [] => 0) else p.addrs.length
  let left := if p.addrs.isEmpty then (if total == 0 then [] else [(0, total)]) else p.addrs.map fun e => (e.1, e.1 + 1)
  let r : SprReq := {
    id := s.next, u := x.u, ctx := w.ctx, core := w.core, block := w.block, n := n, pc := p.pc, cm := p.cm,
    sts := p.sts, bar := p.bar, stamp := if p.cm == 2 && !p.sts then (pinned stPins p.stamp.1, p.stamp.2) else p.stamp,
    regs := w.spctx, src := (p.src.head?.map Rng.base).getD 0, pitch := p.pitch, rowBursts := p.rowBursts, addrs := p.addrs,
    pins := srcPins, stPins := stPins, pol := s.polOf w.ctx ((hdrOf i).getD default), total := total, left := left, born := 0, ended := 0, dropped := 0, err := false, cancelled := false }
  let s := s.setBlock w.block { b with nextReq := (n + 1) % 2 ^ 32 }
  let s := (s.setS x.u p.out (BitVec.ofNat 32 n)).markSync x.u (objKey 4 w.block n)
  let s := { s with next := s.next + 1, sprReqs := s.sprReqs ++ [r] }
  if total == 0 then s.sprCount r.id 0 else s

/-- A request word in one wave. -/
def sprWave (i : Instr) (s : State) (x : EngIn) : EngRes :=
  match spPlan i x with
  | none => .ok s
  | some p =>
    let w := s.wave x.u
    match firstEng (s.sprChecks w.block p) with
    | some h => .bad h
    | none =>
      match s.pinAll w.core w.ctx 6 w.high (p.src ++ p.stampRng) with
      | .bad h => .bad h
      | .soft code va wr => .soft code va wr
      | .wait l => .wait l
      | .ok pins s =>
        if !s.lanesDone x || decide ((s.sprReqs.filter fun r => r.core == w.core && !(s.block r.block).saved).length ≥ 32) then .wait []
        else
          let n := p.src.length
          .ok (s.sprAccept x i p ((pins.take n).foldl (fun m k => k.foldl (fun m e => fput m e.1 e.2) m) []) (pins.getD n []))

/-- The registers of a request word, with those of SPRX's stamp block (R346). -/
def State.sprRegs (s : State) (u : Nat) (i : Instr) : FMap Word :=
  let r := s.namedRegs u i
  match i with
  | .sprx _ f =>
    if sxCm f == 2 then
      let k := (regOf r (f.d.toNat + 2)).toNat
      if k > 60 then r else (upto k 4).foldl (fun m j => fput m j (s.sreg u j)) r
    else r
  | _ => r

/-- The lane of a thread at a request word: SPRX gives an address (R170). -/
def sprLane (i : Instr) (s : State) (t : TRef) : LogLane :=
  match i with
  | .sprx h f => s.memLane (memBase h f 0 64 .store) t
  | _ => plainLane t

/-- A request word with its waves' register values. -/
def State.sprPerform (s : State) (i : Instr) (ins : List EngIn) : Res := s.engPerform i ins (sprWave i)

/-- A request word as it issues. -/
def sprWord (i : Instr) : State → List TRef → Res := fun s l =>
  let ins := (s.engIns i l (sprLane i s)).map fun x => { x with regs := s.sprRegs x.u i }
  s.engIssue i ins (s.sprPerform i ins)

/-- SPRD. -/
def execSprd (h : Hdr) (f : FmtX) : State → Host.Outcome State Fault Refusal := runWord (.sprd h f) (sprWord (.sprd h f))
/-- SPRD2. -/
def execSprd2 (h : Hdr) (f : FmtX) : State → Host.Outcome State Fault Refusal := runWord (.sprd2 h f) (sprWord (.sprd2 h f))
/-- SPRX. -/
def execSprx (h : Hdr) (f : FmtM) : State → Host.Outcome State Fault Refusal := runWord (.sprx h f) (sprWord (.sprx h f))

/-! ## SPCTX, SPWAIT, SPCAN, SPQRY, SPEND (R334, R347 to R349) -/

/-- SPCTX. -/
def execSpctx (h : Hdr) (f : FmtX) : State → Host.Outcome State Fault Refusal :=
  runWord (.spctx h f) fun s l => perWave l s fun s u _ =>
    .ok (s.modWave u fun w => { w with
      spctx := (upto 0 8).foldl (fun m j => fsetD m j (s.sreg u (f.u0.toNat + j)) 0) [] })

/-- The request that a word names in a wave: its block and number. -/
def State.sprNamed (s : State) (u : Nat) (f : FmtX) : Nat × Nat := ((s.wave u).block, (s.sreg u f.u0.toNat).toNat)

/-- SPWAIT. -/
def execSpwait (h : Hdr) (f : FmtX) : State → Host.Outcome State Fault Refusal :=
  runWord (.spwait h f) fun s l => perWave l s fun s u mine =>
    let q := s.sprNamed u f
    match s.sprFind q.1 q.2 with
    | some _ => .error none
    | none =>
      let good := match s.sprKnown q.1 q.2 with
        | some d => !d.err
        | none => true
      let s := mine.foldl (fun s t => s.setP t (f.xmod.extractLsb' 0 3).toNat good) s
      .ok ((s.acquire (s.wave u).core 4).markSync u (objKey 4 q.1 q.2))

/-- The bursts of a request not yet born are discarded (R334); in a replay those that the log does not hold as born (R343). -/
def State.sprCancel (s : State) (r : SprReq) : State × Nat :=
  let stay := if s.replaying r.ctx then s.loggedOrdinals r else []
  let kept := fun (b : Burst) => b.req != r.id || stay.contains (b.ordinal % 65536)
  let left := (stay.filter fun k => r.left.any fun x => x.1 ≤ k && k < x.2).map fun k => (k, k + 1)
  let c := rangeCount r.left - rangeCount left + (s.sprBuf.filter fun b => !kept b).length
  let s := { s with sprBuf := s.sprBuf.filter kept }
  let s := s.modReq r.id fun r => { r with left := left, dropped := r.dropped + c, cancelled := true }
  (if c == 0 then s else s.sprCount r.id (64 * c), c)

/-- SPCAN. -/
def execSpcan (h : Hdr) (f : FmtX) : State → Host.Outcome State Fault Refusal :=
  runWord (.spcan h f) fun s l => perWave l s fun s u _ =>
    let q := s.sprNamed u f
    let r := match s.sprFind q.1 q.2 with
      | some r => s.sprCancel r
      | none => (s, 0)
    let s := if f.xmod.getLsbD 3 then
        (r.1.setS u f.u1.toNat (BitVec.ofNat 32 r.2)).recVal u 127 0x205 0 (BitVec.ofNat 64 r.2)
      else r.1
    .ok (s.markSync u (objKey 4 q.1 q.2))

/-- The status of a request (R348). -/
def State.sprStatus (s : State) (block n : Nat) : Nat :=
  let v := fun (o e c : Bool) (b : Nat) =>
    (if o then 2 ^ 31 else 0) + (if e then 2 ^ 30 else 0) + (if c then 2 ^ 29 else 0) + b
  match s.sprFind block n with
  | some r => v true (s.sprErr r) r.cancelled r.born
  | none => match s.sprKnown block n with
    | some d => v false d.err d.cancelled d.born
    | none => 0

/-- SPQRY; of a sprout thread the request is one of its block. -/
def execSpqry (h : Hdr) (f : FmtX) : State → Host.Outcome State Fault Refusal :=
  runWord (.spqry h f) fun s l => perWave l s fun s u _ =>
    let q := s.sprNamed u f
    let v := s.sprStatus q.1 q.2
    .ok ((s.setS u f.u1.toNat (BitVec.ofNat 32 v)).recVal u 127 0x206 0 (BitVec.ofNat 64 v))

/-- SPEND: the thread ends as by EXIT. -/
def execSpend (h : Hdr) (f : FmtS) : State → Host.Outcome State Fault Refusal :=
  runWord (.spend h f) fun s l => .ok (l.foldl (fun s t =>
    ((s.markSync t.u none).markSpend t).exitThread t) s)

end Sys2Proof.Machine
end

