-- ==== Sys2Proof/Machine/Matrix.lean ====
section
/-! DEFINITION. Class 10: the matrix engine's commands, their checks and their execution, the commands that copies
carry, and the telemetry of products (R351 to R377, R305). -/

namespace Sys2Proof.Machine

/-! ## What a command names (R359 to R368) -/

/-- The fields of a class 10 word. -/
def matFields (i : Instr) : Option FmtX :=
  match i with
  | .mma _ f | .mmas _ f | .mmat _ f | .mzero _ f | .mlda _ f | .msta _ f | .mcvt _ f | .mepi _ f | .mdrain _ f | .mseq _ f
  | .mstat _ f | .mfence _ f => some f
  | _ => none

/-- A product word: MMA 0, MMAS 1, MMAT 2 (R377). -/
def productIndex (i : Instr) : Option Nat :=
  match i with
  | .mma _ _ => some 0
  | .mmas _ _ => some 1
  | .mmat _ _ => some 2
  | _ => none

/-- The word is an MSEQ. -/
def isMseq (i : Instr) : Bool :=
  match i with
  | .mseq _ _ => true
  | _ => false

/-- The descriptors of a word with their values: the U field, the use, the descriptor. -/
def matDescs (i : Instr) (r : FMap Word) : List (Nat × DUse × Desc) :=
  (descsOf i).map fun e => (e.1, e.2.2, descOf (regOf r e.2.1) (regOf r (e.2.1 + 1)))

/-- The descriptor at a U field. -/
def descAt (i : Instr) (r : FMap Word) (k : Nat) : Option (DUse × Desc) :=
  ((matDescs i r).find? fun e => e.1 == k).map Prod.snd

/-- The group of a word's operand formats: of its A descriptor (R356). -/
def matGroup (i : Instr) (r : FMap Word) : Nat :=
  match (matDescs i r).head? with
  | some (_, _, d) => (fmtGroup d.fmt).getD 0
  | none => 0

/-- The word works on an f64 tile pair (R351). -/
def matDouble (i : Instr) (r : FMap Word) : Bool :=
  match i with
  | .mma _ _ | .mmas _ _ | .mmat _ _ | .mseq _ _ => matGroup i r == 5
  | .mlda _ f | .msta _ f => mBit f 4
  | .mcvt _ f => mBit f 1
  | _ => false

/-- The tiles of a command (R351, R362). -/
def matTiles (i : Instr) (f : FmtX) (r : FMap Word) : List Nat :=
  match i with
  | .mzero _ _ => upto (mAcc f) (mCnt f)
  | i => if matDouble i r then [mAcc f, mAcc f + 1] else [mAcc f]

/-- The command reads, and writes, its tiles (R374). -/
def tileReads (i : Instr) : Bool :=
  match i with
  | .mzero _ _ | .mlda _ _ => false
  | _ => true
def tileWrites (i : Instr) : Bool :=
  match i with
  | .msta _ _ | .mcvt _ _ | .mdrain _ _ => false
  | _ => true

/-! ## Checks of descriptors (R353, R355, R372) -/

/-- A format that the use accepts. -/
def DUse.takes (u : DUse) (t : Nat) : Bool :=
  match u with
  | .mat | .stage => (fmtGroup t).isSome
  | .scale => t == 0
  | .vec => t == 10
  | .out => [0, 1, 4, 5, 6, 7, 10, 12, 13, 14, 15].contains t

/-- Bytes from the first of a descriptor's rows to the last, in memory. -/
def Desc.span (d : Desc) (u : DUse) : Nat := if u == .vec then 256 else 1008 * d.rp + d.rowBytes u

/-- A descriptor meets DESC (R372 order 1). -/
def Desc.wrong (d : Desc) (u : DUse) : Bool :=
  d.bad || d.kind == 3 || (d.kind != 2 && d.mem != 0) || decide (d.rot > 4) || (u != .stage && d.tp != 0) || !u.takes d.fmt
  || (d.kind == 0 && (decide (d.base ≥ 256) || d.base % 4 != 0 || d.rp != 0 || d.rot != 0
        || decide (d.base + d.rowBytes u / 4 > 240)))
  || (d.kind != 0 && u != .vec && decide (d.rp < d.rowBytes u / 16))
  || (u == .vec && (d.rp != 0 || d.rot != 0))
  || (u == .stage && (d.kind != 1 || decide (64 * d.tp < d.span u)))

/-- The pair of a product's formats is refused (R356, R360). -/
def matPairBad (i : Instr) (r : FMap Word) : Bool :=
  let ops := (matDescs i r).filter fun e => e.2.1 == .mat || e.2.1 == .stage
  let gs := ops.map fun e => fmtGroup e.2.2.fmt
  let scaled := (matDescs i r).any fun e => e.2.1 == .scale
  (match gs with
   | [a, b] => a != b
   | _ => false) || (scaled && gs.any fun g => g != some 3)

/-- The range of a descriptor in scratchpad, `off` bytes further on (R354). -/
def Desc.rng (d : Desc) (u : DUse) (off : Nat) : Rng :=
  ⟨d.kind, (if d.kind == 2 then d.mem * 2 ^ 22 else 0) + d.base + off, if u == .vec then 4 else 16 * d.rp, 64,
    if u == .vec then 4 else d.rowBytes u, u == .out || u == .stage⟩

/-- The scratchpad ranges of the descriptors. -/
def descRngs (i : Instr) (r : FMap Word) : List Rng :=
  (matDescs i r).flatMap fun e =>
    if e.2.2.kind == 0 || e.2.2.kind == 3 then []
    else [e.2.2.rng e.2.1 0] ++ (if e.2.1 == .stage then [e.2.2.rng e.2.1 (64 * e.2.2.tp)] else [])

/-- The ranges that a word addresses itself: MLDA's, MSTA's and MDRAIN's rows, and MSEQ's panels. -/
def matRngs (i : Instr) (r : FMap Word) : List Rng :=
  let pitch := fun (u : BitVec 6) => (regOf r u.toNat).toNat
  match i with
  | .mlda _ f => [⟨mSp f, addrOf r f.u0 (mSp f), pitch f.u1, 64, if mBit f 4 then 512 else 256, false⟩]
  | .msta _ f => [⟨mSp f, addrOf r f.u0 (mSp f), pitch f.u1, 64, if mBit f 4 then 512 else 256, true⟩]
  | .mdrain _ f => [⟨0, (regOf64 r f.u2.toNat).toNat, pitch f.u3, 64, 256, true⟩]
  | .mseq _ f =>
    let n := (regOf r f.u5.toNat).toNat
    let row := fun (k : Nat) => ((descAt i r k).map fun d => d.2.rowBytes .stage).getD 0
    [⟨0, (regOf64 r f.u0.toNat).toNat, (regOf r f.u4.toNat).toNat, 64, n * row 2, false⟩,
     ⟨0, (regOf64 r f.u1.toNat).toNat, (regOf r (f.u4.toNat + 1)).toNat, 64, n * row 3, false⟩]
  | _ => []

/-- ALIGN of a row layout: address and pitch multiples of 16, rows of a tile not overlapping (R363, R367). -/
def Rng.rowAlign (g : Rng) (tile : Bool) : List EngHit :=
  if g.base % 16 ≠ 0 then [⟨5, .align, 0, some g.base⟩]
  else if g.pitch % 16 ≠ 0 || (tile && decide (g.pitch < g.len)) then [⟨5, .align, 0, .none⟩] else []

/-- The devices of an MDRAIN's mask. -/
def maskDevs (m : Dword) : List Nat := (upto 0 64).filter fun k => m.getLsbD k

/-- This device reaches a device of its domain. -/
def State.reaches (s : State) (d : Nat) : Bool := d == s.devid || s.reach.contains d

/-- The checks of R372 but for translation, in order. -/
def State.matChecks (s : State) (i : Instr) (f : FmtX) (u : Nat) (r : FMap Word) : List EngHit :=
  let w := s.wave u
  let k := s.block w.block
  let ds := matDescs i r
  let regs := ds.filter fun e => e.2.2.kind == 0
  let own := matRngs i r
  (if ds.any (fun e => e.2.2.wrong e.2.1) || matPairBad i r then [⟨1, .bounds, 7, none⟩] else [])
    ++ (match i with
        | .mdrain _ f => if (regOf64 r f.u0.toNat).getLsbD s.devid then [] else [⟨1, .bounds, 7, none⟩]
        | _ => [])
    ++ (if !regs.isEmpty && decide (w.width < 64) then [⟨2, .bounds, 6, none⟩] else [])
    ++ (if regs.any fun e => decide (e.2.2.base + e.2.2.rowBytes e.2.1 / 4 > w.regs) then [⟨3, .bounds, 0, none⟩] else [])
    ++ (if (matDouble i r && mAcc f % 2 == 1) || decide (mAcc f ≥ k.acc) || (matDouble i r && decide (mAcc f + 1 ≥ k.acc))
        then [⟨3, .bounds, 8, none⟩] else [])
    ++ (match i with
        | .mzero _ f => if mAcc f + mCnt f > k.acc then [⟨4, .bounds, 2, none⟩] else []
        | .mseq _ f => if (regOf r f.u5.toNat).toNat == 0 || (regOf r f.u5.toNat).toNat > 256 then [⟨4, .bounds, 2, none⟩] else []
        | _ => [])
    ++ (ds.flatMap fun e => if e.2.2.kind != 0 && e.2.2.base % 16 ≠ 0 then [⟨5, .align, 0, some e.2.2.base⟩] else [])
    ++ own.flatMap (fun g => g.rowAlign (!isMseq i))
    ++ (descRngs i r ++ own).flatMap (fun g => s.outside w.block 6 g)
    ++ own.flatMap (fun g => g.noncanon 7)
    ++ (match i with
        | .mdrain _ f =>
          if (maskDevs (regOf64 r f.u0.toNat)).any fun d => !s.reaches d
          then [⟨8, .memfault, 6, some (regOf64 r f.u2.toNat).toNat⟩] else []
        | _ => [])

/-! ## Acceptance (R352, R374) -/

/-- Commands in a core's queue. -/
def State.queued (s : State) (core : Nat) : List MCmd := s.mcmds.filter fun m => m.core == core && !(s.block m.block).saved

/-- A word takes a copy entry (R363, R366, R368). -/
def takesEntry (i : Instr) : Bool :=
  match i with
  | .mlda _ f | .msta _ f => mSp f == 0
  | .mdrain _ _ | .mseq _ _ => true
  | _ => false

/-- The queue, a sequencer record or a copy entry is not free. -/
def State.matFull (s : State) (core : Nat) (i : Instr) : Bool :=
  decide ((s.queued core).length ≥ 16)
    || (isMseq i && decide (((s.queued core).filter fun m => isMseq m.unit).length ≥ 4))
    || (takesEntry i && decide (s.entriesUsed core ≥ 64))

/-- Waves of a core that wait at a command which could be accepted now, each with the time since which it has been ready: the oldest takes
a freed entry (R352). One whose operand log is full waits for that. -/
def State.matWaiters (s : State) (core : Nat) : List (Nat × Nat) :=
  (s.waves.filter fun e => e.2.core == core && !e.2.saved && e.2.freeLog.isSome).filterMap fun e =>
    match e.2.threads.find? fun t => t.2.st == .waiting .word && s.canIssue ⟨e.1, t.1⟩ && ((s.chainAt ⟨e.1, t.1⟩).last.any fun i => (matFields i).isSome && !s.matFull core i) with
    | some t => some (t.2.readyAt, e.1)
    | none => none

/-- A command that stands at the end of a chain comes after the waves that wait with an older one (R352); lone words are tried in that
order. -/
def State.matYields (s : State) (u core : Nat) : Bool :=
  match s.chain with
  | none => false
  | some c =>
    let since := ((fgetD c.saved u default).threads.filter fun t => c.threads.contains ⟨u, t.1⟩).foldl (fun m t => min m t.2.readyAt) s.steps
    (s.matWaiters core).any fun e => e.2 != u && decide (e.1 < since)

/-- The 64 rows of a register operand (R354): a thread that does not contribute has a row of zeros. -/
def State.regRows (s : State) (u : Nat) (who : List Nat) (d : Desc) (use : DUse) : List Nat :=
  (upto 0 64).map fun r =>
    if who.contains r then
      (upto 0 (d.rowBytes use / 4)).foldl (fun v q => v + (s.vreg { u := u, i := r } (d.base + q)).toNat * 2 ^ (32 * q)) 0
    else 0

/-- The sectors of a scratchpad range as signatures name them (R464). -/
def State.scrSectors (s : State) (block : Nat) (g : Rng) : List Nat :=
  match s.scrPlace block g.space g.base with
  | none => []
  | some (b, off) =>
    let core := (s.block b).core
    dedup ((upto 0 g.rows).flatMap fun i =>
      let a := off + i * g.pitch
      (upto (a / 64) ((a + g.len - 1) / 64 + 1 - a / 64)).map fun x => recXScr core (64 * x))

/-- The sectors of a pinned global range. -/
def pinnedSectors (g : Rng) (pins : FMap Nat) : List Nat :=
  dedup ((upto 0 g.rows).flatMap fun i =>
    let a := g.base + i * g.pitch
    (upto (a / 64) ((a + g.len - 1) / 64 + 1 - a / 64)).map fun x => recXMem (pinned pins (64 * x)))

/-- The data of MSEQ and MDRAIN enters no signature (R470, log entry 71). -/
def unentered (i : Instr) : Bool :=
  match i with
  | .mseq _ _ | .mdrain _ _ => true
  | _ => false

/-- What a command will read and write, as the recorder names it: the sector or tile, whether it is read and written, and how far it is
checked (R374, R465). -/
def State.matTouches (s : State) (i : Instr) (f : FmtX) (x : EngIn) (pins : List (FMap Nat)) : List (Nat × Bool × Bool × Reach) :=
  let w := s.wave x.u
  (if unentered i then [] else
      (descRngs i x.regs).flatMap (fun g => (s.scrSectors w.block g).map fun k => (k, !g.write || isMseq i, g.write, Reach.cluster))
      ++ ((matRngs i x.regs).zip pins).flatMap (fun e =>
          if e.1.none then []
          else if e.1.space == 0 then (pinnedSectors e.1 e.2).map fun k => (k, !e.1.write, e.1.write, Reach.all)
          else (s.scrSectors w.block e.1).map fun k => (k, !e.1.write, e.1.write, Reach.cluster)))
    ++ (matTiles i f x.regs).map fun t => (recXTile w.core t, tileReads i, tileWrites i, Reach.core)

/-- The signatures of the issuing wave take what a command will read and write (R374). -/
def State.matSign (s : State) (i : Instr) (f : FmtX) (x : EngIn) (pins : List (FMap Nat)) : State :=
  if !s.recording (s.wave x.u).ctx then s
  else (s.matTouches i f x pins).foldl (fun s e => s.recAccess x.u e.1 e.2.1 e.2.2.1 e.2.2.2) s

/-- A command of a recorded wave waits for a bundle that has not retired and that it conflicts with (R466). -/
def State.matHeld (s : State) (i : Instr) (f : FmtX) (x : EngIn) (pins : List (FMap Nat)) : Bool :=
  s.recording (s.wave x.u).ctx && (s.matTouches i f x pins).any fun e => s.lateConflict x.u e.1 e.2.2.1

/-- The command joins the queue of its core. -/
def State.matAccept (s : State) (i : Instr) (f : FmtX) (x : EngIn) (pins : List (FMap Nat)) : State :=
  let w := s.wave x.u
  let who := x.lanes.map fun l => l.1.i
  let rst := match i with
    | .mcvt _ f => mTop3 f == 4
    | _ => false
  let k := s.block w.block
  let m : MCmd := {
    id := s.next, u := x.u, core := w.core, block := w.block, unit := i, pc := x.at_ i, who := who, regs := x.regs,
    rows := (matDescs i x.regs).foldl (fun m e =>
      if e.2.2.kind == 0 && e.2.1 != .out then fput m e.1 (fgetD x.rows e.1 (s.regRows x.u who e.2.2 e.2.1)) else m) [],
    pins := pins.getD 0 [], pins2 := pins.getD 1 [], entry := takesEntry i, draw := k.mdraw, next := 0, err := false }
  let s := s.matSign i f x pins
  let s := if rst then s.setBlock w.block { s.block w.block with mdraw := k.mdraw + 4096 } else s
  let s := if isMseq i then s.modWave x.u fun w => { w with mseqNext := 0, mseqId := s.next } else s
  { s with next := s.next + 1, mcmds := s.mcmds ++ [m] }

/-- A command in one wave. -/
def matWave (i : Instr) (s : State) (x : EngIn) : EngRes :=
  match matFields i with
  | none => .ok s
  | some f =>
    let w := s.wave x.u
    match firstEng (s.matChecks i f x.u x.regs) with
    | some h => .bad h
    | none =>
      match s.pinAll w.core w.ctx 8 w.high (matRngs i x.regs) with
      | .bad h => .bad h
      | .soft code va wr => .soft code va wr
      | .wait l => .wait l
      | .ok pins s =>
        if !s.lanesDone x || s.matFull w.core i || s.matYields x.u w.core || s.matHeld i f x pins then .wait []
        else .ok (s.matAccept i f x pins)

/-- A command with its waves' register values. -/
def State.matPerform (s : State) (i : Instr) (ins : List EngIn) : Res := s.engPerform i ins (matWave i)

/-- A command as it issues. -/
def matWord (i : Instr) : State → List TRef → Res := fun s l =>
  let ins := (s.engIns i l plainLane).map fun x => { x with
    rows := (matDescs i x.regs).foldl (fun (m : FMap (List Nat)) e =>
      if e.2.2.kind == 0 && e.2.1 != .out then fput m e.1 (s.regRows x.u (x.lanes.map fun l => l.1.i) e.2.2 e.2.1) else m) [] }
  s.engIssue i ins (s.matPerform i ins)

/-! ## Rows and tiles -/

/-- A row with the 16-byte chunks of it that carry an error. -/
structure MRow where
  val : Nat
  bad : List Nat
  deriving DecidableEq, Repr, Inhabited

/-- The block whose scratchpad a descriptor names. -/
def State.descBlock (s : State) (block : Nat) (d : Desc) : Nat :=
  if d.kind == 2 then (s.memberBlock block d.mem).getD block else block

/-- The byte offset of chunk `c` of row `r` (R354). -/
def Desc.chunkAt (d : Desc) (q r c : Nat) : Nat :=
  d.base + 16 * (d.rp * r + (if d.rot == 0 then c else (c + r / 2 ^ (d.rot - 1)) % q))

/-- Row `r` of a descriptor, read `off` bytes further on. -/
def State.descRow (s : State) (m : MCmd) (k : Nat) (u : DUse) (d : Desc) (off r : Nat) : MRow :=
  if d.kind == 0 then ⟨(fgetD m.rows k []).getD r 0, []⟩
  else
    let b := s.descBlock m.block d
    if u == .vec then
      let x := s.scrUnit b (d.base + off + 4 * r) 4
      ⟨x.1, if x.2 then [0] else []⟩
    else
      let q := d.rowBytes u / 16
      (upto 0 q).foldl (fun a c =>
        let x := s.scrUnit b (d.chunkAt q r c + off) 16
        ⟨a.val + x.1 * 2 ^ (128 * c), if x.2 then a.bad ++ [c] else a.bad⟩) ⟨0, []⟩

/-- All rows of the descriptor at a U field. -/
def State.descRows (s : State) (m : MCmd) (k off : Nat) : List MRow :=
  match descAt m.unit m.regs k with
  | none => []
  | some (u, d) => (upto 0 64).map fun r => s.descRow m k u d off r

/-- The format of the descriptor at a U field. -/
def MCmd.fmtAt (m : MCmd) (k : Nat) : Nat := ((descAt m.unit m.regs k).map fun d => d.2.fmt).getD 0

/-- Element `k` of `w` bits is touched by a chunk with an error. -/
def MRow.hurt (r : MRow) (k w : Nat) : Bool := r.bad.any fun c => decide (128 * c < k * w + w) && decide (k * w < 128 * c + 128)

/-- The elements of an operand row (R355, R375). -/
def MRow.elems (r : MRow) (fmt n : Nat) : List FVal :=
  let w := elemBits fmt
  (upto 0 n).map fun k =>
    if r.hurt k w then (if fmtGroup fmt == some 2 then .num false 0 0 else engNan)
    else valueOf fmt (bits r.val (k * w + w - 1) (k * w))

/-- The scales of a scale row (R186). -/
def MRow.scales (r : MRow) : List FVal :=
  (upto 0 16).map fun g =>
    let c := bits r.val (8 * g + 7) (8 * g)
    if r.hurt g 8 || c == 0xFF then engNan else .num false (scaleVal c).1 (scaleVal c).2

/-- The one f32 of a vector row. -/
def MRow.scalar (r : MRow) : FVal := if r.bad.isEmpty then f32.decode (r.val % 2 ^ 32) else engNan

/-- A tile's element; those of an unlisted tile are 0. -/
def Block.elem (k : Block) (t i j : Nat) : Word := fgetD (fgetD k.tiles t []) (64 * i + j) 0

/-- Element (i, j) as a code of 32 bits, or of 64 in the pair from `t` on. -/
def Block.code (k : Block) (dbl : Bool) (t i j : Nat) : Nat :=
  (k.elem t i j).toNat + (if dbl then (k.elem (t + 1) i j).toNat * 2 ^ 32 else 0)

/-- A tile made of its 4,096 values, row by row. -/
def mkTile (l : List Nat) : FMap Word :=
  (l.zipIdx.map fun (e : Nat × Nat) => (e.2, BitVec.ofNat 32 e.1)).filter fun e => decide (e.2 ≠ 0)

/-- A tile, or pair, written with its codes, row by row. -/
def State.putTile (s : State) (b : Nat) (dbl : Bool) (t : Nat) (l : List Nat) : State :=
  let k := s.block b
  let tiles := fput k.tiles t (mkTile (l.map fun v => v % 2 ^ 32))
  let tiles := if dbl then fput tiles (t + 1) (mkTile (l.map fun v => v / 2 ^ 32)) else tiles
  s.setBlock b { k with tiles := tiles }

/-- A function of every element, row by row. -/
def eachElem {α : Type} (g : Nat → Nat → α) : List α := (upto 0 64).flatMap fun i => (upto 0 64).map fun j => g i j

/-- The flags of a command reach its wave, if the wave is still there (R358). -/
def State.raiseLate (s : State) (u flags : Nat) : State := if (fget s.waves u).isSome then s.raise u flags else s

/-- The wave's matrix error flag is set (R371). -/
def State.matError (s : State) (u : Nat) (b : Bool) : State :=
  if b && (fget s.waves u).isSome then s.modWave u fun w => { w with merr := true } else s

/-! ## Products (R357 to R361) -/

/-- The decoded operands of a product. -/
structure Operands where
  group : Nat
  a : List (List FVal)
  b : List (List FVal)
  sa : List (List FVal)
  sb : List (List FVal)
  xa : List FVal
  xb : List FVal
  /-- Rows of A, and columns of B, with an uncorrectable unit. -/
  badA : List Nat
  badB : List Nat
  deriving DecidableEq, Repr

/-- The rows of some operands that carry an error. -/
def badRows (l : List (List MRow)) : List Nat :=
  (upto 0 64).filter fun r => l.any fun rows => !(rows.getD r default).bad.isEmpty

/-- The operands of a product command; `ka` and `kb` are the U fields of A and B, and the offsets those of the
staging buffers. -/
def State.operands (s : State) (m : MCmd) (ka kb offA offB : Nat) : Operands :=
  let ra := s.descRows m ka offA
  let rb := s.descRows m kb offB
  let sc : List (List MRow) := match m.unit with
    | .mmas _ _ => [s.descRows m 2 0, s.descRows m 3 0]
    | .mmat _ _ => [s.descRows m 3 0, s.descRows m 4 0]
    | _ => [[], []]
  let sup : List (List MRow) := match m.unit with
    | .mmas _ _ => [s.descRows m 4 0, s.descRows m 5 0]
    | _ => [[], []]
  let n := groupK (matGroup m.unit m.regs)
  { group := matGroup m.unit m.regs,
    a := ra.map fun r => r.elems (m.fmtAt ka) n, b := rb.map fun r => r.elems (m.fmtAt kb) n,
    sa := (sc.getD 0 []).map MRow.scales, sb := (sc.getD 1 []).map MRow.scales,
    xa := (sup.getD 0 []).map MRow.scalar, xb := (sup.getD 1 []).map MRow.scalar,
    badA := badRows [ra, sc.getD 0 [], sup.getD 0 []], badB := badRows [rb, sc.getD 1 [], sup.getD 1 []] }

/-- What element (i, j) sums. -/
def Operands.prodAt (o : Operands) (i j : Nat) : ProdIn :=
  { group := o.group, a := o.a.getD i [], b := o.b.getD j [], sa := o.sa.getD i [], sb := o.sb.getD j [],
    xa := o.xa.getD i engOne, xb := o.xb.getD j engOne }

/-- The mask of a command: d, row0, col0, the fill mode and the fill value, if it is an MMAT. -/
def MCmd.mask (m : MCmd) : Option (Int × Nat × Nat × Nat × Nat) :=
  match m.unit with
  | .mmat _ f =>
    let g := fun k => (regOf m.regs (f.u2.toNat + k))
    some ((g 0).toInt, (g 1).toNat, (g 2).toNat, mFm f, (g 3).toNat)
  | _ => none

/-- Element (i, j) of a command is masked (R361). -/
def MCmd.masked (m : MCmd) (i j : Nat) : Bool :=
  match m.mask with
  | some (d, r0, c0, _, _) => matMasked d r0 c0 i j
  | none => false

/-- The code that a masked element receives. -/
def MCmd.fill (m : MCmd) (group old : Nat) : Nat :=
  match m.mask with
  | some (_, _, _, fm, v) => (matFill fm group v).getD old
  | none => old

/-- The shadow record's comparison of one element: the two largest differences and the count (R376, R377). -/
def shadowStep (group : Nat) (a : Nat × Nat × Nat) (p : ProdIn) (old new : Nat) : Nat × Nat × Nat :=
  let val := fun (c : Nat) => if group == 2 then intVal (sext c 32) else if group == 5 then (ffmt 11).decode c else f32.decode c
  let r := val new
  let sh := f32.decode (p.shadow (val old))
  let finite := fun (v : FVal) => match v with
    | .num _ _ _ => true
    | _ => false
  match shadowDiff r sh with
  | some (d, q) => (max a.1 d, max a.2.1 q, a.2.2)
  | none => (a.1, a.2.1, a.2.2 + (if finite r != finite sh then 1 else 0))

/-- A telemetry record joins the ring; a full ring loses its oldest (R377, R499). -/
def State.telPost (s : State) (m : MCmd) (op : Nat) (d : Nat × Nat × Nat) : State :=
  let r := s.ptb % 2 ^ 64 + m.pc % 2 ^ 56 * 2 ^ 64 + op * 2 ^ 120 + m.core * 2 ^ 128 + m.fmtAt 0 * 2 ^ 144 + m.fmtAt 1 * 2 ^ 149
    + d.1 * 2 ^ 160 + d.2.1 * 2 ^ 192 + d.2.2 * 2 ^ 224
  let l := s.telRing ++ [BitVec.ofNat 256 r]
  { s with telRing := l.drop (l.length - 1024) }

/-- The products of a core are counted, and every N-th is recomputed by the shadow unit (R376). -/
def State.countProduct (s : State) (m : MCmd) (o : Operands) (k : Block) (t : Nat) (new : List Nat) : State :=
  match productIndex m.unit with
  | none => s
  | some op =>
    let c := s.core m.core
    let s := s.setCore m.core { c with products := c.products + 1 }
    if s.telctl.getLsbD 5 && (c.products + 1) % 2 ^ bits s.telctl.toNat 4 0 == 0 then
      let d := (eachElem fun i j => (i, j)).foldl (fun a e =>
        if m.masked e.1 e.2 then a
        else shadowStep o.group a (o.prodAt e.1 e.2) (k.code (o.group == 5) t e.1 e.2) (new.getD (64 * e.1 + e.2) 0)) (0, 0, 0)
      s.telPost m op d
    else s

/-- A product runs on the tile `t` (R357): every unmasked element, in one fixed order; flags and errors reach the
wave. -/
def State.product (s : State) (m : MCmd) (o : Operands) (t : Nat) (z : Bool) : State :=
  let k := s.block m.block
  let dbl := o.group == 5
  let res := eachElem fun i j =>
    let old := k.code dbl t i j
    if m.masked i j then (m.fill o.group old, 0) else (o.prodAt i j).elem (if z then 0 else old)
  let new := res.map Prod.fst
  let used := fun i j => !m.masked i j && (o.badA.contains i || o.badB.contains j)
  let bad := !(o.badA.isEmpty && o.badB.isEmpty) && (eachElem used).any id
  let s := s.putTile m.block dbl t new
  let s := s.raiseLate m.u (if o.group == 2 then 0 else res.foldl (fun f e => f ||| e.2) 0)
  (s.matError m.u bad).countProduct m o k t new

/-! ## The other commands (R362 to R366) -/

/-- MZERO. -/
def State.runMzero (s : State) (m : MCmd) (f : FmtX) : State :=
  let v := if mBit f 6 then (regOf m.regs f.u0.toNat).toNat else 0
  (upto (mAcc f) (mCnt f)).foldl (fun s t => s.putTile m.block false t (List.replicate 4096 v)) s

/-- `n` bytes of a command's range at an address, and whether they carry an error. -/
def State.rngRead (s : State) (m : MCmd) (g : Rng) (a n : Nat) : Nat × Bool :=
  if g.space == 0 then s.engRead (pinned m.pins a) n
  else match s.scrPlace m.block g.space a with
    | some (b, off) => s.scrUnit b off n
    | none => (0, false)

/-- Bytes written to a command's range. -/
def State.rngWrite (s : State) (m : MCmd) (g : Rng) (a : Nat) (l : List Byte) : State :=
  if g.space == 0 then s.engStore (s.block m.block).ctx (pinned m.pins a) l false
  else match s.scrPlace m.block g.space a with
    | some (b, off) => if s.blockLive b then s.scrPut b off l false else s
    | none => s

/-- MLDA: unit by unit; a unit with an error gives the default NaN to its elements. -/
def State.runMlda (s : State) (m : MCmd) (f : FmtX) : State :=
  let dbl := mBit f 4
  match matRngs m.unit m.regs with
  | g :: _ =>
    let w := if dbl then 8 else 4
    let res := (upto 0 64).flatMap fun i => (upto 0 (g.len / 16)).flatMap fun c =>
      let x := s.rngRead m g (g.base + i * g.pitch + 16 * c) 16
      (upto 0 (16 / w)).map fun e =>
        (if x.2 then (if dbl then 0x7FF8000000000000 else 0x7FC00000) else (x.1 >>> (8 * w * e)) % 2 ^ (8 * w), x.2)
    (s.putTile m.block dbl (mAcc f) (res.map Prod.fst)).matError m.u (res.any Prod.snd)
  | [] => s

/-- MSTA: every 16-byte unit of the rows. -/
def State.runMsta (s : State) (m : MCmd) (f : FmtX) : State :=
  let dbl := mBit f 4
  let k := s.block m.block
  let n := if dbl then 2 else 4
  match matRngs m.unit m.regs with
  | g :: _ =>
    (upto 0 64).foldl (fun s i => (upto 0 (g.len / 16)).foldl (fun s c =>
      s.rngWrite m g (g.base + i * g.pitch + 16 * c)
        ((upto 0 n).flatMap fun e => leBytes (k.code dbl (mAcc f) i (n * c + e)) (16 / n))) s) s
  | [] => s

/-- The key of the matrix draws of a block (R364). -/
def Block.matKey (b : Block) : Dword := mix64 (b.seed ^^^ b.blin) ^^^ BitVec.ofNat 64 (2 ^ 62)

/-- A converted row goes to its place: a contributing thread's registers, or the scratchpad. -/
def State.putRow (s : State) (m : MCmd) (d : Desc) (r v : Nat) : State :=
  let n := d.rowBytes .out
  if d.kind == 0 then
    let t : TRef := { u := m.u, i := r }
    if m.who.contains r && (fget s.waves m.u).isSome && (s.thread t).st != .exited then s.setVs t d.base (toWords v (n / 4)) else s
  else
    let b := s.descBlock m.block d
    if s.blockLive b then
      (upto 0 (n / 16)).foldl (fun s c => s.scrPut b (d.chunkAt (n / 16) r c) (leBytes (v >>> (128 * c)) 16) false) s
    else s

/-- MCVT. -/
def State.runMcvt (s : State) (m : MCmd) (f : FmtX) : State :=
  match descAt m.unit m.regs 0 with
  | none => s
  | some (_, d) =>
    let k := s.block m.block
    let st := if mBit f 2 then 0 else if mBit f 1 then 11 else 10
    let w := elemBits d.fmt
    let rows := (upto 0 64).map fun i =>
      (upto 0 64).foldl (fun (a : Nat × Nat) j =>
        let g := drawOf k.matKey (m.draw + BitVec.ofNat 64 (64 * i + j))
        let x := matConvert d.fmt st (mTop3 f) (mBit f 3) g (k.code (mBit f 1) (mAcc f) i j)
        (a.1 + x.1 % 2 ^ w * 2 ^ (w * j), a.2 ||| x.2)) (0, 0)
    let s := rows.zipIdx.foldl (fun s e => s.putRow m d e.2 e.1.1) s
    s.raiseLate m.u (rows.foldl (fun fl e => fl ||| e.2) 0)

/-- MEPI. -/
def State.runMepi (s : State) (m : MCmd) (f : FmtX) : State :=
  let k := s.block m.block
  let bias := s.descRows m 0 0
  let sc := if mBit f 2 then some (regOf m.regs f.u1.toNat).toNat else none
  let res := eachElem fun i j =>
    let b := if mBit f 3 then
        (let r := bias.getD j default
         some (if r.bad.isEmpty then r.val % 2 ^ 32 else f32.defNan)) else none
    matFinish (mTop3 f) (k.elem (mAcc f) i j).toNat sc b
  let s := s.putTile m.block false (mAcc f) (res.map Prod.fst)
  let s := s.raiseLate m.u (res.foldl (fun fl e => fl ||| e.2) 0)
  s.matError m.u (bias.any fun r => !r.bad.isEmpty)

/-- A logged COLL or MDRAIN result of a wave, or of one that has exited (R407, R487). -/
def State.takeResult (s : State) (u c key dst n : Nat) : Option Nat × State :=
  let q := if (fget s.waves u).isSome then s.takeInput u 5 dst 127 n else (none, s)
  if q.1.isSome then q else s.takeLate c key 5 dst n

/-- MDRAIN at the head of the order: its tile is read, and it waits for the other ranks (R366). -/
def State.runMdrain (s : State) (m : MCmd) (f : FmtX) : State :=
  let mask := regOf64 m.regs f.u0.toNat
  let tag := regOf m.regs f.u1.toNat
  let key := (mask, tag)
  let n := ((s.drainCount.find? fun e => e.1 == key).map Prod.snd).getD 0
  { s with
    drainCount := s.drainCount.filter (fun e => e.1 != key) ++ [(key, n + 1)],
    drains := s.drains ++ [{
      id := m.id, u := m.u, core := m.core, mask := mask, tag := tag, nth := n,
      tile := fgetD (s.block m.block).tiles (mAcc f) [], dst := (regOf64 m.regs f.u2.toNat).toNat,
      pitch := (regOf m.regs f.u3.toNat).toNat, pins := m.pins }] }

/-- The context of a command's wave is being saved, is saved or awaits a cut: an MSEQ stops at its boundary (R369, R479). -/
def State.cmdHeld (s : State) (m : MCmd) : Bool :=
  let c := (s.block m.block).ctx
  let p := (s.ctx c).pst
  p == 1 || p == 2 || p == 3 || s.cutReq.contains c

/-- The tiles of a command, by block. -/
def MCmd.tiles (m : MCmd) : List (Nat × Nat) :=
  match matFields m.unit with
  | some f => (matTiles m.unit f m.regs).map fun t => (m.block, t)
  | none => []

/-- The commands of a core's order that cannot complete before a save: an MSEQ stopped at its boundary, and what comes after one
on a tile of it (R369, R375, log entry 72). -/
def State.stoppedCmds (s : State) (core : Nat) : List MCmd :=
  (s.queued core).foldl (fun l m =>
    if s.cmdHeld m && (isMseq m.unit || m.tiles.any fun t => l.any fun (k : MCmd) => k.tiles.contains t) then l ++ [m] else l) []

/-- The command at the head of a core's order: the first that no stopped MSEQ keeps waiting (R352, R375). -/
def State.headCmd (s : State) (core : Nat) : Option MCmd :=
  (s.queued core).find? fun m => !(s.stoppedCmds core).any fun k => k.id == m.id

/-- The commands of a context that a save or a cut waits for: all but an MSEQ at its boundary and what comes after it on its tile
(R375). -/
def State.cmdsOpen (s : State) (c : Nat) : Bool :=
  s.mcmds.any fun m => (s.wave m.u).ctx == c && !(s.stoppedCmds m.core).any fun k => k.id == m.id

/-- The command leaves the queue. -/
def State.dropCmd (s : State) (id : Nat) : State := { s with mcmds := s.mcmds.filter fun m => m.id != id }

/-- A command's accumulator holds i32 elements. -/
def accInt (m : MCmd) : Bool :=
  match m.unit with
  | .mcvt _ f | .mepi _ f => mBit f 2
  | .msta _ _ | .mdrain _ _ | .mzero _ _ | .mlda _ _ => false
  | i => matGroup i m.regs == 2

/-- Elements of a command's tiles with an uncorrectable error: one that reads them takes NaN in their place, or 0 for i32, and the
wave's matrix error flag is set; one that only writes them takes no notice (R375, R527, log entry 94). -/
def State.hurtTiles (s : State) (m : MCmd) : State :=
  let k := s.block m.block
  let mine := fun (e : Nat) => (m.tiles.map Prod.snd).contains (e / 4096)
  let bad := k.tileBad.filter mine
  if bad.isEmpty then s
  else
    let dbl := matDouble m.unit m.regs
    let base := (matFields m.unit).elim 0 mAcc
    let put := fun (l : FMap (FMap Word)) (t e : Nat) (v : Word) => fput l t (fsetD (fgetD l t []) e v 0)
    let tiles := if !tileReads m.unit then k.tiles else bad.foldl (fun l e =>
      if accInt m then put l (e / 4096) (e % 4096) 0
      else if dbl then put (put l base (e % 4096) 0) (base + 1) (e % 4096) 0x7FF80000
      else put l (e / 4096) (e % 4096) 0x7FC00000) k.tiles
    (s.setBlock m.block { k with tileBad := k.tileBad.filter (fun e => !mine e), tiles := tiles }).matError m.u (tileReads m.unit)

/-- A command's effect, but for MSEQ's. -/
def State.runCmd (s : State) (m : MCmd) : State :=
  match m.unit with
  | .mma _ f | .mmas _ f | .mmat _ f => s.product m (s.operands m 0 1 0 0) (mAcc f) (mZ f)
  | .mzero _ f => s.runMzero m f
  | .mlda _ f => s.runMlda m f
  | .msta _ f => s.runMsta m f
  | .mcvt _ f => s.runMcvt m f
  | .mepi _ f => s.runMepi m f
  | .mdrain _ f => s.runMdrain m f
  | _ => s

/-- MATRIX_COMMAND_EXECUTE: the command at the head of a core's order runs. -/
def execMatrixCommandExecute (s : State) : Host.Outcome State Fault Refusal :=
  .next (match s.headCmd s.arg.n with
    | none => s
    | some m => if isMseq m.unit then s else ((s.hurtTiles m).runCmd m).dropCmd m.id)

/-! ## MSEQ (R368, R369) -/

/-- An operand of a step is staged: 64 rows of the panel copied into a buffer; the errors met. -/
def State.stage (s : State) (m : MCmd) (pins : FMap Nat) (a pitch t : Nat) (d : Desc) : State × Bool :=
  let n := d.rowBytes .stage
  (upto 0 64).foldl (fun x r => (upto 0 (n / 16)).foldl (fun (x : State × Bool) c =>
    let v := x.1.engRead (pinned pins (a + r * pitch + t * n + 16 * c)) 16
    (x.1.scrPut m.block (d.chunkAt (n / 16) r c + t % 2 * (64 * d.tp)) (leBytes v.1 16) v.2, x.2 || v.2)) x) (s, false)

/-- A step of an MSEQ: both operands are staged and the product of the step runs. -/
def State.mseqRun (s : State) (m : MCmd) (f : FmtX) : State :=
  let t := m.next
  let n := (regOf m.regs f.u5.toNat).toNat
  match descAt m.unit m.regs 2, descAt m.unit m.regs 3 with
  | some (_, da), some (_, db) =>
    let a := s.stage m m.pins (regOf64 m.regs f.u0.toNat).toNat (regOf m.regs f.u4.toNat).toNat t da
    let b := a.1.stage m m.pins2 (regOf64 m.regs f.u1.toNat).toNat (regOf m.regs (f.u4.toNat + 1)).toNat t db
    let o := b.1.operands m 2 3 (t % 2 * (64 * da.tp)) (t % 2 * (64 * db.tp))
    let s := (b.1.product m o (mAcc f) (mZ f && t == 0)).matError m.u (a.2 || b.2)
    let s := if (fget s.waves m.u).isSome && (s.wave m.u).mseqId == m.id then s.modWave m.u fun w => { w with mseqNext := t + 1 } else s
    if t + 1 ≥ n then s.dropCmd m.id
    else { s with mcmds := s.mcmds.map fun x => if x.id == m.id then { x with next := t + 1, err := x.err || a.2 || b.2 } else x }
  | _, _ => s.dropCmd m.id

/-- MSEQ_STEP: the next step of the MSEQ at the head of a core's order. -/
def execMseqStep (s : State) : Host.Outcome State Fault Refusal :=
  .next (match s.headCmd s.arg.n with
    | none => s
    | some m => match m.unit with
      | .mseq _ f => (s.hurtTiles m).mseqRun m f
      | _ => s)

/-! ## MDRAIN's reduction (R366, R367) -/

/-- The reduced tile: the ranks' elements added in ascending device number. Another device's tile is a free value
(log entry 9). -/
def State.reduced (s : State) (d : Drain) : List Nat :=
  let own := s.devid
  let devs := maskDevs d.mask
  (upto 0 4096).map fun e =>
    let x := fun (dev : Nat) => if dev == own then (fgetD d.tile e 0).toNat else (Config.drainTile dev d.id e).toNat
    match devs with
    | [] => 0
    | [dev] => x dev
    | dev :: rest => rest.foldl (fun r k => (f32.engine (f32.add 0 false 0 (f32.decode r) (f32.decode (x k)))).1) (x dev)

/-- A device counts in a reduction of context `c`: it, and its context, can still contribute, or it had contributed before
the one or the other was lost (R367, R404). -/
def State.rankIn (s : State) (c dev id : Nat) : Bool :=
  (s.reaches dev && !s.lostCtxs.contains (dev, c)) || Config.contributed dev id

/-- MDRAIN_REDUCTION: every rank's tile has arrived, and the result is written; a named device that is lost leaves the
destination as it is and sets the error flag. -/
def execMdrainReduction (s : State) : Host.Outcome State Fault Refusal :=
  .next (match s.drains.find? (fun d => d.id == s.arg.n) with
    | none => s
    | some d =>
      let s' := { s with drains := s.drains.filter fun x => x.id != d.id }
      let replay := s.replaying (s.wave d.u).ctx
      let logged := s'.takeResult d.u (s.wave d.u).ctx (s.wave d.u).unitKey d.dst 16384
      let s' := if replay then logged.2 else s'
      if (replay && logged.1.isNone) || (!replay && (maskDevs d.mask).any fun k => !s.rankIn (s.wave d.u).ctx k d.id) then s'.matError d.u true
      else
        let l := if replay then (toWords (logged.1.getD 0) 4096).map BitVec.toNat else s.reduced d
        let row := fun (i : Nat) => (l.drop (64 * i)).take 64 |>.flatMap fun v => leBytes v 4
        let s' := (upto 0 64).foldl (fun s i => (upto 0 16).foldl (fun s c =>
          s.engStore (s.wave d.u).ctx (pinned d.pins (d.dst + i * d.pitch + 16 * c)) ((row i).drop (16 * c) |>.take 16) false) s) s'
        if (fget s'.waves d.u).isSome then s'.recInput d.u 5 d.dst 127 (l.flatMap fun v => leBytes v 4) else s')

/-! ## Carried commands (R305) -/

/-- The copy's command may be handed over: its data has landed, and every earlier carried command of its wave has
been handed over. -/
def State.mayHandOver (s : State) (c : Copy) : Bool :=
  c.left.isEmpty && !(s.block c.block).saved && (match c.carried with
    | some k => !k.landed
    | none => false)
    && s.copies.all fun e => decide (e.id ≥ c.id) || e.u != c.u || (match e.carried with
        | some k => k.landed
        | none => true)

/-- A carried command as its wave's part. -/
def State.carriedIn (s : State) (c : Copy) (k : Carried) : EngIn :=
  { u := c.u, lanes := (s.wave c.u).live.map (fun i => ({ u := c.u, i := i }, plainLane { u := c.u, i := i })), regs := k.regs,
    rows := [], pc := c.pc, next := (c.pc + 8) % 2 ^ 56 }

/-- A carried command's register operands are not pending. -/
def State.carriedFree (s : State) (c : Copy) (k : Carried) : Bool :=
  (s.wave c.u).live.all fun i =>
    let v := s.pendV { u := c.u, i := i } true
    (descRegs (regOf k.regs) k.unit false).all fun r => !v.contains r

/-- The command of a copy has been handed over. -/
def Copy.landNow (c : Copy) : Copy := { c with carried := c.carried.map fun k => { k with landed := true } }

/-- COPYX_HANDOVER: the carried command of copy `n` is issued to the matrix engine, or meets its trap. -/
def execCopyxHandover (s : State) : Host.Outcome State Fault Refusal :=
  .next (match s.copies.find? (fun c => c.id == s.arg.n) with
    | none => s
    | some c =>
      match c.carried with
      | none => s
      | some k =>
        if !s.mayHandOver c || !s.carriedFree c k || !(s.matWaiters c.core).isEmpty then s
        else match matWave k.unit s (s.carriedIn c k) with
          | .ok s => s.modCopy c.id Copy.landNow
          | .bad h =>
            let a : Async := bareAsync h.cause (BitVec.ofNat 32 (h.det + 32)) c.pc
            let s := (s.modCopy c.id fun c => { c.landNow with err := true }).matError c.u true
            { s with carriedTraps := s.carriedTraps ++ [(c.id, c.u, a)] }
          | _ => s)

/-- A thread of the wave stands ready at a memory/engine word, or at one that has had to wait. -/
def State.atMemWord (s : State) (u : Nat) : Bool :=
  (s.wave u).live.any fun i =>
    let t : TRef := { u := u, i := i }
    (s.thread t).stands && s.waveRuns u && s.memNext t (s.chainAt t)

/-- CARRIED_COMMAND_TRAP: the pending trap `n` becomes an asynchronous cause of every live thread of its wave. -/
def execCarriedCommandTrap (s : State) : Host.Outcome State Fault Refusal :=
  .next (match s.carriedTraps.find? (fun e => e.1 == s.arg.n) with
    | none => s
    | some (n, u, a) =>
      let gone := { s with carriedTraps := s.carriedTraps.filter fun e => e.1 != n }
      if (s.wave u).live.isEmpty then gone
      else if s.atMemWord u then
        (s.wave u).live.foldl (fun s i => s.modThread { u := u, i := i } fun th => { th with async := th.async ++ [a] }) gone
      else s)

/-! ## The words -/

/-- MMA. -/
def execMma (h : Hdr) (f : FmtX) : State → Host.Outcome State Fault Refusal := runWord (.mma h f) (matWord (.mma h f))
/-- MMAS. -/
def execMmas (h : Hdr) (f : FmtX) : State → Host.Outcome State Fault Refusal := runWord (.mmas h f) (matWord (.mmas h f))
/-- MMAT. -/
def execMmat (h : Hdr) (f : FmtX) : State → Host.Outcome State Fault Refusal := runWord (.mmat h f) (matWord (.mmat h f))
/-- MZERO. -/
def execMzero (h : Hdr) (f : FmtX) : State → Host.Outcome State Fault Refusal := runWord (.mzero h f) (matWord (.mzero h f))
/-- MLDA. -/
def execMlda (h : Hdr) (f : FmtX) : State → Host.Outcome State Fault Refusal := runWord (.mlda h f) (matWord (.mlda h f))
/-- MSTA. -/
def execMsta (h : Hdr) (f : FmtX) : State → Host.Outcome State Fault Refusal := runWord (.msta h f) (matWord (.msta h f))
/-- MCVT. -/
def execMcvt (h : Hdr) (f : FmtX) : State → Host.Outcome State Fault Refusal := runWord (.mcvt h f) (matWord (.mcvt h f))
/-- MEPI. -/
def execMepi (h : Hdr) (f : FmtX) : State → Host.Outcome State Fault Refusal := runWord (.mepi h f) (matWord (.mepi h f))
/-- MDRAIN. -/
def execMdrain (h : Hdr) (f : FmtX) : State → Host.Outcome State Fault Refusal := runWord (.mdrain h f) (matWord (.mdrain h f))
/-- MSEQ. -/
def execMseq (h : Hdr) (f : FmtX) : State → Host.Outcome State Fault Refusal := runWord (.mseq h f) (matWord (.mseq h f))

/-- Accepted commands of a wave that are not complete. -/
def State.matPending (s : State) (u : Nat) : Nat :=
  (s.mcmds.filter fun m => m.u == u).length + (s.drains.filter fun d => d.u == u).length

/-- The status of MSTAT (R370). -/
def State.matStatus (s : State) (u : Nat) : Nat :=
  let w := s.wave u
  (if w.merr then 2 ^ 24 else 0) + min w.mseqNext 255 * 2 ^ 16 + (16 - (s.queued w.core).length) * 2 ^ 8 + min (s.matPending u) 255

/-- MSTAT. -/
def execMstat (h : Hdr) (f : FmtX) : State → Host.Outcome State Fault Refusal :=
  runWord (.mstat h f) fun s l => perWave l s fun s u _ =>
    let v := s.matStatus u
    .ok (((s.setS u f.u0.toNat (BitVec.ofNat 32 v)).recVal u 127 0x28A 0 (BitVec.ofNat 64 v)).markSync u none)

/-- Every class 10 command of the wave is complete, those that copies carry among them (R371). -/
def State.matIdle (s : State) (u : Nat) : Bool :=
  s.matPending u == 0 && !s.copies.any fun c => c.u == u && (match c.carried with
    | some k => !k.landed
    | none => false)

/-- The value that a wave of a replay will take next from a word reports an error. -/
def State.loggedError (s : State) (u op : Nat) : Bool := ((s.logVals u op).head?.map valOf) == some 0

/-- The log of a replay says how a reduction ends: with a result, or in an error (R487). -/
def State.drainLogged (s : State) (d : Drain) : Bool :=
  (s.takeResult d.u (s.wave d.u).ctx (s.wave d.u).unitKey d.dst 16384).1.isSome || s.loggedError d.u 0x28B

/-- An MFENCE of a replay waits for nothing but reductions whose results its log does not hold (R489). -/
def State.drainsUnlogged (s : State) (u : Nat) : Bool :=
  let s' := { s with drains := s.drains.filter fun d => d.u != u }
  s.replaying (s.wave u).ctx && s'.matIdle u && (s.drains.filter fun d => d.u == u).all fun d => !s.drainLogged d

/-- MFENCE. -/
def execMfence (h : Hdr) (f : FmtX) : State → Host.Outcome State Fault Refusal :=
  runWord (.mfence h f) fun s l => perWave l s fun s u mine =>
    if !s.matIdle u && !s.drainsUnlogged u then .error none
    else
      let s := if s.matIdle u then s else s.diverge u 4
      let ok := !(s.wave u).merr
      let s := mine.foldl (fun s t => s.setP t (f.xmod.extractLsb' 0 3).toNat ok) s
      let s := s.modWave u fun w => { w with merr := false }
      .ok ((s.recVal u 127 0x28B 0 (if ok then 1 else 0)).markSync u none)

end Sys2Proof.Machine
end

