-- ==== Sys2Proof/Machine/Teams.lean ====
section
/-! DEFINITION. The team words of class 11, waits that are abandoned, and the team watchdog (R392 to R396,
R439). -/

namespace Sys2Proof.Machine

/-! ## Waits that are abandoned (R394, R439, R479) -/

/-- A state of R79's waiting kind, whose wait a pre-emption, a watchdog or a cut abandons. -/
def Wait.leaves : Wait → Bool
  | .walk | .record _ => false
  | _ => true

/-- The thread stands before the word at which it waits. -/
def Wait.before : Wait → Bool
  | .word | .rdv => true
  | _ => false

/-- A thread forgets the walk faults that it holds. -/
def State.forgetWalk (s : State) (t : TRef) : State :=
  if (s.thread t).wfault.isEmpty then s else s.modThread t fun th => { th with wfault := [] }

/-- A thread abandons its wait: it stands ready at the waiting instruction. A line-lock waiter keeps its queue place
(R282). What a walk has found for it is forgotten: its word walks again (R162, R436). -/
def State.abandonWait (s : State) (t : TRef) : State :=
  let s := s.forgetWalk t
  match (s.thread t).st with
  | .waiting w =>
    if w.before then s.modThread t fun th => { th with st := .ready, go := 0 }
    else if w.leaves then
      let s := s.modThread t fun th => { th with
        st := .ready, readyAt := s.steps, pc := th.at_, go := 0,
        slept := match w with
          | .sleep d => fput th.slept th.sleepKey d
          | _ => th.slept }
      match w with
      | .mwait id => s.delAcc id
      | _ => s
    else s.ready t
  | _ => s

/-! ## The team words (R393, R395) -/

/-- Number of a block's team in the tables. -/
def teamKey (block team : Nat) : Nat := 32 * block + team

/-- The team entry that a wave may name, or NOTEAM (R393). -/
def State.teamOf (s : State) (u team : Nat) : Except Hit (Nat × Team) :=
  let k := teamKey (s.wave u).block team
  match fget s.teams k with
  | some t => if t.members.contains u && team ≤ 16 then .ok (k, t) else .error (hit { u := u, i := 0 } (rankOwn 0) .bounds 9)
  | none => .error (hit { u := u, i := 0 } (rankOwn 0) .bounds 9)

/-- An arrival of a wave: a second one in the phase is ARRIVE. It is a release at block scope and waits for the
threads' earlier accesses. -/
def State.arrive (s : State) (u k : Nat) (t : Team) (mine : List TRef) : Except (Option Hit) State :=
  if t.arrived.contains u then .error (some (hit { u := u, i := 0 } (rankOwn 1) .bounds 3))
  else if !mine.all fun x => s.allDone x 1 then .error none
  else .ok (({ s with teams := fput s.teams k { t with arrived := t.arrived ++ [u] } }).teamTest k)

/-- The contributing threads wait for a phase, if it is not over. -/
def State.teamHold (s : State) (k ph : Nat) (mine : List TRef) : State :=
  match fget s.teams k with
  | some t => if t.ph == ph then mine.foldl (fun s x => s.modThread x fun th => { th with st := .waiting (.team k ph) }) s else s
  | none => s

/-- A team word, once for each wave. -/
def teamWord (team : Nat) (g : State → Nat → Nat → Team → List TRef → Except (Option Hit) State) : State → List TRef → Res :=
  fun s l => perWave l s fun s u mine =>
    match s.teamOf u team with
    | .error h => .error (some h)
    | .ok (k, t) => match g s u k t mine with
      | .ok s' => .ok (s'.markSync u (objKey 0 k 0))
      | e => e

/-- TBAR: arrive, unless this phase's arrival stands from an abandoned wait, and wait (R395). -/
def execTbar (h : Hdr) (f : FmtX) : State → Host.Outcome State Fault Refusal :=
  runWord (.tbar h f) (teamWord (tmTeam f) fun s u k t mine =>
    match fget (s.wave u).tbar k with
    | some ph =>
      if t.ph == ph then .ok (s.teamHold k ph mine)
      else .ok ((s.modWave u fun w => { w with tbar := fdel w.tbar k }).acquire t.core 1)
    | none =>
      match s.arrive u k t mine with
      | .error e => .error e
      | .ok s' =>
        match fget s'.teams k with
        | some t' => if t'.ph == t.ph then .ok ((s'.modWave u fun w => { w with tbar := fput w.tbar k t.ph }).teamHold k t.ph mine) else .ok s'
        | none => .ok s')

/-- TARR: the token is the phase of the arrival. -/
def execTarr (h : Hdr) (f : FmtX) : State → Host.Outcome State Fault Refusal :=
  runWord (.tarr h f) (teamWord (tmTeam f) fun s u k t mine =>
    match s.arrive u k t mine with
    | .error e => .error e
    | .ok s' => .ok (s'.setS u f.u0.toNat (BitVec.ofNat 32 t.ph)))

/-- TWAIT: wait until the phase is not the token's. -/
def execTwait (h : Hdr) (f : FmtX) : State → Host.Outcome State Fault Refusal :=
  runWord (.twait h f) (teamWord (tmTeam f) fun s u k t mine =>
    if t.ph == (s.sreg u f.u0.toNat).toNat then .ok (s.teamHold k t.ph mine)
    else .ok (s.acquire t.core 1))

/-- The status of a team (R395). -/
def Team.status (t : Team) : Nat :=
  t.ph % 65536 * 2 ^ 16 + t.arrived.length % 64 * 2 ^ 10 + t.members.length % 64 * 2 ^ 4 + (if t.wdPeriod != 0 then 8 else 0)

/-- TQRY: the status, and the watchdog armed with a period, or disarmed by 0 (R394). -/
def execTqry (h : Hdr) (f : FmtX) : State → Host.Outcome State Fault Refusal :=
  runWord (.tqry h f) (teamWord (tmTeam f) fun s u k t _ =>
    let v := t.status
    let p := (s.sreg u f.u1.toNat).toNat
    let s := if tmWd f then { s with teams := fput s.teams k { t with wdPeriod := p, wdSince := if p == 0 then none else some s.ptb,
                                                                      wdWait := none } } else s
    .ok ((s.setS u f.u0.toNat (BitVec.ofNat 32 v)).recVal u 127 0x2C3 0 (BitVec.ofNat 64 v)))

/-- RESHAPE: an arrival at team 16 with the new shares (R396). A wave whose wait was abandoned waits again. -/
def execReshape (h : Hdr) (f : FmtX) : State → Host.Outcome State Fault Refusal :=
  runWord (.reshape h f) (teamWord 16 fun s u k t mine =>
    let x := s.sreg u f.u1.toNat
    match fget (s.wave u).tbar k with
    | some ph =>
      if t.ph == ph then .ok (s.teamHold k ph mine)
      else .ok ((s.modWave u fun w => { w with tbar := fdel w.tbar k }).acquire t.core 1)
    | none =>
      if bits x.toNat 31 25 != 0 then .error (some (hit { u := u, i := 0 } (rankOwn 1) .bounds 2))
      else
        match (s.modWave u fun w => { w with reshape := some (f.u0.toNat, x) }).arrive u k t mine with
        | .error e => .error e
        | .ok s' =>
          match fget s'.teams k with
          | some t' => if t'.ph == t.ph then .ok ((s'.modWave u fun w => { w with tbar := fput w.tbar k t.ph }).teamHold k t.ph mine) else .ok s'
          | none => .ok s')

/-! ## The watchdog (R394) -/

/-- A thread is in the waiting state of R79. -/
def State.isWaiting (s : State) (t : TRef) : Bool :=
  match (s.thread t).st with
  | .waiting w => w.leaves && s.threadState t == 3
  | _ => false

/-- The line locks that trapped threads wait for have not been asked for: where no other thread of the wave has part in a request, it is
taken back, with its place in the queue (R394). -/
def State.withdrawLocks (s : State) (u : Nat) (mine : List Nat) : State :=
  let gone := (s.wave u).lockers.filter fun e => mine.contains e.i && (e.late || s.waitsAt { u := u, i := e.i } e)
  let w := (s.wave u).dropLockers gone.contains
  let lost := fun (req : Nat) => gone.any (fun e => e.req == req) && !w.lockers.any fun e => e.req == req
  let s : State := s.setWave u { w with lockWait := w.lockWait.filter fun y => !lost y.2 }
  let s : State := { s with
    lockMsgs := s.lockMsgs.filter (fun m => m.u != u || !lost m.req || m.kind == .release || m.kind == .abandon),
    lockRetries := s.lockRetries.filter fun m => m.u != u || !lost m.req }
  (s.locks.filter fun (e : Nat × LockRec) => e.2.queue.any fun q => q.u == u && lost q.req).foldl (fun s e => s.lockRemove u e.1) s

/-- A watchdog fires: each waiting thread of each member takes WATCHDOG at the instruction on which it waits, and a
TBAR that waits has not arrived. -/
def State.fireWatchdog (s : State) (k : Nat) (t : Team) : State :=
  let who := t.members.flatMap fun u => ((s.wave u).live.map fun i => ({ u := u, i := i } : TRef)).filter s.isWaiting
  let us := dedup (who.map TRef.u)
  let s := us.foldl (fun s u =>
    let ks := (s.wave u).tbar
    let s := s.modWave u fun w => { w with tbar := [], reshape := none }
    ks.foldl (fun s e => { s with teams := fmod s.teams e.1 fun t =>
      if t.ph == e.2 then { t with arrived := t.arrived.filter (· != u) } else t }) s) s
  let s := us.foldl (fun s u => s.withdrawLocks u ((who.filter fun t => t.u == u).map TRef.i)) s
  let s := { s with teams := fmod s.teams k fun t => { t with wdPeriod := 0, wdSince := none, wdWait := none } }
  who.foldl (fun s x => (s.abandonWait x).modThread x fun th => { th with async := th.async ++
    [bareAsync .watchdog (BitVec.ofNat 32 (k % 32)) th.pc] }) s

/-- Since when some member of each armed team has had a waiting thread, at the end of a step. -/
def State.settleTeams (s : State) : State :=
  if s.teams.all fun e => e.2.wdPeriod == 0 then s
  else { s with teams := fmapAll (fun _ (t : Team) =>
    if t.wdPeriod == 0 then t
    else if t.members.any fun u => (s.wave u).live.any fun i => s.isWaiting { u := u, i := i } then
      { t with wdWait := some (t.wdWait.getD s.ptb) }
    else { t with wdWait := none }) s.teams }

/-- TEAM_WATCHDOG_CHECK: the check of team `n` of the tables. -/
def execTeamWatchdogCheck (s : State) : Host.Outcome State Fault Refusal :=
  .next (
    let k := s.arg.n
    match fget s.teams k with
    | none => s
    | some t =>
      if t.wdPeriod == 0 then s
      else if t.members.any fun u => (s.wave u).halted || (s.wave u).saved then
        { s with teams := fput s.teams k { t with wdSince := none } }
      else match t.wdSince with
        | none => { s with teams := fput s.teams k { t with wdSince := some s.ptb } }
        | some since =>
          match t.wdWait with
          | none => s
          | some wait => if max since wait + t.wdPeriod ≤ s.ptb then s.fireWatchdog k t else s)

end Sys2Proof.Machine
end

