-- ==== Sys2Proof/Machine/Launch.lean ====
section
/-! DEFINITION. Queues, the dependence unit, dispatch, completion, LAUNCH and LWAIT, and the kill of a context (R381
to R391, R397, R398, R416). -/

namespace Sys2Proof.Machine

/-! ## Queues (R381) -/

/-- A queue's registers; those after reset where unlisted. -/
def State.queue (s : State) (q : Nat) : Queue :=
  fgetD s.queues q { base := 0, ctl := 0, tail := 0, head := 0, cb := 0, cp := 0, cc := 0, issuers := [], done := [], pend := [] }
/-- The state with a queue. -/
def State.setQueue (s : State) (q : Nat) (k : Queue) : State := { s with queues := fput s.queues q k }

/-- Fields of QCTL. -/
def Queue.devq (k : Queue) : Bool := k.ctl.getLsbD 13
def Queue.en (k : Queue) : Bool := k.ctl.getLsbD 12
def Queue.ctx (k : Queue) : Nat := bits k.ctl.toNat 11 6
/-- Slots of the ring: LOGSZ 0 is treated as 1. -/
def Queue.slots (k : Queue) : Nat := 2 ^ max 1 (bits k.ctl.toNat 3 0)
/-- Records submitted and not fetched. -/
def Queue.waiting (k : Queue) : Nat := (k.tail + 2 ^ 32 - k.head) % 2 ^ 32
/-- The physical address of the slot of a count. -/
def Queue.slotAt (k : Queue) (n : Nat) : Nat := bits k.base.toNat 51 8 * 256 + 256 * (n % k.slots)
/-- Entries of the completion ring. -/
def Queue.compSlots (k : Queue) : Nat := 2 ^ bits k.cb.toNat 3 0

/-- QTAIL_DOORBELL: the host writes QTAIL of queue `n`; a write to a device queue, or further ahead than the ring, is
ignored. -/
def State.doorbell (s : State) (q tail : Nat) : State :=
  let k := s.queue q
  let t := tail % 2 ^ 32
  if q ≥ 64 || k.devq || (t + 2 ^ 32 - k.head) % 2 ^ 32 > k.slots then s else s.setQueue q { k with tail := t }

/-- QTAIL_DOORBELL. -/
def execQtailDoorbell (s : State) : Host.Outcome State Fault Refusal := .next (s.doorbell s.arg.n s.arg.k)

/-! ## Completion (R384, R398) -/

/-- The completion entry of a launch. -/
def completionEntry (l : Launch) (tick : Nat) : BitVec 128 :=
  BitVec.ofNat 128 (l.ticket % 2 ^ 64 + l.status % 256 * 2 ^ 64 + l.detail % 256 * 2 ^ 72 + tick % 2 ^ 48 * 2 ^ 80)

/-- A launch is complete: its status is known by its ticket, and its entry waits for the ring; a host queue's context
posts its vector after that entry. In a replay there is neither entry nor post (R487). -/
def State.completeLaunch (s : State) (l : Launch) : State :=
  let k := s.queue l.q
  let quiet := s.recMode l.ctx == 2
  let s := { s with launches := s.launches.filter fun x => x.id != l.id }
  let done := k.done ++ [(l.ticket, l.status)]
  s.setQueue l.q { k with
    done := done.drop (done.length - 256),
    pend := if quiet then k.pend else k.pend ++ [completionEntry l s.ptb] }

/-- Everything that the launch's threads issued is over, and its blocks are freed (R384). -/
def State.launchOver (s : State) (l : Launch) : Bool :=
  l.ready && l.left.isEmpty && !s.blocks.any (fun e => e.2.launch == l.id)
    && !s.copies.any (fun c => l.blocks.contains c.block) && !s.sprReqs.any (fun r => l.blocks.contains r.block)
    && !s.mcmds.any (fun m => l.blocks.contains m.block) && !s.colls.any (fun c => l.blocks.contains c.block && !c.done)
    && !s.outbound.any (fun m => m.launch == l.id)

/-- LAUNCH_COMPLETE. -/
def execLaunchComplete (s : State) : Host.Outcome State Fault Refusal :=
  .next (match s.launchOf s.arg.n with
    | some l => if s.launchOver l then s.completeLaunch l else s
    | none => s)

/-- The oldest completion entry of a queue that waits is written, when the ring has room; a host queue's context then posts its
MSI-X vector with the ticket (R384). -/
def State.writeCompletion (s : State) (q : Nat) : State :=
  let k := s.queue q
  match k.pend with
  | [] => s
  | e :: rest =>
    if (k.cp + 2 ^ 32 - k.cc) % 2 ^ 32 < k.compSlots then
      let s := s.agentPut (bits k.cb.toNat 51 12 * 4096 + 16 * (k.cp % k.compSlots)) e.toNat 16
      let s := s.setQueue q { k with cp := (k.cp + 1) % 2 ^ 32, pend := rest }
      if k.devq then s else s.post k.ctx "LAUNCH" (e.setWidth 64)
    else s

/-- COMPLETION_ENTRY_WRITE: the oldest entry of queue `n` that waits is written when the ring has room. -/
def execCompletionEntryWrite (s : State) : Host.Outcome State Fault Refusal := .next (s.writeCompletion s.arg.n)

/-! ## Fetching and dependence (R380, R382, R385) -/

/-- The C-dies that live. -/
def State.liveDies (s : State) : List Nat := (upto 0 4).filter fun d => !s.deadDies.contains d

/-- A record of a context enters the dependence unit: refused, with a range on a lost die, or with the launches that
it depends on. -/
def State.enterLaunch (s : State) (q ticket c r : Nat) (issuer : Option Nat) : State :=
  let n := fgetD s.launchCount c 0
  let l : Launch := { id := s.next, q := q, ticket := ticket, ctx := c, record := r, deps := [], ready := true, left := [],
                      blocks := [], status := 0, detail := 0, lnum := n }
  let s := { s with next := s.next + 1, launchCount := fput s.launchCount c (n + 1) }
  match recRefusal r (s.levelH c) with
  | some d => s.completeLaunch { l with status := 1, detail := d }
  | none =>
    if (recRanges r).any fun x => s.deadDies.contains x.2.2 then s.completeLaunch { l with status := 2 }
    else
      let deps := (s.launches.filter fun e => e.ctx == c && recConflict e.record r && some e.id != issuer).map Launch.id
      { s with launches := s.launches ++ [{ l with deps := deps, ready := deps.isEmpty, left := recRanges r }] }

/-- QUEUE_FETCH may fetch from a queue (R381). -/
def State.mayFetch (s : State) (q : Nat) : Bool :=
  let k := s.queue q
  (upto 0 4).all (fun j => !s.lostHome (k.slotAt k.head + 64 * j)) &&
  k.tail != k.head && k.en && (s.ctx k.ctx).ctxctl.getLsbD 0 && decide (s.launches.length < 1024) && !s.liveDies.isEmpty
    && !s.cutReq.contains k.ctx

/-- The next launch record that the log of a replay enters (R486): its ticket and bytes. One of a device queue waits for
its LAUNCH. -/
def State.loggedLaunch (s : State) (c : Nat) : Option (Nat × List Byte) :=
  (fget s.replays c).bind fun p =>
    match p.inputs.find? fun e => bits e.1.toNat 7 4 == 4 with
    | none => none
    | some e =>
      let ticket := bits e.1.toNat 63 8
      let q := ticket / 2 ^ 48
      let n := fgetD p.tails q 0
      if (s.queue q).devq && decide ((n + 2 ^ 32 - ticket % 2 ^ 32 + 2 ^ 32 - 1) % 2 ^ 32 ≥ 2 ^ 31) then none else some (ticket, e.2)

/-- That record enters the dependence unit. -/
def State.enterLogged (s : State) (c : Nat) : State :=
  match s.loggedLaunch c with
  | none => s
  | some (ticket, l) =>
    let q := ticket / 2 ^ 48
    let k := s.queue q
    let s := { s with replays := fmod s.replays c fun p => { p with inputs := eraseFirst (fun e => bits e.1.toNat 7 4 == 4) p.inputs } }
    s.enterLaunch q ticket c (leNat l) (fget k.issuers (ticket % 2 ^ 48))

/-- QUEUE_FETCH: the next record of queue `n` is fetched, logged for a recorded context, checked and ticketed. -/
def execQueueFetch (s : State) : Host.Outcome State Fault Refusal :=
  .next (
    let q := s.arg.n
    let k := s.queue q
    if s.recMode k.ctx == 2 then s.enterLogged k.ctx
    else if !s.mayFetch q then s
    else
      let at_ := k.slotAt k.head
      let r := (upto 0 4).foldl (fun v j => v + s.peek (at_ + 64 * j) 64 * 2 ^ (512 * j)) 0
      let ticket := q * 2 ^ 48 + k.head
      let s := s.setQueue q { k with head := (k.head + 1) % 2 ^ 32, issuers := fdel k.issuers k.head }
      let s := if s.recording k.ctx then
          s.emitAll k.ctx 40 (BitVec.ofNat 128 (10 + 4 * 2 ^ 4 + ticket % 2 ^ 56 * 2 ^ 8 + 255 * 2 ^ 64) :: dataRecs 256 (leBytes r 256))
        else s
      s.enterLaunch q ticket k.ctx r (fget k.issuers k.head))

/-- LAUNCH_READY: every launch that launch `n` depends on has completed. -/
def execLaunchReady (s : State) : Host.Outcome State Fault Refusal :=
  .next ({ s with launches := s.launches.map fun l =>
    if l.id == s.arg.n && l.deps.all (fun d => (s.launchOf d).isNone) then { l with ready := true } else l })

/-! ## Dispatch (R383, R386 to R388) -/

/-- Blocks resident on a core. -/
def State.residents (s : State) (core : Nat) : List (Nat × Block) := s.blocks.filter fun e => e.2.core == core && !e.2.saved

/-- Wave slots of a core in use. -/
def State.slotsUsed (s : State) (core : Nat) : List Nat :=
  (s.waves.filter fun e => e.2.core == core && !e.2.saved && !e.2.isSprout).map fun e => e.2.slot

/-- Wave slots of a core that a launch may take: the handler slots of members 0 and 1 for a handler context alone
(R29, R417). -/
def State.slotsFree (s : State) (core : Nat) (high : Bool) : List Nat :=
  let used := s.slotsUsed core
  let handler := fun (k : Nat) => k == 31 && decide (core % 4 ≤ 1)
  (upto 0 32).filter fun k => !used.contains k && (handler k == high)

/-- Register-file bytes of a wave: none once its last thread has exited (R386, R389). -/
def Wave.rf (w : Wave) : Nat := if w.isSprout || w.live.isEmpty then 0 else w.width * w.regs * 4

/-- Register-file bytes that a core's waves hold. -/
def State.rfUsed (s : State) (core : Nat) : Nat :=
  (s.waves.filter fun e => e.2.core == core && !e.2.saved).foldl (fun n e => n + e.2.rf) 0

/-- A block of given needs finds room on a core beside its residents (R386), with at most 1,024 sprout frames (R30, R331). -/
def State.roomFor (s : State) (core : Nat) (part rf : Nat) (gran : Nat × Nat × Nat) (sprouts slots teams : Nat) (high : Bool) : Bool :=
  let res := s.residents core
  let sum := fun (f : Block → Nat) => res.foldl (fun n e => n + f e.2) 0
  (res.isEmpty || (s.core core).part.toNat == part)
    && decide (slots ≤ (s.slotsFree core high).length)
    && decide (s.rfUsed core + rf ≤ 16384 * partRf part) && decide (sum (fun b => b.sprouts) + sprouts ≤ 1024)
    && decide (sum (fun b => b.gran.1) + gran.1 ≤ partScr part)
    && decide (sum (fun b => b.gran.2.1) + gran.2.1 ≤ partAcc part)
    && decide (sum (fun b => b.gran.2.2) + gran.2.2 ≤ partSpr part)
    && decide ((s.teams.filter fun t => t.2.core == core && !(s.block t.2.block).saved).length + teams ≤ 256)
    && !s.deadDies.contains (dieOf core)

/-- A record's block fits a core now. -/
def State.fitsCore (s : State) (c r core : Nat) : Bool :=
  let x := recShares r
  s.roomFor core (recPart r) (recRf r) (scrGran (shScr x), shAcc x, sprGran (shSpr x)) (shSpr x) (recNw r) (recNt r + 1) (s.levelH c)

/-- The first block of a launch that waits for a die. -/
def Launch.firstOn (l : Launch) (d : Nat) : Option Nat := (l.left.find? fun x => x.2.2 == d).map fun x => x.1

/-- The blocks of the launch's next gang on a die, with the core of each: one block, or a whole cluster (R150). -/
def Launch.gangOn (l : Launch) (core : Nat) : List (Nat × Nat) :=
  match l.firstOn (dieOf core) with
  | none => []
  | some b =>
    if recCl4 l.record then
      ((upto 0 4).filter fun m => decide (b + m < recBlocks l.record)).map fun m => (b + m, core / 4 * 4 + m)
    else [(b, core)]

/-- The next gang of a launch fits at a core. -/
def State.gangFits (s : State) (l : Launch) (core : Nat) : Bool :=
  let g := l.gangOn core
  !g.isEmpty && g.all fun e => s.fitsCore l.ctx l.record e.2

/-- A launch ranks above another (R383): the list of launches is in entry order. -/
def State.outranks (s : State) (h l : Launch) : Bool :=
  decide (recPrio h.record > recPrio l.record)
    || (recPrio h.record == recPrio l.record
        && decide ((s.launches.findIdx fun x => x.id == h.id) < s.launches.findIdx fun x => x.id == l.id))

/-- A launch may place its next gang at a core: no launch that ranks above it and waits for the die fits there, and
none waits if a core of the gang is empty (R388). A launch of a context that is being pre-empted or is saved, or that awaits a cut,
places nothing and holds those below it back like any other (log entry 97). -/
def State.mayPlace (s : State) (l : Launch) (core : Nat) : Bool :=
  let d := dieOf core
  let above := s.launches.filter fun h => h.ready && (h.firstOn d).isSome && s.outranks h l && s.recMode h.ctx != 2
  l.ready && s.gangFits l core && !(s.cutReq.contains l.ctx) && (s.ctx l.ctx).pst == 0
    && above.all (fun h => !(upto (40 * d) 40).any (s.gangFits h))
    && (above.isEmpty || !(l.gangOn core).any fun e => (s.residents e.2).isEmpty)

/-- A wave as it starts (R77, R78, R387); `high` for a wave of a handler context (R417). -/
def startWave (c core block slot wid : Nat) (r : Nat) (tag : Nat) (now : Nat) (high : Bool) : Wave :=
  let w := recWidth r
  let th : Thread := { (default : Thread) with pc := recKpc r, st := .ready, readyAt := now }
  { (default : Wave) with
    ctx := c, core := core, block := block, slot := slot, wid := wid, width := w, lane := w * wid % 64, regs := 8 * recRg r, high := high,
    tag := BitVec.ofNat 32 (tag % 2 ^ 31), threads := (upto 0 w).map fun i => (i, th),
    m := [(0, widthMask w)], fpsw := BitVec.ofNat 32 (recEn r * 256),
    recd := { (default : RecUnit) with unit := core % 4 * 32 + slot } }

/-- A block as it starts (R387). -/
def startBlock (l : Launch) (lin core gen : Nat) : Block :=
  let r := l.record
  let x := recShares r
  let cl4 := recCl4 r
  { (default : Block) with
    ctx := l.ctx, launch := l.id, core := core, die := dieOf core,
    bx := lin % recNbx r, by_ := lin / recNbx r % recNby r, bz := lin / recNbx r / recNby r, lin := lin,
    gang := if cl4 then lin / 4 * 4 else lin, member := core % 4, scratch := shScr x, gen := gen, acc := shAcc x, sprouts := shSpr x,
    lnum := l.lnum, seed := BitVec.ofNat 64 (recSeed r), en := recEn r, nbx := recNbx r, nby := recNby r,
    nbz := recNbz r, credit := if recCred r == 0 then 8 else recCred r }

/-- The team entries of a block (R392). -/
def blockTeams (b core r : Nat) (us : List Nat) : List (Nat × Team) :=
  let team := fun (members : List Nat) =>
    ({ core := core, block := b, members := members, ph := 0, arrived := [], wdPeriod := 0, wdSince := none, wdWait := none } : Team)
  ((upto 0 (recNt r)).map fun t => (teamKey b t, team ((us.zipIdx.filter fun e => (recTeam r t).testBit e.2).map Prod.fst)))
    ++ [(teamKey b 16, team us)]

/-- A core takes a partition word: an empty core drops its L1. -/
def State.takePart (s : State) (core part : Nat) : State :=
  if (s.residents core).isEmpty then
    let k := s.core core
    s.setCore core { k with part := BitVec.ofNat 64 part, l1 := [], l1Lines := [] }
  else s

/-- A block of a launch starts on a core, its waves in given slots with given tags. -/
def State.placeBlock (s : State) (l : Launch) (lin core : Nat) (slots : List Nat) (tags : List Nat) : State :=
  let r := l.record
  let s := (s.takePart core (recPart r)).acquire core 6
  let k := s.core core
  let gen := (k.gen + 1) % 65536
  let s := s.setCore core { k with gen := gen }
  let b := s.next
  let us := upto (b + 1) (recNw r)
  let s := { s with next := b + 1 + recNw r }
  let s := (s.setBlock b (startBlock l lin core gen)).takeGrans b (scrGran (shScr (recShares r)))
  let s := us.zipIdx.foldl (fun s (e : Nat × Nat) =>
    s.setWave e.1 (startWave l.ctx core b (slots.getD e.2 0) e.2 r (tags.getD e.2 e.1) s.steps (s.levelH l.ctx))) s
  let s := { s with teams := (blockTeams b core r us).foldl (fun m e => fput m e.1 e.2) s.teams,
                    launches := s.launches.map fun x => if x.id == l.id then { x with blocks := x.blocks ++ [b] } else x }
  us.foldl State.skipBare (us.foldl State.recWave s)

/-- A block no longer waits. -/
def takeBlock (lin : Nat) (l : List (Nat × Nat × Nat)) : List (Nat × Nat × Nat) :=
  l.flatMap fun x =>
    if x.1 ≤ lin && lin < x.2.1 then
      (if x.1 < lin then [(x.1, lin, x.2.2)] else []) ++ (if lin + 1 < x.2.1 then [(lin + 1, x.2.1, x.2.2)] else [])
    else [x]

/-- The blocks of a launch's next gang start at a core. -/
def State.dispatch (s : State) (l : Launch) (core : Nat) : State :=
  (l.gangOn core).foldl (fun s e =>
    let s := s.placeBlock l e.1 e.2 (s.slotsFree e.2 (s.levelH l.ctx)) []
    { s with launches := s.launches.map fun x => if x.id == l.id then { x with left := takeBlock e.1 x.left } else x }) s

/-- A block of a replay is placed by its WAVE records: its core, its slots and its waves' tags (R486). -/
def State.loggedPlace (s : State) (c lnum lin : Nat) : List (Nat × Nat × Nat × Nat) :=
  match fget s.replays c with
  | none => []
  | some p =>
    sortBy (fun e => e.1) ((p.waves.filter fun w =>
      !w.getLsbD 13 && bits w.toNat 31 14 == lnum && bits w.toNat 95 64 == lin).map fun w =>
        (bits w.toNat 111 104, bits w.toNat 103 96, bits w.toNat 12 4 % 32, bits w.toNat 63 32))

/-- The next gang of a launch of a replay starts where the log places it, once the slots are free and it fits there. -/
def State.dispatchLogged (s : State) (l : Launch) (d : Nat) : State :=
  match l.firstOn d with
  | none => s
  | some b =>
    let lins := if recCl4 l.record then (upto b 4).filter fun x => decide (x < recBlocks l.record) else [b]
    let places := lins.map fun x => (x, s.loggedPlace l.ctx l.lnum x)
    let ok := places.all fun e => !e.2.isEmpty && e.2.all fun w =>
      !(s.slotsUsed w.2.1).contains w.2.2.1 && s.fitsCore l.ctx l.record w.2.1
    if !ok then s
    else
      let used := places.flatMap fun e => e.2.map fun w => w.2.2.2
      let s := { s with replays := fmod s.replays l.ctx fun p => { p with
        waves := p.waves.filter fun w => !(!w.getLsbD 13 && bits w.toNat 31 14 == l.lnum && used.contains (bits w.toNat 63 32)) } }
      places.foldl (fun s e =>
      let core := (e.2.head?.map fun w => w.2.1).getD 0
      let s := s.placeBlock l e.1 core (e.2.map fun w => w.2.2.1) (e.2.map fun w => w.2.2.2)
      { s with launches := s.launches.map fun x => if x.id == l.id then { x with left := takeBlock e.1 x.left } else x }) s

/-- BLOCK_DISPATCH: the next block, or cluster of blocks, of launch `n` starts on core `k`. -/
def execBlockDispatch (s : State) : Host.Outcome State Fault Refusal :=
  .next (match s.launchOf s.arg.n with
    | none => s
    | some l =>
      let core := s.arg.k % 160
      if s.recMode l.ctx == 2 then (if l.ready then s.dispatchLogged l (dieOf core) else s)
      else if s.mayPlace l core then s.dispatch l core else s)

/-! ## When a block's slot is freed (R391) -/

/-- Everything of a block is over but its slot. -/
def State.blockOver (s : State) (b : Nat) : Bool :=
  let mine := fun (u : Nat) => (s.wave u).block == b
  (s.block b).ended && !s.sprReqs.any (fun r => r.block == b) && s.sproutsOf b == 0
    && !s.copies.any (fun c => c.ssp != 0 && c.srcBlock == b && !c.left.isEmpty)
    && !s.copies.any (fun c => c.block == b && (match c.carried with
        | some k => !k.landed
        | none => false))
    && !s.mcmds.any (fun m => m.block == b) && !s.drains.any (fun d => mine d.u)
    && !s.accs.any (fun a => mine a.t.u && a.st != .failed)

/-- The block's cluster has exited in whole (R150). -/
def State.gangOver (s : State) (b : Nat) : Bool :=
  let k := s.block b
  !s.isCl4 b || s.blocks.all fun e => !(e.2.launch == k.launch && e.2.gang == k.gang) || s.blockOver e.1

/-- A block is removed with its waves, its team entries and what its core knew of it. -/
def State.removeBlock (s : State) (b : Nat) : State :=
  let us := (s.waves.filter fun e => e.2.block == b).map Prod.fst
  { s with waves := s.waves.filter (fun e => e.2.block != b), blocks := fdel s.blocks b,
           teams := s.teams.filter (fun e => e.2.block != b), sprDone := s.sprDone.filter (fun d => d.block != b),
           reqErr := s.reqErr.filter (fun e => e.1 != b),
           colls := (s.colls.filter fun c => !(us.contains c.u && c.done)).map fun c =>
             if us.contains c.u then { c with unit := (s.wave c.u).recd.unit, bidx := (s.wave c.u).recd.last } else c,
           accs := s.accs.filter (fun a => !us.contains a.t.u), carriedTraps := s.carriedTraps.filter (fun e => !us.contains e.2.1) }

/-- BLOCK_SLOT_FREE: the slot of block `n`, and with CL4 of its whole cluster, is freed. -/
def execBlockSlotFree (s : State) : Host.Outcome State Fault Refusal :=
  .next (
    let b := s.arg.n
    if !s.blockLive b || !s.blockOver b || !s.gangOver b then s
    else
      let k := s.block b
      if s.isCl4 b then
        ((s.blocks.filter fun e => e.2.launch == k.launch && e.2.gang == k.gang).map Prod.fst).foldl State.removeBlock s
      else s.removeBlock b)

/-! ## LAUNCH and LWAIT (R397, R398) -/

/-- A ring slot receives a record. -/
def State.putRecord (s : State) (q : Nat) (r : Nat) (issuer : Nat) : State :=
  let k := s.queue q
  let s := (upto 0 4).foldl (fun s j => s.engWrite (k.slotAt k.tail + 64 * j) (leBytes (r >>> (512 * j)) 64) false) s
  s.setQueue q { k with tail := (k.tail + 1) % 2 ^ 32, issuers := fput k.issuers k.tail issuer }

/-- The ticket that a LAUNCH to a queue gets in a replay: counted from the queue's tail at the checkpoint. -/
def State.replayTicket (s : State) (c q : Nat) : Nat × State :=
  match fget s.replays c with
  | none => (0, s)
  | some p =>
    let n := fgetD p.tails q 0
    (q * 2 ^ 48 + n, { s with replays := fput s.replays c { p with tails := fput p.tails q ((n + 1) % 2 ^ 32) } })

/-- LAUNCH in one wave. -/
def launchWave (f : FmtX) (s : State) (x : EngIn) : EngRes :=
  let w := s.wave x.u
  let a := (regOf64 x.regs f.u1.toNat).toNat
  let q := (regOf x.regs f.u2.toNat).toNat
  let k := s.queue q
  let g : Rng := ⟨0, a, 0, 1, 256, false⟩
  let replay := s.recMode w.ctx == 2
  let hits := g.noncanon 1 ++ (if a % 256 ≠ 0 then [⟨2, .align, 0, some a⟩] else [])
    ++ (if q > 63 || k.ctx != w.ctx || !k.devq || !(k.en || replay) then [⟨3, .bounds, 10, none⟩] else [])
  match firstEng hits with
  | some h => .bad h
  | none =>
    match s.pinAll w.core w.ctx 4 w.high [g] with
    | .bad h => .bad h
    | .soft code va wr => .soft code va wr
    | .wait l => .wait l
    | .ok pins s =>
      let pa := pinned (pins.getD 0 []) a
      if !s.lanesDone x then .wait []
      else if replay then
        let t := s.replayTicket w.ctx q
        let k := t.2.queue q
        let t := (t.1, t.2.setQueue q { k with issuers := fput k.issuers (t.1 % 2 ^ 48) (s.block w.block).launch })
        .ok ((t.2.setSs x.u f.u0.toNat (toWords t.1 2)).markSync x.u (objKey 8 t.1 0))
      else if k.waiting ≥ k.slots then .wait []
      else
        let r := (upto 0 4).foldl (fun v j => v + (s.engRead (pa + 64 * j) 64).1 * 2 ^ (512 * j)) 0
        let ticket := q * 2 ^ 48 + k.tail
        let s := s.putRecord q r (s.block w.block).launch
        .ok ((s.setSs x.u f.u0.toNat (toWords ticket 2)).markSync x.u (objKey 8 ticket 0))

/-- LAUNCH with its waves' register values. -/
def State.launchPerform (s : State) (f : FmtX) (i : Instr) (ins : List EngIn) : Res := s.engPerform i ins (launchWave f)

/-- LAUNCH. -/
def execLaunch (h : Hdr) (f : FmtX) : State → Host.Outcome State Fault Refusal :=
  runWord (.launch h f) fun s l =>
    let ins := s.engIns (.launch h f) l plainLane
    s.engIssue (.launch h f) ins (s.launchPerform f (.launch h f) ins)

/-- What is known of a ticket: nothing, that it has not completed, or its status (R398). -/
inductive TicketState where
  | unknown | waiting | done (status : Nat)
  deriving DecidableEq, Repr

/-- A ticket's state. -/
def State.ticketOf (s : State) (t : Nat) : TicketState :=
  let q := t / 2 ^ 48
  let n := t % 2 ^ 48
  let k := s.queue q
  if q > 63 then .unknown
  else if s.launches.any fun l => l.ticket == t then .waiting
  else match k.done.reverse.find? (fun e => e.1 == t) with
    | some e => .done e.2
    | none => if n < 2 ^ 32 && (n + 2 ^ 32 - k.head) % 2 ^ 32 < k.waiting then .waiting else .unknown

/-- LWAIT returns a status: PS, the status register, and an acquire at system scope. -/
def State.lwaitEnd (s : State) (u : Nat) (f : FmtX) (mine : List TRef) (ok : Bool) (status : Nat) (t : Nat) : State :=
  let s := if lwSt f then (s.setS u f.u1.toNat (BitVec.ofNat 32 status)).recVal u 127 0x2C6 0 (BitVec.ofNat 64 status) else s
  let s := mine.foldl (fun s t => s.setP t (xPs f) ok) s
  ((s.recVal u 127 0x2C6 0 (if ok then 1 else 0)).acquire (s.wave u).core 6).markSync u (objKey 8 t 0)

/-- LWAIT. -/
def execLwait (h : Hdr) (f : FmtX) : State → Host.Outcome State Fault Refusal :=
  runWord (.lwait h f) fun s l => perWave l s fun s u mine =>
    let t := (s.sreg64 u f.u0.toNat).toNat
    match s.ticketOf t with
    | .unknown => .ok (s.lwaitEnd u f mine true 0 t)
    | .waiting => .error none
    | .done st => .ok (s.lwaitEnd u f mine (st == 0) st t)

end Sys2Proof.Machine
end

