-- ==== Sys2Proof/Machine/Messages.lean ====
section
/-! DEFINITION. Mailboxes and messages between devices (R399 to R401), and the context's event counters (R406). -/

namespace Sys2Proof.Machine

/-! ## Mailboxes (R399) -/

/-- The entry of a mailbox in the table at MBTB. -/
def State.boxEntry (s : State) (b : Nat) : Nat := s.peek (bits s.mbtb.toNat 51 12 * 4096 + 8 * b) 8
/-- Its fields: valid, the context, log2 of the ring's slots, the ring's base. -/
def boxV (e : Nat) : Bool := e.testBit 63
def boxCtx (e : Nat) : Nat := bits e 62 57
def boxLog (e : Nat) : Nat := if bits e 56 53 == 0 then 1 else bits e 56 53
def boxBase (e : Nat) : Nat := bits e 51 12 * 4096

/-- Ring head and sources of a mailbox. -/
def State.box (s : State) (b : Nat) : Box := fgetD s.boxes b default
/-- The state with them. -/
def State.setBox (s : State) (b : Nat) (x : Box) : State := { s with boxes := fput s.boxes b x }

/-- The context owns the mailbox. -/
def State.ownsBox (s : State) (c b : Nat) : Bool := boxV (s.boxEntry b) && boxCtx (s.boxEntry b) == c

/-- Physical address of the k-th slot from the head. -/
def State.boxSlot (s : State) (b k : Nat) : Nat :=
  let e := s.boxEntry b
  boxBase e + 64 * (((s.box b).head + k) % 2 ^ boxLog e)

/-- MSGERR [31:0] of a context counts a message that was dropped, modulo 2^32 (R415). -/
def State.msgErr (s : State) (c : Nat) : State :=
  s.setCtx c { s.ctx c with msgerr := ((s.ctx c).msgerr.setWidth 32 + 1 : Word).setWidth 64 }

/-- The MSG record of an arrival with its payload, and the counters of R471. -/
def State.recMessage (s : State) (b src : Nat) (data : SectorData) : State :=
  let c := boxCtx (s.boxEntry b)
  let x := s.box b
  let sseq := fgetD x.sseq src 0
  let r := BitVec.ofNat 128 (5 + b * 2 ^ 4 + src * 2 ^ 12 + sseq % 2 ^ 32 * 2 ^ 32 + x.aseq * 2 ^ 64)
  let s := if s.recording c then
      let s := s.emitAll c 40 (r :: dataRecs 5 (leBytes data.toNat 64))
      if !(s.ctx c).rctl.getLsbD 6 || s.markers.contains (c * 64 + src) || src == s.devid then s
      else { s with flight := fput s.flight ((c * 64 + src) * 256 + b) (fgetD s.flight ((c * 64 + src) * 256 + b) 0 + 1) }
    else s
  s.setBox b { x with aseq := x.aseq + 1, sseq := fput x.sseq src (sseq + 1) }

/-- A message arrives at a mailbox with room: it takes the slot after the newest. -/
def State.storeMessage (s : State) (b src : Nat) (data : SectorData) : State :=
  let s := s.recMessage b src data
  let x := s.box b
  let s := s.agentWrite (s.boxSlot b x.srcs.length) (leBytes data.toNat 64)
  s.setBox b { x with srcs := x.srcs ++ [src] }

/-- What becomes of a message at a mailbox of this device: dropped, held, or stored. -/
inductive BoxFate where
  | drop | hold | store
  deriving DecidableEq, Repr

/-- A mailbox with V = 0, or of a context that is replayed (R487), takes no message; a full ring holds it. -/
def State.boxFate (s : State) (b : Nat) : BoxFate :=
  let e := s.boxEntry b
  if !boxV e || s.replaying (boxCtx e) then .drop
  else if (s.box b).srcs.length ≥ 2 ^ boxLog e then .hold else .store

/-! ## MSGS (R400) -/

/-- The device and mailbox that MSGS names, if its other bits are 0. -/
def msgTarget (x : Word) : Option (Nat × Nat) :=
  let n := x.toNat
  if bits n 7 6 != 0 || bits n 31 16 != 0 then none else some (bits n 5 0, bits n 15 8)

/-- The object of a mailbox (R468). -/
def boxObj (dev b : Nat) : Option Nat := objKey 1 (dev * 256 + b) 0

/-- The payload of a thread: 16 registers. -/
def State.payload (s : State) (t : TRef) (r : Nat) : SectorData :=
  BitVec.ofNat 512 ((upto 0 16).foldl (fun v k => v + (s.vreg t (r + k)).toNat * 2 ^ (32 * k)) 0)

/-- A thread's message is accepted into the outbound queue; in a replay nothing is sent (R487). -/
def State.acceptMessage (s : State) (t : TRef) (dev b : Nat) (data : SectorData) : State :=
  let w := s.wave t.u
  if s.replaying w.ctx then s
  else
    { s with next := s.next + 1,
             outbound := s.outbound ++ [{ id := s.next, src := s.devid, ctx := w.ctx, launch := (s.block w.block).launch,
                                          block := w.block, dev := dev, box := b, data := data, retry := 0 }] }

/-- PS of a message word, logged for its thread (R407). -/
def State.msgAnswer (s : State) (t : TRef) (p op : Nat) (v : Bool) : State :=
  (s.setP t p v).recVal t.u t.i op 0 (if v then 1 else 0)

/-- One thread of MSGS; the list gathers those that wait. Where one waits, those after it in the bundle wait too, so that acceptance
is in ascending wave index (R399). -/
def msgsThread (f : FmtX) (a : State × List TRef) (t : TRef) : State × List TRef :=
  let s := a.1
  match msgTarget (s.sreg t.u f.u0.toNat) with
  | none => a
  | some (dev, b) =>
    if !a.2.isEmpty || (msB6 f && !s.allDone t 5) then (s, a.2 ++ [t])
    else if s.outbound.length ≥ 4096 && !s.replaying (s.wave t.u).ctx then
      (if msB7 f then ((s.msgAnswer t (xPs f) 0x2C7 false).markSync t.u (boxObj dev b), a.2) else (s, a.2 ++ [t]))
    else
      (((s.acceptMessage t dev b (s.payload t (16 * msVb f))).msgAnswer t (xPs f) 0x2C7 true).markSync t.u (boxObj dev b), a.2)

/-- Threads by ascending wave index (R399, R400); where waves of one bundle share an index, by wave slot (log entry 73). -/
def State.inIndexOrder (s : State) (l : List TRef) : List TRef := sortBy (fun t => t.i * 64 + (s.wave t.u).slot) l

/-- MSGS. -/
def execMsgs (h : Hdr) (f : FmtX) : State → Host.Outcome State Fault Refusal :=
  runWord (.msgs h f) fun s l =>
    let bad := l.filter fun t => (msgTarget (s.sreg t.u f.u0.toNat)).isNone
    if !bad.isEmpty then .trap (bad.map fun t => hit t (rankOwn 0) .bounds 2) []
    else
      let r := (s.inIndexOrder l).foldl (msgsThread f) (s, [])
      .part r.1 r.2

/-! ## MSGR (R400) -/

/-- A message received: 16 registers, and the source if SRC. -/
def State.receiveMessage (s : State) (t : TRef) (f : FmtX) (src v : Nat) : State :=
  let s := s.setVs t (16 * msVb f) (toWords v 16)
  let s := if msB6 f then s.setV t (16 * msVb f + 16) (BitVec.ofNat 32 src) else s
  let s := if msB5 f then s.acquire (s.wave t.u).core 5 else s
  s.msgAnswer t (xPs f) 0x2C8 true

/-- The head message of a mailbox is popped by a thread. -/
def State.popMessage (s : State) (t : TRef) (f : FmtX) (b : Nat) : State :=
  let x := s.box b
  let v := (s.engRead (s.boxSlot b 0) 64).1
  (s.setBox b { x with head := x.head + 1, srcs := x.srcs.tail }).receiveMessage t f (x.srcs.headD 0) v

/-- The next logged arrival of a mailbox in a replay (R486): source and payload. -/
def State.popLogged (s : State) (c b : Nat) : Option ((Nat × List Byte) × State) :=
  match fget s.replays c with
  | none => none
  | some r => match fgetD r.msgs b [] with
    | [] => none
    | m :: ms => some (m, { s with replays := fput s.replays c { r with msgs := fput r.msgs b ms } })

/-- One thread of MSGR; the list gathers those that wait. In a replay the log says whether a message came. -/
def msgrThread (f : FmtX) (a : State × List TRef) (t : TRef) : State × List TRef :=
  let s := a.1
  let c := (s.wave t.u).ctx
  let b := (s.sreg t.u f.u0.toNat).toNat
  let empty : State × List TRef :=
    if msB7 f then (s, a.2 ++ [t]) else ((s.msgAnswer t (xPs f) 0x2C8 false).markSync t.u (boxObj s.devid b), a.2)
  if s.replaying c then
    (if s.logVal t.u t.i 0x2C8 == some 0 then ((s.msgAnswer t (xPs f) 0x2C8 false).markSync t.u (boxObj s.devid b), a.2)
     else match s.popLogged c b with
       | some (m, s) => ((s.receiveMessage t f m.1 (leNat m.2)).markSync t.u (boxObj s.devid b), a.2)
       | none => (s.diverge t.u 4, a.2))
  else if (s.box b).srcs.isEmpty then empty
  else ((s.popMessage t f b).markSync t.u (boxObj s.devid b), a.2)

/-- MSGR: SIZE, then NOBOX. -/
def execMsgr (h : Hdr) (f : FmtX) : State → Host.Outcome State Fault Refusal :=
  runWord (.msgr h f) fun s l =>
    let big := l.filter fun t => (s.sreg t.u f.u0.toNat).toNat > 255
    let foreign := l.filter fun t => !s.ownsBox (s.wave t.u).ctx (s.sreg t.u f.u0.toNat).toNat
    if !big.isEmpty then .trap (big.map fun t => hit t (rankOwn 0) .bounds 2) []
    else if !foreign.isEmpty then .trap (foreign.map fun t => hit t (rankOwn 1) .bounds 11) []
    else
      let r := (s.inIndexOrder l).foldl (msgrThread f) (s, [])
      .part r.1 r.2

/-! ## MSGQ (R401) -/

/-- The status of a mailbox for a context. -/
def State.boxStatus (s : State) (c b : Nat) : Nat :=
  if s.ownsBox c b then min 65535 (s.box b).srcs.length * 65536 + min 4095 (4096 - s.outbound.length) else 0

/-- MSGQ, once for each wave. -/
def execMsgq (h : Hdr) (f : FmtX) : State → Host.Outcome State Fault Refusal :=
  runWord (.msgq h f) fun s l => perWave l s fun s u _ =>
    let b := (s.sreg u f.u0.toNat).toNat
    if b > 255 then .error (some (hit { u := u, i := 0 } (rankOwn 0) .bounds 2))
    else
      let v := s.boxStatus (s.wave u).ctx b
      .ok (((s.setS u f.u1.toNat (BitVec.ofNat 32 v)).recVal u 127 0x2C9 0 (BitVec.ofNat 64 v)).markSync u (boxObj s.devid b))

/-! ## Delivery (R399) -/

/-- No older message of the same source waits for the same mailbox. -/
def OutMsg.first (m : OutMsg) (l : List OutMsg) : Bool :=
  match l.find? fun x => x.src == m.src && x.dev == m.dev && x.box == m.box with
  | some x => x.id == m.id
  | none => true

/-- A message leaves the outbound queue. -/
def State.dropOut (s : State) (id : Nat) : State := { s with outbound := s.outbound.filter fun m => m.id != id }

/-- An accepted message arrives: here at a mailbox of this device; another device takes it, or refuses it. -/
def State.deliverOut (s : State) (m : OutMsg) (refused : Bool) : State :=
  if m.dev == s.devid then
    (match s.boxFate m.box with
     | .drop => (s.dropOut m.id).msgErr m.ctx
     | .hold => { s with outbound := s.outbound.map fun x => if x.id == m.id then { x with retry := s.ptb + 1000 } else x }
     | .store => (s.dropOut m.id).storeMessage m.box m.src m.data)
  else
    let s := s.dropOut m.id
    if refused || !s.reach.contains m.dev then s.msgErr m.ctx else s

/-- A message of another device is held until a tick, and keeps its place in its source's stream. -/
def State.holdIn (s : State) (m : OutMsg) (retry : Nat) : State :=
  { s with inbound := if s.inbound.any (fun x => x.id == m.id) then s.inbound.map fun x => if x.id == m.id then { x with retry := retry } else x
                      else s.inbound ++ [{ m with retry := retry }] }

/-- A message of another device arrives or is tried again; one that is dropped counts at its sender. -/
def State.deliverIn (s : State) (m : OutMsg) : State :=
  let gone := { s with inbound := s.inbound.filter fun x => x.id != m.id }
  if s.markers.contains (4096 + boxCtx (s.boxEntry m.box) * 64 + m.src) then s.holdIn m s.ptb
  else match s.boxFate m.box with
  | .drop => gone
  | .hold => s.holdIn m (s.ptb + 1000)
  | .store => gone.storeMessage m.box m.src m.data

/-- MESSAGE_DELIVERY: with bytes, 64 of them arrive from device `m` for mailbox `k`; else the accepted message `n`
is delivered, and `k` = 1 says that another device refused it. -/
def execMessageDelivery (s : State) : Host.Outcome State Fault Refusal :=
  .next (if !s.arg.bytes.isEmpty then
      let m : OutMsg := { id := s.next, src := s.arg.m % 64, ctx := 0, launch := 0, block := 0, dev := s.devid, box := s.arg.k % 256,
                          data := BitVec.ofNat 512 (leNat (s.arg.bytes.take 64)), retry := 0 }
      let s := { s with next := s.next + 1 }
      if m.first s.inbound then s.deliverIn m else { s with inbound := s.inbound ++ [m] }
    else match s.outbound.find? (fun m => m.id == s.arg.n) with
      | some m => if m.first s.outbound then s.deliverOut m (s.arg.k == 1) else s
      | none => s)

/-- MAILBOX_FULL_RETRY: the held message `n` at the head of its source's stream is tried again after 1,000 ticks. -/
def execMailboxFullRetry (s : State) : Host.Outcome State Fault Refusal :=
  .next (match s.outbound.find? (fun m => m.id == s.arg.n), s.inbound.find? (fun m => m.id == s.arg.n) with
    | some m, _ => if m.retry ≤ s.ptb && m.first s.outbound then s.deliverOut m false else s
    | none, some m => if m.retry ≤ s.ptb && m.first s.inbound then s.deliverIn m else s
    | none, none => s)

/-! ## Events (R406) -/

/-- The context's event counter. -/
def State.evCounter (s : State) (c e : Nat) : Word := fgetD (s.ctx c).evc e 0
/-- The state with it. -/
def State.setEvCounter (s : State) (c e : Nat) (v : Word) : State := s.setCtx c { s.ctx c with evc := fsetD (s.ctx c).evc e v 0 }

/-- EVIE enables the MSI-X of an event. -/
def State.evEnabled (s : State) (c e : Nat) : Bool := (fgetD (s.ctx c).evie (e / 64) 0).getLsbD (e % 64)

/-- The object of an event counter (R468). -/
def evObj (c e : Nat) : Option Nat := objKey 2 (c * 256 + e) 0

/-- EVSIG: a release at system scope. -/
def execEvsig (h : Hdr) (f : FmtX) : State → Host.Outcome State Fault Refusal :=
  runWord (.evsig h f) fun s l => perWave l s fun s u mine =>
    let c := (s.wave u).ctx
    let e := (s.sreg u f.u0.toNat).toNat
    if e > 255 then .error (some (hit { u := u, i := 0 } (rankOwn 0) .bounds 12))
    else if !mine.all fun t => s.allDone t 6 then .error none
    else
      let s := s.setEvCounter c e (s.evCounter c e + s.sreg u f.u1.toNat)
      let s := if s.evEnabled c e && !s.replaying c then s.post c "EVENT" (BitVec.ofNat 64 (c * 256 + e)) else s
      .ok (s.markSync u (evObj c e))

/-- EVWAIT: an acquire at system scope. -/
def execEvwait (h : Hdr) (f : FmtX) : State → Host.Outcome State Fault Refusal :=
  runWord (.evwait h f) fun s l => perWave l s fun s u _ =>
    let w := s.wave u
    let e := (s.sreg u f.u0.toNat).toNat
    if e > 255 then .error (some (hit { u := u, i := 0 } (rankOwn 0) .bounds 12))
    else if (s.evCounter w.ctx e - s.sreg u f.u1.toNat).toNat ≥ 2 ^ 31 then .error none
    else .ok ((s.acquire w.core 6).markSync u (evObj w.ctx e))

/-- EVENT_COUNTER_HOST_WRITE: the host writes `v` to counter `k` of context `n`. -/
def execEventCounterHostWrite (s : State) : Host.Outcome State Fault Refusal :=
  .next (s.setEvCounter (s.arg.n % 64) (s.arg.k % 256) (s.arg.v.setWidth 32))

end Sys2Proof.Machine
end

