-- ==== Sys2Proof/Machine/Collective.lean ====
section
/-! DEFINITION. Collectives among the devices of a domain (R402 to R405), and the loss of a device. -/

namespace Sys2Proof.Machine

/-! ## COLL (R402, R403) -/

/-- Bytes of an element of TYPE. -/
def collBytes (ty : Nat) : Nat := tyBits ty / 8

/-- A collective as its registers give it. -/
structure CollPlan where
  mask : Dword
  tag : Nat
  root : Nat
  src : Nat
  dst : Nat
  n : Nat
  deriving DecidableEq, Repr

/-- The operands of COLL; the other bits of U1's register are not used (log entry 60). -/
def collPlan (f : FmtX) (r : FMap Word) : CollPlan :=
  { mask := regOf64 r f.u0.toNat, tag := bits (regOf r f.u1.toNat).toNat 15 0, root := bits (regOf r f.u1.toNat).toNat 21 16,
    src := (regOf64 r f.u2.toNat).toNat, dst := (regOf64 r f.u3.toNat).toNat, n := (regOf r f.u4.toNat).toNat }

/-- Elements that a rank reads and receives. -/
def collRead (kind n : Nat) (isRoot : Bool) : Nat := if kind == 3 && !isRoot then 0 else n
def collGet (kind n ranks : Nat) : Nat := if kind == 1 then n / ranks else if kind == 2 then ranks * n else n

/-- The source and destination ranges of a rank. -/
def collRanges (f : FmtX) (p : CollPlan) (own : Nat) : List Rng :=
  let b := collBytes (clTy f)
  let ranks := (maskDevs p.mask).length
  [⟨0, p.src, 0, 1, b * collRead (clKind f) p.n (p.root == own), false⟩,
   ⟨0, p.dst, 0, 1, b * collGet (clKind f) p.n ranks, true⟩]

/-- The checks of COLL before its translations. -/
def State.collHits (s : State) (f : FmtX) (p : CollPlan) : List EngHit :=
  let devs := maskDevs p.mask
  (if !p.mask.getLsbD s.devid || !p.mask.getLsbD p.root then [⟨1, .bounds, 7, none⟩] else [])
    ++ (if p.n * devs.length * collBytes (clTy f) > 16777216 || (clKind f == 1 && p.n % devs.length != 0) then [⟨2, .bounds, 2, none⟩] else [])
    ++ (if p.src % 16 ≠ 0 then [⟨3, .align, 0, some p.src⟩] else if p.dst % 16 ≠ 0 then [⟨3, .align, 0, some p.dst⟩] else [])
    ++ (collRanges f p s.devid).flatMap (fun g => g.noncanon 4)
    ++ (if devs.any (fun d => !s.reaches d) then [⟨5, .memfault, 6, some p.dst⟩] else [])

/-- The lowest free handle of a wave. -/
def Wave.freeColl (w : Wave) : Option Nat := (upto 0 8).find? fun h => (fget w.colls h).isNone

/-- COLL in one wave. -/
def collWave (f : FmtX) (s : State) (x : EngIn) : EngRes :=
  let w := s.wave x.u
  let p := collPlan f x.regs
  match firstEng (s.collHits f p) with
  | some h => .bad h
  | none =>
    match s.pinAll w.core w.ctx 6 w.high (collRanges f p s.devid) with
    | .bad h => .bad h
    | .soft code va wr => .soft code va wr
    | .wait l => .wait l
    | .ok pins s =>
      match w.freeColl with
      | none => .wait []
      | some k =>
        if !s.lanesDone x then .wait []
        else
          let key := (p.mask, p.tag)
          let nth := ((s.collCount.find? fun (e : (Dword × Nat) × Nat) => e.1 == key).map Prod.snd).getD 0
          let id := s.next
          let c : CollOp :=
            { id := id, u := x.u, ctx := w.ctx, core := w.core, block := w.block, pc := x.at_ (.coll default f), mask := p.mask, tag := p.tag, root := p.root,
              kind := clKind f, op := clOp f, ty := clTy f, n := p.n, nth := nth, src := p.src, dst := p.dst,
              srcPins := pins.getD 0 [], dstPins := pins.getD 1 [], done := false, err := false,
              unit := w.recd.unit, bidx := 0 }
          let s := { s with next := id + 1, colls := s.colls ++ [c],
                            collCount := s.collCount.filter (fun (e : (Dword × Nat) × Nat) => e.1 != key) ++ [(key, nth + 1)] }
          let s := s.modWave x.u fun w => { w with colls := fput w.colls k id }
          .ok ((s.setS x.u f.u5.toNat (BitVec.ofNat 32 k)).markSync x.u (objKey 7 (x.u * 8 + k) 0))

/-- COLL. -/
def execColl (h : Hdr) (f : FmtX) : State → Host.Outcome State Fault Refusal :=
  runWord (.coll h f) fun s l =>
    let ins := s.engIns (.coll h f) l plainLane
    s.engIssue (.coll h f) ins (s.engPerform (.coll h f) ins (collWave f))

/-! ## The reduction (R404) -/

/-- Two elements reduced: integers wrap, floats round to nearest even. -/
def collOp (op ty x y : Nat) : Nat :=
  if isIntTy ty then
    (match op with
     | 0 => (x + y) % 2 ^ tyBits ty
     | 1 => if intOf ty y < intOf ty x then y else x
     | _ => if intOf ty x < intOf ty y then y else x)
  else
    let g := ffmt ty
    let a := g.decode x
    let b := g.decode y
    match op with
    | 0 => (g.engine (g.add 0 false 0 a b)).1
    | 1 => (g.minmax false x y a b).1
    | _ => (g.minmax true x y a b).1

/-- The physical addresses of a rank's 16-byte units from a virtual address on. -/
def unitAddrs (pins : FMap Nat) (a bytes : Nat) : List Nat := (upto 0 ((bytes + 15) / 16)).map fun k => pinned pins (a + 16 * k)

/-- This rank's contribution, and whether a read of it met an error. -/
def State.collSource (s : State) (c : CollOp) : List Nat × Bool :=
  let b := collBytes c.ty
  let bytes := b * collRead c.kind c.n (c.root == s.devid)
  let us := (unitAddrs c.srcPins c.src bytes).map fun pa => s.engRead pa 16
  let l := us.flatMap fun u => leBytes u.1 16
  ((upto 0 (bytes / b)).map fun e => leNat ((l.drop (b * e)).take b), us.any Prod.snd)

/-- Element `e` of the contribution of a device; another device's is a free value (log entry 9). -/
def State.collFrom (s : State) (c : CollOp) (own : List Nat) (dev e : Nat) : Nat :=
  if dev == s.devid then own.getD e 0 else (Config.collElem dev c.id e).toNat % 2 ^ tyBits c.ty

/-- What this rank receives. -/
def State.collResult (s : State) (c : CollOp) (own : List Nat) : List Nat :=
  let devs := maskDevs c.mask
  let red := fun (e : Nat) => match devs with
    | [] => 0
    | d :: ds => ds.foldl (fun r k => collOp c.op c.ty r (s.collFrom c own k e)) (s.collFrom c own d e)
  match c.kind with
  | 0 => (upto 0 c.n).map red
  | 1 =>
    let m := c.n / devs.length
    (upto (devs.findIdx (· == s.devid) * m) m).map red
  | 2 => devs.flatMap fun d => (upto 0 c.n).map (s.collFrom c own d)
  | _ => (upto 0 c.n).map (s.collFrom c own c.root)

/-- Bytes written to a rank's destination, unit by unit. -/
def State.collWrite (s : State) (c : CollOp) (l : List Byte) : State :=
  (upto 0 ((l.length + 15) / 16)).foldl (fun s k =>
    s.engStore c.ctx (pinned c.dstPins (c.dst + 16 * k)) ((l.drop (16 * k)).take 16) false) s

/-- An INPUT record of a collective's result: of its wave, or of the unit that its wave was (R407). -/
def State.recPiece (s : State) (c : CollOp) (addr : Nat) (l : List Byte) : State :=
  if (fget s.waves c.u).isSome then s.recInput c.u 5 addr 127 l
  else if s.recording c.ctx then s.emitAll c.ctx (clusterOf c.core) (inputRecs c.unit c.bidx 5 addr 127 l)
  else s

/-- The INPUT records of a delivered result, at most 64 KiB each (R407, R471). -/
def State.recResult (s : State) (c : CollOp) (l : List Byte) : State :=
  (upto 0 ((l.length + 65535) / 65536)).foldl (fun s k =>
    s.recPiece c (c.dst + 65536 * k) ((l.drop (65536 * k)).take 65536)) s

/-- The logged result of `bytes` bytes, in a replay (R487). -/
def State.loggedResult (s : State) (c : CollOp) (bytes : Nat) : Option (List Byte) × State :=
  (upto 0 ((bytes + 65535) / 65536)).foldl (fun (a : Option (List Byte) × State) k =>
    let m := min 65536 (bytes - 65536 * k)
    let q := a.2.takeResult c.u c.ctx (clusterOf c.core * 512 + c.unit % 512) (c.dst + 65536 * k) m
    match a.1, q.1 with
    | some l, some v => (some (l ++ leBytes v m), q.2)
    | _, _ => (none, q.2)) (some [], s)

/-- The collective is complete; nothing waits for it any more where its wave is gone. -/
def State.collEnd (s : State) (id : Nat) (err : Bool) : State :=
  { s with colls := (s.colls.filter fun c => c.id != id || (fget s.waves c.u).isSome).map fun c =>
      if c.id == id then { c with done := true, err := err } else c }

/-- Every device that a collective names can still contribute or had contributed (R404). -/
def State.ranksIn (s : State) (c : CollOp) : Bool := (maskDevs c.mask).all fun d => s.rankIn c.ctx d c.id

/-- Every rank's contribution has reached the reduction units; `bad` where the ranks differ, or another rank's read met an
error. -/
def State.collComplete (s : State) (c : CollOp) (bad : Bool) : State :=
  let bytes := collBytes c.ty * collGet c.kind c.n (maskDevs c.mask).length
  if s.replaying c.ctx then
    let q := s.loggedResult c bytes
    match q.1 with
    | some l => (q.2.collWrite c l).collEnd c.id false
    | none => s.collEnd c.id true
  else
    let own := s.collSource c
    if bad || own.2 || !s.ranksIn c then s.collEnd c.id true
    else
      let l := (s.collResult c own.1).flatMap fun v => leBytes v (collBytes c.ty)
      ((s.collWrite c l).recResult c l).collEnd c.id false

/-- COLLECTIVE_COMPLETE: collective `n`; `k` = 1 says that the ranks gave different operands, or
that a read of another rank met an error. -/
def execCollectiveComplete (s : State) : Host.Outcome State Fault Refusal :=
  .next (match s.colls.find? (fun c => c.id == s.arg.n && !c.done) with
    | none => s
    | some c => s.collComplete c (s.arg.k == 1))

/-! ## COLLW (R405) -/

/-- The log of a replay says how a collective ends: with a result, or in an error (R487). -/
def State.collLogged (s : State) (c : CollOp) : Bool :=
  (s.loggedResult c (collBytes c.ty * collGet c.kind c.n (maskDevs c.mask).length)).1.isSome || s.loggedError c.u 0x2CB

/-- The handle's collective is over: PS, and the handle is free. -/
def State.collFree (s : State) (u k : Nat) (c : CollOp) (f : FmtX) (mine : List TRef) : State :=
  let s := mine.foldl (fun s t => s.setP t (xPs f) (!c.err)) s
  let s := { s with colls := s.colls.filter fun x => x.id != c.id }
  let s := s.modWave u fun w => { w with colls := fdel w.colls k }
  ((s.recVal u 127 0x2CB 0 (if c.err then 0 else 1)).acquire (s.wave u).core 6).markSync u (objKey 7 (u * 8 + k) 0)

/-- COLLW; in a replay whose log holds no result of the collective it waits for none (R489). -/
def execCollw (h : Hdr) (f : FmtX) : State → Host.Outcome State Fault Refusal :=
  runWord (.collw h f) fun s l => perWave l s fun s u mine =>
    let k := (s.sreg u f.u0.toNat).toNat
    match (fget (s.wave u).colls k).bind fun id => s.colls.find? fun c => c.id == id with
    | none =>
      let s := mine.foldl (fun s t => s.setP t (xPs f) true) s
      .ok ((s.recVal u 127 0x2CB 0 1).markSync u none)
    | some c =>
      if c.done then .ok (s.collFree u k c f mine)
      else if s.replaying c.ctx && !s.collLogged c then .ok ((s.diverge u 4).collFree u k c f mine)
      else .error none

/-! ## A device, or its context, that is lost (R367, R404, R410, R411) -/

/-- A reduction or a collective waits for a contribution of device `d` that will not come. -/
def awaits (d : Nat) (mask : Dword) (id : Nat) : Bool := mask.getLsbD d && !Config.contributed d id

/-- What waits for device `d` completes with an error: reductions and collectives of the contexts that pass. -/
def State.failRanks (s : State) (d : Nat) (of : Nat → Bool) : State :=
  let gone := fun (x : Drain) => awaits d x.mask x.id && of (s.wave x.u).ctx
  let s' := (s.drains.filter gone).foldl (fun s x => s.matError x.u true) { s with drains := s.drains.filter fun x => !gone x }
  (s.colls.filter fun c => awaits d c.mask c.id && !c.done && of c.ctx).foldl (fun s c => s.collEnd c.id true) s'

/-- RANK_LOST: device `n` is lost to this one, or with `k` = 1 the context there that joins the reductions and collectives of
context `m` is killed: what waits for its contribution, or comes to wait for it, completes with an error. -/
def execRankLost (s : State) : Host.Outcome State Fault Refusal :=
  .next (
    let d := s.arg.n % 64
    if d == s.devid then s
    else if s.arg.k == 1 then
      let e := (d, s.arg.m % 64)
      { s with lostCtxs := if s.lostCtxs.contains e then s.lostCtxs else s.lostCtxs ++ [e] }.failRanks d fun c => c == e.2
    else
      let s := { s with lostDevs := if s.lostDevs.contains d then s.lostDevs else s.lostDevs ++ [d], reach := s.reach.filter (· != d) }
      s.failRanks d fun _ => true)

end Sys2Proof.Machine
end

