-- ==== Sys2Proof/Machine/Fabric.lean ====
section
/-! DEFINITION. Accesses that leave the device and accesses that come from outside: the aperture, the fabric's fences
and error path, and the host's CXL.mem (R146, R238, R239, R411, R412). -/

namespace Sys2Proof.Machine

/-! ## Accesses of this device to others (R239, R411, R412) -/

/-- Every aperture write issued up to access `n` has been acknowledged. -/
def State.acknowledged (s : State) (n : Nat) : State :=
  (s.accs.filter fun a => a.remoteStore && decide (a.id ≤ n)).foldl (fun s a => s.settle a 0 false) s

/-- FENCE_MARKER_ANSWER: the switches have answered the markers for the aperture writes up to access `n`. -/
def execFenceMarkerAnswer (s : State) : Host.Outcome State Fault Refusal := .next (s.acknowledged s.arg.n)

/-- A marker has stood unanswered for 100 µs. -/
def State.markLate (s : State) (m : FenceMark) : Bool :=
  decide (m.since + 100000 ≤ s.ptb) && s.accs.any fun a => a.remoteStore && decide (a.id < m.upto)

/-- The release that a marker was sent for, at a thread's word or at a fence of it, waits no longer for the writes before the marker. -/
def Thread.passMark (th : Thread) (m : FenceMark) : Option Nat → Thread
  | none => { th with past := max th.past m.upto }
  | some n => { th with fences := th.fences.map fun x => if x.before == n then { x with past := max x.past m.upto } else x }

/-- The releases that a marker was sent for wait no longer for the writes before it; every other release does. -/
def State.passMark (s : State) (m : FenceMark) : State :=
  let s := m.threads.foldl (fun s e => s.modThread e.1 fun th => th.passMark m e.2) s
  { s with lockMsgs := s.lockMsgs.map fun k => if m.locks.contains k.n then { k with past := max k.past m.upto } else k,
           fenceMarks := s.fenceMarks.filter (· != m) }

/-- FABTO: a marker for aperture write `n` has stood unanswered for 100 µs: its releases complete anyway, and FABTO is posted. -/
def execFabto (s : State) : Host.Outcome State Fault Refusal :=
  .next (match s.fenceMarks.find? fun m => s.markLate m && decide (s.arg.n < m.upto) with
    | some m => (s.passMark m).post 0 "FABTO" 0
    | none => s)

/-- FABRIC_ERROR_PATH: access or message `n` took the fabric's error path: a load or atomic meets a machine check, a store or
RED is discarded with one that is deferred, and a store posts DEVLOST (R411, R437). -/
def execFabricErrorPath (s : State) : Host.Outcome State Fault Refusal :=
  .next (match s.accs.find? (fun a => a.id == s.arg.n && a.st == .remote), s.outbound.find? (fun m => m.id == s.arg.n) with
    | some a, _ =>
      let s := s.modAcc a.id fun a => { a with st := .poisoned (!a.isRead || a.red) true }
      if a.isRead then s else s.post 0 "DEVLOST" (BitVec.ofNat 64 (bits a.pa 50 45))
    | none, some m => (s.dropOut m.id).msgErr m.ctx
    | none, none => s)

/-! ## Accesses from outside, as home-side operations (R146, R238, R253) -/

/-- The atomics by number. -/
def aopOf (n : Nat) : AOp :=
  ([.add, .and, .or, .xor, .min, .max, .xchg, .incw, .addb, .fadd, .fmin, .fmax, .cas, .cas2] : List AOp).getD n .add

/-- Bytes from outside are written sector by sector. -/
def State.outsideWrite (s : State) (pa : Nat) (bytes : List Byte) (op : List Byte → HomeOp) : State :=
  ((cutSectors pa bytes).filter fun c => !s.lostHome c.1).foldl (fun s c => s.sendHomeOp (sectorOf c.1) c.1 (op c.2)) s

/-- APERTURE_ACCESS_ARRIVAL: an access of device `m` to physical address `n` of this device. `v` is 0 for a load or a
store; else its low 5 bits less 1 number the atomic, with the format code above them. With no bytes it is a load of `k`. -/
def execApertureAccessArrival (s : State) : Host.Outcome State Fault Refusal :=
  .next (
    let pa := s.arg.n % 2 ^ 45
    let dev := s.arg.m % 64
    let v := s.arg.v.toNat
    if pa ≥ Config.hbmBytes || s.lostHome pa then s
    else if s.markers.any (fun m => decide (m ≥ 4096) && m % 64 == dev) then
      { s with heldIn := s.heldIn ++ [{ op := .apertureAccessArrival, arg := s.arg }] }
    else if s.arg.bytes.isEmpty then s.sendHomeOp (sectorOf pa) pa (.apRead dev (s.arg.k % 65))
    else if v == 0 then s.outsideWrite pa s.arg.bytes (.apWrite dev)
    else
      let ty := v / 32 % 32
      let n := atomBytes ty
      if pa % n != 0 then s
      else s.sendHomeOp (sectorOf pa) pa
        (.apRmw dev (aopOf (v % 32 - 1)) ty (leNat (s.arg.bytes.take n)) (leNat ((s.arg.bytes.drop n).take n))))

/-- HOST_CXL_MEM_READ: the host reads `k` bytes at physical address `n`. -/
def execHostCxlMemRead (s : State) : Host.Outcome State Fault Refusal :=
  .next (if s.arg.n ≥ Config.hbmBytes || s.lostHome s.arg.n then s else s.sendHomeOp (sectorOf s.arg.n) s.arg.n (.hostRead (s.arg.k % 65)))

/-- HOST_CXL_MEM_WRITE: the host writes bytes at physical address `n`. -/
def execHostCxlMemWrite (s : State) : Host.Outcome State Fault Refusal :=
  .next (if s.arg.n + s.arg.bytes.length > Config.hbmBytes then s else s.outsideWrite s.arg.n s.arg.bytes .hostWrite)

end Sys2Proof.Machine
end

