-- ==== Sys2Proof/Machine/Kill.lean ====
section
/-! DEFINITION. The kill of a context and the loss of dies (R278, R283, R339, R409, R410, R416). -/

namespace Sys2Proof.Machine

/-! ## What is left of killed waves -/

/-- An issued write of a killed wave is performed; its loads are discarded (log entry 61). -/
def State.flushAccess (s : State) (a : Access) : State :=
  match a.st, a.scr with
  | .atL2, none | .atHome, none =>
    if a.isWrite then
      let old := s.peek a.pa a.n
      if a.isRead && s.poisoned (sectorOf a.pa) then s
      else match (a.apply old).1 with
        | some v => s.agentWrite a.pa (leBytes v a.n)
        | none => s
    else s
  | _, _ => s

/-- The accesses of killed waves are over. -/
def State.flushAccesses (s : State) (dead : Nat → Bool) : State :=
  let mine := s.accs.filter fun a => dead a.t.u
  mine.foldl State.flushAccess { s with accs := s.accs.filter fun a => !dead a.t.u }

/-- The line locks and waits of killed waves: a lock that is held is abandoned with no wait, one that an UNLOCK is
giving up is released, and a waiter is removed with no reply. -/
def State.killLocks (s : State) (dead : Nat → Bool) : State :=
  let leaving := (s.lockMsgs.filter fun m => m.kind == .release).map fun m => (m.u, m.x)
  let s := (s.locks.flatMap fun e => (e.2.queue.filter fun w => dead w.u).map fun w => (w.u, e.1)).foldl
    (fun s e => s.lockRemove e.1 e.2) s
  let s := { s with lockMsgs := s.lockMsgs.filter (fun m => !dead m.u), lockReplies := s.lockReplies.filter (fun m => !dead m.u),
                    lockRetries := s.lockRetries.filter fun m => !dead m.u }
  (s.locks.filterMap fun e => match e.2.holder with
    | some u => if dead u then some (u, e.1) else none
    | none => none).foldl (fun s e => s.lockRelease e.1 e.2 (!leaving.contains e)) s

/-- Blocks are killed: their waves and sprout threads, their engines' work, and what the package's agents do for
them. `gone` says, by context and core, which copies and collectives go although their block's slot was freed before. -/
def State.killBlocks (s : State) (bs : List Nat) (gone : Nat → Nat → Bool) : State :=
  let dead := fun (u : Nat) => bs.contains (s.wave u).block
  let s := (s.flushAccesses dead).killLocks dead
  let reqs := (s.sprReqs.filter fun r => bs.contains r.block).map SprReq.id
  let s := { s with
    walks := (s.walks.map fun (w : Walk) => { w with who := w.who.filter fun t => !dead t.u }).filter fun w => w.ptos || !w.who.isEmpty,
    copies := s.copies.filter (fun c => !bs.contains c.block && !gone c.ctx c.core),
    sprReqs := s.sprReqs.filter (fun r => !bs.contains r.block), sprBuf := s.sprBuf.filter (fun b => !reqs.contains b.req),
    mcmds := s.mcmds.filter (fun m => !bs.contains m.block), drains := s.drains.filter (fun d => !dead d.u),
    colls := s.colls.filter (fun c => !bs.contains c.block && !gone c.ctx c.core), carriedTraps := s.carriedTraps.filter fun e => !dead e.2.1 }
  bs.foldl State.removeBlock s

/-! ## The kill of a context (R416) -/

/-- Blocks of a context. -/
def State.blocksOf (s : State) (c : Nat) : List Nat := (s.blocks.filter fun e => e.2.ctx == c).map Prod.fst

/-- Every unit of a context and all that is done for it goes, and its queues are disabled. -/
def State.dropContext (s : State) (c : Nat) : State :=
  let s := s.killBlocks (s.blocksOf c) fun x _ => x == c
  { s with queues := fmapAll (fun _ (q : Queue) => if q.ctx == c then { q with ctl := q.ctl &&& ~~~(0x1000 : Dword) } else q) s.queues,
           cutReq := s.cutReq.filter (· != c) }

/-- A context is killed: every launch of it that has not completed completes with status KILLED. -/
def State.killContext (s : State) (c : Nat) : State :=
  let s := s.dropContext c
  let s := (s.launches.filter fun l => l.ctx == c).foldl (fun s l => s.completeLaunch { l with status := 3 }) s
  s.setCtx c { s.ctx c with ctxctl := (s.ctx c).ctxctl ||| 4 }

/-- CTXCTL_KILL: context `n` is killed. -/
def execCtxctlKill (s : State) : Host.Outcome State Fault Refusal := .next (s.killContext (s.arg.n % 64))

/-! ## Lost dies (R409, R410) -/

/-- A directory entry names an agent. -/
def DirEntry.names (e : DirEntry) (a : Agent) : Bool :=
  e.own == some a || e.sh.contains a || e.acks.contains a || e.fwd == some a || e.queue.any fun r => r.msg.agent == a

/-- A lost die's L2 is gone: the newest data that only it held is lost (log entry 26). -/
def State.loseL2 (s : State) (d : Nat) : State :=
  let mine := (s.l2.filter fun e => e.1 / 2 ^ 52 == d).map fun e => (e.1 % 2 ^ 52, e.2)
  let s := mine.foldl (fun s e =>
    let x := e.1
    let s := if e.2.st.dirtyOwner then
        s.setHomeSector x (BitVec.ofNat 512 (leNat ((upto (64 * x) 64).map fun a => Config.lostByte s.steps a)))
      else s
    s.dropL2 d x) s
  let xs := dedup ((mine.map Prod.fst) ++ (s.dir.filter fun e => e.2.names (.l2 d)).map Prod.fst)
  let s := { s with toHome := s.toHome.filter (fun m => m.agent != .l2 d), retries := s.retries.filter fun m => m.agent != .l2 d }
  xs.foldl State.recallAll s

/-- A sector homed on a lost M-die: nothing of the protocol or of its lock is left, its accesses fail, and waves that
wait for its lock issue their instruction again, or take a deferred MCHK where they have gone past it (R410, R437). -/
def State.loseHome (s : State) (x : Nat) : State :=
  let asked := s.waves.flatMap fun e => (e.2.lockers.filter fun l => l.x == x).map fun l => (({ u := e.1, i := l.i } : TRef), l)
  let who := (asked.filter fun e => !e.2.late && s.waitsAt e.1 e.2).map Prod.fst
  let s := who.foldl State.abandonWait s
  let s := (asked.filter fun e => e.2.late).foldl (fun s e => s.modThread e.1 fun th => { th with async := th.async ++
    [{ cause := .mchk, info := 5, dest := .none, acc := 0, pc := e.2.pc, pa := 64 * x }] }) s
  { s with
    dir := fdel s.dir x, l2 := s.l2.filter (fun e => e.1 % 2 ^ 52 != x),
    toHome := s.toHome.filter (fun m => m.x != x), toAgent := s.toAgent.filter (fun m => m.x != x),
    retries := s.retries.filter (fun m => m.x != x), homeOps := s.homeOps.filter (fun r => r.x != x),
    locks := fdel s.locks x, lockMarks := s.lockMarks.filter (· != x), lockMsgs := s.lockMsgs.filter (fun m => m.x != x),
    lockReplies := s.lockReplies.filter (fun m => m.x != x), lockRetries := s.lockRetries.filter (fun m => m.x != x),
    waves := fmapAll (fun _ w => { w with
      held := w.held.filter (· != x), dropped := if w.held.contains x then w.dropped ++ [x] else w.dropped,
      lockWait := w.lockWait.filter (fun y => y.1 != x) }.dropLockers fun l => l.x == x) s.waves }

/-- The sectors that the package knows anything of. -/
def State.knownSectors (s : State) : List Nat :=
  dedup (fkeys s.dir ++ s.l2.map (fun e => e.1 % 2 ^ 52) ++ (s.toHome ++ s.toAgent ++ s.retries).map Msg.x ++ s.homeOps.map HomeReq.x
    ++ fkeys s.locks ++ s.lockMsgs.map LockMsg.x ++ s.waves.flatMap fun e => e.2.held)

/-- An outstanding access to a lost home fails (R410). -/
def State.loseAccess (s : State) (a : Access) : Access :=
  match a.scr, a.st with
  | none, .atL2 | none, .atHome =>
    if s.lostHome a.pa then { a with st := .poisoned (!a.isRead || a.red) true } else a
  | _, _ => a

/-- DIE_LOST: the C-dies of the bitmap `n` and the M-dies of the bitmap `k` are lost. The manual gives the posted bitmap no layout: the
C-dies stand in its low bits, the M-dies from bit 8 on (log entry 98). -/
def execDieLost (s : State) : Host.Outcome State Fault Refusal :=
  .next (
    let dies := (upto 0 4).filter fun d => s.arg.n.testBit d && !s.deadDies.contains d
    let mems := (upto 0 8).filter fun d => s.arg.k.testBit d && !s.deadM.contains d
    let s := s.killBlocks ((s.blocks.filter fun e => dies.contains (dieOf e.2.core)).map Prod.fst) fun _ core => dies.contains (dieOf core)
    let s := { s with deadDies := s.deadDies ++ dies, launches := s.launches.map fun l =>
      if (recRanges l.record).any fun x => dies.contains x.2.2
      then { l with left := l.left.filter (fun x => !dies.contains x.2.2), status := 2 } else l }
    let s := { dies.foldl State.loseL2 s with samplers := s.samplers.filter fun e => !dies.contains e.1 }
    let s := { s with deadM := s.deadM ++ mems }
    let s := { s with accs := s.accs.map s.loseAccess }
    let s := if mems.isEmpty then s else (s.knownSectors.filter fun x => s.lostHome (64 * x)).foldl State.loseHome s
    s.post 0 "DIE_LOST" (BitVec.ofNat 64 (s.arg.n % 16 + s.arg.k % 256 * 256)))

end Sys2Proof.Machine
end

