-- ==== Sys2Proof/Machine/Images.lean ====
section
/-! DEFINITION. The images of waves (R443, R444): what hardware writes to a save area, what it reads back, and what CSAVE.w and
CREST.w of another wave do with one (R452). -/

namespace Sys2Proof.Machine

/-! ## What an image holds -/

/-- The log entries whose destination a thread awaits. -/
def Wave.pendBits (w : Wave) (i : Nat) : Nat :=
  bitsOf ((w.log.filter fun e => (e.2.lanes.any fun l => l.i == i)
    && (!(loggedDest e.2.unit).1.vs.isEmpty || !(loggedDest e.2.unit).1.ss.isEmpty || !(loggedDest e.2.unit).2.isEmpty)).map Prod.fst)

/-- STATE of an operand-log entry (R432). -/
def LogState.code : LogState → Nat
  | .free => 0 | .wait => 1 | .ready => 2 | .failed => 3

/-- A thread record of 64 bytes (R444). -/
def State.threadRecord (s : State) (t : TRef) : List Byte :=
  let w := s.wave t.u
  let th := s.thread t
  let b := fun (c : Bool) (n : Nat) => if c then 2 ^ n else 0
  leBytes (th.pc + th.p.toNat * 2 ^ 64 + s.threadState t * 2 ^ 72 + b w.high 76 + b th.inh 77 + b th.pdn 78) 16
    ++ leBytes th.draw.toNat 8 ++ leBytes th.taddr.toNat 8 ++ leBytes th.tcause.toNat 4 ++ leBytes th.tinfo.toNat 4
    ++ leBytes th.tpc 8 ++ leBytes th.skip 8 ++ leBytes (w.pendBits t.i) 8

/-- STATE of a wave image's header: stopped at PDONE, halted, with a trapped thread, by the forced save, or running
(log entry 15). -/
def Wave.imageState (w : Wave) : Nat :=
  if w.stop == 3 then 3 else if w.halted then 2 else if w.live.any fun i => (w.thread i).st == .trapped then 1
  else if w.stop == 4 then 4 else 0

/-- The header of a wave image (R443). -/
def State.imageHead (s : State) (u : Nat) : List Byte :=
  let w := s.wave u
  leBytes (w.tag.toNat + w.ctx * 2 ^ 32 + w.width % 256 * 2 ^ 40 + w.wid % 256 * 2 ^ 48 + w.regs / 8 * 2 ^ 56 + bitsOf w.live * 2 ^ 64
    + w.savearea.toNat * 2 ^ 128 + w.fpsw.toNat * 2 ^ 192 + w.lkstat.toNat % 256 * 2 ^ 224 + w.batch * 2 ^ 232
    + (if w.merr then 2 ^ 236 else 0) + w.imageState * 2 ^ 237 + w.recd.chunk % 2 ^ 64 * 2 ^ 240) 256

/-- An operand-log entry of an image, 4 KiB: its state, unit words and mask, and from 1,024 on 48 bytes for each logged lane: the
address, the index and the two data values. The manual gives the contents and not their places (log entry 15). -/
def entryImage (e : Option LogEntry) : List Byte :=
  match e with
  | none => List.replicate 4096 (0 : Byte)
  | some e =>
    let ws := encode e.unit
    leBytes e.st.code 8 ++ (upto 0 3).flatMap (fun k => leBytes (ws.getD k 0).toNat 8) ++ leBytes (bitsOf (e.lanes.map LogLane.i)) 8
      ++ List.replicate 984 (0 : Byte)
      ++ (upto 0 64).flatMap fun i => match e.lanes.find? fun l => l.i == i with
        | some l => leBytes l.ea 8 ++ leBytes l.index.toNat 8 ++ leBytes l.data.toNat 16 ++ leBytes l.data2.toNat 16
        | none => List.replicate 48 (0 : Byte)

/-- A wave image of 81 KiB (R443). The manual leaves the form of the batch states to the device (log entry 15). -/
def State.waveImage (s : State) (u : Nat) : List Byte :=
  let w := s.wave u
  let free := fun (off n : Nat) => (upto off n).map fun o => Config.imageByte s.steps u o
  s.imageHead u
    ++ (upto 0 8).flatMap (fun k => leBytes (64 * w.held.getD k 0) 8) ++ leBytes (64 * (w.lockWait.getD (0, 0)).1) 8 ++ free 0x148 16
    ++ (upto 0 8).flatMap (fun k => leBytes (fgetD w.spctx k 0).toNat 4) ++ List.replicate 136 0
    ++ (upto 0 64).flatMap (fun r => leBytes (s.sreg u r).toNat 4)
    ++ (upto 0 12).flatMap (fun k => leBytes (s.mreg u k).toNat 8) ++ List.replicate 160 0
    ++ (upto 0 64).flatMap (fun i => if i < w.width then s.threadRecord { u := u, i := i } else List.replicate 64 0)
    ++ (upto 0 4).flatMap (fun k => entryImage (fget w.log k))
    ++ (upto 0 240).flatMap fun r => (upto 0 64).flatMap fun i =>
        leBytes (if i < w.width && w.stop != 3 then (s.vreg { u := u, i := i } r).toNat else 0) 4

/-- What CREST.w loads of a thread record. -/
def Thread.load (th : Thread) (r : Nat) : Thread :=
  { th with pc := bits r 63 0, p := BitVec.ofNat 7 (bits r 70 64), draw := BitVec.ofNat 64 (bits r 191 128),
            taddr := BitVec.ofNat 64 (bits r 255 192), tcause := BitVec.ofNat 32 (bits r 287 256),
            tinfo := BitVec.ofNat 32 (bits r 319 288), tpc := bits r 383 320 }

/-- What CREST.w loads of an image, read through `get` (offset, bytes). -/
def State.loadImage (s : State) (u : Nat) (get : Nat → Nat → Nat) : State :=
  let w := s.wave u
  let map32 := fun (off n : Nat) => (upto 0 n).foldl (fun (m : FMap Word) k => fsetD m k (BitVec.ofNat 32 (get (off + 4 * k) 4)) 0) []
  let w := { w with
    savearea := BitVec.ofNat 64 (get 16 8), fpsw := BitVec.ofNat 32 (get 24 4) &&& 0x1F1F, spctx := map32 0x158 8, s := map32 0x200 64,
    m := (upto 0 12).foldl (fun (m : FMap Dword) k => fsetD m k (BitVec.ofNat 64 (get (0x300 + 8 * k) 8) &&& widthMask w.width) 0) [],
    threads := fmapAll (fun i th =>
      { th.load (get (0x400 + 64 * i) 64) with
        v := (upto 0 240).foldl (fun (m : FMap Word) r => fsetD m r (BitVec.ofNat 32 (get (0x5400 + 256 * r + 4 * i) 4)) 0) [] }) w.threads }
  s.setWave u w

/-! ## Images in a save area (R445) -/

/-- What a restore reads of a thread record. -/
def Thread.restored (th : Thread) (r : Nat) : Thread :=
  let inh := r.testBit 77
  { th.load r with
    st := match bits r 75 72 with
      | 4 => .trapped
      | 5 => .exited
      | _ => if th.st == .trapped || th.st == .exited then .ready else th.st,
    inh := inh, inhPre := th.inhPre && inh, pdn := r.testBit 78, skip := bits r 447 384 }

/-- STATE of an operand-log entry by its code. -/
def logStateOf (n : Nat) : LogState := ([.free, .wait, .ready, .failed] : List LogState).getD n .free

/-- What a restore reads of an operand-log entry at `off` of an image; an entry that has become READY is the last of them. -/
def LogEntry.restored (e : LogEntry) (order off : Nat) (get : Nat → Nat → Nat) : LogEntry :=
  let st := logStateOf (get off 8)
  let mask := get (off + 32) 8
  let unit := match decodeUnit ((upto 0 3).map fun k => BitVec.ofNat 64 (get (off + 8 + 8 * k) 8)) with
    | .ok (i, _) => i
    | .error _ => e.unit
  let lane := fun (l : LogLane) =>
    let a := off + 1024 + 48 * l.i
    { l with ea := get a 8, index := BitVec.ofNat 64 (get (a + 8) 8), data := BitVec.ofNat 128 (get (a + 16) 16), data2 := BitVec.ofNat 128 (get (a + 32) 16) }
  { e with st := st, unit := unit, lanes := (e.lanes.filter fun l => mask.testBit l.i).map lane,
           order := if st == .ready && e.st != .ready then order else e.order }

/-- What a restore reads of a wave's header, held-lock list and operand log, beside what CREST.w loads. A held list that stands as the
hardware wrote it is the wave's own. -/
def Wave.restored (w : Wave) (get : Nat → Nat → Nat) : Wave :=
  let h := get 0 64
  let held := (upto 0 8).map fun k => get (0x100 + 8 * k) 8
  { w with
    lkstat := BitVec.ofNat 32 (bits h 231 224), batch := bits h 235 232, merr := h.testBit 236,
    recd := { w.recd with chunk := bits h 303 240 },
    held := if held == (upto 0 8).map (fun k => 64 * w.held.getD k 0) then w.held else (held.filter (· != 0)).map sectorOf,
    threads := fmapAll (fun i th => th.restored (get (0x400 + 64 * i) 64)) w.threads,
    log := (fmapAll (fun k e => e.restored w.logOrder (0x1400 + 4096 * k) get) w.log).filter fun e => e.2.st != .free,
    logOrder := w.logOrder + 1 }

/-- Bytes are written from an address on, sector by sector. -/
def State.writeRun (s : State) (a : Nat) (l : List Byte) : State :=
  (upto 0 ((l.length + 63) / 64)).foldl (fun s k => s.agentWrite (a + 64 * k) ((l.drop (64 * k)).take 64)) s

/-- The hardware reads a saved wave's image back. -/
def State.readImage (s : State) (u : Nat) : State :=
  match (s.wave u).image with
  | none => s
  | some a =>
    let get := fun (off n : Nat) => (s.engRead (a + off) n).1
    (s.loadImage u get).modWave u fun w => w.restored get

/-- The hardware writes a saved wave's image anew; the batch states stay as they stand. -/
def State.rewriteImage (s : State) (u : Nat) : State :=
  match (s.wave u).image with
  | none => s
  | some a =>
    let img := s.waveImage u
    s.writeRun a (img.take 0x148 ++ leBytes (s.engRead (a + 0x148) 8).1 8 ++ leBytes (s.engRead (a + 0x150) 8).1 8 ++ img.drop 0x158)

/-- The wave is off its core, and an image holds it (R445). -/
def State.inImage (s : State) (u : Nat) : Bool := (s.wave u).saved && (s.ctx (s.wave u).ctx).pst == 2

/-- What an instruction does to a wave; where the wave's context is saved it changes the wave's image (R445). -/
def State.onWave (s : State) (u : Nat) (f : State → State) : State :=
  if s.inImage u then (f (s.readImage u)).rewriteImage u else f s

end Sys2Proof.Machine
end

