-- ==== Sys2Proof/Machine/Traps.lean ====
section
/-! DEFINITION. Class 12, the words of traps and of the threads' own state (R447 to R452): TRAP, TRET, PDONE, SRD, SWR,
and CSAVE and CREST of registers. -/

namespace Sys2Proof.Machine

/-! ## Handles (R429, R448) -/

/-- A wave or sprout thread is live as the target of a handle. -/
def Wave.liveTarget (w : Wave) : Bool :=
  !w.retired && (match w.sprout with
    | some p => !p.ended
    | none => true)

/-- The wave that a handle's two words name, as a wave of a context and level may name it: NOTARGET otherwise. -/
def State.handleAt (s : State) (own : Nat) (high : Bool) (tag ctx : Word) : Option Nat :=
  let c := ctx.toNat
  if c > 63 || (c != own && !high) then none
  else (s.waves.find? fun e => e.2.tag == tag && e.2.ctx == c && e.2.liveTarget).map Prod.fst

/-- The wave of the handle in an even pair of a wave. -/
def State.handleOf (s : State) (u r : Nat) : Option Nat := s.handleAt (s.wave u).ctx (s.wave u).high (s.sreg u r) (s.sreg u (r + 1))

/-- NOTARGET, and NOTSTOPPED. -/
def noTarget (u : Nat) : Hit := hit { u := u, i := 0 } (rankOwn 0) .bounds 14
def notStopped (u : Nat) : Hit := hit { u := u, i := 0 } (rankOwn 1) .bounds 13

/-- A release at device scope: the wave's threads' earlier accesses are performed. -/
def State.released (s : State) (mine : List TRef) : Bool := mine.all fun t => s.allDone t 4

/-! ## TRAP and TRET (R448, R449) -/

/-- TRAP: DEBUG with DSRC 1 and the code. -/
def execTrap (h : Hdr) (f : FmtS) : State → Host.Outcome State Fault Refusal :=
  runWord (.trap h f) fun s l =>
    if l.isEmpty then .ok s else hitAll l (rankOwn 0) .debug (sf f 15 0 + 2 ^ 16)

/-- Trapped threads of another wave resume, or end. -/
def State.resumeOther (s : State) (v op : Nat) (mask : Dword) : State :=
  let who := ((s.wave v).threads.filter fun e => mask.getLsbD e.1 && e.2.st == .trapped).map Prod.fst
  let s := who.foldl (fun s i => s.resumeThread { u := v, i := i } op) s
  if op == 2 && (s.wave v).live.isEmpty && !who.isEmpty then (if s.recording (s.wave v).ctx && (s.wave v).recd.len == 0 then s.flushPend v else s.endChunk v flgExit) else s

/-- TRET of an operation: 0 retry, 1 skip, 2 end. -/
def tretWord (op : Nat) (f : FmtS) : State → List TRef → Res := fun s l =>
  if !sb f 45 then
    let out := l.filter fun t => !(s.thread t).inh
    if !out.isEmpty then .trap (out.map fun t => hit t (rankOwn 0) .illegal 0x40) []
    else .ok ((l.foldl (fun s t => s.trapReturn t op) s).syncWaves l none)
  else perWave l s fun s u mine =>
    match s.handleOf u (sf f 44 39) with
    | none => .error (some (noTarget u))
    | some v =>
      if !s.released mine then .error none
      else
        let mask := s.sreg64 u (sf f 38 33)
        .ok ((s.onWave v fun s => s.resumeOther v op mask).markSync u none)

/-- TRET.retry. -/
def execTretRetry (h : Hdr) (f : FmtS) : State → Host.Outcome State Fault Refusal := runWord (.tretRetry h f) (tretWord 0 f)
/-- TRET.skip. -/
def execTretSkip (h : Hdr) (f : FmtS) : State → Host.Outcome State Fault Refusal := runWord (.tretSkip h f) (tretWord 1 f)
/-- TRET.end. -/
def execTretEnd (h : Hdr) (f : FmtS) : State → Host.Outcome State Fault Refusal := runWord (.tretEnd h f) (tretWord 2 f)

/-! ## PDONE (R450) -/

/-- PDONE has its effect in a thread whose INH flag PREEMPT has set. -/
def State.pdoneActs (s : State) (t : TRef) : Bool := (s.thread t).inhPre

/-- PDONE. -/
def execPdone (h : Hdr) (f : FmtS) : State → Host.Outcome State Fault Refusal :=
  runWord (.pdone h f) fun s l =>
    let who := l.filter s.pdoneActs
    let s := who.foldl (fun s t => s.modThread t fun th => { th with pdn := true, st := .waiting .gather }) s
    .ok (((wavesOf who).foldl State.pdoneWave s).syncWaves l none)

/-! ## SRD and SWR (R67, R451) -/

/-- The value of a special register as a thread reads it. -/
def State.special (s : State) (t : TRef) (n : Nat) : Nat :=
  let w := s.wave t.u
  let b := s.block w.block
  let th := s.thread t
  match n with
  | 0x00 => s.laneid t
  | 0x01 => if w.isSprout then 0 else s.tid t
  | 0x02 => if w.isSprout then 0xFFFFFFFF else w.wid
  | 0x03 => if w.isSprout then 1 else w.width
  | 0x04 => b.bx
  | 0x05 => b.by_
  | 0x06 => b.bz
  | 0x07 => b.nbx
  | 0x08 => b.nby
  | 0x09 => b.nbz
  | 0x0A => w.core % 4
  | 0x0B => w.core
  | 0x0C => clusterOf w.core
  | 0x0D => dieOf w.core
  | 0x0E => s.devid
  | 0x10 => s.cycle
  | 0x11 => s.ptb
  | 0x18 => (w.sprout.map fun p => p.off.toNat).getD 0
  | 0x19 => (w.sprout.map fun p => p.row.toNat).getD 0
  | 0x1A => (w.sprout.map fun p => p.col.toNat).getD 0
  | 0x1B => (w.sprout.map fun p => p.req).getD 0
  | 0x1C => (w.sprout.map fun p => if p.fin then 1 else 0).getD 0
  | 0x20 => w.lkstat.toNat
  | 0x24 => w.batch
  | 0x28 => th.tcause.toNat
  | 0x29 => th.taddr.toNat
  | 0x2A => th.tinfo.toNat
  | 0x2B => w.savearea.toNat
  | 0x30 => w.recd.chunk
  | 0x31 => s.recMode w.ctx
  | _ => 0

/-- The values of SRD that a recorder logs (R451, R460). -/
def srLogged (n : Nat) : Bool := n == 0x10 || n == 0x11 || n == 0x31

/-- SRD: a v register of each thread, or a uniform register of the wave. -/
def execSrd (h : Hdr) (f : FmtS) : State → Host.Outcome State Fault Refusal :=
  runWord (.srd h f) fun s l =>
    let n := srNum f
    if sb f 31 then
      .ok ((wavesOf l).foldl (fun s u =>
        let i := (threadsOf l u).headD 0
        let v := s.special { u := u, i := i } n
        let s := s.setSs u (sf f 47 40) (toWords v (srWords f))
        if srLogged n then s.recVal u 127 0x303 n (BitVec.ofNat 64 v) else s) s)
    else
      .ok (l.foldl (fun s t =>
        let v := s.special t n
        let s := s.setVs t (sf f 47 40) (toWords v (srWords f))
        if srLogged n then s.recVal t.u t.i 0x303 n (BitVec.ofNat 64 v) else s) s)

/-- SWR's source for a thread. -/
def State.swrSource (s : State) (t : TRef) (h : Hdr) (f : FmtS) : Dword :=
  let g := f.body.extractLsb' 24 8
  if srWords f == 2 then s.src64 t h g (sb f 23) else (s.src t h g (sb f 23)).setWidth 64

/-- A write of sr.rmode is a write of RCTL.MODE of the thread's context (R459, R460). The bits above [1:0] of
the source have no effect and raise nothing (log entry 76). -/
def State.writeMode (s : State) (c v : Nat) : State :=
  let arg : EvArg := { (default : EvArg) with n := c }
  if v % 4 == 1 then s.soon .rctlModeRecord arg else s.soon .rctlModeOff arg

/-- A special register written by a thread. sr.trapinfo takes all 32 bits: R422 gives its bits [27:20] as read-only 0 and says nothing
of an SWR that sets them (log entry 89). -/
def State.setSpecial (s : State) (t : TRef) (n : Nat) (v : Dword) : State :=
  match n with
  | 0x28 => s.modThread t fun th => { th with tcause := v.setWidth 32 }
  | 0x29 => s.modThread t fun th => { th with taddr := v }
  | 0x2A => s.modThread t fun th => { th with tinfo := v.setWidth 32 }
  | 0x2B => s.modWave t.u fun w => { w with savearea := v }
  | _ => s

/-- SWR; a value of 2 or 3 in the two low bits for sr.rmode is ILLEGAL (R460, log entry 76). -/
def execSwr (h : Hdr) (f : FmtS) : State → Host.Outcome State Fault Refusal :=
  runWord (.swr h f) fun s l =>
    let n := srNum f
    if n == 0x31 then
      let bad := l.filter fun t => decide ((s.swrSource t h f).toNat % 4 ≥ 2)
      if !bad.isEmpty then .trap (bad.map fun t => hit t (rankOwn 0) .illegal 0) []
      else .ok (l.foldl (fun s t => s.writeMode (s.wave t.u).ctx (s.swrSource t h f).toNat) s)
    else .ok (l.foldl (fun s t => s.setSpecial t n (s.swrSource t h f)) s)

/-! ## CSAVE and CREST of registers (R452) -/

/-- v registers of a thread that an operand-log entry will write. -/
def State.loggedV (s : State) (t : TRef) : List Nat := ((s.wave t.u).logsOf t.i).flatMap fun e => (loggedDest e.unit).1.vs

/-- The lanes of a thread: one for each register; CREST has none for a register that is pending on a log entry. -/
def State.spanLanes (s : State) (f : FmtS) (store : Bool) (t : TRef) : List (TRef × LogLane) :=
  let a := (s.sreg64 t.u (sf f 47 42)).toNat
  let held := s.loggedV t
  (upto 0 (csN f)).filterMap fun k =>
    let r := csF f + k
    if !store && held.contains r then none
    else some (t, { i := t.i, ea := a + 256 * k + 4 * t.i, index := BitVec.ofNat 64 r,
                    data := if held.contains r then 0 else (s.vreg t r).setWidth 128, data2 := 0 })

/-- NONCANON and ALIGN of the area's address. -/
def State.spanHit (s : State) (f : FmtS) (store : Bool) (t : TRef) : Option Hit :=
  let a := (s.sreg64 t.u (sf f 47 42)).toNat
  if a ≥ 2 ^ 56 then some (memHit t 5 a store)
  else if a % 256 ≠ 0 then some { hit t (rankOwn 1) .align 0 with addr := some a }
  else none

/-- CSAVE (`store`) and CREST of the threads' own registers. -/
def spanWord (i : Instr) (f : FmtS) (store : Bool) : State → List TRef → Res := fun s l =>
  match memOp i, s.issue with
  | some m, some b =>
    let hits := l.filterMap (s.spanHit f store)
    if !hits.isEmpty then .trap (firstHits hits) []
    else match s.memPerform i m (b.origin i) (l.flatMap (s.spanLanes f store)) with
      | .ok s' => .ok (s'.syncWaves l none)
      | r => r
  | _, _ => .ok s

/-! ## CSAVE and CREST of another wave (R443, R444, R452) -/

/-- The target is stopped: halted, or every live thread of it is trapped. -/
def Wave.stopped (w : Wave) : Bool := w.halted || w.live.all fun i => (w.thread i).st == .trapped

/-- Bytes of a wave image. -/
def imageBytes : Nat := 82944

/-- The range of an image in memory. -/
def imageRange (a : Nat) (write : Bool) : Rng := ⟨0, a, 0, 1, imageBytes, write⟩

/-- CSAVE.w and CREST.w in one wave; of a wave that is saved they read and change its image. -/
def imageWave (f : FmtS) (store : Bool) (s : State) (x : EngIn) : EngRes :=
  let w := s.wave x.u
  let a := (regOf64 x.regs (sf f 47 42)).toNat
  match s.handleAt w.ctx w.high (regOf x.regs (sf f 41 36)) (regOf x.regs (sf f 41 36 + 1)) with
  | none => .bad ⟨0, .bounds, 14, none⟩
  | some v =>
    let g := imageRange a store
    let hits := (if (s.wave v).stopped then [] else [⟨1, .bounds, 13, none⟩])
      ++ g.noncanon 2 ++ (if a % 256 ≠ 0 then [⟨3, .align, 0, some a⟩] else [])
    match firstEng hits with
    | some h => .bad h
    | none =>
      match s.pinAll w.core w.ctx 4 w.high [g] with
      | .bad h => .bad h
      | .soft code va wr => .soft code va wr
      | .wait l => .wait l
      | .ok pins s =>
        let at_ := fun (off : Nat) => pinned (pins.getD 0 []) (a + off)
        if store then
          let img := (if s.inImage v then s.readImage v else s).waveImage v
          .ok ((upto 0 (imageBytes / 64)).foldl (fun s k => s.engStore w.ctx (at_ (64 * k)) ((img.drop (64 * k)).take 64) false) s)
        else .ok (s.onWave v fun k => k.loadImage v fun off n => (s.engRead (at_ off) n).1)

/-- CSAVE. -/
def execCsave (h : Hdr) (f : FmtS) : State → Host.Outcome State Fault Refusal :=
  runWord (.csave h f) fun s l =>
    if sb f 25 then engWord (.csave h f) (fun _ t => plainLane t) true (imageWave f true) s l
    else spanWord (.csave h f) f true s l
/-- CREST. -/
def execCrest (h : Hdr) (f : FmtS) : State → Host.Outcome State Fault Refusal :=
  runWord (.crest h f) fun s l =>
    if sb f 25 then engWord (.crest h f) (fun _ t => plainLane t) true (imageWave f false) s l
    else spanWord (.crest h f) f false s l

end Sys2Proof.Machine
end

