-- ==== Sys2Proof/Machine/Observe.lean ====
section
/-! DEFINITION. Performance counters, the streaming sampler, lifetime histograms, and the words of class 13 (R493 to
R506). -/

namespace Sys2Proof.Machine

/-! ## Counters (R493) -/

/-- Events of a scope. -/
def scopeEvents (scope : Nat) : Nat :=
  match scope with
  | 0 => 13
  | 1 => 3
  | _ => 6

/-- The id names a counter. -/
def counterOk (id : Nat) : Bool := bits id 13 8 == 0 && decide (bits id 7 0 < scopeEvents (bits id 15 14))

/-- The value of a counter for a core. The device's, but for the core frequency, are sensor readings (log entry 13), as are the matrix
engine's busy cycles. -/
def State.counter (s : State) (core id : Nat) : Dword :=
  let ev := bits id 7 0
  match bits id 15 14 with
  | 0 =>
    (match ev with
     | 0 => BitVec.ofNat 64 s.cycle
     | 10 => Config.busyClk s.steps core
     | _ => fgetD s.perf (perfKey 0 core ev) 0)
  | 1 => fgetD s.perf (perfKey 1 (clusterOf core) ev) 0
  | 2 => fgetD s.perf (perfKey 2 (dieOf core) ev) 0
  | _ => if ev == 5 then BitVec.ofNat 64 s.freqNow else Config.sensor s.steps ev

/-! ## The sampler (R494 to R497) -/

/-- Bytes of a row. -/
def Sampler.rowBytes (p : Sampler) : Nat := (16 + 8 * p.ids.length + (if p.sb then 128 else 0) + 63) / 64 * 64
/-- Bytes of the ring, and the rows that fit. -/
def Sampler.ringBytes (p : Sampler) : Nat := 4096 * 2 ^ p.rsz
def Sampler.rows (p : Sampler) : Nat := (p.ringBytes - 64) / p.rowBytes

/-- The thread of a core that has waited longest without being ready. -/
def State.longestWait (s : State) (core : Nat) : Option TRef :=
  let l := (s.waves.filter fun e => e.2.core == core && !e.2.saved).flatMap fun e =>
    e.2.threads.map fun t => ({ u := e.1, i := t.1 } : TRef)
  (sortBy (fun t => (s.thread t).readyAt) (l.filter fun t =>
    let st := s.threadState t
    st == 1 || st == 2 || st == 3)).head?

/-- A stall sample of a core (R495). -/
def State.stallSample (s : State) (core : Nat) : Nat :=
  match s.longestWait core with
  | none => 4 * 2 ^ 56 + core * 2 ^ 120
  | some t =>
    let q := (s.producers t (s.chainAt t)).head?
    let why := match s.threadState t with
      | 2 => 2
      | 3 => 3
      | _ => if q.any Producer.pred then 1 else 0
    (s.thread t).pc % 2 ^ 56 + why * 2 ^ 56 + (if why == 3 then 0 else (q.map Producer.pc).getD 0 % 2 ^ 56) * 2 ^ 64 + core * 2 ^ 120

/-- A row of a die's sampler as bytes. -/
def State.samplerBytes (s : State) (d : Nat) (p : Sampler) (row : Nat) : List Byte :=
  let core := 40 * d + Config.sampleCore s.steps % 40
  let head := leBytes (s.ptb % 2 ^ 64 + row % 2 ^ 32 * 2 ^ 64 + d * 2 ^ 96 + p.ids.length * 2 ^ 104 + (if p.sb then 2 ^ 112 else 0)) 16
  let stall := if p.sb then (upto 0 8).flatMap fun k => leBytes (s.stallSample (40 * d + (p.turn + k) % 40)) 16 else []
  let l := head ++ p.ids.flatMap (fun id => leBytes (s.counter core id).toNat 8) ++ stall
  l ++ List.replicate (p.rowBytes - l.length) 0

/-- 8 bytes of a ring's header, read and written. -/
def State.ringGet (s : State) (p : Sampler) (off : Nat) : Nat := (s.engRead (pinned p.pins (p.ring + off)) 8).1
def State.ringPut (s : State) (p : Sampler) (off v : Nat) : State := s.engWrite (pinned p.pins (p.ring + off)) (leBytes v 8) false

/-- A die's sampler takes a row: a full ring drops it. PROD is what the ring's header holds (log entry 62). -/
def State.samplerRow (s : State) (d : Nat) (p : Sampler) : State :=
  let prod := s.ringGet p 0
  let s := if (prod + 2 ^ 64 - s.ringGet p 8) % 2 ^ 64 == p.rows then s.ringPut p 24 (s.ringGet p 24 + 1)
    else
      let l := s.samplerBytes d p prod
      let s := (upto 0 (l.length / 64)).foldl (fun s j =>
        s.engWrite (pinned p.pins (p.ring + 64 + p.rowBytes * (prod % p.rows) + 64 * j)) ((l.drop (64 * j)).take 64) false) s
      s.ringPut p 0 (prod + 1)
  { s with samplers := fput s.samplers d { p with last := s.ptb, turn := if p.sb then (p.turn + 8) % 40 else p.turn } }

/-- A die's sampler stops: a final row if `final`, STAT (log entry 62), and its pins are released (R496). -/
def State.samplerStop (s : State) (d stat : Nat) (final : Bool) : State :=
  match fget s.samplers d with
  | none => s
  | some p =>
    let s := if final then s.samplerRow d p else s
    { s.ringPut p 16 stat with samplers := fdel s.samplers d }

/-- SAMPLER_ROW: the interval of die `n`'s sampler is over. -/
def execSamplerRow (s : State) : Host.Outcome State Fault Refusal :=
  .next (match fget s.samplers s.arg.n with
    | some p => if p.last + p.int ≤ s.ptb then s.samplerRow s.arg.n p else s
    | none => s)

/-- The samplers whose ring has a page in a range of a context stop (R496). -/
def State.samplersLose (s : State) (c lo hi : Nat) : State :=
  (s.samplers.filter fun e => e.2.ctx == c && decide (lo < e.2.ring + e.2.ringBytes) && decide (e.2.ring < hi)).foldl
    (fun s e => s.samplerStop e.1 2 false) s

/-- A field of the arming block is outside R494. -/
def armBad (b : Nat) : Bool :=
  let w := bits b 127 64
  let nc := bits w 15 8
  let id := fun (k : Nat) => bits b (128 + 16 * k + 15) (128 + 16 * k)
  decide (bits w 4 0 > 18) || nc == 0 || decide (nc > 64) || decide (bits w 63 32 < 1000) || decide (bits w 63 32 > 10000000)
    || (upto 0 64).any (fun k => if k < nc then !counterOk (id k) else id k != 0) || bits b 2047 1152 != 0

/-- SAMPARM in one wave. The block's own faults come last in the entry's order: the checks before them that need its contents are made
where it can be read (R504). -/
def armWave (f : FmtS) (s : State) (x : EngIn) : EngRes :=
  let w := s.wave x.u
  let a := (regOf64 x.regs (sf f 47 42)).toNat
  let g : Rng := ⟨0, a, 0, 1, 256, false⟩
  let rec_ := s.recMode w.ctx != 0
  let logged : EngHit := ⟨3, .bounds, 15, none⟩
  if a % 256 ≠ 0 then .bad ⟨1, .align, 0, some a⟩
  else match firstEng (g.noncanon 4) with
    | some h => .bad (if rec_ then logged else h)
    | none =>
      match s.pinAll w.core w.ctx 4 w.high [g] with
      | .bad h => .bad (if rec_ then logged else h)
      | .soft code va wr => if rec_ then .bad logged else .soft code va wr
      | .wait l => .wait l
      | .ok pins s1 =>
        let blk := (upto 0 4).foldl (fun v j => v + (s1.engRead (pinned (pins.getD 0 []) a + 64 * j) 64).1 * 2 ^ (512 * j)) 0
        let ring := bits blk 63 0
        if ring % 4096 ≠ 0 then .bad ⟨1, .align, 0, some ring⟩
        else if armBad blk then .bad ⟨2, .bounds, 7, none⟩
        else if rec_ then .bad logged
        else
          let rsz := bits blk 68 64
          let r : Rng := ⟨0, ring, 0, 1, 4096 * 2 ^ rsz, true⟩
          match firstEng (r.noncanon 4) with
          | some h => .bad h
          | none =>
            match s1.pinAll w.core w.ctx 4 w.high [r] with
            | .bad h => .bad h
            | .soft code va wr => .soft code va wr
            | .wait l => .wait l
            | .ok pins s2 =>
              let d := dieOf w.core
              let s2 := s2.samplerStop d 8 true
              let p : Sampler := {
                ctx := w.ctx, core := w.core, ring := ring, pins := pins.getD 0 [], rsz := rsz,
                ids := (upto 0 (bits blk 79 72)).map fun k => bits blk (128 + 16 * k + 15) (128 + 16 * k),
                sb := blk.testBit 80, int := bits blk 127 96, last := s.ptb, turn := 0 }
              .ok { s2.ringPut p 16 1 with samplers := fput s2.samplers d p }

/-! ## Class 13 (R500 to R506) -/

/-- RECMARK: a MARK record while recording, a check of the log in a replay. -/
def State.recMark (s : State) (u code : Nat) (v : Dword) : State :=
  let c := (s.wave u).ctx
  if s.replaying c then
    match (s.logAt u).find? fun r => r.toNat % 16 == 11 with
    | some r =>
      if bits r.toNat 47 32 == code && bits r.toNat 127 64 == v.toNat then (s.takeLog u fun x => x == r).2 else s.diverge u 3
    | none => s.diverge u 3
  else s.recPend u fun unit len => 11 + unit * 2 ^ 4 + len * 2 ^ 13 + code * 2 ^ 32 + v.toNat * 2 ^ 64

/-- RECMARK. -/
def execRecmark (h : Hdr) (f : FmtS) : State → Host.Outcome State Fault Refusal :=
  runWord (.recmark h f) fun s l => perWave l s fun s u _ =>
    .ok ((s.recMark u (sf f 15 0) (s.sreg64 u (sf f 47 42))).markSync u none)

/-- A wave-level value of a class 13 word: written to a pair and logged. -/
def State.give64 (s : State) (u d op : Nat) (v : Dword) : State :=
  ((s.setSs u d (toWords v.toNat 2)).recVal u 127 op 0 v).markSync u none

/-- The value of RECST (R502). -/
def State.recStatus (s : State) (u : Nat) : Nat :=
  let w := s.wave u
  let k := clusterOf w.core
  let o := s.silo w.ctx k
  let occ := 256 * (o.wseg - o.rseg) / siloCap (s.siloEntry w.ctx k)
  let ret := if (s.ckpts.any fun e => e.1 / 2 ^ 32 == w.ctx) then s.ckCur w.ctx + 1 - s.ckOldest w.ctx else 0
  s.recMode w.ctx * 2 ^ 62 + min 255 occ * 2 ^ 48 + min 65535 ret * 2 ^ 32 + s.ckCur w.ctx % 2 ^ 32

/-- RECST. -/
def execRecst (h : Hdr) (f : FmtS) : State → Host.Outcome State Fault Refusal :=
  runWord (.recst h f) fun s l => perWave l s fun s u _ =>
    .ok (s.give64 u (sf f 47 42) 0x341 (BitVec.ofNat 64 (s.recStatus u)))

/-- A cut is asked for (R479). -/
def State.askCut (s : State) (c : Nat) : State := if s.cutReq.contains c then s else { s with cutReq := s.cutReq ++ [c] }

/-- CKPTREQ: the wave waits for the next cut, with its number. A domain request of a device that is not the DCO device
is forwarded to that device, and a marker brings the cut (R482, R503). -/
def execCkptreq (h : Hdr) (f : FmtS) : State → Host.Outcome State Fault Refusal :=
  runWord (.ckptreq h f) fun s l => perWave l s fun s u mine =>
    let c := (s.wave u).ctx
    let d := sf f 47 42
    match s.recMode c with
    | 0 => .ok ((s.setS u d 0xFFFFFFFF).markSync u none)
    | 1 =>
      let r := (s.ctx c).rctl
      let n := BitVec.ofNat 32 (s.ckCur c + 1)
      let s := (s.setS u d n).recVal u 127 0x342 0 (n.setWidth 64)
      let s := mine.foldl (fun s t => s.modThread t fun th => { th with st := .waiting (.service 0) }) s
      let away := sb f 41 && r.getLsbD 6 && !r.getLsbD 7
      let ask : DomSent := { ctx := c, cut := none, dev := none, before := s.next }
      .ok ((if away then { s with domSent := s.domSent ++ [ask] } else s.askCut c).markSync u none)
    | _ => .ok ((s.recVal u 127 0x342 0 0).markSync u none)

/-- SAMPARM. -/
def execSamparm (h : Hdr) (f : FmtS) : State → Host.Outcome State Fault Refusal :=
  runWord (.samparm h f) fun s l => engWord (.samparm h f) (fun _ t => plainLane t) true (armWave f) s l

/-- SAMPSTOP. -/
def execSampstop (h : Hdr) (f : FmtS) : State → Host.Outcome State Fault Refusal :=
  runWord (.sampstop h f) fun s l => perWave l s fun s u _ =>
    .ok ((s.samplerStop (dieOf (s.wave u).core) 4 true).markSync u none)

/-- PERFRD. -/
def execPerfrd (h : Hdr) (f : FmtS) : State → Host.Outcome State Fault Refusal :=
  runWord (.perfrd h f) fun s l => perWave l s fun s u _ =>
    let id := if sb f 35 then sf f 15 0 else bits (s.sreg u (sf f 41 36)).toNat 15 0
    if !counterOk id then .error (some (hit { u := u, i := 0 } (rankOwn 0) .bounds 7))
    else .ok (s.give64 u (sf f 47 42) 0x345 (s.counter (s.wave u).core id))

/-- Bins of a lifetime histogram (R498). -/
def histBins (id : Nat) : Nat := [64, 64, 25, 64, 13, 8, 13, 44, 4].getD id 0

/-- HISTRD. -/
def execHistrd (h : Hdr) (f : FmtS) : State → Host.Outcome State Fault Refusal :=
  runWord (.histrd h f) fun s l => perWave l s fun s u _ =>
    let x := (s.sreg u (sf f 41 36)).toNat
    if bits x 31 16 != 0 || decide (bits x 7 0 ≥ histBins (bits x 15 8)) then
      .error (some (hit { u := u, i := 0 } (rankOwn 0) .bounds 2))
    else .ok (s.give64 u (sf f 47 42) 0x346 (fgetD s.hist (bits x 15 0) 0))

/-- A count is added to a bin, which saturates (R498). -/
def State.histAdd (s : State) (id bin n : Nat) : State :=
  if bin < histBins id then
    let k := 256 * id + bin
    { s with hist := fsetD s.hist k (BitVec.ofNat 64 (min (2 ^ 64 - 1) ((fgetD s.hist k 0).toNat + n))) 0 }
  else s

/-- TELRD: the oldest telemetry record, or zeros. -/
def execTelrd (h : Hdr) (f : FmtS) : State → Host.Outcome State Fault Refusal :=
  runWord (.telrd h f) fun s l => perWave l s fun s u mine =>
    let some_ := !s.telRing.isEmpty
    let v := (s.telRing.head?.getD 0).toNat
    let s := { s with telRing := s.telRing.tail }
    let s := s.setSs u (sf f 47 42) (toWords v 8)
    let s := mine.foldl (fun s t => s.setP t (sf f 2 0) some_) s
    let s := (upto 0 4).foldl (fun s j => s.recVal u 127 0x347 0 (BitVec.ofNat 64 (bits v (64 * j + 63) (64 * j)))) s
    .ok ((s.recVal u 127 0x347 0 (if some_ then 1 else 0)).markSync u none)

end Sys2Proof.Machine
end

