-- ==== Sys2Proof/Machine/OpLog.lean ====
section
/-! DEFINITION. The operand log's life after a fault (R432 to R434): OPLR, FRESUME, the reissue of READY entries and the
delivery of FAILED ones. -/

namespace Sys2Proof.Machine

/-! ## Reissue (R432, R433) -/

/-- The lanes of an entry whose threads still need it: a store of an exited thread stays (log entry 22). -/
def State.entryLanes (u : Nat) (e : LogEntry) : List (TRef × LogLane) := e.lanes.map fun l => ({ u := u, i := l.i }, l)

/-- The origin of a reissued unit's accesses. -/
def LogEntry.origin (e : LogEntry) : Origin := { pc := e.pc, start := e.pc, next := e.next, inch := 0, late := true }

/-- An entry's unit with its logged values and the translation as it is now. -/
def State.reissueRes (s : State) (u : Nat) (e : LogEntry) : Res :=
  let lanes := State.entryLanes u e
  let x : EngIn := { u := u, lanes := lanes, regs := e.regs, rows := e.rows, pc := e.pc, next := e.next }
  match memOp e.unit, lockFields e.unit, copyFields e.unit, matFields e.unit with
  | some m, _, _, _ => s.memPerform e.unit m e.origin lanes
  | none, some _, _, _ => s.lockPerform e.unit true e.pc e.next lanes
  | none, none, some _, _ => s.copyPerform e.unit [x]
  | none, none, none, some _ => s.matPerform e.unit [x]
  | none, none, none, none =>
    match e.unit with
    | .launch _ f => s.launchPerform f e.unit [x]
    | .coll _ f => s.engPerform e.unit [x] (collWave f)
    | .csave _ f => s.engPerform e.unit [x] (imageWave f true)
    | .crest _ f => s.engPerform e.unit [x] (imageWave f false)
    | .samparm _ f => s.engPerform e.unit [x] (armWave f)
    | i => s.sprPerform i [x]

/-- The state with a log entry, or with none at its place. -/
def State.setLog (s : State) (u k : Nat) (e : LogEntry) : State := s.modWave u fun w => { w with log := fput w.log k e }
def State.freeEntry (s : State) (u k : Nat) : State := s.modWave u fun w => { w with log := fdel w.log k }

/-- The entry of a wave that is reissued next: the one that became READY first. -/
def Wave.nextReady (w : Wave) : Option (Nat × LogEntry) := (sortBy (fun e => e.2.order) (w.log.filter fun e => e.2.st == .ready)).head?

/-- The log of a replay holds a REISS of an entry where the unit stands. -/
def State.reissHere (s : State) (u k : Nat) : Bool :=
  (s.logAt u).any fun r => r.toNat % 16 == 4 && bits r.toNat 26 25 == k

/-- A held entry stands in the way of the bundle that the log of a replay names next: it is another unit's entry that the
log meant (R486). -/
def State.holdsUp (s : State) (u : Nat) (e : LogEntry) : Bool :=
  match s.curChunk u with
  | none => true
  | some c =>
    let m := c.masks.getD (s.wave u).recd.len 0
    let who := ((s.wave u).live.filter fun i => m.testBit i).map fun i => ({ u := u, i := i } : TRef)
    who.any fun t => (e.lanes.any fun l => l.i == t.i) && (s.thread t).stands
      && (!s.scoreFree t (s.chainAt t) || (match (s.chainAt t).last with
          | some i => memPort i
          | none => false))

/-- An entry may be reissued now. -/
def State.mayReissue (s : State) (u k : Nat) (e : LogEntry) : Bool :=
  e.st == .ready && s.waveRuns u && s.chain.isNone && !s.hashHeld u
    && (!s.replaying (s.wave u).ctx || s.reissHere u k || (!(s.reissAhead u) && (s.curChunk u).isNone) || s.holdsUp u e)

/-- The REISS record of a reissue, or the log's own in a replay (R471, R486). -/
def State.recReissue (s : State) (u k : Nat) : State :=
  if s.replaying (s.wave u).ctx then
    if s.reissHere u k then (s.takeLog u fun r => r.toNat % 16 == 4 && bits r.toNat 26 25 == k).2 else s
  else s.recPend u fun unit len => 4 + unit * 2 ^ 4 + len * 2 ^ 13 + k * 2 ^ 25

/-- An entry faults again on its reissue: it waits for service anew, with a new record once there is room for it. -/
def State.entryAgain (s : State) (u k : Nat) (e e2 : LogEntry) : State :=
  let w := s.wave u
  let d := dieOf w.core
  let e := { e with st := .wait, code := e2.code, det := e2.det, va := e2.va, lane := e2.lane, low := e2.low }
  if s.fqb w.ctx d % 2 == 0 then
    (s.post 0 "TRAPKILL" (BitVec.ofNat 64 (w.ctx * 256 + 3))).soon .ctxctlKill { (default : EvArg) with n := w.ctx }
  else if s.fqRoom w.ctx d 1 && e.lanes.all (fun l => s.allDone { u := u, i := l.i } 4) then (s.setLog u k e).logRecord u k e
  else s

/-- What a reissue has issued has the place in program order that its unit had (R290, R292). -/
def State.asOf (s : State) (from_ num : Nat) : State :=
  { s with accs := s.accs.map (fun a => if from_ ≤ a.id then { a with prog := num } else a),
           lockMsgs := s.lockMsgs.map fun m => if from_ ≤ m.n then { m with after := min m.after num } else m }

/-- What the reissue of a wave's entry comes to. -/
def State.reissue (s : State) (u k : Nat) (e : LogEntry) : State :=
  match (s.recReopen u).reissueRes u e with
  | .ok s' => (((s'.asOf s.next e.num).freeEntry u k).recReissue u k).tryRetire u
  | .log l => (match l.head? with
    | some x => s.entryAgain u k e x.2
    | none => s)
  | .trap hits _ =>
    (match (sortBy (fun h => h.t.i) hits).head? with
     | some h => s.setLog u k { e with st := .failed, cause := h.cause, det := BitVec.ofNat 32 h.det,
                                       va := if h.cause == .mchk then h.pa else h.addr.getD e.va }
     | none => s)
  | .walk l => l.foldl (fun s x => s.askPage (s.wave u).core (s.wave u).ctx x.2.1 x.2.2 (s.wave u).high) s
  | .again f => f s
  | _ => s

/-- OPERAND_LOG_REISSUE: the entry of wave `n` that became READY first is reissued. -/
def execOperandLogReissue (s : State) : Host.Outcome State Fault Refusal :=
  .next (match (s.wave s.arg.n).nextReady with
    | some (k, e) => if s.mayReissue s.arg.n k e then s.reissue s.arg.n k e else s
    | none => s)

/-! ## The trap of a FAILED entry (R432) -/

/-- The threads of a unit have addresses of their own; those of another share the address that faulted. -/
def laneAddr (i : Instr) : Bool :=
  (memOp i).isSome || (lockFields i).isSome || (match i with
    | .sprx _ _ => true
    | _ => false)

/-- sr.trapaddr of a logged thread. -/
def LogEntry.trapAddr (e : LogEntry) (l : LogLane) : Nat :=
  if e.cause == .memfault || e.cause == .align || (e.cause == .bounds && e.det.toNat % 256 == 1) then
    (if laneAddr e.unit then l.ea else e.va)
  else e.pc

/-- The logged destinations of a unit's threads are written with 0 and are no longer pending. -/
def State.zeroLogged (s : State) (u : Nat) (e : LogEntry) : State :=
  let d := loggedDest e.unit
  let s := match d.1 with
    | .sreg r n => s.setSs u r (List.replicate n 0)
    | _ => s
  e.lanes.foldl (fun s l =>
    let t : TRef := { u := u, i := l.i }
    let s := match d.1 with
      | .vreg r n => if skipsLogs e.unit then s.setV t l.index.toNat 0 else s.setVs t r (List.replicate n 0)
      | _ => s
    d.2.foldl (fun s p => s.setP t p false) s) s

/-- The address after the unit or chain at an address (R444), as its words stand in memory; a word that cannot be read counts as
a unit of its own (log entry 67). -/
def State.skipFrom (s : State) (core c : Nat) : Nat → Nat → List IWord → Nat → Nat
  | 0, va, _, _ => va
  | fuel + 1, va, pre, pos =>
    let next := (va + 8) % 2 ^ 56
    match s.vread core c va 8 with
    | none => next
    | some x =>
      let l := pre ++ [BitVec.ofNat 64 x]
      if (isPfx (BitVec.ofNat 64 x) || isImx (BitVec.ofNat 64 x)) && decide (l.length < 3) then s.skipFrom core c fuel next l (pos + 1)
      else match decodeUnit l with
        | .ok (i, _) => if chainBit i && decide (pos + 1 < 8) then s.skipFrom core c fuel next [] (pos + 1) else next
        | .error _ => next

/-- What the trap of a FAILED entry reports to its live logged threads (R432). -/
def State.failedReports (s : State) (u : Nat) (e : LogEntry) : List Report :=
  let w := s.wave u
  let lanes := e.lanes.filter fun l => (s.thread { u := u, i := l.i }).st != .exited
  let skip := s.skipFrom w.core w.ctx 8 e.next [] 0
  (dedup (lanes.map LogLane.i)).filterMap fun i => (lanes.find? fun l => l.i == i).map fun l =>
    ({ t := { u := u, i := l.i }, cause := e.cause, info := e.det.toNat, addr := e.trapAddr l, tpc := e.next, skip := skip,
       recPc := e.pc, pa := if e.cause == .mchk then e.va else 0 } : Report)

/-- The trap of a FAILED entry comes to its live logged threads, which leave what they wait for. -/
def State.failedTrap (s : State) (u k : Nat) (e : LogEntry) : State :=
  let rs := s.failedReports u e
  let s0 := rs.foldl (fun s r => s.abandonWait r.t) s
  let s1 := (s0.zeroLogged u e).freeEntry u k
  if rs.isEmpty then s1.tryRetire u else s1.takeTrap (rs.map Report.t) rs false

/-- Nothing stands in the way of a FAILED entry's trap: the threads are at a boundary, and what needs a record has its
place. -/
def State.mayFail (s : State) (u : Nat) (e : LogEntry) : Bool :=
  let rs := s.failedReports u e
  e.st == .failed && s.waveRuns u && s.chain.isNone && s.recordsLate rs false == (false, false)
    && rs.all fun r => match (s.thread r.t).st with
      | .waiting .walk | .trapped => false
      | _ => true

/-- OPLOG_FAILED_DELIVERY: the trap of entry `k` of wave `n`. -/
def execOplogFailedDelivery (s : State) : Host.Outcome State Fault Refusal :=
  .next (match fget (s.wave s.arg.n).log s.arg.k with
    | some e => if s.mayFail s.arg.n e then s.failedTrap s.arg.n s.arg.k e else s
    | none => s)

/-! ## OPLR and FRESUME (R453, R454) -/

/-- The eight words of OPLR; all 0 for a free entry. -/
def entryWords (e : Option LogEntry) : List Word :=
  match e with
  | none => List.replicate 8 0
  | some e =>
    toWords e.pc 2 ++ toWords e.low 2 ++ toWords (bitsOf (e.lanes.map LogLane.i)) 2
      ++ [BitVec.ofNat 32 (e.st.code * 2 ^ 28 + e.code % 16 * 2 ^ 24), e.det]

/-- OPLR. -/
def execOplr (h : Hdr) (f : FmtS) : State → Host.Outcome State Fault Refusal :=
  runWord (.oplr h f) fun s l => perWave l s fun s u _ =>
    match if sb f 35 then s.handleOf u (sf f 41 36) else some u with
    | none => .error (some (noTarget u))
    | some v => .ok ((s.setSs u (sf f 47 42) (entryWords (fget (s.wave v).log (sf f 34 33)))).markSync u none)

/-- FRESUME's effect on an entry that waits for service. -/
def State.serve (s : State) (v k : Nat) (fail : Bool) (code : Nat) : State :=
  let w := s.wave v
  match fget w.log k with
  | none => s
  | some e =>
    if e.st != .wait then s
    else if fail then
      s.setLog v k { e with st := .failed, cause := .memfault, det := BitVec.ofNat 32 (setBits e.det.toNat 3 0 code) }
    else s.setWave v { w with log := fput w.log k { e with st := .ready, order := w.logOrder }, logOrder := w.logOrder + 1 }

/-- FRESUME: a release at device scope, then the entry goes on. -/
def execFresume (h : Hdr) (f : FmtS) : State → Host.Outcome State Fault Refusal :=
  runWord (.fresume h f) fun s l => perWave l s fun s u mine =>
    match s.handleOf u (sf f 47 42) with
    | none => .error (some (noTarget u))
    | some v =>
      if !s.released mine then .error none
      else .ok ((s.onWave v fun s => s.serve v (sf f 41 40) (sb f 39) (sf f 38 35)).markSync u none)

end Sys2Proof.Machine
end

