-- ==== Sys2Proof/Machine/System.lean ====
section
/-! DEFINITION. TLBINV, TLBSYNC and HALT, and the debug halt (R256 to R258, R446, R455, R456). -/

namespace Sys2Proof.Machine

/-! ## TLBINV and TLBSYNC (R256 to R258, R455) -/

/-- Every walk of a context that has not met a foreign P page is dropped, and its threads try again. One that has walks afresh
after the transition. -/
def State.dropWalks (s : State) (c : Nat) : State :=
  (s.walks.filter fun w => w.ctx == c && !w.ptos).foldl (fun s w => (s.dropWalk w.id).wakeWalks w.who) s

/-- TLBINV in one wave: every TLB drops the range, and the wave's next TLBSYNC waits for it. -/
def State.tlbInv (s : State) (u c lo hi : Nat) : State :=
  let s := ((s.tlbDrop c lo hi).dropWalks c).samplersLose c lo hi
  { s.modWave u fun w => { w with invs := w.invs ++ [(c, lo, hi, s.next)] } with next := s.next + 1 }

/-- TLBINV. -/
def execTlbinv (h : Hdr) (f : FmtS) : State → Host.Outcome State Fault Refusal :=
  runWord (.tlbinv h f) fun s l => perWave l s fun s u mine =>
    let c := (s.sreg u (sf f 47 42)).toNat
    if c > 63 then .error (some (hit { u := u, i := 0 } (rankOwn 0) .bounds 2))
    else if !mine.all (fun t => s.allDone t 4) then .error none
    else
      let lo := (s.sreg64 u (sf f 41 36)).toNat / 65536 * 65536
      let hi := lo + 65536 * (s.sreg u (sf f 35 30)).toNat
      .ok ((if sb f 29 then s.tlbInv u c 0 (2 ^ 56) else s.tlbInv u c lo hi).markSync u none)

/-- An access uses a translation of the range from before a TLBINV. -/
def State.oldAccess (s : State) (a : Access) (c lo hi before : Nat) : Bool :=
  a.id < before && s.ctxOf a.t == c && a.scr.isNone && decide (a.va < hi) && decide (lo < a.va + a.n)
    && (match a.st with
        | .done _ _ | .poisoned _ _ | .watching _ _ | .failed => false
        | _ => true)

/-- Pins hold a page of the range. -/
def pinsMeet (pins : FMap Nat) (lo hi : Nat) : Bool := pins.any fun e => decide (65536 * e.1 < hi) && decide (lo < 65536 * e.1 + 65536)

/-- Nothing uses a translation that a TLBINV has dropped (R257): no access, replica read, collapse or walk from before it, and
no pin of a copy, a sprout read, a matrix command, a reduction, a collective or a request to the security controller. -/
def State.invOver (s : State) (i : Nat × Nat × Nat × Nat) : Bool :=
  let c := i.1
  let lo := i.2.1
  let hi := i.2.2.1
  let before := i.2.2.2
  !s.accs.any (fun a => s.oldAccess a c lo hi before)
    && !s.collapses.any (fun k => k.before ≤ before && k.ctx == c && k.running && decide (k.va < hi) && decide (lo < k.va + 65536))
    && !s.copies.any (fun k => k.id < before && k.ctx == c && (pinsMeet k.srcPins lo hi || pinsMeet k.dstPins lo hi))
    && !s.walks.any (fun w => w.id < before && w.ctx == c && decide (w.va < hi) && decide (lo < w.va + 65536))
    && !s.sprReqs.any (fun r => r.id < before && r.ctx == c && (pinsMeet r.pins lo hi || pinsMeet r.stPins lo hi))
    && !s.secReqs.any (fun r => r.num < before && r.ctx == c && (pinsMeet r.ppins lo hi || pinsMeet r.rpins lo hi))
    && !s.mcmds.any (fun m => m.id < before && (s.wave m.u).ctx == c && (pinsMeet m.pins lo hi || pinsMeet m.pins2 lo hi))
    && !s.drains.any (fun d => d.id < before && (s.wave d.u).ctx == c && pinsMeet d.pins lo hi)
    && !s.colls.any fun k => k.id < before && k.ctx == c && !k.done && (pinsMeet k.srcPins lo hi || pinsMeet k.dstPins lo hi)

/-- TLBSYNC. -/
def execTlbsync (h : Hdr) (f : FmtS) : State → Host.Outcome State Fault Refusal :=
  runWord (.tlbsync h f) fun s l => perWave l s fun s u _ =>
    let w := s.wave u
    if !w.invs.all s.invOver then .error none
    else .ok (((s.setWave u { w with invs := [] }).acquire w.core 4).markSync u none)

/-! ## HALT (R446, R456) -/

/-- HALT of an operation: 0 halt, 1 release, 2 step. -/
def haltWord (op : Nat) (f : FmtS) : State → List TRef → Res := fun s l => perWave l s fun s u _ =>
  match s.handleOf u (sf f 47 42) with
  | none => .error (some (noTarget u))
  | some v =>
    if (s.wave v).isSprout then .error (some (noTarget u))
    else
      let s := s.onWave v fun s => s.modWave v fun w =>
        match op with
        | 0 => { w with halted := w.halted || w.image.isSome, haltReq := w.image.isNone, stepping := false }
        | 1 => { w with halted := false, haltReq := false, stepping := false }
        | _ => { w with stepping := w.halted }
      .ok (s.markSync u none)

/-- HALT.halt. -/
def execHaltHalt (h : Hdr) (f : FmtS) : State → Host.Outcome State Fault Refusal := runWord (.haltHalt h f) (haltWord 0 f)
/-- HALT.rel. -/
def execHaltRel (h : Hdr) (f : FmtS) : State → Host.Outcome State Fault Refusal := runWord (.haltRel h f) (haltWord 1 f)
/-- HALT.step. -/
def execHaltStep (h : Hdr) (f : FmtS) : State → Host.Outcome State Fault Refusal := runWord (.haltStep h f) (haltWord 2 f)

/-- A wave halts; the chunk of a recorded wave ends, and the log says so (R462). -/
def State.haltWave (s : State) (u : Nat) : State :=
  let s := s.modWave u fun w => { w with
    halted := true, haltReq := false, stepping := false, threads := fmapAll (fun _ th => { th with wfault := [] }) w.threads }
  if s.recording (s.wave u).ctx then (s.endChunk u flgTrap).recAtrap u 10 else s

/-- The record of a stepped bundle, or of a breakpoint, once there is room for it: DEBUG with a source and the bundle's
threads. -/
def State.postStep (s : State) (u mask dsrc : Nat) : State :=
  let w := s.wave u
  let d := dieOf w.core
  let lane := ((upto 0 64).find? mask.testBit).getD 0
  let t : TRef := { u := u, i := lane }
  if s.fqb w.ctx d % 2 == 0 then s.modWave u fun w => { w with stepped := 0 }
  else if s.fqRoom w.ctx d 1 && (w.live.all fun i => !mask.testBit i || s.allDone { u := u, i := i } 4) then
    (s.fqPost w.ctx d (trapRecord w mask (s.thread t).pc 10 (dsrc * 2 ^ 16) 0 0 (s.thread t).pc lane 0)).modWave u
      fun w => { w with stepped := 0 }
  else s.modWave u fun w => { w with stepped := mask + 2 ^ 64 * dsrc }

/-- HALT_EFFECT: wave `n` halts where one was asked for, or after the bundle `k` of a step, once its last bundle has retired; a record
that found no room is tried again. -/
def execHaltEffect (s : State) : Host.Outcome State Fault Refusal :=
  .next (
    let u := s.arg.n
    let w := s.wave u
    if w.stepping && s.arg.k != 0 then
      (if s.hashHeld u then s.setWave u { w with stepping := false, haltReq := true, stepped := s.arg.k + 3 * 2 ^ 64 }
       else (s.haltWave u).postStep u s.arg.k 3)
    else if w.haltReq && !w.retired then (if s.hashHeld u then s else s.haltWave u)
    else if w.stepped != 0 then s.postStep u (w.stepped % 2 ^ 64) (w.stepped / 2 ^ 64)
    else s)

end Sys2Proof.Machine
end

