-- ==== Sys2Proof/Machine/Preempt.lean ====
section
/-! DEFINITION. Pre-emption of a context: PCTL, the PREEMPT trap, saving and resuming (R438 to R445). -/

namespace Sys2Proof.Machine

/-! ## Stopping (R439, R441) -/

/-- The state with PST of a context. -/
def State.setPst (s : State) (c v : Nat) : State := s.setCtx c { s.ctx c with pst := v }

/-- The waves and sprout threads of a context that are on cores. -/
def State.unitsOf (s : State) (c : Nat) : List Nat := (s.waves.filter fun e => e.2.ctx == c && !e.2.retired && !e.2.saved).map Prod.fst

/-- Bursts of a block that are not born: in the sprout buffer, and not yet read. -/
def State.unborn (s : State) (b : Nat) : Nat :=
  let reqs := s.sprReqs.filter fun r => r.block == b
  (s.sprBuf.filter fun x => reqs.any fun r => r.id == x.req).length + reqs.foldl (fun n r => r.left.foldl (fun n x => n + (x.2 - x.1)) n) 0

/-- 64 KiB units of a block's image: its scratchpad, its tiles, 16 sequencer records and its burst region (R442, log entry 15). -/
def State.blockUnits (s : State) (b : Nat) : Nat :=
  ((s.block b).scratch + 16384 * (s.block b).acc + 1024 + 64 * s.unborn b + 65535) / 65536

/-- 64 KiB units of some blocks' images. -/
def State.blocksUnits (s : State) (l : List Nat) : Nat := l.foldl (fun n b => n + s.blockUnits b) 0

/-- 64 KiB units that the context's images take: two for each wave and sprout thread, and each block's (log entry 15). -/
def State.imageUnits (s : State) (c : Nat) : Nat := 2 * (s.unitsOf c).length + s.blocksUnits (s.blocksOf c)

/-- PREEMPT is no longer pending for a wave's threads. -/
def Wave.unpend (w : Wave) : Wave :=
  { w with threads := fmapAll (fun _ th => { th with async := th.async.filter fun a => a.cause != .preempt }) w.threads }

/-- A wave stops whole, in the way `how`: its threads abandon their waits, but those that have executed PDONE stay behind it. -/
def State.stopWhole (s : State) (how u : Nat) : State :=
  let w := s.wave u
  let s := w.live.foldl (fun s i =>
    let t : TRef := { u := u, i := i }
    if (s.thread t).pdn then s.modThread t fun th => { th with st := if th.st == .waiting .gather then .ready else th.st, wfault := [] }
    else s.abandonWait t) s
  s.modWave u fun w => { w.unpend with stop := how }

/-- No handler runs for PREEMPT: entry 11 is MODE 2, or there is no table. -/
def State.noHandler (s : State) (u : Nat) : Bool :=
  match s.vectorMode (s.wave u).core (s.wave u).ctx .preempt with
  | .inThread _ => false
  | _ => true

/-- A wave that is saved whole at once. -/
def State.savedWhole (s : State) (u : Nat) : Bool :=
  let w := s.wave u
  w.isSprout || w.halted || s.noHandler u || w.live.any fun i => (w.thread i).st == .trapped || (w.thread i).inh

/-- A pending PREEMPT. -/
def preemptAsync (pc : Nat) : Async := bareAsync .preempt 0 pc

/-- What the PRE write does to a wave. -/
def State.preemptWave (s : State) (u : Nat) : State :=
  if s.savedWhole u then s.stopWhole 5 u
  else (s.wave u).live.foldl (fun s i =>
    let s := s.abandonWait { u := u, i := i }
    s.modThread { u := u, i := i } fun th => { th with async := th.async ++ [preemptAsync th.pc] }) s

/-- PCTL_PRE: context `n` is to be pre-empted. With no room for its images it is killed. -/
def execPctlPre (s : State) : Host.Outcome State Fault Refusal :=
  .next (
    let c := s.arg.n % 64
    let size := bits (s.ctx c).psa.toNat 15 0
    if (s.ctx c).pst != 0 then s
    else if size == 0 || decide (size < s.imageUnits c) then
      (s.setPst c 4).soon .ctxctlKill { (default : EvArg) with n := c }
    else
      let s := s.setCtx c { s.ctx c with pst := 1, preTick := s.ptb }
      (s.unitsOf c).foldl State.preemptWave s)

/-- PREEMPT: a thread takes the pending PREEMPT at its boundary; a wave that cannot run its handler is saved whole, one also whose thread
has gone to a MODE 1 handler since the PRE write, where INH bars PREEMPT's (log entry 101). A replay takes what its log says (R486). -/
def execPreempt (s : State) : Host.Outcome State Fault Refusal :=
  .next (
    let t := s.arg.t
    let w := s.wave t.u
    if s.replaying w.ctx then
      (if s.noHandler t.u then s.modWave t.u Wave.unpend else s.takeAsync t)
    else if (s.ctx w.ctx).pst != 1 then s.modWave t.u Wave.unpend
    else if w.stop != 0 then s
    else if s.noHandler t.u || w.live.any (fun i => (w.thread i).st == .trapped || ((w.thread i).inh && !(w.thread i).inhPre)) then s.stopWhole 5 t.u
    else s.takeAsync t)

/-- 100,000 ticks have passed since the PRE write (R441). -/
def State.preLate (s : State) (c : Nat) : Bool := decide ((s.ctx c).preTick + 100000 ≤ s.ptb)

/-- A wave has to be stopped whole now (R439, R441). -/
def State.forceDue (s : State) (u : Nat) : Bool :=
  let w := s.wave u
  w.stop == 0 && !w.live.isEmpty && (s.preLate w.ctx || w.live.any (fun i => (w.thread i).st == .trapped) || w.halted)

/-- FORCED_SAVE: the waves of context `n` that have not stopped 100,000 ticks after the PRE write, or that have met a
trap to a fault queue meanwhile, stop whole. -/
def execForcedSave (s : State) : Host.Outcome State Fault Refusal :=
  .next (
    let c := s.arg.n % 64
    if (s.ctx c).pst != 1 then s
    else ((s.unitsOf c).filter s.forceDue).foldl (fun t u => t.stopWhole (if s.preLate c then 4 else 5) u) s)

/-! ## Saving (R442, R443) -/

/-- The remap table of a core holds the context's requests and unfinished copies into its blocks there, requests first, in 64
entries (R442). -/
def State.remapFits (s : State) (c core : Nat) : Bool :=
  let here := fun (b : Nat) => (s.block b).ctx == c && (s.block b).core == core
  decide ((s.copies.filter fun x => !x.left.isEmpty && x.targets.any fun d => here d.block).length
    + (s.sprReqs.filter fun r => here r.block).length ≤ 64)

/-- Everything of a context that has to end before it is saved has ended. -/
def State.mayBeSaved (s : State) (c : Nat) : Bool :=
  let mine := fun (u : Nat) => (s.wave u).ctx == c
  (s.unitsOf c).all (fun u => (s.wave u).stop != 0 || (s.wave u).live.isEmpty)
    && !s.accs.any (fun a => mine a.t.u && a.st != .failed)
    && s.sprReqs.all (fun r => r.ctx != c || r.left.isEmpty) && !s.cmdsOpen c
    && !s.drains.any (fun d => mine d.u) && !s.walks.any (fun w => w.ctx == c && !w.who.isEmpty)
    && !s.copies.any (fun x => x.ssp != 0 && (s.block x.srcBlock).ctx == c && !x.left.isEmpty)
    && (dedup ((s.blocksOf c).map fun b => (s.block b).core)).all (s.remapFits c)

/-- Physical address of a context's save area. -/
def State.saveArea (s : State) (c : Nat) : Nat := bits (s.ctx c).psa.toNat 51 16 * 65536

/-- The places of a context's wave images, after those of its blocks: distinct, in an order that the hardware chooses (log
entry 15). -/
def State.imageAt (s : State) (c j : Nat) : Nat :=
  let k := s.blocksUnits (s.blocksOf c)
  let n := (bits (s.ctx c).psa.toNat 15 0 - k) / 2
  s.saveArea c + 65536 * k + 131072 * ((Config.imagePlace s.steps c + j) % n)

/-- The place of a block's image. -/
def State.blockImageAt (s : State) (c b : Nat) : Nat :=
  s.saveArea c + 65536 * s.blocksUnits ((s.blocksOf c).takeWhile fun x => x != b)

/-- The sequencer record of an MSEQ that has stopped at a step (R369). -/
def State.seqRecord (s : State) (m : MCmd) (f : FmtX) : List Byte :=
  let r := fun (x : Nat) => (regOf m.regs x).toNat
  let d := fun (x : Nat) => (regOf64 m.regs x).toNat
  let lo := d f.u0.toNat + d f.u1.toNat * 2 ^ 64
  let hi := r f.u4.toNat + r (f.u4.toNat + 1) * 2 ^ 32 + r f.u5.toNat % 65536 * 2 ^ 64 + m.next * 2 ^ 80 + mAcc f * 2 ^ 96
    + (if mZ f then 2 ^ 101 else 0) + (s.wave m.u).tag.toNat * 2 ^ 128 + 2 ^ 160 + (if m.err then 2 ^ 161 else 0)
  leBytes (lo + d f.u2.toNat * 2 ^ 128 + d f.u3.toNat * 2 ^ 192 + hi * 2 ^ 256) 64

/-- The image of a block: scratchpad, tiles, sequencer records, and the bursts that are not born in order of arrival. What else
R442 saves with it has no form that the manual gives (log entry 15). -/
def State.blockImage (s : State) (b : Nat) : List Byte :=
  let k := s.block b
  Memory.getList k.scr 0 k.scratch
    ++ (upto 0 k.acc).flatMap (fun t => (upto 0 4096).flatMap fun e => leBytes (fgetD (fgetD k.tiles t []) e 0).toNat 4)
    ++ (let l := (s.mcmds.filter fun m => m.block == b).flatMap fun m => match m.unit with
          | .mseq _ f => s.seqRecord m f
          | _ => []
        l ++ List.replicate (1024 - l.length) 0)
    ++ (s.sprBuf.filter fun x => s.sprReqs.any fun r => r.block == b && r.id == x.req).flatMap fun x => leBytes x.data.toNat 64

/-- A block's image is written, and its slot is freed. -/
def State.saveBlock (s : State) (a b : Nat) : State :=
  let s := s.writeRun a (s.blockImage b)
  let k := s.block b
  s.setBlock b { k with saved := true, part := (s.core k.core).part, image := a }

/-- A wave's image is written, and the wave is off its core. The open chunk of a recorded wave ends (log entry 63). -/
def State.saveWave (s : State) (a u : Nat) : State :=
  let s := if s.recording (s.wave u).ctx && (s.wave u).recd.len > 0 then s.closeChunk u flgConf else s
  let s := s.writeRun a (s.waveImage u)
  s.modWave u fun w => { w with
    saved := true, image := some a, threads := fmapAll (fun _ th => { th with v := if w.stop == 3 then [] else th.v, wfault := [] }) w.threads }

/-- PSAVED: context `n` is saved, and the pins of its requests' sources are released (R341); where its images have outgrown the
save area it is killed (R440). -/
def execPsaved (s : State) : Host.Outcome State Fault Refusal :=
  .next (
    let c := s.arg.n % 64
    if (s.ctx c).pst != 1 || !s.mayBeSaved c then s
    else if bits (s.ctx c).psa.toNat 15 0 < s.imageUnits c then
      (s.setPst c 4).soon .ctxctlKill { (default : EvArg) with n := c }
    else
      let wave := fun (j : Nat) => s.imageAt c j
      let block := (s.blocksOf c).map fun b => (b, s.blockImageAt c b)
      let s := (s.unitsOf c).zipIdx.foldl (fun s (e : Nat × Nat) => s.saveWave (wave e.2) e.1) s
      let s := block.foldl (fun s e => s.saveBlock e.2 e.1) s
      let s := { s with
        waves := fmapAll (fun _ w => if w.ctx == c then { w with saved := true } else w) s.waves,
        sprReqs := s.sprReqs.map fun (r : SprReq) => if r.ctx == c then { r with pins := [] } else r }
      (s.setPst c 2).post 0 "PSAVED" (BitVec.ofNat 64 c))

/-! ## Resuming (R445) -/

/-- PCTL_RES: context `n` is to be resumed. -/
def execPctlRes (s : State) : Host.Outcome State Fault Refusal :=
  .next (
    let c := s.arg.n % 64
    if (s.ctx c).pst == 2 then s.setPst c 3 else s)

/-- The waves of a block, without its sprout threads, in order of sr.wid. -/
def State.wavesOfBlock (s : State) (b : Nat) : List Nat :=
  sortBy (fun u => (s.wave u).wid) ((s.waves.filter fun e => e.2.block == b && !e.2.isSprout).map Prod.fst)

/-- A core has entries for what a block that comes to it has outstanding: 32 sprout requests and 64 copy entries in all (R30, R324). -/
def State.entriesBack (s : State) (b core : Nat) : Bool :=
  let us := (s.waves.filter fun e => e.2.block == b).map Prod.fst
  decide ((s.sprReqs.filter fun r => r.block == b || (r.core == core && !(s.block r.block).saved)).length ≤ 32)
    && decide ((s.copies.filter fun c => c.block == b || c.core == core).length
        + (s.mcmds.filter fun m => m.entry && (m.block == b || m.core == core)).length
        + (s.drains.filter fun d => us.contains d.u || d.core == core).length ≤ 64)

/-- A saved block finds room on a core. -/
def State.fitsBack (s : State) (b core : Nat) : Bool :=
  let k := s.block b
  s.entriesBack b core &&
  s.roomFor core k.part.toNat ((s.wavesOfBlock b).foldl (fun n u => n + (s.wave u).rf) 0) k.gran k.sprouts (s.wavesOfBlock b).length (s.teams.filter fun t => t.2.block == b).length (s.levelH k.ctx)

/-- A wave is on a core again: the threads that stood behind PDONE go on. -/
def wakeWave (w : Wave) (core slot now : Nat) : Wave :=
  { w with core := core, slot := slot, saved := false, image := none, stop := 0,
           threads := fmapAll (fun _ th => if th.st == .waiting .gather then { th with st := .ready, readyAt := now, pdn := false }
                                            else { th with pdn := false }) w.threads,
           recd := { w.recd with unit := if w.isSprout then w.recd.unit else core % 4 * 32 + slot } }

/-- The places of copies into a block's scratchpad follow it: its generation returns with it (R442). -/
def State.retarget (s : State) (b : Nat) : State :=
  let f := fun (l : List ScrDst) => l.map fun d => if d.block == b then { s.scrDst b with member := d.member } else d
  { s with copies := s.copies.map fun (c : Copy) => { c with targets := f c.targets, stampTo := f c.stampTo } }

/-- A block moves to a core with everything of it: its waves to the slots, in order. -/
def State.moveBlock (s : State) (b core : Nat) (slots : List Nat) : State :=
  let k := s.block b
  let us := s.wavesOfBlock b
  let s := (((s.takePart core k.part.toNat).setBlock b { k with core := core, saved := false, grans := [] }).takeGrans b
    (scrGran k.scratch)).retarget b
  let s := s.acquire core 6
  let s := { s with
    teams := fmapAll (fun _ (t : Team) => if t.block == b then { t with core := core } else t) s.teams,
    copies := s.copies.map (fun (x : Copy) => if x.block == b then { x with core := core } else x),
    sprReqs := s.sprReqs.map (fun (x : SprReq) => if x.block == b then { x with core := core } else x),
    mcmds := s.mcmds.map (fun (x : MCmd) => if x.block == b then { x with core := core } else x),
    drains := s.drains.map (fun (x : Drain) => if us.contains x.u then { x with core := core } else x),
    colls := s.colls.map (fun (x : CollOp) => if x.block == b then { x with core := core } else x) }
  let s := us.zipIdx.foldl (fun s (e : Nat × Nat) =>
    let was := s.wave e.1
    let s := s.setWave e.1 (wakeWave was core (slots.getD e.2 0) s.steps)
    if (s.wave e.1).recd.unit == was.recd.unit && clusterOf core == clusterOf was.core then s else s.recWave e.1) s
  ((s.waves.filter fun e => e.2.block == b && e.2.isSprout).map Prod.fst).foldl (fun s u =>
    let was := s.wave u
    let unit := if s.recording was.ctx then (s.freePair core).getD was.recd.unit else was.recd.unit
    let w := wakeWave was core 32 s.steps
    let s := s.setWave u { w with recd := { w.recd with unit := unit } }
    if unit == was.recd.unit && clusterOf core == clusterOf was.core then s else s.recWave u) s

/-- A sequencer record is read back into its MSEQ (R369). -/
def MCmd.readSeq (m : MCmd) (f : FmtX) (x : Nat) : MCmd :=
  let put := fun (r : FMap Word) (k v : Nat) => fput r k (BitVec.ofNat 32 v)
  let put64 := fun (r : FMap Word) (k v : Nat) => put (put r k (v % 2 ^ 32)) (k + 1) (v / 2 ^ 32)
  let r := put64 (put64 (put64 (put64 m.regs f.u0.toNat (bits x 63 0)) f.u1.toNat (bits x 127 64)) f.u2.toNat (bits x 191 128)) f.u3.toNat (bits x 255 192)
  { m with regs := put (put64 r f.u4.toNat (bits x 319 256)) f.u5.toNat (bits x 335 320), next := bits x 351 336, err := x.testBit 417 }

/-- The images of a block, and of its waves and sprout threads, are read back (R445): scratchpad, tiles, sequencer records and
bursts. -/
def State.readBlock (s : State) (b : Nat) : State :=
  let k := s.block b
  let s := ((s.waves.filter fun e => e.2.block == b).map Prod.fst).foldl State.readImage s
  let get := fun (off n : Nat) => (s.engRead (k.image + off) n).1
  let bytes := (upto 0 (k.scratch / 64)).flatMap fun j => leBytes (get (64 * j) 64) 64
  let tiles := (upto 0 k.acc).foldl (fun (m : FMap (FMap Word)) t =>
    fput m t ((upto 0 4096).foldl (fun (x : FMap Word) e => fsetD x e (BitVec.ofNat 32 (get (k.scratch + 16384 * t + 4 * e) 4)) 0) [])) k.tiles
  let seqAt := k.scratch + 16384 * k.acc
  let seqs := (s.mcmds.filter fun m => m.block == b && isMseq m.unit).map MCmd.id
  let bursts := (s.sprBuf.filter fun x => s.sprReqs.any fun r => r.block == b && r.id == x.req).map fun x => (x.req, x.ordinal)
  { s.setBlock b { k with scr := Memory.setList k.scr 0 bytes, tiles := if k.acc == 0 then k.tiles else tiles } with
    mcmds := s.mcmds.map fun m => match m.unit with
      | .mseq _ f => if seqs.contains m.id then m.readSeq f (get (seqAt + 64 * seqs.findIdx (· == m.id)) 64) else m
      | _ => m,
    sprBuf := s.sprBuf.map fun x => if bursts.contains (x.req, x.ordinal) then
      { x with data := BitVec.ofNat 512 (get (seqAt + 1024 + 64 * bursts.findIdx (· == (x.req, x.ordinal))) 64) } else x }

/-- Blocks saved together: a block, or the blocks of its cluster, with the core of each at a place of its die. -/
def State.gangBack (s : State) (b at_ : Nat) : List (Nat × Nat) :=
  let k := s.block b
  if s.isCl4 b then
    (s.blocks.filter fun e => e.2.launch == k.launch && e.2.gang == k.gang && e.2.ctx == k.ctx).map
      fun e => (e.1, 40 * k.die + at_ / 4 * 4 + e.2.member)
  else [(b, 40 * k.die + at_)]

/-- A saved block and its cluster go to the first place of their die where they fit. -/
def State.putBack (s : State) (b first : Nat) : State :=
  if !(s.block b).saved then s
  else match ((upto 0 40).map fun j => s.gangBack b ((first + j) % 40)).find? fun g => g.all fun e => s.fitsBack e.1 e.2 with
    | none => s
    | some g => g.foldl (fun s e => (s.readBlock e.1).moveBlock e.1 e.2 (s.slotsFree e.2 (s.levelH (s.block e.1).ctx))) s

/-- A saved block could be put back now. -/
def State.mayPutBack (s : State) (b : Nat) : Bool :=
  (upto 0 40).any fun j => (s.gangBack b j).all fun e => s.fitsBack e.1 e.2

/-- PRESUMED: saved blocks of context `n` return to their dies, tried from the place `k` on; with the last of them the
context runs again. -/
def execPresumed (s : State) : Host.Outcome State Fault Refusal :=
  .next (
    let c := s.arg.n % 64
    if (s.ctx c).pst != 3 then s
    else
      let s := (s.blocksOf c).foldl (fun s b => s.putBack b s.arg.k) s
      if (s.blocksOf c).any fun b => (s.block b).saved then s
      else
        let s := { s with waves := fmapAll (fun _ w => if w.ctx == c then { w with saved := false } else w) s.waves }
        (s.setPst c 0).post 0 "PRESUMED" (BitVec.ofNat 64 c))

end Sys2Proof.Machine
end

