-- ==== Sys2Proof/Machine/Cut.lean ====
section
/-! DEFINITION. Recording as a whole: starting and ending it, cuts and checkpoints, the checkpoint store, domain cuts, and
the recorder's timers (R458, R459, R465, R467, R475 to R483). -/

namespace Sys2Proof.Machine

/-! ## Silos at a cut (R474, R475, R477) -/

/-- WSEG and RSEG of a silo are written to its table entry. -/
def State.writeBack (s : State) (c k : Nat) : State :=
  let at_ := bits (s.ctx c).silot.toNat 51 12 * 4096 + 32 * k
  let o := s.silo c k
  (s.agentPut (at_ + 8) o.wseg 8).agentPut (at_ + 16) o.rseg 8

/-- The CUT record of a checkpoint (R471). -/
def cutRecord (n tick : Nat) : BitVec 128 := BitVec.ofNat 128 (9 + n % 2 ^ 32 * 2 ^ 4 + tick % 2 ^ 64 * 2 ^ 64)

/-- A silo opens the segment that begins with a CUT record. Records that it still holds belong to an interval that is
dropped (R478). -/
def State.cutSilo (s : State) (c n k : Nat) : State :=
  let o := s.silo c k
  let first := o.wseg
  let s := if k < 40 then s.count 1 k 1 1 else s
  s.setSilo c k { o with recs := [cutRecord n s.ptb], opened := s.ptb, first := first, held := false }

/-! ## The store (R481) -/

/-- Bytes that a checkpoint takes in the store, whose layout is the device's own (log entry 15). -/
def Ckpt.bytes (k : Ckpt) : Nat :=
  65536 * k.undo.length + imageBytes * k.waves.length + k.blocks.foldl (fun n e => n + e.2.scratch + 16384 * e.2.acc) 0

/-- Bytes of the store in use, and its size. -/
def State.storeUsed (s : State) (c : Nat) : Nat := (s.ckpts.filter fun e => e.1 / 2 ^ 32 == c).foldl (fun n e => n + e.2.bytes) 0
def State.storeSize (s : State) (c : Nat) : Nat := bits (s.ctx c).cksb.toNat 15 0 * 2097152

/-- What does not fit drops the oldest checkpoints; where the current interval alone is too large, recording stops. -/
def State.fitStore (s : State) (c : Nat) : Nat → State
  | 0 => s
  | fuel + 1 =>
    if s.storeUsed c ≤ s.storeSize c then s
    else if s.ckOldest c < s.ckCur c then (s.dropOldest c 0xFF).fitStore c fuel
    else (s.soon .rctlModeOff { (default : EvArg) with n := c }).post 0 "RECFAIL" (BitVec.ofNat 64 c)

/-- UNDO_COPY: the page of context `n` at physical address `k` has its undo copy in the store (R480). -/
def execUndoCopy (s : State) : Host.Outcome State Fault Refusal :=
  .next (
    let c := s.arg.n % 64
    if !s.recording c then s
    else
      let s := s.undoPage c s.arg.k
      s.fitStore c s.ckpts.length)

/-! ## The cut (R479) -/

/-- The recorded units of a context: its waves and sprout threads, saved ones among them. -/
def State.recordedUnits (s : State) (c : Nat) : List Nat := (s.waves.filter fun e => e.2.ctx == c && !e.2.retired).map Prod.fst

/-- Every unit of a context stands between chains with no access under way, and its engines are where an image can hold
them (R442). -/
def State.cutReady (s : State) (c : Nat) : Bool :=
  let mine := fun (u : Nat) => (s.wave u).ctx == c
  !s.accs.any (fun a => mine a.t.u && !(a.watches && s.mwaitsIn a) && a.st != .failed) && !s.lockMsgs.any (fun m => mine m.u && !s.heldBack m)
    && !s.lockReplies.any (fun m => mine m.u) && !s.cmdsOpen c
    && !s.homeOps.any (fun r => match r.op with
        | .grant _ u _ _ => mine u
        | _ => false)
    && !s.walks.any (fun w => w.ctx == c && !w.who.isEmpty)

/-- A unit's open chunk closes with CUT, its threads abandon their waits, and its clock is 0. A thread that waits for the cut
goes on, and one behind PDONE stays there. -/
def State.cutUnit (s : State) (u : Nat) : State :=
  let s := if (s.wave u).recd.len > 0 then s.closeChunk u flgCut else s.flushPend u
  let s := (s.wave u).live.foldl (fun s i =>
    let t : TRef := { u := u, i := i }
    if (s.thread t).st == .waiting (.service 0) then s.ready t
    else if (s.thread t).pdn then s
    else s.abandonWait t) s
  s.modWave u fun w => { w with recd := { w.recd with rsig := 0, wsig := 0, newR := 0, newW := 0, writes := [], late := 0, clock := 0, close := 0, obj := none } }

/-- The lines locks that the waves of a context hold or wait for. -/
def State.locksOf (s : State) (c : Nat) : FMap LockRec :=
  s.locks.filter fun e => (match e.2.holder with
    | some u => (s.wave u).ctx == c
    | none => false) || e.2.queue.any fun w => (s.wave w.u).ctx == c

/-- The messages in a mailbox's ring, oldest first: source and payload. -/
def State.boxContents (s : State) (b : Nat) : List (Nat × List Byte) :=
  (s.box b).srcs.zipIdx.map fun e => (e.1, (upto (s.boxSlot b e.2) 64).map s.byteAt)

/-- The checkpoint of a context as it stands; a block on its core takes the core's partition word along. -/
def State.checkpoint (s : State) (c : Nat) : Ckpt :=
  let bs := s.blocksOf c
  let reqs := (s.sprReqs.filter fun r => r.ctx == c).map SprReq.id
  { waves := s.waves.filter (fun e => e.2.ctx == c),
    blocks := fmapAll (fun _ (b : Block) => if b.saved then b else { b with part := (s.core b.core).part }) (s.blocks.filter fun e => e.2.ctx == c),
    oc := s.objClock.filter (fun e => e.1 % 64 == c), undo := [], segs := (upto 0 41).map (fun k => (k, (s.silo c k).first)), tick := s.ptb,
    launches := s.launches.filter (fun l => l.ctx == c), sprReqs := s.sprReqs.filter (fun r => r.ctx == c),
    sprBuf := s.sprBuf.filter (fun b => reqs.contains b.req), copies := s.copies.filter (fun x => x.ctx == c),
    mcmds := s.mcmds.filter (fun m => bs.contains m.block), teams := s.teams.filter (fun t => bs.contains t.2.block),
    tails := (s.queues.filter fun q => q.2.ctx == c).map (fun q => (q.1, q.2.tail)), lcount := fgetD s.launchCount c 0,
    locks := s.locksOf c, colls := s.colls.filter (fun x => x.ctx == c), drains := s.drains.filter (fun d => (s.wave d.u).ctx == c),
    sprDone := s.sprDone.filter (fun d => bs.contains d.block),
    boxes := ((upto 0 256).filter (s.ownsBox c)).filterMap fun b => if (s.box b).srcs.isEmpty then none else some (b, s.boxContents b), homeLast := s.homeLast.filter fun e => e.1 / 2 ^ 52 == c }

/-- What a cut starts anew for a context: object clocks, the home slices' and mailboxes' counts, and the numbers of its
launches; those that are still in the dependence unit are numbered from the top (log entry 64). -/
def State.cutCounts (s : State) (c : Nat) : State :=
  let mine := (s.launches.filter fun l => l.ctx == c).map Launch.id
  { s with
    objClock := s.objClock.filter (fun e => e.1 % 64 != c), homeSeq := s.homeSeq.filter (fun e => e.1 / 64 != c),
    boxes := (upto 0 256).foldl (fun m b => if s.ownsBox c b then fmod m b (fun (x : Box) => { x with aseq := 0, sseq := [] }) else m) s.boxes,
    launchCount := fput s.launchCount c 0,
    launches := s.launches.map (fun (l : Launch) => if l.ctx == c then { l with lnum := 2 ^ 18 - 1 - mine.findIdx (· == l.id) } else l),
    flight := s.flight.filter (fun e => e.1 / 16384 != c),
    markers := s.markers.filterMap fun m => if m / 64 == c then none else if m / 64 == 64 + c then some (m - 4096) else some m,
    heldIn := [], agenda := (s.agenda.filter fun e => !(e.op == .cut && e.arg.n == c)) ++ s.heldIn }

/-- With DOM = 1 a device that has taken a cut sends a marker for it to every device of the domain (R482). -/
def State.sendMarks (s : State) (c n : Nat) : State :=
  if !(s.ctx c).rctl.getLsbD 6 then s
  else { s with domSent := s.domSent ++ (s.reach.filter (· != s.devid)).map fun d => { ctx := c, cut := some n, dev := some d, before := s.next } }

/-- The checkpoint of the cut is taken, with number 0 where recording has just started (R459, R478). -/
def State.takeCut (s : State) (c : Nat) : State :=
  let fresh := !s.ckpts.any fun e => e.1 / 2 ^ 32 == c
  let n := if fresh then 0 else s.ckCur c + 1
  let s := (s.recordedUnits c).foldl State.cutUnit s
  let s := if fresh then { s with silos := s.silos.filter fun e => e.1 / 64 != c } else (upto 0 41).foldl (fun s k => s.closeSegment c k) s
  let full := (upto 0 41).find? fun k => (s.silo c k).held
  let s := (upto 0 41).foldl (fun s k => s.cutSilo c n k) (s.cutCounts c)
  let s := s.setCkst c (if fresh then 0 else s.ckOldest c) n
  let s := if fresh then (s.recordedUnits c).foldl State.recWave s else s
  let s := { s with ckpts := fput s.ckpts (c * 2 ^ 32 + n) (s.checkpoint c), cutReq := s.cutReq.filter (· != c) }
  let s := match full with
    | some k => s.dropOldest c k
    | none => s
  let s := ((upto 0 41).foldl (fun s k => s.writeBack c k) s).sendMarks c n
  s.fitStore c s.ckpts.length

/-- The final cut of a recording: the chunks and segments close, and the silos and the store stay as they are. -/
def State.finalCut (s : State) (c : Nat) : State :=
  let s := (s.recordedUnits c).foldl State.cutUnit s
  let s := (upto 0 41).foldl (fun s k => (s.closeSegment c k).writeBack c k) s
  let r := (s.ctx c).rctl
  { s.setCtx c { s.ctx c with rctl := r &&& ~~~(3 : Dword) } with
    cutReq := s.cutReq.filter (· != c), recOff := s.recOff.filter (· != c), probeTab := s.probeTab.filter (fun p => p.ctx != c),
    probes := s.probes.filter fun p => p.ctx != c }

/-- CUT: a cut of context `n` is asked for, and is taken once its units stand still. -/
def execCut (s : State) : Host.Outcome State Fault Refusal :=
  .next (
    let c := s.arg.n % 64
    if !s.recording c then { s with cutReq := s.cutReq.filter (· != c) }
    else if !s.cutReady c then s.askCut c
    else if s.recOff.contains c then s.finalCut c
    else s.takeCut c)

/-- CLOCK_FORCED_CHECKPOINT: a clock of context `n` has reached 2^39 (R467). -/
def execClockForcedCheckpoint (s : State) : Host.Outcome State Fault Refusal :=
  .next (if s.recording (s.arg.n % 64) then s.askCut (s.arg.n % 64) else s)

/-- The checkpoint interval of a context is over; with DOM = 1 the DCO device times it. -/
def State.cutTimer (s : State) (c : Nat) : Bool :=
  let r := (s.ctx c).rctl.toNat
  let ms := if bits r 31 16 == 0 then 100 else bits r 31 16
  s.recording c && (!r.testBit 6 || r.testBit 7)
    && (match fget s.ckpts (c * 2 ^ 32 + s.ckCur c) with
        | some k => decide (k.tick + ms * 1000000 ≤ s.ptb)
        | none => false)

/-! ## Starting and ending (R459) -/

/-- The conditions for recording a context. -/
def State.mayRecord (s : State) (c : Nat) : Bool :=
  (s.ctx c).silot.getLsbD 0 && (upto 0 41).all (fun k => (s.siloEntry c k).testBit 63 && bits (s.siloEntry c k) 2 0 != 7)
    && bits (s.ctx c).cksb.toNat 15 0 != 0 && !s.samplers.any fun e => e.2.ctx == c

/-- Sprout threads that live when recording starts take free pairs. -/
def State.pairSprouts (s : State) (c : Nat) : State :=
  ((s.waves.filter fun e => e.2.ctx == c && e.2.isSprout).map Prod.fst).foldl (fun s u =>
    let core := (s.wave u).core
    let used := (s.waves.filter fun e => e.2.core == core && e.2.isSprout && e.1 != u && s.recording e.2.ctx && e.2.recd.unit ≥ 256).map fun e => e.2.recd.unit
    let unit := (((upto 0 64).map fun j => 256 + core % 4 * 64 + j).find? fun n => !used.contains n).getD (256 + core % 4 * 64)
    s.modWave u fun w => { w with recd := { w.recd with unit := unit } })
    (s.waves.foldl (fun s e => if e.2.ctx == c && e.2.isSprout then s.modWave e.1 fun w => { w with recd := { w.recd with unit := 0 } } else s) s)

/-- A region of device memory that the next reset wipes (R525): its first 2 MiB frame and their number. -/
def State.noteWipe (s : State) (first n : Nat) : State :=
  if n == 0 || s.wipes.contains (first, n) then s else { s with wipes := s.wipes ++ [(first, n)] }

/-- The silo rings that the valid entries of a context's table in use configure (R477, R525). -/
def State.noteSilos (s : State) (c : Nat) : State :=
  if !(s.ctx c).silot.getLsbD 0 then s
  else (upto 0 41).foldl (fun s k =>
    let e := s.siloEntry c k
    if !e.testBit 63 then s else s.noteWipe (bits e 51 21) (([128, 32, 64, 128, 256, 512, 1024, 0] : List Nat).getD (bits e 2 0) 0)) s

/-- RCTL_MODE_RECORD: MODE 1 is written to context `n`: recording starts with cut 0. -/
def execRctlModeRecord (s : State) : Host.Outcome State Fault Refusal :=
  .next (
    let c := s.arg.n % 64
    if s.recMode c != 0 then s
    else if !s.mayRecord c then s.post 0 "RECFAIL" (BitVec.ofNat 64 c)
    else
      let s := s.noteSilos c
      let s := { s with ckpts := s.ckpts.filter (fun e => e.1 / 2 ^ 32 != c), homeLast := s.homeLast.filter (fun e => e.1 / 2 ^ 52 != c) }
      ((s.setCtx c { s.ctx c with rctl := (s.ctx c).rctl ||| 1 }).pairSprouts c).askCut c)

/-- RCTL_MODE_OFF: MODE 0 is written to context `n`: a recording ends at a final cut. -/
def execRctlModeOff (s : State) : Host.Outcome State Fault Refusal :=
  .next (
    let c := s.arg.n % 64
    if s.recording c then
      { s.askCut c with recOff := if s.recOff.contains c then s.recOff else s.recOff ++ [c] }
    else s)

/-! ## Probes, timers and domain cuts (R465, R475, R482, R483) -/

/-- CONFLICT_PROBE: the oldest probe that a full probe table has sent reaches its core. -/
def execConflictProbe (s : State) : Host.Outcome State Fault Refusal :=
  .next (match s.probes with
    | [] => s
    | p :: rest => (({ s with probes := rest }).recProbe p.ctx (fun k => k == p.core) 0 (recXMem (64 * p.x)) p.write).1)

/-- A silo's segment has been open for 100 µs. -/
def Silo.stale (o : Silo) (now : Nat) : Bool := !o.recs.isEmpty && !o.held && decide (o.opened + 100000 ≤ now)

/-- SEGMENT_CLOSE_TIMEOUT: the open segment of silo `k` of context `n` closes. -/
def execSegmentCloseTimeout (s : State) : Host.Outcome State Fault Refusal :=
  .next (if s.recording (s.arg.n % 64) && (s.silo (s.arg.n % 64) s.arg.k).stale s.ptb then s.closeSegment (s.arg.n % 64) s.arg.k else s)

/-- The FLIGHT records of a source device whose marker has arrived after this device's cut (R483). -/
def State.flightRecords (s : State) (c src : Nat) : State :=
  let mine := s.flight.filter fun e => e.1 / 256 == c * 64 + src
  let s := mine.foldl (fun s e =>
    s.emit c 40 (BitVec.ofNat 128 (12 + src * 2 ^ 4 + e.1 % 256 * 2 ^ 10 + e.2 % 2 ^ 32 * 2 ^ 64))) s
  { s with flight := s.flight.filter fun e => e.1 / 256 != c * 64 + src }

/-- DOMAIN_CUT_MARKER: the marker of device `k` for cut `m` of context `n` arrives. -/
def execDomainCutMarker (s : State) : Host.Outcome State Fault Refusal :=
  .next (
    let c := s.arg.n % 64
    let src := s.arg.k % 64
    if !s.recording c || !(s.ctx c).rctl.getLsbD 6 then s
    else if s.arg.m ≤ s.ckCur c then
      (if s.markers.contains (c * 64 + src) then s
       else { s.flightRecords c src with markers := s.markers ++ [c * 64 + src] })
    else if s.markers.contains (4096 + c * 64 + src) then s
    else { s.askCut c with markers := s.markers ++ [4096 + c * 64 + src] })

end Sys2Proof.Machine
end

