-- ==== Sys2Proof/Machine/Replays.lean ====
section
/-! DEFINITION. Replay as a whole: the log read back from the silos, roll-back and restoring, divergence, the end of a
replay, and breakpoints (R475, R476, R485 to R491). -/

namespace Sys2Proof.Machine

/-! ## Segments decoded (R475, R476) -/

/-- What the decoder keeps: the last record of each kind, the last token's kind and difference, and the records. -/
structure SegDec where
  prev : FMap Nat
  kind : Nat
  d : Nat
  out : List (BitVec 128)
  deriving DecidableEq, Repr

/-- One record more of a kind. -/
def SegDec.add (e : SegDec) (k d : Nat) : SegDec :=
  let r := (fgetD e.prev k 0 + d) % 2 ^ 128
  { prev := fput e.prev k r, kind := k, d := d, out := e.out ++ [BitVec.ofNat 128 r] }

/-- The nonzero bytes of a difference put in their places. -/
def spreadBytes (mask : Nat) : Nat → List Byte → Nat × List Byte
  | 0, l => (0, l)
  | n + 1, l =>
    let r := spreadBytes mask n l
    if mask.testBit n then
      match r.2 with
      | b :: l => (r.1 + b.toNat * 256 ^ n, l)
      | [] => r
    else r

/-- The records of a segment's body. -/
def decodeBody : Nat → Nat → SegDec → List Byte → List (BitVec 128)
  | 0, n, e, _ => e.out.take n
  | fuel + 1, n, e, l =>
    if e.out.length ≥ n then e.out.take n
    else match l with
      | [] => e.out
      | t :: rest =>
        if t.toNat % 16 == 14 then
          decodeBody fuel n ((upto 0 (t.toNat / 16 + 1)).foldl (fun e _ => e.add e.kind e.d) e) rest
        else
          let mask := leNat (rest.take 2)
          let r := spreadBytes mask 16 (rest.drop 2)
          decodeBody fuel n (e.add (t.toNat % 16) r.1) r.2

/-- The records of a segment of 4,096 bytes. -/
def decodeSegment (l : List Byte) : List (BitVec 128) :=
  decodeBody 4096 (leNat ((l.drop 4).take 4)) { prev := [], kind := 0, d := 0, out := [] } (l.drop 32)

/-- The records that a silo of a context holds for an interval. -/
def State.logOf (s : State) (c n k : Nat) : List (BitVec 128) :=
  let seg := fun (m : Nat) => (fget s.ckpts (c * 2 ^ 32 + m)).bind fun x => fget x.segs k
  let first := (seg n).getD 0
  let last := if n < s.ckCur c then (seg (n + 1)).getD (s.silo c k).wseg else (s.silo c k).wseg
  let e := s.siloEntry c k
  (upto first (last - first)).flatMap fun g =>
    decodeSegment ((upto (64 * (bits e 51 12 + g % siloCap e)) 64).flatMap fun x => leBytes (s.latest x).toNat 64)

/-! ## The log of an interval (R471 to R474) -/

/-- An empty chunk of a unit. -/
def openChunk (cluster unit : Nat) : LogChunk :=
  { cluster := cluster, unit := unit, chunk := 0, ts := 0, hash := 0, flags := 0, masks := [], recs := [], trap := none, lead := [] }

/-- What the records of a cluster silo have given so far: open chunks by unit, the unit whose INPUT came last, finished
chunks, births and waves; unit 512 stands for a record that came late. -/
structure ClusterLog where
  open_ : FMap LogChunk
  input : Option Nat
  /-- INPUT records that came once their unit had no chunk open, by unit (R407). -/
  late : FMap (List (List (BitVec 128)))
  chunks : FMap (List LogChunk)
  births : List (Nat × Nat × Nat)
  waves : List (BitVec 128)
  deriving DecidableEq, Repr

/-- A DATA record joins the last record of a chunk. -/
def LogChunk.data (k : LogChunk) (r : BitVec 128) : LogChunk :=
  { k with recs := match k.recs.getLast? with
      | some e => k.recs.dropLast ++ [(e.1, e.2 ++ [r])]
      | none => k.recs }

/-- The records of a chunk that stand behind its last bundle are met before the first one of the unit's next chunk. -/
def LogChunk.carried (k : LogChunk) : List (Nat × List (BitVec 128)) :=
  if k.flags.testBit 1 || k.flags.testBit 4 then []
  else (k.recs.filter fun e => decide (k.masks.length ≤ e.1)).map fun e => (0, e.2)

/-- One record of a cluster's silo. -/
def ClusterLog.step (cluster : Nat) (g : ClusterLog) (r : BitVec 128) : ClusterLog :=
  let x := r.toNat
  let k := x % 16
  let unit := if k == 10 then bits x 88 80 else bits x 12 4
  let o := fgetD g.open_ unit (openChunk cluster unit)
  let key := cluster * 512 + unit
  let note := fun (bidx : Nat) => { g with open_ := fput g.open_ unit { o with recs := o.recs ++ [(bidx, [r])] }, input := none }
  match k with
  | 0 =>
    let c := { o with ts := bits x 87 48, hash := bits x 47 32, flags := bits x 31 26, chunk := bits x 127 96 }
    let rest := c.carried
    { g with open_ := if rest.isEmpty then fdel g.open_ unit else fput g.open_ unit { openChunk cluster unit with recs := rest }, chunks := fput g.chunks key (fgetD g.chunks key [] ++ [c]), input := none }
  | 1 => { g with open_ := fput g.open_ unit { o with masks := o.masks ++ List.replicate (bits x 24 13 + 1) (bits x 127 64) }, input := none }
  | 2 => { g with waves := g.waves ++ [r], input := none }
  | 3 | 4 | 11 => note (bits x 24 13)
  | 6 =>
    let l := fgetD g.chunks key []
    (match l.getLast? with
     | some c =>
       if c.trapped && o.lead.isEmpty then { g with chunks := fput g.chunks key (l.dropLast ++ [{ c with trap := some (bits x 20 13) }]), input := none }
       else { g with open_ := fput g.open_ unit { o with lead := o.lead ++ [bits x 20 13] }, input := none }
     | none => { g with open_ := fput g.open_ unit { o with lead := o.lead ++ [bits x 20 13] }, input := none })
  | 8 => { g with births := g.births ++ [(unit, bits x 63 32, bits x 79 64)], input := none }
  | 10 =>
    if bits x 7 4 == 5 && bits x 100 89 != 0 && (fget g.open_ unit).isNone
    then { g with late := fput g.late key (fgetD g.late key [] ++ [[r]]), input := some (512 + unit) }
    else { note (bits x 100 89) with input := some unit }
  | 15 =>
    (match g.input with
     | some u =>
       if u ≥ 512 then { g with late := fmod g.late (cluster * 512 + u % 512) fun l => l.dropLast ++ [(l.getLast?.getD []) ++ [r]] }
       else { g with open_ := fmod g.open_ u fun o => o.data r }
     | none => g)
  | _ => g

/-- The end of a cluster's log: asynchronous traps that stand after a unit's last chunk. -/
def ClusterLog.finish (cluster : Nat) (g : ClusterLog) : ClusterLog :=
  g.open_.foldl (fun g e => if e.2.lead.isEmpty then g else
    { g with chunks := fput g.chunks (cluster * 512 + e.1) (fgetD g.chunks (cluster * 512 + e.1) [] ++ [{ e.2 with flags := 64 }]) }) g

/-- What the records of the input silo have given so far: mailbox arrivals, home-side operations, inputs; and where the next
DATA record goes: to a mailbox, or to the last input. -/
structure InputLog where
  msgs : FMap (List (Nat × List Byte))
  homes : FMap (List (BitVec 128))
  inputs : List (BitVec 128 × List Byte)
  box : Option Nat
  deriving DecidableEq, Repr

/-- The payload of a DATA record. -/
def payloadOf (r : BitVec 128) : List Byte := leBytes (bits r.toNat 127 8) (bits r.toNat 7 4 + 1)

/-- Bytes join the last element of a list of pairs. -/
def growLast {α : Type} (l : List (α × List Byte)) (b : List Byte) : List (α × List Byte) :=
  match l.getLast? with
  | some e => l.dropLast ++ [(e.1, e.2 ++ b)]
  | none => l

/-- One record of the input silo. -/
def InputLog.step (g : InputLog) (r : BitVec 128) : InputLog :=
  let x := r.toNat
  match x % 16 with
  | 5 =>
    let b := bits x 11 4
    { g with msgs := fput g.msgs b (fgetD g.msgs b [] ++ [(bits x 17 12, [])]), box := some b }
  | 7 => { g with homes := fput g.homes (bits x 9 4) (fgetD g.homes (bits x 9 4) [] ++ [r]) }
  | 10 => { g with inputs := g.inputs ++ [(r, [])], box := none }
  | 15 =>
    (match g.box with
     | some b => { g with msgs := fput g.msgs b (growLast (fgetD g.msgs b []) (payloadOf r)) }
     | none => { g with inputs := growLast g.inputs (payloadOf r) })
  | _ => g

/-- The log of interval `n` of a context, with what a replay carries over from before it. -/
def State.loadLog (s : State) (c n last : Nat) (msgs : FMap (List (Nat × List Byte))) (tails : FMap Nat) (passed : List Nat) : Replay :=
  let cl := (upto 0 40).map fun k =>
    (k, ((s.logOf c n k).foldl (ClusterLog.step k) { open_ := [], input := none, late := [], chunks := [], births := [], waves := [] }).finish k)
  let i := (s.logOf c n 40).foldl InputLog.step { msgs := msgs, homes := [], inputs := [], box := none }
  { interval := n, last := last, chunks := cl.foldl (fun m e => e.2.chunks.foldl (fun m x => fput m x.1 x.2) m) [],
    late := cl.foldl (fun m e => e.2.late.foldl (fun m x => fput m x.1 x.2) m) [],
    births := cl.map (fun e => (e.1, e.2.births)), waves := cl.flatMap fun e => e.2.waves, msgs := i.msgs,
    homes := fmapAll (fun _ l => sortBy (fun r => bits r.toNat 63 12) l) i.homes, inputs := i.inputs, tails := tails, passed := passed }

/-! ## Roll-back and restoring (R480, R485) -/

/-- The state with RPCTL.STATE. -/
def State.setRpState (s : State) (c v : Nat) : State :=
  s.setCtx c { s.ctx c with rpctl := BitVec.ofNat 64 (setBits (s.ctx c).rpctl.toNat 39 36 v) }
/-- The state with RCTL.MODE. -/
def State.setMode (s : State) (c v : Nat) : State :=
  s.setCtx c { s.ctx c with rctl := BitVec.ofNat 64 (setBits (s.ctx c).rctl.toNat 1 0 v) }

/-- The undo copies of an interval are applied. -/
def State.undoInterval (s : State) (c n : Nat) : State :=
  match fget s.ckpts (c * 2 ^ 32 + n) with
  | none => s
  | some k => k.undo.foldl (fun s e =>
      (upto 0 1024).foldl (fun s j => s.agentWrite (e.1 + 64 * j) (Memory.getList e.2 (e.1 + 64 * j) 64)) s) s

/-- Memory is as it was at checkpoint `n`. -/
def State.rollBack (s : State) (c n : Nat) : State :=
  (upto 0 (s.ckCur c + 1 - n)).foldl (fun s j => s.undoInterval c (s.ckCur c - j)) s

/-- The launches of a context are dropped without a completion, with its units. -/
def State.dropAll (s : State) (c : Nat) : State :=
  let s := s.dropContext c
  { s with launches := s.launches.filter (fun l => l.ctx != c), outbound := s.outbound.filter (fun m => m.ctx != c) }

/-- A core has room beside other contexts for a checkpoint's blocks that stood there: what R386 counts, with its entries for sprout requests
and copies (R30). -/
def State.roomOn (s : State) (k : Ckpt) (core : Nat) : Bool :=
  let bs := k.blocks.filter fun e => e.2.core == core && !e.2.saved
  let sum := fun (f : Block → Nat) => bs.foldl (fun n e => n + f e.2) 0
  let waves := k.waves.filter fun e => e.2.core == core && !e.2.saved
  bs.all (fun e => s.roomFor core e.2.part.toNat (waves.foldl (fun n w => n + w.2.rf) 0)
      (sum fun b => b.gran.1, sum fun b => b.gran.2.1, sum fun b => b.gran.2.2) (sum Block.sprouts) 0
      (k.teams.filter fun t => t.2.core == core).length (s.levelH e.2.ctx))
    && decide ((s.sprReqs.filter fun r => r.core == core && !(s.block r.block).saved).length + (k.sprReqs.filter fun r => r.core == core).length ≤ 32)
    && decide (s.entriesUsed core + (k.copies.filter fun c => c.core == core).length + (k.mcmds.filter fun m => m.core == core && m.entry).length
        + (k.drains.filter fun d => d.core == core).length ≤ 64)

/-- The slots that a checkpoint's waves stood in are free of other contexts, and its cores have room for its blocks. -/
def State.roomToRestore (s : State) (k : Ckpt) : Bool :=
  k.waves.all (fun e => e.2.saved || e.2.isSprout || !(s.slotsUsed e.2.core).contains e.2.slot)
    && (dedup ((k.blocks.filter fun e => !e.2.saved).map fun e => e.2.core)).all (s.roomOn k)

/-- A line lock of the images is held and waited for again; how a wait ends is the log's, not the deadline's (R295). -/
def State.restoreLocks (s : State) (k : Ckpt) : State :=
  let s := { s with locks := k.locks.foldl (fun m (e : Nat × LockRec) =>
    fput m e.1 { e.2 with queue := e.2.queue.map fun (w : LockWaiter) => { w with deadline := none } }) s.locks }
  { s with waves := fmapAll (fun u w => { w with lockWait := w.lockWait.filter (fun x =>
      (fgetD k.locks x.1 default).queue.any (fun q => q.u == u)) }) s.waves }

/-- The images of a checkpoint are back on their cores, and its log is read. -/
def State.restore (s : State) (c n : Nat) (k : Ckpt) : State :=
  let waves := fmapAll (fun _ w => { w with stop := 0, saved := false, recd := { w.recd with hash := 0, len := 0, pend := [] } }) k.waves
  let s := k.blocks.foldl (fun s e => (s.takePart e.2.core e.2.part.toNat).dropUntracked e.2.core) s
  let s := { s with
    waves := waves.foldl (fun m (e : Nat × Wave) => fput m e.1 e.2) s.waves,
    blocks := k.blocks.foldl (fun m (e : Nat × Block) => fput m e.1 { e.2 with saved := false }) s.blocks,
    teams := k.teams.foldl (fun m (e : Nat × Team) => fput m e.1 e.2) s.teams,
    objClock := k.oc.foldl (fun m (e : Nat × Nat) => fput m e.1 e.2) (s.objClock.filter (fun e => e.1 % 64 != c)),
    homeLast := k.homeLast.foldl (fun m (e : Nat × Nat) => fput m e.1 e.2) (s.homeLast.filter (fun e => e.1 / 2 ^ 52 != c)),
    homeSeq := s.homeSeq.filter (fun e => e.1 / 64 != c), launchCount := fput s.launchCount c 0,
    launches := s.launches ++ k.launches, sprReqs := s.sprReqs ++ k.sprReqs, sprBuf := s.sprBuf ++ k.sprBuf,
    sprDone := s.sprDone ++ k.sprDone, copies := s.copies ++ k.copies, mcmds := s.mcmds ++ k.mcmds, colls := s.colls ++ k.colls,
    drains := s.drains ++ k.drains }
  let s := s.restoreLocks k
  let s := { s with replays := fput s.replays c (s.loadLog c n (s.ckCur c) k.boxes k.tails []) }
  let s := (fkeys k.waves).foldl State.skipBare s
  ((s.setMode c 2).setRpState c 2).setPst c 0

/-- RPCTL_GO: a replay of context `n` starts, also with `k` = 1 where one is still being restored, or goes on with restoring once
the logged places are free. -/
def execRpctlGo (s : State) : Host.Outcome State Fault Refusal :=
  .next (
    let c := s.arg.n % 64
    let going := s.rpState c == 1 && s.arg.k != 1
    let from_ := if going then (s.ctx c).rpFrom else bits (s.ctx c).rpctl.toNat 31 0
    match fget s.ckpts (c * 2 ^ 32 + from_) with
    | none => if going then s else s.post 0 "RPFAIL" (BitVec.ofNat 64 c)
    | some k =>
      if going then (if s.roomToRestore k then s.restore c from_ k else s)
      else if s.mayGo c from_ then
        let s := (s.setRpState c 1).setCtx c { (s.setRpState c 1).ctx c with rpFrom := from_ }
        let s := (s.dropAll c).setMode c 0
        let s := s.rollBack c from_
        if s.roomToRestore k then s.restore c from_ k else s
      else s.post 0 "RPFAIL" (BitVec.ofNat 64 c))

/-- RPCTL_STOP: the replay of context `n` ends: its units are dropped. -/
def execRpctlStop (s : State) : Host.Outcome State Fault Refusal :=
  .next (
    let c := s.arg.n % 64
    if s.recMode c != 2 && s.rpState c != 1 then s
    else
      let s := ((s.dropAll c).setMode c 0).setRpState c 0
      { s with replays := fdel s.replays c })

/-! ## Divergence (R489) -/

/-- REPLAY: wave `n` cannot follow its log, for the reason `k`: its live threads take REPLAY at their next boundary. -/
def execReplay (s : State) : Host.Outcome State Fault Refusal :=
  .next (
    let u := s.arg.n
    let w := s.wave u
    if !s.replaying w.ctx || w.live.isEmpty || (w.live.any fun i => (w.thread i).async.any fun a => a.cause == .replay)
        || (s.rpState w.ctx == 4 && w.live.all fun i => (w.thread i).st == .trapped) then s
    else
      let s := w.live.foldl (fun s i => s.modThread { u := u, i := i } fun th => if th.st == .trapped then th else
        { th with async := th.async ++ [bareAsync .replay (BitVec.ofNat 32 (s.arg.k % 16)) th.pc] }) s
      (s.setRpState w.ctx 4).post 0 "RPDIV" (BitVec.ofNat 64 w.ctx))

/-! ## From interval to interval, and the end (R486, R490) -/

/-- Every unit has run past the last chunk of the interval, and every logged launch and write of it has been entered. -/
def State.intervalOver (s : State) (c : Nat) (p : Replay) : Bool :=
  p.chunks.all (fun e => e.2.isEmpty) && p.inputs.isEmpty && s.cutReady c && s.rpState c == 2
    && (s.recordedUnits c).all (fun u => (s.wave u).log.all fun e => e.2.st != .ready)

/-- A thread at the end of an interval stands as the checkpoint's image of it does: before the word that it waited in, or behind
that word, where its wait was over at the cut. No log says which (log entry 81). -/
def Thread.standAs (th k : Thread) : Thread :=
  if th.st == .ready && k.st == .ready && th.pc != k.pc && (k.pc == th.at_ || th.pc == k.at_)
  then { th with pc := k.pc, slept := k.slept } else th

/-- A wave's threads stand as those of its image. -/
def Wave.standAs (v w : Wave) : Wave :=
  { v with threads := fmapAll (fun i th => ((fget w.threads i).map th.standAs).getD th) v.threads }

/-- The units of a replay stand as in the checkpoint that ends the interval. -/
def State.standAsCut (s : State) (c n : Nat) : State :=
  match fget s.ckpts (c * 2 ^ 32 + n) with
  | none => s
  | some k => (s.recordedUnits c).foldl (fun s u => match fget k.waves u with
    | none => s
    | some w => s.modWave u fun v => v.standAs w) s

/-- The next interval of the log: waits are abandoned and counts start anew, as at the cut. -/
def State.nextInterval (s : State) (c : Nat) (p : Replay) : State :=
  let n := p.interval + 1
  let s := (((s.recordedUnits c).foldl State.cutUnit s).standAsCut c n).cutCounts c
  let s := { s with replays := fput s.replays c (s.loadLog c n p.last p.msgs p.tails p.passed) }
  (s.recordedUnits c).foldl State.skipBare s

/-! ## Waves that a pre-emption has moved (R445, R472, R486) -/

/-- The later WAVE record of a wave that has run past its chunks: its new core and UNIT. -/
def State.movedTo (s : State) (u : Nat) : Option (Nat × Nat) :=
  let w := s.wave u
  if (s.curChunk u).isSome || s.strayed u then none
  else (fget s.replays w.ctx).bind fun p =>
    (p.waves.find? fun r => r.toNat / 2 ^ 32 % 2 ^ 32 == w.tag.toNat && r.getLsbD 13 == w.isSprout
      && (bits r.toNat 103 96 != w.core || bits r.toNat 12 4 != w.recd.unit)).map fun r => (bits r.toNat 103 96, bits r.toNat 12 4)

/-- The live waves of a block have all been moved by their log. -/
def State.isMoved (s : State) (b : Nat) : Bool :=
  let us := (s.waves.filter fun e => e.2.block == b && !e.2.retired && !e.2.live.isEmpty).map Prod.fst
  !us.isEmpty && us.all (fun u => (s.movedTo u).isSome) && !s.accs.any fun a => us.contains a.t.u && a.st != .failed

/-- Where the log has the waves of a block next, and the block's core. -/
def State.destOf (s : State) (b : Nat) : List (Nat × Option (Nat × Nat)) × Nat :=
  let dest := (s.waves.filter fun e => e.2.block == b).map fun e => (e.1, s.movedTo e.1)
  (dest, ((dest.filterMap Prod.snd).head?.map Prod.fst).getD (s.block b).core)

/-- A block that has left its core finds its logged slots free, and room (R386). -/
def State.fitsLogged (s : State) (b : Nat) : Bool :=
  let d := s.destOf b
  s.fitsBack b d.2 && d.1.all fun e => (s.wave e.1).isSprout || match e.2 with
    | some (_, unit) => !(s.slotsUsed d.2).contains (unit % 32)
    | none => true

/-- The first block of a replayed context that its log has moved and that is still on its core; else the first that can go to its
new one. -/
def State.movedBlock (s : State) (c : Nat) : Option Nat :=
  let l := (s.blocksOf c).filter s.isMoved
  match l.find? fun b => !(s.block b).saved with
  | some b => some b
  | none => l.find? s.fitsLogged

/-- A block of a replay leaves its core, as the pre-emption made it do. -/
def State.leaveLogged (s : State) (b : Nat) : State :=
  let k := s.block b
  let s := s.setBlock b { k with part := (s.core k.core).part, saved := true }
  { s with waves := fmapAll (fun _ w => if w.block == b then { w with saved := true } else w) s.waves }

/-- A block of a replay goes where its log has it next. -/
def State.moveLogged (s : State) (b : Nat) : State :=
  let d := s.destOf b
  let dest := d.1
  let s := s.moveBlock b d.2 []
  dest.foldl (fun s e => match e.2 with
    | some (_, unit) =>
      (s.modWave e.1 fun w => { w with slot := if w.isSprout then 32 else unit % 32, recd := { w.recd with unit := unit } }).skipBare e.1
    | none => s) s

/-- RPEND: a block of the replay of context `n` that its log has next on another core leaves its own, and goes there once it fits; where the interval is over
the next one begins, or, after the newest, every wave halts and the replay has ended. -/
def execRpend (s : State) : Host.Outcome State Fault Refusal :=
  .next (
    let c := s.arg.n % 64
    match fget s.replays c with
    | none => s
    | some p =>
      if !s.intervalOver c p then (match s.movedBlock c with
        | some b => if (s.block b).saved then s.moveLogged b else s.leaveLogged b
        | none => s)
      else if p.interval < p.last then s.nextInterval c p
      else
        let s := { s with waves := fmapAll (fun _ w => if w.ctx == c && !w.retired then { w with halted := true } else w) s.waves }
        (s.setRpState c 3).post 0 "RPEND" (BitVec.ofNat 64 c))

/-! ## Breakpoints (R491) -/

/-- The breakpoint that a unit stands before. -/
def State.breakHere (s : State) (u : Nat) : Option Nat :=
  let w := s.wave u
  let c := s.ctx w.ctx
  let passed := ((fget s.replays w.ctx).map Replay.passed).getD []
  (upto 0 4).find? fun n =>
    let x := (fgetD c.bp (2 * n + 1) 0).toNat
    x.testBit 63 && bits x 26 15 == w.recd.len && bits x 14 6 == w.recd.unit && bits x 5 0 == clusterOf w.core
      && (fgetD c.bp (2 * n) 0).toNat == w.recd.chunk && !passed.contains (4 * u + n)

/-- A unit of a replay has to halt before its next bundle. -/
def State.breakDue (s : State) (u : Nat) : Bool := s.follows u && s.waveRuns u && (s.breakHere u).isSome && (s.loggedBundle u).isSome

/-- REPLAY_BREAKPOINT: wave `n` halts before the bundle that a breakpoint names. -/
def execReplayBreakpoint (s : State) : Host.Outcome State Fault Refusal :=
  .next (
    let u := s.arg.n
    let c := (s.wave u).ctx
    match s.breakHere u, s.loggedBundle u with
    | some n, some b =>
      let s := { s with replays := fmod s.replays c fun p => { p with passed := p.passed ++ [4 * u + n] } }
      (s.modWave u fun w => { w with halted := true }).postStep u (bitsOf (b.map TRef.i)) 2
    | _, _ => s)

end Sys2Proof.Machine
end

