-- ==== Sys2Proof/Machine/Services.lean ====
section
/-! DEFINITION. The security controller: IDRD, SECCALL, SECWAIT and ATTEST, its commands, lifecycle, keys, measurement
and attestation (R507 to R524). -/

namespace Sys2Proof.Machine

/-! ## Identity (R507, R522) -/

/-- The items that IDRD reads: what the fuses fix for this device is free (log entry 12). -/
def State.idItem (s : State) (n : Nat) : Nat :=
  if n == 4 then s.lcs % 8
  else if n == 5 then 0x7400 + bits (Config.fuse 5).toNat 31 16 * 65536
  else if n == 6 then s.spareMap % 2 ^ 36
  else (Config.fuse n).toNat

/-- IDRD: acts once for each wave, waits for nothing and leaves no record. -/
def execIdrd (h : Hdr) (f : FmtS) : State → Host.Outcome State Fault Refusal :=
  runWord (.idrd h f) fun s l => perWave l s fun s u _ =>
    .ok (s.setSs u (sf f 47 42) (toWords (s.idItem (sf f 7 0)) 2))

/-! ## Requests (R513, R515, R523) -/

/-- Bytes of pinned memory as the controller reads them. -/
def State.pinBytes (s : State) (pins : FMap Nat) (va n : Nat) : List Byte :=
  (upto va n).map fun a => BitVec.ofNat 8 (s.engRead (pinned pins a) 1).1

/-- Bytes that the controller writes to pinned memory. -/
def State.pinPut (s : State) (pins : FMap Nat) (va : Nat) (bytes : List Byte) : State :=
  (cutSectors va bytes).foldl (fun s e => s.engWrite (pinned pins e.1) e.2 false) s

/-- A length of a request block breaks R513: with such a block no payload and no response is pinned (R523). -/
def secLong (b : Nat) : Bool := decide (bits b 127 64 > 1048576) || decide (bits b 319 256 > 65536)

/-- A request block breaks a rule of R513 of its own. -/
def secBad (b : Nat) : Bool :=
  let plen := bits b 127 64
  let paddr := bits b 191 128
  let raddr := bits b 255 192
  let rlen := bits b 319 256
  bits b 63 32 != 0 || decide (plen > 1048576) || paddr % 64 != 0 || raddr % 64 != 0 || (plen == 0 && paddr != 0)
    || (rlen == 0 && raddr != 0) || decide (rlen > 65536) || bits b 511 320 != 0 || bits b 31 0 == 0 || decide (bits b 31 0 > 7)

/-- A command that the controller does not know. -/
def secUnknown (cmd : Nat) : Bool := cmd == 0 || decide (cmd > 7)

/-- A request has completed with a status; the last 64 are remembered. -/
def State.secComplete (s : State) (r : SecReq) (status : Nat) : State :=
  let done := s.secDone ++ [{ ticket := r.ticket, attest := r.attest, status := status }]
  { s with secReqs := s.secReqs.filter (fun x => x.ticket != r.ticket), secDone := done.drop (done.length - 64) }

/-- Requests at the head whose command is unknown complete BADREQ. -/
def State.secPop (s : State) : Nat → State
  | 0 => s
  | n + 1 => match s.secReqs with
    | [] => s
    | r :: _ => if !r.attest && secUnknown r.cmd then (s.secComplete r 1).secPop n else s

/-- A request is accepted: its wave gets the ticket. -/
def State.secAccept (s : State) (u st : Nat) (r : SecReq) : State :=
  let t := s.secTicket
  let s := { s with secTicket := (t + 1) % 2 ^ 32, secReqs := s.secReqs ++ [{ r with ticket := t, ctx := (s.wave u).ctx, num := s.next }], next := s.next + 1 }
  (s.secPop 16).setS u st (BitVec.ofNat 32 t)

/-- SECCALL in one wave. Its block is read after every earlier access of its threads. -/
def secWave (f : FmtS) (s : State) (x : EngIn) : EngRes :=
  let w := s.wave x.u
  let a := (regOf64 x.regs (sf f 47 42)).toNat
  let g : Rng := ⟨0, a, 0, 1, 64, false⟩
  if a % 64 ≠ 0 then .bad ⟨1, .align, 0, some a⟩
  else if s.recMode w.ctx != 0 then .bad ⟨2, .bounds, 15, none⟩
  else match firstEng (g.noncanon 3) with
    | some h => .bad h
    | none =>
      match s.pinAll w.core w.ctx 3 w.high [g] with
      | .bad h => .bad h
      | .soft code va wr => .soft code va wr
      | .wait l => .wait l
      | .ok pins s =>
        if !s.lanesDone x then .wait []
        else
          let b := (s.engRead (pinned (pins.getD 0 []) a) 64).1
          let bad := secBad b
          let p : Rng := ⟨0, bits b 191 128, 0, 1, if secLong b then 0 else bits b 127 64, false⟩
          let q : Rng := ⟨0, bits b 255 192, 0, 1, if secLong b then 0 else bits b 319 256, true⟩
          match firstEng (p.noncanon 3 ++ q.noncanon 4) with
          | some h => .bad h
          | none =>
            match s.pinAll w.core w.ctx 4 w.high [p, q] with
            | .bad h => .bad h
            | .soft code va wr => .soft code va wr
            | .wait l => .wait l
            | .ok pins s =>
              if s.secReqs.length ≥ 16 then .wait []
              else
                .ok (s.secAccept x.u (sf f 41 36)
                  { (default : SecReq) with
                    attest := false, cmd := bits b 31 0, bad := bad, paddr := p.base, plen := p.len, ppins := pins.getD 0 [],
                    raddr := q.base, rlen := q.len, rpins := pins.getD 1 [] })

/-- SECCALL: a release at device scope. -/
def execSeccall (h : Hdr) (f : FmtS) : State → Host.Outcome State Fault Refusal :=
  runWord (.seccall h f) fun s l => engWord (.seccall h f) (fun _ t => plainLane t) true (secWave f) s l

/-- Bytes of an attestation report (R521). -/
def reportBytes : Nat := 17184

/-- ATTEST in one wave: its buffer is written, and the nonce in it is read (R521). -/
def attestWave (f : FmtS) (s : State) (x : EngIn) : EngRes :=
  let w := s.wave x.u
  let a := (regOf64 x.regs (sf f 47 42)).toNat
  let g : Rng := ⟨0, a, 0, 1, reportBytes, true⟩
  let nonce : Rng := ⟨0, a + 0x40, 0, 1, 64, false⟩
  if a % 256 ≠ 0 then .bad ⟨1, .align, 0, some a⟩
  else if s.recMode w.ctx != 0 then .bad ⟨2, .bounds, 15, none⟩
  else match firstEng (g.noncanon 3) with
    | some h => .bad h
    | none =>
      match s.pinAll w.core w.ctx 3 w.high [g, nonce] with
      | .bad h => .bad h
      | .soft code va wr => .soft code va wr
      | .wait l => .wait l
      | .ok pins s =>
        if !s.lanesDone x || decide (s.secReqs.length ≥ 16) then .wait []
        else .ok (s.secAccept x.u (sf f 41 36)
          { (default : SecReq) with attest := true, raddr := a, rlen := reportBytes, rpins := pins.getD 0 [] })

/-- ATTEST. -/
def execAttest (h : Hdr) (f : FmtS) : State → Host.Outcome State Fault Refusal :=
  runWord (.attest h f) fun s l => engWord (.attest h f) (fun _ t => plainLane t) true (attestWave f) s l

/-- The status of a ticket as a wave at a level sees it: none while the request is under way, 6 where the controller does not know
it or a wave of level U names a SECCALL's. -/
def State.secStatus (s : State) (high : Bool) (t : Nat) : Option Nat :=
  let may := fun (attest : Bool) => attest || high
  match s.secReqs.find? (fun r => r.ticket == t) with
  | some r => if may r.attest then none else some 6
  | none => match s.secDone.find? (fun r => r.ticket == t) with
    | some r => some (if may r.attest then r.status else 6)
    | none => some 6

/-- SECWAIT: an acquire at device scope. -/
def execSecwait (h : Hdr) (f : FmtS) : State → Host.Outcome State Fault Refusal :=
  runWord (.secwait h f) fun s l => perWave l s fun s u mine =>
    let w := s.wave u
    match s.secStatus w.high (s.sreg u (sf f 47 42)).toNat with
    | none => .error none
    | some st =>
      let s := s.setS u (sf f 41 36) (BitVec.ofNat 32 st)
      let s := mine.foldl (fun s t => s.setP t (sf f 2 0) (st == 0)) s
      .ok ((s.acquire w.core 4).markSync u none)

/-! ## The request being served -/

/-- The request that the controller serves next. -/
def State.secHead (s : State) : Option SecReq := s.secReqs.head?

/-- The event that serves the request at the head. -/
def secOp (r : SecReq) : Instr :=
  if r.attest then .attestReport
  else match r.cmd with
    | 1 => .dbgunlock
    | 2 => .lcset
    | 3 => .nonce
    | 4 => .keygen
    | 5 => .keymap
    | 6 => .mrext
    | _ => .cert

/-- The request at the head is served, if it is of the command, as far as its lengths are right; it then completes with the
status. -/
def State.secServe (s : State) (cmd : Nat) (ok : SecReq → Bool) (f : State → SecReq → State × Nat) : State :=
  match s.secHead with
  | none => s
  | some r =>
    if r.attest || r.cmd != cmd then s
    else if r.bad || !ok r then (s.secComplete r 1).secPop 16
    else
      let x := f s r
      (x.1.secComplete r x.2).secPop 16

/-- The payload of a request. -/
def State.reqPayload (s : State) (r : SecReq) : List Byte := s.pinBytes r.ppins r.paddr r.plen

/-- The next value of the controller's random generator. -/
def State.drawRandom (s : State) : BitVec 256 × State := (Config.random s.randCount, { s with randCount := s.randCount + 1 })

/-- NONCE: a fresh nonce replaces the current one and is returned (R514). -/
def execNonce (s : State) : Host.Outcome State Fault Refusal :=
  .next (s.secServe 3 (fun r => r.plen == 0 && r.rlen == 32) fun s r =>
    let d := s.drawRandom
    (({ d.2 with nonce := some d.1 } : State).pinPut r.rpins r.raddr (leBytes d.1.toNat 32), 0))

/-- CERT: the device's certificate chain is returned (R514). -/
def execCert (s : State) : Host.Outcome State Fault Refusal :=
  .next (s.secServe 7 (fun r => r.plen == 0 && decide (Config.certChain.length ≤ r.rlen)) fun s r =>
    (s.pinPut r.rpins r.raddr Config.certChain, 0))

/-! ## Measurement (R519, R520) -/

/-- A measurement register, 48 bytes. -/
def State.mrOf (s : State) (n : Nat) : List Byte := fgetD s.mr n mrZero

/-- A measurement register is extended. -/
def State.extendMr (s : State) (n : Nat) (data : List Byte) : State := { s with mr := fput s.mr n (mrExtend (s.mrOf n) data) }

/-- MREXT: register 5 or 6 is extended with up to 64 bytes. -/
def execMrext (s : State) : Host.Outcome State Fault Refusal :=
  .next (s.secServe 6 (fun r => decide (9 ≤ r.plen) && decide (r.plen ≤ 72) && r.rlen == 0) fun s r =>
    let p := s.reqPayload r
    let n := leNat (p.take 8)
    if n == 5 || n == 6 then (s.extendMr n (p.drop 8), 0) else (s, 1))

/-- An event record of MR7: its type, the states and the consumed nonce (R520). -/
def eventRecord (type old new : Nat) (nonce : BitVec 256) : List Byte :=
  leBytes (type + old * 2 ^ 32 + new * 2 ^ 40) 16 ++ leBytes nonce.toNat 32 ++ leBytes 0 16

/-! ## Keys (R517, R518) -/

/-- A state in which tenant keys exist: DEPLOYED or DEBUG (R510). R517 has NOKEY in PROVISIONED and RMA; BLANK and RETIRED, where R510
has no tenant key either, answer the same (log entry 93). -/
def State.keysAllowed (s : State) : Bool := s.lcs == 2 || s.lcs == 3

/-- A key slot is drawn afresh. -/
def Crypt.redraw (c : Crypt) (slot : Nat) : Crypt := { c with keys := fput c.keys slot c.next, next := c.next + 1 }

/-- Every slot is drawn afresh, and KEYGEN has drawn none. -/
def Crypt.redrawAll (c : Crypt) : Crypt := { (upto 0 64).foldl Crypt.redraw c with drawn := [] }

/-- The sectors of device memory that stand in a cache or the protocol, with a property. -/
def State.cachedSectors (s : State) (p : Nat → Bool) : List Nat := s.knownSectors.filter fun x => inHbm x && p x

/-- A sector's copies are dropped without write-back. -/
def State.dropSector (s : State) (x : Nat) : State := s.recallAll x

/-- A sector's dirty copy is written to the home with its mark, and every copy is dropped; a clean one is not written (R518). -/
def State.flushSector (s : State) (x : Nat) : State :=
  match s.newer x with
  | some d => ((s.recallAll x).setHomeSector x d).setPoison x (s.poisoned x)
  | none => s.recallAll x

/-- The lines of L3 that frames hold are dropped. -/
def State.dropLines (s : State) (p : Nat → Bool) : State :=
  { s with l3 := s.l3.filter fun l => !p (l / 8192), pers := s.pers.filter fun l => !p (l / 8192) }

/-- KEYGEN: a slot is drawn afresh, and the copies of the sectors under it are dropped (R517). -/
def execKeygen (s : State) : Host.Outcome State Fault Refusal :=
  .next (s.secServe 4 (fun r => r.plen == 8 && r.rlen == 0) fun s r =>
    let k := leNat (s.reqPayload r)
    if k == 0 || k ≥ 64 then (s, 1)
    else if !s.keysAllowed then (s, 5)
    else
      let mine := fun (frame : Nat) => fgetD s.crypt.frames frame 0 == k
      let s := ((s.cachedSectors fun x => mine (x / 32768)).foldl State.dropSector s).dropLines mine
      let c := s.crypt.redraw k
      ({ s with crypt := { c with drawn := if c.drawn.contains k then c.drawn else c.drawn ++ [k] } }, 0))

/-- KEYMAP: the dirty copies of the frames are written back under their old key, every copy is dropped, and the frames get
the new key id (R518). -/
def execKeymap (s : State) : Host.Outcome State Fault Refusal :=
  .next (s.secServe 5 (fun r => r.plen == 16 && r.rlen == 0) fun s r =>
    let p := leNat (s.reqPayload r)
    let first := bits p 17 0
    let n := bits p 35 18 + 1
    let k := bits p 41 36
    if bits p 127 42 != 0 || first + n > 262144 then (s, 1)
    else if k != 0 && !s.crypt.drawn.contains k then (s, 5)
    else
      let mine := fun (frame : Nat) => decide (first ≤ frame) && decide (frame < first + n)
      let s := ((s.cachedSectors fun x => mine (x / 32768)).foldl State.flushSector s).dropLines mine
      ({ s with crypt := { s.crypt with frames := (upto first n).foldl (fun m j => fsetD m j k 0) s.crypt.frames } }, 0))

/-! ## Lifecycle (R509 to R512, R516) -/

/-- The transitions that a command may make: LCSET, or DBGUNLOCK. -/
def mayChange (cmd old new : Nat) : Bool :=
  if cmd == 1 then old == 2 && new == 3
  else (old == 0 && new == 1) || (old == 1 && new == 2) || (old == 3 && new == 2) || (old == 2 && new == 4) || (old == 3 && new == 4)
    || (old == 4 && new == 5)

/-- The debug port is open in a lifecycle state. -/
def portOpen (l : Nat) : Bool := l == 3 || l == 4

/-- Bytes from one place to before another. -/
def slice (l : List Byte) (a b : Nat) : List Byte := (l.drop a).take (b - a)

/-! ### Signatures (R509) -/

/-- The SHA-384 of Kilern's public key as the fuses hold it, 0 the RSA key and 1 the SLH-DSA key (R507). -/
def keyHash (k : Nat) : List Byte := (upto (8 + 6 * k) 6).flatMap fun j => leBytes (Config.fuse j).toNat 8

/-- A signed object: a body, the RSA signature of it and the SLH-DSA signature of it, at its end (R516). It is accepted where each
public key that it carries has the hash of the fuses, and both signatures verify over the body (R509). `carried` gives the keys that it
carries; a signature is checked under Kilern's key where it carries none. -/
def signedOk (l : List Byte) (carried : Nat → Option (List Byte)) : Bool :=
  let n := l.length - 16608
  let body := l.take n
  let key := fun k => (carried k).getD (Config.kilernKey k)
  decide (16608 ≤ l.length)
    && (upto 0 2).all (fun k => match carried k with
      | some p => sha384 p == keyHash k
      | none => true)
    && Config.rsaVerifies (key 0) body (slice l n (n + 384)) && Config.slhVerifies (key 1) body (slice l (n + 384) (n + 16608))

/-- A token's signatures: it carries no key (R516). -/
def tokenSigned (l : List Byte) : Bool := signedOk l fun _ => none

/-- A firmware image's signatures. -/
def imageSigned (n : Nat) : Bool := signedOk (Config.firmware n) (Config.imageKey n)

/-- Every byte is zero. -/
def allZero (l : List Byte) : Bool := l.all (· == 0)

/-- The layout of a token (R516), first check. -/
def tokenLaid (l : List Byte) : Bool :=
  l.length == 16736 && leNat (slice l 0 4) == 0x4B425444 && allZero (slice l 4 8) && allZero (slice l 0x48 0x50) && allZero (slice l 0x52 0x80)

/-- The checks of a token, in order: the status of the first that fails, or 0. -/
def State.tokenStatus (s : State) (cmd : Nat) (l : List Byte) : Nat :=
  let old := leNat (slice l 0x50 0x51)
  let new := leNat (slice l 0x51 0x52)
  if !tokenLaid l then 1
  else if !tokenSigned l then 2
  else if slice l 8 0x28 != (upto 0 4).flatMap fun j => leBytes (s.idItem j) 8 then 2
  else if old != s.lcs || !mayChange cmd old new then 3
  else if some (leNat (slice l 0x28 0x48)) != s.nonce.map BitVec.toNat then 4
  else 0

/-- Every sector of device memory is zero under its frame's key, and no cache holds a copy; the host's memory stays (R512). -/
def State.wipeMemory (s : State) : State :=
  let s := s.knownSectors.foldl State.dropSector s
  let s := { s with cores := fmapAll (fun _ k => { k with l1 := [] }) s.cores }
  { s with
    mem := s.mem.filter (fun e => !inHbm (e.1 / 64)), poison := s.poison.filter (fun x => !inHbm x), l3 := [], pers := [],
    crypt := { s.crypt with
      sectors := [], base := s.crypt.key 0, sealed := s.crypt.frames.map fun e => (e.1, s.crypt.key e.2) } }

/-- The completion entries of a queue that wait are written, as far as its ring has room. -/
def State.writeCompletions (s : State) (q : Nat) : State :=
  (upto 0 (s.queue q).pend.length).foldl (fun s _ => s.writeCompletion q) s

/-- An accepted change of the lifecycle state, in the order of R512. The entries of the launches that it kills are written before the
memory is wiped. -/
def State.changeState (s : State) (cmd new : Nat) (nonce : BitVec 256) : State :=
  let old := s.lcs
  let s := (upto 0 64).foldl State.killContext s
  let s := (upto 0 64).foldl State.writeCompletions s
  let s := { s with queues := fmapAll (fun _ (q : Queue) => { q with ctl := q.ctl &&& ~~~(0x1000 : Dword) }) s.queues, secReqs := s.secReqs.take 1 }
  let s := { s with crypt := s.crypt.redrawAll }
  let s := s.wipeMemory
  let s := { s with lcs := new }
  let s := s.extendMr 7 (eventRecord 1 old new nonce)
  let s := { s with secst := BitVec.ofNat 64 (cmd * 256 + (if portOpen new then 2 ^ 24 else 0)) }
  s.post 0 "LCCHANGE" (BitVec.ofNat 64 new)

/-- A token's command is served: the nonce is consumed, and SECST is written. -/
def State.serveToken (s : State) (cmd : Nat) : State :=
  match s.secHead with
  | none => s
  | some r =>
    if r.attest || r.cmd != cmd then s
    else
      let st := if r.bad || r.plen != 16736 || r.rlen != 0 then 1 else s.tokenStatus cmd (s.reqPayload r)
      let n := s.nonce.getD 0
      let l := s.reqPayload r
      let s := { s with nonce := none }
      let s := if st == 0 then s.changeState cmd (leNat (slice l 0x51 0x52)) n
               else { s with secst := BitVec.ofNat 64 (setBits s.secst.toNat 23 0 (st + cmd * 256)) }
      (s.secComplete r st).secPop 16

/-- DBGUNLOCK: a debug token is served (R516). -/
def execDbgunlock (s : State) : Host.Outcome State Fault Refusal := .next (s.serveToken 1)

/-- LCSET: a lifecycle token is served (R511). -/
def execLcset (s : State) : Host.Outcome State Fault Refusal := .next (s.serveToken 2)

/-! ## Attestation (R521) -/

/-- The body of a report: of context `c`, with the caller's nonce. -/
def State.reportBody (s : State) (c : Nat) (nonce : List Byte) : List Byte :=
  leBytes 0x54535441 4
    ++ leBytes 1 4 ++ leBytes s.ptb 8 ++ ((upto 0 4).flatMap fun j => leBytes (s.idItem j) 8) ++ leBytes (s.idItem 5) 4
    ++ leBytes s.lcs 1 ++ leBytes (bits s.secst.toNat 24 24) 1 ++ leBytes c 1 ++ leBytes 0 9 ++ nonce
    ++ ((upto 0 8).flatMap s.mrOf) ++ leBytes (s.idItem 6) 8 ++ leBytes 0 56

/-- Signatures of the length that a report has, 16,608 bytes. -/
def signatures (body : List Byte) : List Byte := (Config.signatureOf body ++ List.replicate 16608 0).take 16608

/-- ATTEST_REPORT: the report at the head is filled and signed. -/
def execAttestReport (s : State) : Host.Outcome State Fault Refusal :=
  .next (match s.secHead with
    | none => s
    | some r =>
      if !r.attest then s
      else
        let body := s.reportBody r.ctx (s.pinBytes r.rpins (r.raddr + 0x40) 64)
        let all := body ++ signatures body
        let s := s.pinPut r.rpins r.raddr (all.take 0x40)
        let s := s.pinPut r.rpins (r.raddr + 0x80) (all.drop 0x80)
        (s.secComplete r 0).secPop 16)

end Sys2Proof.Machine
end

