-- ==== Sys2Proof/Machine/Package.lean ====
section
/-! DEFINITION. The package: reset, spares and errors, clocks, power and heat, and the host's writes of registers (R8,
R17, R35, R413 to R415, R508, R525 to R528). -/

namespace Sys2Proof.Machine

/-! ## Worn units and spares (R498, R526) -/

/-- 24 hours, in ticks. -/
def dayTicks : Nat := 86400000000000

/-- A unit is marked worn. -/
def State.markWorn (s : State) (kind unit : Nat) : State :=
  if s.worn.contains (kind, unit) then s
  else ({ s with worn := s.worn ++ [(kind, unit)] } : State).post 0 "SPAREPEND" (BitVec.ofNat 64 (unit * 8 + kind))

/-- `n` more errors or retrains of a unit: it is worn when those of 24 hours reach a limit. -/
def State.noteWear (s : State) (kind unit n limit : Nat) : State :=
  let key := unit * 8 + kind
  let l := ((fgetD s.wear key []).filter fun e => decide (s.ptb < e.1 + dayTicks)) ++ [(s.ptb, n)]
  let s := { s with wear := fput s.wear key l }
  if l.foldl (fun k e => k + e.2) 0 ≥ limit then s.markWorn kind unit else s

/-- `m` corrected SRAM errors on the die of bin `bin`, at place `v` there: of a C-die the logical cluster, of an M-die the L3 way, 16
and above elsewhere on it, where nothing is spare (R526, log entry 92). -/
def State.sramErrors (s : State) (bin v m : Nat) : State :=
  if m == 0 then s
  else
    let other := fun (s : State) => s.noteWear 5 (bin * 65536 + v) m 4097
    let s := s.histAdd 4 bin m
    if bin < 4 then (if v < 10 then s.noteWear 0 (bin * 16 + v) m 4097 else other s)
    else if bin < 12 then (if v < 16 then s.noteWear 3 ((bin - 4) * 16 + v) m 4097 else other s)
    else other s

/-- `m` corrected errors in a row of an HBM4 stack wear the row and its channel (R526). -/
def State.hbmErrors (s : State) (stack row m : Nat) : State :=
  if m == 0 || 8 ≤ stack then s
  else ((s.histAdd 5 stack m).noteWear 4 (stack * 2 ^ 48 + row) m 4097).noteWear 1 (stack * 65536 + Config.rowChannel stack row % 65536) m 4097

/-- One second of residence in each of the histograms 0 to 3, at what the sensors give then (R498, log entry 91). -/
def State.residence (s : State) : State :=
  let t := fun (k : Nat) => min 63 (Config.junction s.steps k / 2)
  let s1 := ((s.histAdd 0 (t 0) 1).histAdd 1 (t 1) 1).histAdd 2 ((s.freqNow - 600) / 100) 1
  { s1.histAdd 3 (min 63 (Config.power s.steps s.freqNow / 50000)) 1 with histTick := s.histTick + 1000000000 }

/-- A register of a wave gets an uncorrectable error, where nothing is about to be written to it. -/
def State.hurtReg (s : State) (t : TRef) (kind reg : Nat) : State :=
  let e : RegErr := { kind := kind, i := if kind == 2 then 0 else t.i, reg := reg }
  let pending := match kind with
    | 0 => s.pendV t true
    | 1 => s.pendP t
    | _ => s.pendS t.u
  if (fget s.waves t.u).isNone || pending.contains reg || (s.wave t.u).errs.contains e then s
  else s.modWave t.u fun w => { w with errs := w.errs ++ [e] }

/-- An uncorrectable error that is met at a place (R527): histogram 6 counts it, and what it hits is marked. `m` names the place: 0 a v
register, 1 a predicate, 2 a uniform register of the thread `t`; 3 the L1 of core `k`, which drops the line of sector `v`; 4 sector
`v` in the L2 of C-die `k`, 5 in L3 or HBM4; 6 the 16-byte unit `v` of block `k`'s scratchpad; 7 element `v` of its tiles; else
nothing that the manual says more of, on the die of bin `k`. -/
def State.hurt (s : State) (m k v : Nat) (t : TRef) : State :=
  let ofCore := fun (s : State) (core : Nat) => s.histAdd 6 (dieOf core) 1
  match m with
  | 0 | 1 | 2 => ofCore (s.hurtReg t m v) (s.wave t.u).core
  | 3 =>
    let c := s.core k
    ofCore (s.setCore k { c with l1 := c.l1.filter (fun e => e.1 / 4 != v / 4), l1Lines := c.l1Lines.filter (· != v / 4) }) k
  | 4 =>
    (match s.l2copy (k % 4) v with
     | some c => s.setL2 (k % 4) v { c with poison := true }
     | none => s).histAdd 6 (k % 4) 1
  | 5 => if s.lostHome (64 * v) then s else (s.setPoison v true).histAdd 6 (4 + s.homeOf (64 * v) / 8) 1
  | 6 =>
    let b := s.block k
    ofCore (if 16 * v < b.scratch && !b.scrPoison.contains v then s.setBlock k { b with scrPoison := b.scrPoison ++ [v] } else s) b.core
  | 7 =>
    let b := s.block k
    ofCore (if v < 4096 * b.acc && !b.tileBad.contains v then s.setBlock k { b with tileBad := b.tileBad ++ [v] } else s) b.core
  | _ => s.histAdd 6 k 1

/-- LIFETIME_HISTOGRAM_UPDATE of histogram `n`. Those of residence take the next second, once it has passed. Of the corrected errors
of 4 and 5, `m` are reported in bin `k` at place `v`; an uncorrectable error of 6 is met at a place; the others take `m` more in bin
`k`. -/
def execLifetimeHistogramUpdate (s : State) : Host.Outcome State Fault Refusal :=
  .next (
    let a := s.arg
    match a.n with
    | 0 | 1 | 2 | 3 => if s.histTick + 1000000000 ≤ s.ptb then s.residence else s
    | 4 => s.sramErrors a.k a.v.toNat a.m
    | 5 => s.hbmErrors a.k a.v.toNat a.m
    | 6 => s.hurt a.m a.k a.v.toNat a.t
    | n => s.histAdd n a.k a.m)

/-- LANE_RETRAIN: lane `k` of link `n` retrains (R526). -/
def execLaneRetrain (s : State) : Host.Outcome State Fault Refusal :=
  .next ((s.histAdd 7 s.arg.n 1).noteWear 2 (s.arg.n % 256 * 256 + s.arg.k % 256) 1 16)

/-- A pending spare is brought in, if one is left: the spare map, or a spare row, and histogram 8; the unit's errors count anew. -/
def State.activateSpare (s : State) (kind unit : Nat) : State :=
  let done := fun (s : State) (m : Nat) =>
    { s.histAdd 8 (if kind == 4 then 1 else kind) 1 with
      spareMap := m, worn := s.worn.filter (fun e => e != (kind, unit)), wear := fdel s.wear (unit * 8 + kind) }
  let bump := fun (hi lo : Nat) =>
    if bits s.spareMap hi lo < 255 then done s (setBits s.spareMap hi lo (bits s.spareMap hi lo + 1)) else s
  let one := fun (k : Nat) => if s.spareMap.testBit k then s else done s (s.spareMap ||| 2 ^ k)
  match kind with
  | 0 => one (unit / 16 % 4)
  | 1 => one (4 + unit / 65536 % 8)
  | 2 => if unit / 256 < 44 then bump 19 12 else bump 27 20
  | 3 => bump 35 28
  | 4 =>
    let stack := unit / 2 ^ 48
    let n := fgetD s.rowSpares stack 0
    if n < Config.spareRows stack then done { s with rowSpares := fput s.rowSpares stack (n + 1) } s.spareMap else s
  | _ => s

/-- PATROL_SCRUB: sector `n` is read, with `k` corrected symbols, and is found uncorrectable where `m` is not 0 (R527). -/
def execPatrolScrub (s : State) : Host.Outcome State Fault Refusal :=
  .next (
    let x := s.arg.n
    let bad := s.arg.m != 0
    if !inHbm x || s.lostHome (64 * x) then s
    else
      let stack := s.homeOf (64 * x) / 8
      let s := (s.sendHomeOp x (64 * x) .scrub).hbmErrors stack (Config.sectorRow x) s.arg.k
      if bad then ((s.setPoison x true).histAdd 6 (4 + stack) 1).post 0 "MEMERR" (BitVec.ofNat 64 (64 * x)) else s)

/-! ## Reset (R525) -/

/-- A region of device memory is zero under its frames' keys. -/
def State.zeroFrames (s : State) (first n : Nat) : State :=
  let inside := fun (x : Nat) => decide (first ≤ x / 32768) && decide (x / 32768 < first + n)
  { s with
    mem := s.mem.filter (fun e => !inside (e.1 / 64)), poison := s.poison.filter (fun x => !inside x),
    crypt := { s.crypt with
      sectors := s.crypt.sectors.filter (fun e => !inside e.1),
      sealed := (upto first n).foldl (fun m j => fput m j (s.crypt.key (fgetD s.crypt.frames j 0))) s.crypt.sealed } }

/-- What a reset leaves: the lifetime store, the memory's cells under new keys, and what is outside the machine. R508 gives SECST the
reset value 0, and R510 has the debug port open in DEBUG and RMA: DBGOPEN follows the port there (log entry 95). -/
def State.cleared (s : State) : State :=
  { State.reset with
    steps := s.steps, next := s.next, agenda := s.agenda, posts := s.posts, hist := s.hist, lcs := s.lcs, spareMap := s.spareMap,
    rowSpares := s.rowSpares, worn := s.worn, trips := s.trips, randCount := s.randCount, mem := s.mem, poison := s.poison,
    crypt := { s.crypt.redrawAll with frames := [] }, mr := [],
    secst := if portOpen s.lcs then BitVec.ofNat 64 (2 ^ 24) else 0 }

/-- The boot stops: the host port presents this block alone, with SECST.BOOTFAIL. -/
def State.bootStop (s : State) : State := { s with secst := s.secst ||| BitVec.ofNat 64 (2 ^ 25) }

/-- The registers that a reset measures, once its firmware has been verified. -/
def State.measured (s : State) : State :=
  let s := ((s.extendMr 1 (Config.firmware 1)).extendMr 2 (Config.firmware 2)).extendMr 4 (leBytes s.lcs 8)
  if portOpen s.lcs then s.extendMr 7 (eventRecord 2 s.lcs s.lcs 0) else s

/-- RESET: the sequence of R525. -/
def execResetPackage (s : State) : Host.Outcome State Fault Refusal :=
  .next (
    let wipes := ((upto 0 Config.nContexts).foldl State.noteSilos s).wipes
    let s := s.cleared
    if !imageSigned 0 then s.bootStop
    else
      let s := s.worn.foldl (fun s e => s.activateSpare e.1 e.2) s
      let s := (s.extendMr 0 (Config.firmware 0)).extendMr 3 (leBytes s.spareMap 8)
      let s := wipes.foldl (fun s e => s.zeroFrames e.1 e.2) s
      if !(imageSigned 1 && imageSigned 2) then s.bootStop
      else s.measured)

/-- The package does not run: it has tripped, or its boot has stopped. -/
def State.down (s : State) : Bool := s.tripped || s.secst.getLsbD 25

/-! ## Clocks, power and cooling (R17, R35, R528) -/

/-- A core frequency satisfies the three limits of R528. -/
def State.withinLimits (s : State) (f : Nat) : Bool :=
  decide (f ≤ s.freqCap) && decide (Config.power s.steps f ≤ s.pcap.toNat) && decide (Config.hottest s.steps f < s.throttle)

/-- The frequency that the F-die wants: the highest step within the limits, else the lowest step. -/
def State.freqWanted (s : State) : Nat := (((upto 0 25).map fun k => 3000 - 100 * k).find? s.withinLimits).getD 600

/-- The step of 100 MHz towards it (R35). -/
def State.freqStep (s : State) : Option Nat :=
  let f := s.freqWanted
  if f < s.freqNow then some (s.freqNow - 100) else if s.freqNow < f then some (s.freqNow + 100) else none

/-- Nothing is on its way on the die-to-die links (R17). -/
def State.linksQuiet (s : State) : Bool := s.toHome.isEmpty && s.toAgent.isEmpty && s.lockReplies.isEmpty

/-- FREQUENCY_CHANGE: a step of the handshake of R17. Issue stops where the F-die wants another frequency; once the links have
drained the frequency changes and issue resumes. With the limits exceeded at 0.6 GHz THERMCAP is posted. -/
def execFrequencyChange (s : State) : Host.Outcome State Fault Refusal :=
  .next (match s.freqNext with
    | some f => if s.linksQuiet then { s with freqNow := f, freqNext := none } else s
    | none => match s.freqStep with
      | some f => { s with freqNext := some f, thermCap := false }
      | none =>
        let hot := s.freqNow == 600 && !s.withinLimits 600
        let s := if hot && !s.thermCap then s.post 0 "THERMCAP" 0 else s
        { s with thermCap := hot })

/-- THERMAL_TRIP: once a die has stood at the trip temperature for 1 ms at 0.6 GHz, every die stops, the trip is written to the
lifetime store, and the host port goes down. -/
def execThermalTrip (s : State) : Host.Outcome State Fault Refusal :=
  .next (if !s.tripped && s.freqNow == 600 && s.hotSince.any (fun t => decide (t + 1000000 ≤ s.ptb)) then
      { s with tripped := true, trips := s.trips + 1 }
    else s)

/-! ## Registers (R8, R9, R414, R415) -/

/-- The fields of a register that a write sets; the others are reserved or read-only. -/
def keepBits (v : Dword) (mask : Nat) : Dword := v &&& BitVec.ofNat 64 mask

/-- MEMDEF: a field that is given a value it does not have stays (R226). -/
def writeMemdef (old v : Nat) : Dword :=
  let pol := if bits v 7 4 ≤ 5 then bits v 7 4 else bits old 7 4
  let sc := if bits v 2 0 ≤ 6 then bits v 2 0 else bits old 2 0
  BitVec.ofNat 64 (pol * 16 + sc)

/-- RCTL (R458, R459): while MODE is 2 only TMS is written; MODE changes by events of its own. -/
def State.writeRctl (s : State) (c : Nat) (v : Dword) : State :=
  let r := s.ctx c
  let old := r.rctl.toNat
  let tms := if bits v.toNat 31 16 ≤ 10000 then bits v.toNat 31 16 else bits old 31 16
  let mode := old % 4
  let flags := if mode == 2 then bits old 7 6 else bits v.toNat 7 6
  let s := s.setCtx c { r with rctl := BitVec.ofNat 64 (tms * 65536 + flags * 64 + mode) }
  if mode == 0 && v.toNat % 4 == 1 then s.soon .rctlModeRecord { (default : EvArg) with n := c }
  else if mode == 1 && v.toNat % 4 == 0 then s.soon .rctlModeOff { (default : EvArg) with n := c }
  else s

/-- RPCTL (R485): FROM is set in every state, but for a write of GO that is not accepted: it is ignored, and RPFAIL is posted. A write
with both STOP and GO triggers STOP alone; the manual gives the two no order (log entry 74). -/
def State.writeRpctl (s : State) (c : Nat) (v : Dword) : State :=
  let r := s.ctx c
  let from_ := bits v.toNat 31 0
  let set := s.setCtx c { r with rpctl := BitVec.ofNat 64 (setBits r.rpctl.toNat 31 0 from_) }
  if v.getLsbD 33 then set.soon .rpctlStop { (default : EvArg) with n := c }
  else if v.getLsbD 32 then
    if s.mayGo c from_ then set.soon .rpctlGo { (default : EvArg) with n := c, k := 1 } else s.post 0 "RPFAIL" (BitVec.ofNat 64 c)
  else set

/-- CTXCTL (R415): KILL clears KDONE until the kill has finished. -/
def State.writeCtxctl (s : State) (c : Nat) (v : Dword) : State :=
  let r := s.ctx c
  let kill := v.getLsbD 1
  let done := if kill then 0 else r.ctxctl &&& 4
  let s := s.setCtx c { r with ctxctl := (v &&& 1) ||| done }
  if kill then s.soon .ctxctlKill { (default : EvArg) with n := c } else s

/-- PCTL (R440). -/
def State.writePctl (s : State) (c : Nat) (v : Dword) : State :=
  let pst := (s.ctx c).pst
  if v.getLsbD 0 && pst == 0 then s.soon .pctlPre { (default : EvArg) with n := c }
  else if v.getLsbD 1 && pst == 2 then s.soon .pctlRes { (default : EvArg) with n := c }
  else s

/-- A write to a context's register block. The manual states no access sizes: within the event enables, the fault-queue bases, the
breakpoints and the event counters an offset names the whole register that holds it, and elsewhere one inside a register is
ignored (log entry 75). -/
def State.writeCtx (s : State) (c off : Nat) (v : Dword) : State :=
  let r := s.ctx c
  if 0x400 ≤ off && off < 0x800 then s.setEvCounter c ((off - 0x400) / 4) (v.setWidth 32)
  else if 0x0E0 ≤ off && off < 0x120 then
    let j := (off - 0x0E0) / 8
    let s := { s with replays := fmod s.replays c fun p => { p with passed := p.passed.filter fun x => x % 4 != j / 2 } }
    s.setCtx c { r with bp := fsetD r.bp j (if j % 2 == 0 then v else keepBits v 0x8000000007FFFFFF) 0 }
  else if 0x080 ≤ off && off < 0x0A0 then
    s.setCtx c { r with fqb := fsetD r.fqb ((off - 0x080) / 8) (keepBits v 0x000FFFFFFFFFFF01) 0 }
  else if 0x040 ≤ off && off < 0x060 then s.setCtx c { r with evie := fsetD r.evie ((off - 0x040) / 8) v 0 }
  else match off with
    | 0x000 => s.setCtx c { r with hwb := keepBits v 0x00FFFFFFFFFF000F }
    | 0x008 => s.setCtx c { r with hwl := keepBits v 0x00FFFFFFFFFF0000 }
    | 0x010 => s.setCtx c { r with hwo := keepBits v 0x000FFFFFFFFF0000 }
    | 0x018 => s.setCtx c { r with ptroot := keepBits v 0x000FFFFFFFFE0001 }
    | 0x020 => s.setCtx c { r with memdef := writeMemdef r.memdef.toNat v.toNat }
    | 0x028 => s.writeCtxctl c v
    | 0x030 => s.setCtx c { r with msgerr := keepBits v 0xFFFFFFFF }
    | 0x038 => s.setCtx c { r with tctl := keepBits v 1 }
    | 0x060 => s.setCtx c { r with tvb := keepBits v 0x00FFFFFFFFFFFF01 }
    | 0x068 => s.setCtx c { r with psa := keepBits v 0x000FFFFFFFFFFFFF }
    | 0x070 => s.writePctl c v
    | 0x0A0 => s.writeRctl c v
    | 0x0A8 => ((s.noteSilos c).setCtx c { r with silot := keepBits v 0x000FFFFFFFFFF001 }).noteSilos c
    | 0x0B0 =>
      let v := keepBits v 0x000FFFFFFFE0FFFF
      (s.setCtx c { r with cksb := v }).noteWipe (bits v.toNat 51 21) (bits v.toNat 15 0)
    | 0x0C0 => s.writeRpctl c v
    | _ => s

/-- A queue of a context may be enabled in the lifecycle state (R510). -/
def State.mayEnable (s : State) (c : Nat) : Bool :=
  s.lcs == 2 || s.lcs == 3 || ((s.lcs == 1 || s.lcs == 4) && s.levelH c)

/-- A write to a queue's registers (R381). -/
def State.writeQueue (s : State) (q off : Nat) (v : Dword) : State :=
  let k := s.queue q
  match off with
  | 0x00 => s.setQueue q { k with base := keepBits v 0x000FFFFFFFFFFF00 }
  | 0x08 =>
    let v := keepBits v 0x3FCF
    s.setQueue q { k with ctl := if s.mayEnable (bits v.toNat 11 6) then v else v &&& ~~~(0x1000 : Dword) }
  | 0x10 => s.doorbell q v.toNat
  | 0x20 => s.setQueue q { k with cb := keepBits v 0x000FFFFFFFFFF00F }
  | 0x30 => s.setQueue q { k with cc := v.toNat % 2 ^ 32 }
  | _ => s

/-- A write to the identity block (R508). -/
def State.writeIdentity (s : State) (off : Nat) (v : Dword) : State :=
  match off with
  | 0x040 => if 300000 ≤ bits v.toNat 31 0 && bits v.toNat 31 0 ≤ 2400000 then { s with pcap := keepBits v 0xFFFFFFFF } else s
  | 0x048 =>
    let n := bits v.toNat 15 0
    if 600 ≤ n && n ≤ 3000 && n % 100 == 0 then { s with freqCap := n } else s
  | 0x050 =>
    let n := bits v.toNat 15 8
    if 70 ≤ n && n ≤ 105 then { s with throttle := n } else s
  | _ => s

/-- A write to the other registers of the package (R414). -/
def State.writeGlobal (s : State) (off : Nat) (v : Dword) : State :=
  match off with
  | 0x10000 => { s with lkctl := keepBits v 7, scanCand := if v.getLsbD 0 then s.scanCand else [] }
  | 0x10008 => { s with dlrb := keepBits v 0x000FFFFFFFFFFF01 }
  | 0x10018 => { s with dlrc := keepBits v 0xFFFFFFFF }
  | 0x10100 =>
    let n := if 8 ≤ bits v.toNat 4 0 && bits v.toNat 4 0 ≤ 20 then bits v.toNat 4 0 else bits s.telctl.toNat 4 0
    { s with telctl := BitVec.ofNat 64 (bits v.toNat 5 5 * 32 + n) }
  | 0x10200 => { s with rrb := fsetD s.rrb 0 (keepBits v 0x000FFFFFFFFF0001) 0 }
  | 0x10208 => { s with rrb := fsetD s.rrb 1 (keepBits v 0x000FFFFFFFFF0001) 0 }
  | 0x10210 => { s with rrb := fsetD s.rrb 2 (keepBits v 0x000FFFFFFFFF0001) 0 }
  | 0x10218 => { s with rrb := fsetD s.rrb 3 (keepBits v 0x000FFFFFFFFF0001) 0 }
  | 0x10300 => { s with mbtb := keepBits v 0x000FFFFFFFFFF000 }
  | 0x10308 => { s with domid := keepBits v 0x7F }
  | _ => s

/-- The host writes `v` at an offset of BAR0. After a boot that stopped only the identity block is there. -/
def State.writeReg (s : State) (off : Nat) (v : Dword) : State :=
  if off < 0x10000 then s.writeIdentity off v
  else if s.secst.getLsbD 25 then s
  else if 0x20000 ≤ off && off < 0x60000 then s.writeCtx ((off - 0x20000) / 0x1000) (off % 0x1000) v
  else if 0x60000 ≤ off && off < 0x61000 then s.writeQueue ((off - 0x60000) / 0x40) (off % 0x40) v
  else s.writeGlobal off v

/-- REGISTER_WRITE: the host writes `v` at offset `n` of BAR0; an offset that is no register's is ignored (R9). -/
def execRegisterWrite (s : State) : Host.Outcome State Fault Refusal := .next (s.writeReg s.arg.n s.arg.v)

/-! ## Reads of registers -/

/-- A context's register block as the host reads it; offsets inside a register are taken as for a write, and read 0 elsewhere
(log entry 75). -/
def State.readCtx (s : State) (c off : Nat) : Dword :=
  let r := s.ctx c
  if 0x400 ≤ off && off < 0x800 then (fgetD r.evc ((off - 0x400) / 4) 0).setWidth 64
  else if 0x0E0 ≤ off && off < 0x120 then fgetD r.bp ((off - 0x0E0) / 8) 0
  else if 0x080 ≤ off && off < 0x0A0 then fgetD r.fqb ((off - 0x080) / 8) 0
  else if 0x040 ≤ off && off < 0x060 then fgetD r.evie ((off - 0x040) / 8) 0
  else match off with
    | 0x000 => r.hwb
    | 0x008 => r.hwl
    | 0x010 => r.hwo
    | 0x018 => r.ptroot
    | 0x020 => r.memdef
    | 0x028 => r.ctxctl
    | 0x030 => r.msgerr
    | 0x038 => r.tctl
    | 0x060 => r.tvb
    | 0x068 => r.psa
    | 0x070 => BitVec.ofNat 64 (r.pst * 16)
    | 0x0A0 => r.rctl
    | 0x0A8 => r.silot
    | 0x0B0 => r.cksb
    | 0x0B8 => r.ckst
    | 0x0C0 => r.rpctl
    | _ => 0

/-- A queue's registers as the host reads them. -/
def State.readQueue (s : State) (q off : Nat) : Dword :=
  let k := s.queue q
  match off with
  | 0x00 => k.base
  | 0x08 => k.ctl
  | 0x10 => BitVec.ofNat 64 k.tail
  | 0x18 => BitVec.ofNat 64 k.head
  | 0x20 => k.cb
  | 0x28 => BitVec.ofNat 64 k.cp
  | 0x30 => BitVec.ofNat 64 k.cc
  | _ => 0

/-- The identity block as the host reads it; the hottest die's temperature is the sensors' (log entry 13). -/
def State.readIdentity (s : State) (off : Nat) : Dword :=
  if 0x100 ≤ off && off < 0x280 && off % 8 == 0 then BitVec.ofNat 64 (leNat (((s.mrOf ((off - 0x100) / 0x30)).drop ((off - 0x100) % 0x30)).take 8))
  else match off with
    | 0x000 => BitVec.ofNat 64 (s.idItem 0)
    | 0x008 => BitVec.ofNat 64 (s.idItem 1)
    | 0x010 => BitVec.ofNat 64 (s.idItem 2)
    | 0x018 => BitVec.ofNat 64 (s.idItem 3)
    | 0x020 => BitVec.ofNat 64 (s.idItem 4)
    | 0x028 => s.secst
    | 0x040 => s.pcap
    | 0x048 => BitVec.ofNat 64 (s.freqCap + s.freqNow * 65536)
    | 0x050 => BitVec.ofNat 64 (Config.hottest s.steps s.freqNow % 256 + s.throttle * 256 + 115 * 65536)
    | _ => 0

/-- The value of the package's registers at an offset of BAR0; a reserved one reads 0. -/
def State.regAt (s : State) (off : Nat) : Dword :=
  if off < 0x10000 then s.readIdentity off
  else if s.secst.getLsbD 25 then 0
  else if 0x20000 ≤ off && off < 0x60000 then s.readCtx ((off - 0x20000) / 0x1000) (off % 0x1000)
  else if 0x60000 ≤ off && off < 0x61000 then s.readQueue ((off - 0x60000) / 0x40) (off % 0x40)
  else match off with
    | 0x10000 => s.lkctl
    | 0x10008 => s.dlrb
    | 0x10010 => s.dlrp
    | 0x10018 => s.dlrc
    | 0x10100 => s.telctl
    | 0x10200 => fgetD s.rrb 0 0
    | 0x10208 => fgetD s.rrb 1 0
    | 0x10210 => fgetD s.rrb 2 0
    | 0x10218 => fgetD s.rrb 3 0
    | 0x10300 => s.mbtb
    | 0x10308 => s.domid
    | _ => 0

/-- The value that the host reads at an offset of BAR0; none after a trip, when the host port is down (R528). -/
def State.readReg (s : State) (off : Nat) : Option Dword := if s.tripped then none else some (s.regAt off)

/-- The value that the host reads at an offset of BAR2: QTAIL at the start of a queue's doorbell page, else 0 (R413). -/
def State.readDoorbell (s : State) (off : Nat) : Option Dword :=
  if s.tripped then none
  else some (if off % 4096 == 0 && decide (off < 64 * 4096) && !s.secst.getLsbD 25 then BitVec.ofNat 64 (s.queue (off / 4096)).tail else 0)

end Sys2Proof.Machine
end

