-- ==== Sys2Proof/Machine/Dispatch.lean ====
section
/-! DEFINITION. The meaning of every constructor of Instr: each arm is one call. -/

namespace Sys2Proof.Machine

/-- What one instruction, or one step of another agent, does to the machine. -/
def exec (i : Instr) (s : State) : Host.Outcome State Fault Refusal :=
  match i with
  | .pairedWord c a b => Sys2Proof.Machine.execPairedWord c a b s
  | .nop h f => Sys2Proof.Machine.execNop h f s
  | .bra h f => Sys2Proof.Machine.execBra h f s
  | .brx h f => Sys2Proof.Machine.execBrx h f s
  | .call h f => Sys2Proof.Machine.execCall h f s
  | .callx h f => Sys2Proof.Machine.execCallx h f s
  | .ret h f => Sys2Proof.Machine.execRet h f s
  | .exit h f => Sys2Proof.Machine.execExit h f s
  | .yield h f => Sys2Proof.Machine.execYield h f s
  | .sleep h f => Sys2Proof.Machine.execSleep h f s
  | .mwait h f => Sys2Proof.Machine.execMwait h f s
  | .brk h f => Sys2Proof.Machine.execBrk h f s
  | .join h f => Sys2Proof.Machine.execJoin h f s
  | .leave h f => Sys2Proof.Machine.execLeave h f s
  | .waitm h f => Sys2Proof.Machine.execWaitm h f s
  | .msetNone h f => Sys2Proof.Machine.execMsetNone h f s
  | .msetLive h f => Sys2Proof.Machine.execMsetLive h f s
  | .msetHere h f => Sys2Proof.Machine.execMsetHere h f s
  | .msetImm h f => Sys2Proof.Machine.execMsetImm h f s
  | .msetSreg h f => Sys2Proof.Machine.execMsetSreg h f s
  | .mov h f => Sys2Proof.Machine.execMov h f s
  | .movi h f => Sys2Proof.Machine.execMovi h f s
  | .movs h f => Sys2Proof.Machine.execMovs h f s
  | .iadd h f => Sys2Proof.Machine.execIadd h f s
  | .iaddi h f => Sys2Proof.Machine.execIaddi h f s
  | .isub h f => Sys2Proof.Machine.execIsub h f s
  | .iaddc h f => Sys2Proof.Machine.execIaddc h f s
  | .isubb h f => Sys2Proof.Machine.execIsubb h f s
  | .imin h f => Sys2Proof.Machine.execImin h f s
  | .imax h f => Sys2Proof.Machine.execImax h f s
  | .iabs h f => Sys2Proof.Machine.execIabs h f s
  | .icmp h f => Sys2Proof.Machine.execIcmp h f s
  | .icmpi h f => Sys2Proof.Machine.execIcmpi h f s
  | .isel h f => Sys2Proof.Machine.execIsel h f s
  | .lea h f => Sys2Proof.Machine.execLea h f s
  | .and h f => Sys2Proof.Machine.execAnd h f s
  | .or h f => Sys2Proof.Machine.execOr h f s
  | .xor h f => Sys2Proof.Machine.execXor h f s
  | .andn h f => Sys2Proof.Machine.execAndn h f s
  | .andi h f => Sys2Proof.Machine.execAndi h f s
  | .ori h f => Sys2Proof.Machine.execOri h f s
  | .xori h f => Sys2Proof.Machine.execXori h f s
  | .shl h f => Sys2Proof.Machine.execShl h f s
  | .shr h f => Sys2Proof.Machine.execShr h f s
  | .sha h f => Sys2Proof.Machine.execSha h f s
  | .rot h f => Sys2Proof.Machine.execRot h f s
  | .bfe h f => Sys2Proof.Machine.execBfe h f s
  | .bfi h f => Sys2Proof.Machine.execBfi h f s
  | .popc h f => Sys2Proof.Machine.execPopc h f s
  | .clz h f => Sys2Proof.Machine.execClz h f s
  | .brev h f => Sys2Proof.Machine.execBrev h f s
  | .imul h f => Sys2Proof.Machine.execImul h f s
  | .imulh h f => Sys2Proof.Machine.execImulh h f s
  | .imad h f => Sys2Proof.Machine.execImad h f s
  | .imadw h f => Sys2Proof.Machine.execImadw h f s
  | .idiv h f => Sys2Proof.Machine.execIdiv h f s
  | .irem h f => Sys2Proof.Machine.execIrem h f s
  | .fadd h f => Sys2Proof.Machine.execFadd h f s
  | .fsub h f => Sys2Proof.Machine.execFsub h f s
  | .fmul h f => Sys2Proof.Machine.execFmul h f s
  | .ffma h f => Sys2Proof.Machine.execFfma h f s
  | .fmin h f => Sys2Proof.Machine.execFmin h f s
  | .fmax h f => Sys2Proof.Machine.execFmax h f s
  | .fcmp h f => Sys2Proof.Machine.execFcmp h f s
  | .fsel h f => Sys2Proof.Machine.execFsel h f s
  | .fclamp h f => Sys2Proof.Machine.execFclamp h f s
  | .frnd h f => Sys2Proof.Machine.execFrnd h f s
  | .ffrac h f => Sys2Proof.Machine.execFfrac h f s
  | .fclass h f => Sys2Proof.Machine.execFclass h f s
  | .fclassRdsw h f => Sys2Proof.Machine.execFclassRdsw h f s
  | .fclassClrsw h f => Sys2Proof.Machine.execFclassClrsw h f s
  | .fclassWren h f => Sys2Proof.Machine.execFclassWren h f s
  | .frcp h f => Sys2Proof.Machine.execFrcp h f s
  | .frsq h f => Sys2Proof.Machine.execFrsq h f s
  | .fsqrt h f => Sys2Proof.Machine.execFsqrt h f s
  | .fdiv h f => Sys2Proof.Machine.execFdiv h f s
  | .fexp2 h f => Sys2Proof.Machine.execFexp2 h f s
  | .flog2 h f => Sys2Proof.Machine.execFlog2 h f s
  | .fsin h f => Sys2Proof.Machine.execFsin h f s
  | .fcos h f => Sys2Proof.Machine.execFcos h f s
  | .ftanh h f => Sys2Proof.Machine.execFtanh h f s
  | .hadd2 h f => Sys2Proof.Machine.execHadd2 h f s
  | .hmul2 h f => Sys2Proof.Machine.execHmul2 h f s
  | .hfma2 h f => Sys2Proof.Machine.execHfma2 h f s
  | .hmin2 h f => Sys2Proof.Machine.execHmin2 h f s
  | .hmax2 h f => Sys2Proof.Machine.execHmax2 h f s
  | .hcmp2 h f => Sys2Proof.Machine.execHcmp2 h f s
  | .dadd h f => Sys2Proof.Machine.execDadd h f s
  | .dmul h f => Sys2Proof.Machine.execDmul h f s
  | .dfma h f => Sys2Proof.Machine.execDfma h f s
  | .dcmp h f => Sys2Proof.Machine.execDcmp h f s
  | .cvt h f => Sys2Proof.Machine.execCvt h f s
  | .cvtp h f => Sys2Proof.Machine.execCvtp h f s
  | .cvtx h f => Sys2Proof.Machine.execCvtx h f s
  | .qenc h f => Sys2Proof.Machine.execQenc h f s
  | .qdec h f => Sys2Proof.Machine.execQdec h f s
  | .bsclEnc h f => Sys2Proof.Machine.execBsclEnc h f s
  | .bsclDec h f => Sys2Proof.Machine.execBsclDec h f s
  | .prmt h f => Sys2Proof.Machine.execPrmt h f s
  | .pack2 h f => Sys2Proof.Machine.execPack2 h f s
  | .unpk2 h f => Sys2Proof.Machine.execUnpk2 h f s
  | .ballot h f => Sys2Proof.Machine.execBallot h f s
  | .vote h f => Sys2Proof.Machine.execVote h f s
  | .shfl h f => Sys2Proof.Machine.execShfl h f s
  | .bcast h f => Sys2Proof.Machine.execBcast h f s
  | .rdx h f => Sys2Proof.Machine.execRdx h f s
  | .scan h f => Sys2Proof.Machine.execScan h f s
  | .matchLanes h f => Sys2Proof.Machine.execMatchLanes h f s
  | .mmov h f => Sys2Proof.Machine.execMmov h f s
  | .mand h f => Sys2Proof.Machine.execMand h f s
  | .mor h f => Sys2Proof.Machine.execMor h f s
  | .mxor h f => Sys2Proof.Machine.execMxor h f s
  | .mandn h f => Sys2Proof.Machine.execMandn h f s
  | .mpopc h f => Sys2Proof.Machine.execMpopc h f s
  | .ld h f => Sys2Proof.Machine.execLd h f s
  | .st h f => Sys2Proof.Machine.execSt h f s
  | .ldw h f => Sys2Proof.Machine.execLdw h f s
  | .stw h f => Sys2Proof.Machine.execStw h f s
  | .lds h f => Sys2Proof.Machine.execLds h f s
  | .sts h f => Sys2Proof.Machine.execSts h f s
  | .ldc h f => Sys2Proof.Machine.execLdc h f s
  | .stc h f => Sys2Proof.Machine.execStc h f s
  | .ldu h f => Sys2Proof.Machine.execLdu h f s
  | .stu h f => Sys2Proof.Machine.execStu h f s
  | .pref h f => Sys2Proof.Machine.execPref h f s
  | .cctlInv1 h f => Sys2Proof.Machine.execCctlInv1 h f s
  | .cctlEv2 h f => Sys2Proof.Machine.execCctlEv2 h f s
  | .cctlUnp3 h f => Sys2Proof.Machine.execCctlUnp3 h f s
  | .cctlZero h f => Sys2Proof.Machine.execCctlZero h f s
  | .fence h f => Sys2Proof.Machine.execFence h f s
  | .atomAdd h f => Sys2Proof.Machine.execAtomAdd h f s
  | .atomAnd h f => Sys2Proof.Machine.execAtomAnd h f s
  | .atomOr h f => Sys2Proof.Machine.execAtomOr h f s
  | .atomXor h f => Sys2Proof.Machine.execAtomXor h f s
  | .atomMin h f => Sys2Proof.Machine.execAtomMin h f s
  | .atomMax h f => Sys2Proof.Machine.execAtomMax h f s
  | .atomXchg h f => Sys2Proof.Machine.execAtomXchg h f s
  | .atomIncw h f => Sys2Proof.Machine.execAtomIncw h f s
  | .atomAddb h f => Sys2Proof.Machine.execAtomAddb h f s
  | .atomFadd h f => Sys2Proof.Machine.execAtomFadd h f s
  | .atomFmin h f => Sys2Proof.Machine.execAtomFmin h f s
  | .atomFmax h f => Sys2Proof.Machine.execAtomFmax h f s
  | .acas h f => Sys2Proof.Machine.execAcas h f s
  | .acas2 h f => Sys2Proof.Machine.execAcas2 h f s
  | .redAdd h f => Sys2Proof.Machine.execRedAdd h f s
  | .redAnd h f => Sys2Proof.Machine.execRedAnd h f s
  | .redOr h f => Sys2Proof.Machine.execRedOr h f s
  | .redXor h f => Sys2Proof.Machine.execRedXor h f s
  | .redMin h f => Sys2Proof.Machine.execRedMin h f s
  | .redMax h f => Sys2Proof.Machine.execRedMax h f s
  | .redIncw h f => Sys2Proof.Machine.execRedIncw h f s
  | .redFadd h f => Sys2Proof.Machine.execRedFadd h f s
  | .redFmin h f => Sys2Proof.Machine.execRedFmin h f s
  | .redFmax h f => Sys2Proof.Machine.execRedFmax h f s
  | .lock h f => Sys2Proof.Machine.execLock h f s
  | .lockt h f => Sys2Proof.Machine.execLockt h f s
  | .trylk h f => Sys2Proof.Machine.execTrylk h f s
  | .unlock h f => Sys2Proof.Machine.execUnlock h f s
  | .lkqry h f => Sys2Proof.Machine.execLkqry h f s
  | .sprd h f => Sys2Proof.Machine.execSprd h f s
  | .sprd2 h f => Sys2Proof.Machine.execSprd2 h f s
  | .sprx h f => Sys2Proof.Machine.execSprx h f s
  | .spctx h f => Sys2Proof.Machine.execSpctx h f s
  | .spwait h f => Sys2Proof.Machine.execSpwait h f s
  | .spcan h f => Sys2Proof.Machine.execSpcan h f s
  | .spqry h f => Sys2Proof.Machine.execSpqry h f s
  | .spend h f => Sys2Proof.Machine.execSpend h f s
  | .copy h f => Sys2Proof.Machine.execCopy h f s
  | .copy2 h f => Sys2Proof.Machine.execCopy2 h f s
  | .copym h f => Sys2Proof.Machine.execCopym h f s
  | .copyx h f => Sys2Proof.Machine.execCopyx h f s
  | .bseal h f => Sys2Proof.Machine.execBseal h f s
  | .bwait h f => Sys2Proof.Machine.execBwait h f s
  | .bqry h f => Sys2Proof.Machine.execBqry h f s
  | .slotq h f => Sys2Proof.Machine.execSlotq h f s
  | .slotret h f => Sys2Proof.Machine.execSlotret h f s
  | .bari h f => Sys2Proof.Machine.execBari h f s
  | .bara h f => Sys2Proof.Machine.execBara h f s
  | .barx h f => Sys2Proof.Machine.execBarx h f s
  | .barw h f => Sys2Proof.Machine.execBarw h f s
  | .bart h f => Sys2Proof.Machine.execBart h f s
  | .mma h f => Sys2Proof.Machine.execMma h f s
  | .mmas h f => Sys2Proof.Machine.execMmas h f s
  | .mmat h f => Sys2Proof.Machine.execMmat h f s
  | .mzero h f => Sys2Proof.Machine.execMzero h f s
  | .mlda h f => Sys2Proof.Machine.execMlda h f s
  | .msta h f => Sys2Proof.Machine.execMsta h f s
  | .mcvt h f => Sys2Proof.Machine.execMcvt h f s
  | .mepi h f => Sys2Proof.Machine.execMepi h f s
  | .mdrain h f => Sys2Proof.Machine.execMdrain h f s
  | .mseq h f => Sys2Proof.Machine.execMseq h f s
  | .mstat h f => Sys2Proof.Machine.execMstat h f s
  | .mfence h f => Sys2Proof.Machine.execMfence h f s
  | .tbar h f => Sys2Proof.Machine.execTbar h f s
  | .tarr h f => Sys2Proof.Machine.execTarr h f s
  | .twait h f => Sys2Proof.Machine.execTwait h f s
  | .tqry h f => Sys2Proof.Machine.execTqry h f s
  | .reshape h f => Sys2Proof.Machine.execReshape h f s
  | .launch h f => Sys2Proof.Machine.execLaunch h f s
  | .lwait h f => Sys2Proof.Machine.execLwait h f s
  | .msgs h f => Sys2Proof.Machine.execMsgs h f s
  | .msgr h f => Sys2Proof.Machine.execMsgr h f s
  | .msgq h f => Sys2Proof.Machine.execMsgq h f s
  | .coll h f => Sys2Proof.Machine.execColl h f s
  | .collw h f => Sys2Proof.Machine.execCollw h f s
  | .evsig h f => Sys2Proof.Machine.execEvsig h f s
  | .evwait h f => Sys2Proof.Machine.execEvwait h f s
  | .trap h f => Sys2Proof.Machine.execTrap h f s
  | .tretRetry h f => Sys2Proof.Machine.execTretRetry h f s
  | .tretSkip h f => Sys2Proof.Machine.execTretSkip h f s
  | .tretEnd h f => Sys2Proof.Machine.execTretEnd h f s
  | .pdone h f => Sys2Proof.Machine.execPdone h f s
  | .srd h f => Sys2Proof.Machine.execSrd h f s
  | .swr h f => Sys2Proof.Machine.execSwr h f s
  | .csave h f => Sys2Proof.Machine.execCsave h f s
  | .crest h f => Sys2Proof.Machine.execCrest h f s
  | .oplr h f => Sys2Proof.Machine.execOplr h f s
  | .fresume h f => Sys2Proof.Machine.execFresume h f s
  | .tlbinv h f => Sys2Proof.Machine.execTlbinv h f s
  | .tlbsync h f => Sys2Proof.Machine.execTlbsync h f s
  | .haltHalt h f => Sys2Proof.Machine.execHaltHalt h f s
  | .haltRel h f => Sys2Proof.Machine.execHaltRel h f s
  | .haltStep h f => Sys2Proof.Machine.execHaltStep h f s
  | .idrd h f => Sys2Proof.Machine.execIdrd h f s
  | .seccall h f => Sys2Proof.Machine.execSeccall h f s
  | .secwait h f => Sys2Proof.Machine.execSecwait h f s
  | .attest h f => Sys2Proof.Machine.execAttest h f s
  | .recmark h f => Sys2Proof.Machine.execRecmark h f s
  | .recst h f => Sys2Proof.Machine.execRecst h f s
  | .ckptreq h f => Sys2Proof.Machine.execCkptreq h f s
  | .samparm h f => Sys2Proof.Machine.execSamparm h f s
  | .sampstop h f => Sys2Proof.Machine.execSampstop h f s
  | .perfrd h f => Sys2Proof.Machine.execPerfrd h f s
  | .histrd h f => Sys2Proof.Machine.execHistrd h f s
  | .telrd h f => Sys2Proof.Machine.execTelrd h f s
  | .waitmRelease => Sys2Proof.Machine.execWaitmRelease s
  | .starvationPromotion => Sys2Proof.Machine.execStarvationPromotion s
  | .loadDataReturn => Sys2Proof.Machine.execLoadDataReturn s
  | .mwaitMonitorFire => Sys2Proof.Machine.execMwaitMonitorFire s
  | .mwaitTimeout => Sys2Proof.Machine.execMwaitTimeout s
  | .sleepWake => Sys2Proof.Machine.execSleepWake s
  | .rds => Sys2Proof.Machine.execRds s
  | .rdxRequest => Sys2Proof.Machine.execRdxRequest s
  | .upg => Sys2Proof.Machine.execUpg s
  | .wbd => Sys2Proof.Machine.execWbd s
  | .evc => Sys2Proof.Machine.execEvc s
  | .invack => Sys2Proof.Machine.execInvack s
  | .fwddata => Sys2Proof.Machine.execFwddata s
  | .peekdata => Sys2Proof.Machine.execPeekdata s
  | .datas => Sys2Proof.Machine.execDatas s
  | .datae => Sys2Proof.Machine.execDatae s
  | .cmp => Sys2Proof.Machine.execCmp s
  | .invMsg => Sys2Proof.Machine.execInvMsg s
  | .fwds => Sys2Proof.Machine.execFwds s
  | .fwdx => Sys2Proof.Machine.execFwdx s
  | .recallMsg => Sys2Proof.Machine.execRecall s
  | .peek => Sys2Proof.Machine.execPeek s
  | .wback => Sys2Proof.Machine.execWback s
  | .retryResend => Sys2Proof.Machine.execRetryResend s
  | .sectorQueueNext => Sys2Proof.Machine.execSectorQueueNext s
  | .homeSideOperation => Sys2Proof.Machine.execHomeSideOperation s
  | .hostcoh => Sys2Proof.Machine.execHostcoh s
  | .pageWalkComplete => Sys2Proof.Machine.execPageWalkComplete s
  | .pToSTransition => Sys2Proof.Machine.execPToSTransition s
  | .collapse => Sys2Proof.Machine.execCollapse s
  | .collapseRetry => Sys2Proof.Machine.execCollapseRetry s
  | .lockAcquireArrival => Sys2Proof.Machine.execLockAcquireArrival s
  | .lockTryArrival => Sys2Proof.Machine.execLockTryArrival s
  | .lockReleaseArrival => Sys2Proof.Machine.execLockReleaseArrival s
  | .lockAbandonArrival => Sys2Proof.Machine.execLockAbandonArrival s
  | .lockReply => Sys2Proof.Machine.execLockReply s
  | .lockHeadReturn => Sys2Proof.Machine.execLockHeadReturn s
  | .lockGraceExpiry => Sys2Proof.Machine.execLockGraceExpiry s
  | .lockDeadlineExpiry => Sys2Proof.Machine.execLockDeadlineExpiry s
  | .lockFullRetry => Sys2Proof.Machine.execLockFullRetry s
  | .deadlockScan => Sys2Proof.Machine.execDeadlockScan s
  | .deadlockConfirm => Sys2Proof.Machine.execDeadlockConfirm s
  | .copyUnitPerformed => Sys2Proof.Machine.execCopyUnitPerformed s
  | .copyComplete => Sys2Proof.Machine.execCopyComplete s
  | .copyxHandover => Sys2Proof.Machine.execCopyxHandover s
  | .carriedCommandTrap => Sys2Proof.Machine.execCarriedCommandTrap s
  | .burstArrival => Sys2Proof.Machine.execBurstArrival s
  | .sproutEnd => Sys2Proof.Machine.execSproutEnd s
  | .matrixCommandExecute => Sys2Proof.Machine.execMatrixCommandExecute s
  | .mseqStep => Sys2Proof.Machine.execMseqStep s
  | .mdrainReduction => Sys2Proof.Machine.execMdrainReduction s
  | .qtailDoorbell => Sys2Proof.Machine.execQtailDoorbell s
  | .queueFetch => Sys2Proof.Machine.execQueueFetch s
  | .launchReady => Sys2Proof.Machine.execLaunchReady s
  | .blockDispatch => Sys2Proof.Machine.execBlockDispatch s
  | .blockSlotFree => Sys2Proof.Machine.execBlockSlotFree s
  | .launchComplete => Sys2Proof.Machine.execLaunchComplete s
  | .completionEntryWrite => Sys2Proof.Machine.execCompletionEntryWrite s
  | .teamWatchdogCheck => Sys2Proof.Machine.execTeamWatchdogCheck s
  | .messageDelivery => Sys2Proof.Machine.execMessageDelivery s
  | .mailboxFullRetry => Sys2Proof.Machine.execMailboxFullRetry s
  | .collectiveComplete => Sys2Proof.Machine.execCollectiveComplete s
  | .fenceMarkerAnswer => Sys2Proof.Machine.execFenceMarkerAnswer s
  | .fabto => Sys2Proof.Machine.execFabto s
  | .fabricErrorPath => Sys2Proof.Machine.execFabricErrorPath s
  | .apertureAccessArrival => Sys2Proof.Machine.execApertureAccessArrival s
  | .hostCxlMemRead => Sys2Proof.Machine.execHostCxlMemRead s
  | .hostCxlMemWrite => Sys2Proof.Machine.execHostCxlMemWrite s
  | .eventCounterHostWrite => Sys2Proof.Machine.execEventCounterHostWrite s
  | .ctxctlKill => Sys2Proof.Machine.execCtxctlKill s
  | .dieLost => Sys2Proof.Machine.execDieLost s
  | .trapRecordRetry => Sys2Proof.Machine.execTrapRecordRetry s
  | .operandLogReissue => Sys2Proof.Machine.execOperandLogReissue s
  | .oplogFailedDelivery => Sys2Proof.Machine.execOplogFailedDelivery s
  | .deferredMchk => Sys2Proof.Machine.execDeferredMchk s
  | .pctlPre => Sys2Proof.Machine.execPctlPre s
  | .preempt => Sys2Proof.Machine.execPreempt s
  | .forcedSave => Sys2Proof.Machine.execForcedSave s
  | .psaved => Sys2Proof.Machine.execPsaved s
  | .pctlRes => Sys2Proof.Machine.execPctlRes s
  | .presumed => Sys2Proof.Machine.execPresumed s
  | .haltEffect => Sys2Proof.Machine.execHaltEffect s
  | .rctlModeRecord => Sys2Proof.Machine.execRctlModeRecord s
  | .rctlModeOff => Sys2Proof.Machine.execRctlModeOff s
  | .conflictProbe => Sys2Proof.Machine.execConflictProbe s
  | .clockForcedCheckpoint => Sys2Proof.Machine.execClockForcedCheckpoint s
  | .cut => Sys2Proof.Machine.execCut s
  | .undoCopy => Sys2Proof.Machine.execUndoCopy s
  | .segmentCloseTimeout => Sys2Proof.Machine.execSegmentCloseTimeout s
  | .domainCutMarker => Sys2Proof.Machine.execDomainCutMarker s
  | .rpctlGo => Sys2Proof.Machine.execRpctlGo s
  | .rpctlStop => Sys2Proof.Machine.execRpctlStop s
  | .replay => Sys2Proof.Machine.execReplay s
  | .rpend => Sys2Proof.Machine.execRpend s
  | .replayBreakpoint => Sys2Proof.Machine.execReplayBreakpoint s
  | .samplerRow => Sys2Proof.Machine.execSamplerRow s
  | .lifetimeHistogramUpdate => Sys2Proof.Machine.execLifetimeHistogramUpdate s
  | .dbgunlock => Sys2Proof.Machine.execDbgunlock s
  | .lcset => Sys2Proof.Machine.execLcset s
  | .nonce => Sys2Proof.Machine.execNonce s
  | .keygen => Sys2Proof.Machine.execKeygen s
  | .keymap => Sys2Proof.Machine.execKeymap s
  | .mrext => Sys2Proof.Machine.execMrext s
  | .cert => Sys2Proof.Machine.execCert s
  | .attestReport => Sys2Proof.Machine.execAttestReport s
  | .resetPackage => Sys2Proof.Machine.execResetPackage s
  | .frequencyChange => Sys2Proof.Machine.execFrequencyChange s
  | .thermalTrip => Sys2Proof.Machine.execThermalTrip s
  | .patrolScrub => Sys2Proof.Machine.execPatrolScrub s
  | .registerWrite => Sys2Proof.Machine.execRegisterWrite s
  | .laneRetrain => Sys2Proof.Machine.execLaneRetrain s
  | .rankLost => Sys2Proof.Machine.execRankLost s
  | .proxyHomeHostResponse => Sys2Proof.Machine.execProxyHomeHostResponse s

end Sys2Proof.Machine
end

