-- ==== Sys2Proof/Machine/Agents.lean ====
section
/-! DEFINITION. Who moves next (log entry 3): the chain in progress, what the agenda holds, the package's own
agents, and the cores' selectors; and how a step is counted. -/

namespace Sys2Proof.Machine

/-! ## Steps of the package's own agents -/

/-- An event with operands. -/
def evt (op : Instr) (arg : EvArg) : Option Event := some { op := op, arg := arg }

/-- The event of a message on its way to a home. -/
def homeEvent (m : Msg) : Option Event :=
  let arg : EvArg := { (default : EvArg) with a := m.agent, n := m.x }
  match m.kind with
  | .rdS => evt .rds arg
  | .rdX => evt .rdxRequest arg
  | .upg => evt .upg arg
  | .wbD => evt .wbd arg
  | .evC => evt .evc arg
  | .invAck => evt .invack arg
  | .fwdData => evt .fwddata arg
  | .peekData => evt .peekdata arg
  | _ => none

/-- The event of a message on its way to an agent. The host's agent answers at once, with its own dirty data
where it owns the sector (log entry 8). -/
def State.agentMsgEvent (s : State) (m : Msg) : Option Event :=
  let arg : EvArg := { (default : EvArg) with a := m.agent, n := m.x }
  let own : Option (BitVec 512) := if (s.dirOf m.x).own == some .host then some (Config.hostDirty s.steps m.x) else none
  match m.kind, m.agent with
  | .dataS, _ => evt .datas arg
  | .dataE, _ => evt .datae arg
  | .cmp, _ => evt .cmp arg
  | .wbAck, _ => evt .wback arg
  | .inv, .host => evt .invack arg
  | .fwdS, .host | .fwdX, .host | .recallMsg, .host => evt .fwddata { arg with d := own }
  | .peek, .host => evt .peekdata { arg with d := own }
  | .inv, _ => evt .invMsg arg
  | .fwdS, _ => evt .fwds arg
  | .fwdX, _ => evt .fwdx arg
  | .recallMsg, _ => evt .recallMsg arg
  | .peek, _ => evt .peek arg
  | _, _ => none

/-- The first event among some. -/
def firstOf : List (Unit → Option Event) → Option Event
  | [] => none
  | f :: r => match f () with
    | some e => some e
    | none => firstOf r

/-- Messages, queues and home-side operations (R247 to R253). -/
def State.protocolEvents (s : State) : List (Unit → Option Event) :=
  [fun _ => s.toAgent.head?.bind s.agentMsgEvent,
   fun _ => s.toHome.head?.bind homeEvent,
   fun _ => (s.dir.find? fun e => e.2.st.stable && !e.2.queue.isEmpty).bind fun e =>
     evt .sectorQueueNext { (default : EvArg) with n := e.1 },
   fun _ => (s.homeOps.find? fun r => (s.dirOf r.x).st.stable && (s.dirOf r.x).queue.isEmpty && !s.homeHeld r).bind fun r =>
     evt .homeSideOperation { (default : EvArg) with n := r.n },
   fun _ => (s.dir.find? fun e => match e.2.task with
       | .host _ _ => true
       | _ => false).bind fun e =>
     evt .proxyHomeHostResponse { (default : EvArg) with n := e.1 },
   fun _ => s.retries.head?.bind fun m => evt .retryResend { (default : EvArg) with a := m.agent, n := m.x }]

/-- Returns of data, walks and collapses. -/
def State.memoryEvents (s : State) : List (Unit → Option Event) :=
  [fun _ => (s.accs.find? fun a => match a.st with
       | .done _ _ | .poisoned _ _ => true
       | _ => false).bind fun a =>
     evt .loadDataReturn { (default : EvArg) with n := a.id },
   fun _ => (s.walks.find? fun w => w.ptos).bind fun w => evt .pToSTransition { (default : EvArg) with n := w.id },
   fun _ => (s.walks.find? fun w => !w.ptos && !s.inPtoS w.ctx w.va && s.walkActive w).bind fun w =>
     evt .pageWalkComplete { (default : EvArg) with n := w.id },
   fun _ => (s.collapses.find? fun k => k.running && !s.replicaReads k
       && !(k.inv && s.homeOps.any fun r => r.op == .invalidate && s.onReplica k.slot r.x)).bind fun k =>
     evt .collapse { (default : EvArg) with n := k.ctx, k := k.va },
   fun _ => (s.accs.find? fun a => a.st == .collapse && (s.collapseOf (s.ctxOf a.t) a.va).isNone
       && (match s.walk (s.ctxOf a.t) a.va with
           | .leaf _ p _ => pteCls p != 2 || decide (s.collapses.length < 72)
           | .fault _ => true)).bind fun a =>
     evt .collapseRetry { (default : EvArg) with n := a.id }]

/-- Every thread of the package that is on a core. -/
def State.allThreads (s : State) : List TRef :=
  (s.waves.filter fun e => !e.2.saved).flatMap fun e => e.2.threads.map fun t => { u := e.1, i := t.1 }

/-- The step that ends a thread's wait now, or takes an asynchronous cause (R95, R105, R108, R420, R427). -/
def State.threadEvent (s : State) (t : TRef) : Option Event :=
  let arg : EvArg := { (default : EvArg) with t := t, n := t.u }
  let th := s.thread t
  match th.st with
  | .waiting (.sleep d) => if d ≤ s.ptb then evt .sleepWake arg else none
  | .waiting (.record d) => if d ≤ s.ptb then evt .trapRecordRetry arg else none
  | .ready | .waiting .word | .waiting .rdv => if th.async.isEmpty || s.hashHeld t.u then none
      else match s.asyncDue t (s.chainAt t) with
        | some a => evt (if a.cause == .preempt then .preempt else .deferredMchk) arg
        | none => none
  | _ => none

/-- A thread on a core's overflow list or in its table has starved for 4,096 steps, and a way of its set can be had for it
(R85). -/
def State.starved (s : State) : Option TRef :=
  s.allThreads.find? fun t =>
    let tab := (s.core (s.wave t.u).core).table
    let mine := tab.filter fun e => (e.block, e.pc) == s.keyOf t
    (s.thread t).st == .ready && s.overdue t && s.canIssue t
      && (if mine.isEmpty then tab.any fun e => e.set == pcSet (s.thread t).pc && !e.promoted else mine.all fun e => !e.promoted)

/-- The end of an MWAIT's wait: its monitor has fired, or its ticks have passed (R108). -/
def State.mwaitEvent (s : State) (a : Access) : Option Event :=
  let x := match a.scr with
    | some k => recXScr (s.block k).core a.pa
    | none => recXMem a.pa
  match a.st with
  | .watching mon d =>
    if s.lateConflict a.t.u x false then none
    else if mon && s.monitorFired a then evt .mwaitMonitorFire { (default : EvArg) with t := a.t, n := a.id }
    else if d ≤ s.ptb then evt .mwaitTimeout { (default : EvArg) with t := a.t, n := a.id } else none
  | _ => none

/-- Waits of threads. -/
def State.waitEvents (s : State) : List (Unit → Option Event) :=
  [fun _ => s.allThreads.findSome? s.threadEvent,
   fun _ => s.accs.findSome? s.mwaitEvent,
   fun _ => s.starved.bind fun t => evt .starvationPromotion { (default : EvArg) with t := t }]

/-! ## The selectors -/

/-- The cores with waves, the one after the core that issued last first. -/
def State.coreOrder (s : State) : List Nat :=
  let l := sortBy id (dedup (s.waves.map fun e => e.2.core))
  l.filter (fun c => decide (s.lastCore < c)) ++ l.filter fun c => decide (c ≤ s.lastCore)

/-- Bundles in the order in which they are tried: core by core, the port that did not issue last first. -/
def State.allCandidates (s : State) : List (Nat × Bool × List TRef) :=
  s.coreOrder.flatMap fun c =>
    let p := (s.core c).memPort
    ((s.candidates c !p).map fun b => (c, !p, b)) ++ (s.candidates c p).map fun b => (c, p, b)

/-- The word is a release at domain scope or wider (R239). -/
def State.domainRelease (s : State) (t : TRef) (i : Instr) : Bool :=
  match i with
  | .msgs _ f => msB6 f
  | .evsig _ _ => true
  | i => match memOp i with
    | some m => m.writes && (ordOf m.h == 2 || ordOf m.h == 3) && decide (s.scopeOf (s.wave t.u).ctx m.h m.space ≥ 5)
    | none => false

/-- The releases at domain scope or wider of threads that wait for an aperture write: a fence, by the number of the access after it,
or the word that the thread stands at. -/
def State.threadsHeld (s : State) (a : Access) : List (TRef × Option Nat) :=
  a.who.flatMap fun i =>
    let t : TRef := { u := a.t.u, i := i }
    let th := s.thread t
    let fences := th.fences.filter fun x => decide (x.scope ≥ 5) && decide (a.id < x.before) && !a.letGo x.scope x.past
    let word := th.st == .waiting .word && !a.letGo 5 th.past && ((s.chainAt t).last.map (s.domainRelease t)).getD false
    (fences.map fun x => (t, some x.before)) ++ if word then [(t, none)] else []

/-- The UNLOCKs at domain scope or wider that wait for an aperture write. -/
def State.unlocksHeld (s : State) (a : Access) : List Nat :=
  (s.lockMsgs.filter fun m => m.u == a.t.u && decide (m.scope ≥ 5) && decide (a.prog < m.after) && !a.letGo m.scope m.past).map LockMsg.n

/-- Fence markers are sent for the releases that have come to wait, and one for whose releases every write is acknowledged is answered
(R412). -/
def State.settleMarks (s : State) : State :=
  let out := s.accs.filter Access.remoteStore
  if out.isEmpty then { s with fenceMarks := [] }
  else
    let threads := dedup (out.flatMap s.threadsHeld)
    let locks := dedup (out.flatMap s.unlocksHeld)
    let marks := (s.fenceMarks.map fun m => { m with threads := m.threads.filter threads.contains, locks := m.locks.filter locks.contains })
      |>.filter fun m => !(m.threads.isEmpty && m.locks.isEmpty)
    let new : FenceMark :=
      { threads := threads.filter fun e => !marks.any fun m => m.threads.contains e,
        locks := locks.filter fun n => !marks.any fun m => m.locks.contains n, upto := s.next, since := s.ptb }
    { s with fenceMarks := if new.threads.isEmpty && new.locks.isEmpty then marks else marks ++ [new] }

/-- A step's end: bundles whose accesses have been performed retire, the cycle ends, and the counters move on (log entry 4);
sr.cycle stands still while issue does (R17). The time that a die stands at the trip temperature is kept (R528). -/
def State.ticked (s : State) : State :=
  let s := s.recSettle.settleBirths.settleCycle.settleTeams.settleMarks
  { s with issue := none, stalled := false,
           hotSince := if s.freqNow == 600 && decide (115 ≤ Config.hottest s.steps 600) then some (s.hotSince.getD s.ptb) else none, steps := s.steps + 1, ptb := s.ptb + Config.ticksOf s.steps,
           cycle := if s.freqNext.isSome && s.chain.isNone then s.cycle else s.cycle + Config.clksOf s.steps }

/-- An answer with the counters moved on. -/
def ticking (o : Host.Outcome State Fault Refusal) : Host.Outcome State Fault Refusal :=
  match o with
  | .next s => .next s.ticked
  | o => o

/-- The first bundle whose word does not have to wait is run; the threads of those before it wait. -/
def tryBundles (run : Instr → State → Host.Outcome State Fault Refusal) (s : State) :
    List (Nat × Bool × List TRef) → State × Option (Host.Outcome State Fault Refusal)
  | [] => (s, none)
  | (c, mem, b) :: rest =>
    let r := (s.picked c mem b).begin b
    match r.2 with
    | none => (s, some (.next r.1))
    | some i =>
      match run i r.1 with
      | .next s' => if s'.stalled then tryBundles run (s.parked i b) rest else (s, some (.next s'))
      | o => (s, some o)

end Sys2Proof.Machine
end

