-- ==== Sys2Proof/Machine/Schedule.lean ====
section
/-! DEFINITION. What the package's own agents do next (log entry 3), one step of the machine, and the placing of a
word to run. -/

namespace Sys2Proof.Machine

/-! ## Events that are due -/

/-- Operands of an event: one number, or two. -/
def argN (n : Nat) : EvArg := { (default : EvArg) with n := n }
def argNk (n k : Nat) : EvArg := { (default : EvArg) with n := n, k := k }

/-- An event, if it does anything now. -/
def due (f : State → Host.Outcome State Fault Refusal) (op : Instr) (s : State) (arg : EvArg) : Option Event :=
  match f { s with arg := arg } with
  | .next t => if t == { s with arg := arg } then none else evt op arg
  | _ => none

/-- The event of a message to a lock unit. -/
def lockOpOf (k : LockKind) : Instr :=
  match k with
  | .acquire _ _ => .lockAcquireArrival
  | .try_ => .lockTryArrival
  | .release => .lockReleaseArrival
  | .abandon => .lockAbandonArrival

/-- Line locks (R277 to R288). -/
def State.lockEvents (s : State) : List (Unit → Option Event) :=
  [fun _ => (s.lockMsgs.find? s.lockMsgReady).bind fun m => evt (lockOpOf m.kind) (argN m.n),
   fun _ => s.lockReplies.findSome? fun r => due execLockReply .lockReply s (argN r.n),
   fun _ => (s.lockRetries.find? fun r => decide (r.next ≤ s.ptb)).bind fun r => evt .lockFullRetry (argN r.u),
   fun _ => s.locks.findSome? fun e => due execLockHeadReturn .lockHeadReturn s (argN e.1),
   fun _ => s.locks.findSome? fun e => due execLockGraceExpiry .lockGraceExpiry s (argN e.1),
   fun _ => (s.waves.filter fun e => e.2.lockWait.isSome || !e.2.lockers.isEmpty).findSome? fun e => due execLockDeadlineExpiry .lockDeadlineExpiry s (argN e.1),
   fun _ => due execDeadlockScan .deadlockScan s (argN 0),
   fun _ => due execDeadlockConfirm .deadlockConfirm s (argN 0)]

/-- A reduction or a collective of this device alone. -/
def State.alone (s : State) (mask : Dword) : Bool := (maskDevs mask).all fun d => d == s.devid

/-- A reduction is over: of this device alone, without a device that it names, or in a replay as its log has it (R366, R367,
R487). -/
def State.drainDue (s : State) (d : Drain) : Bool :=
  if s.replaying (s.wave d.u).ctx then s.drainLogged d
  else s.alone d.mask || (maskDevs d.mask).any fun k => !s.rankIn (s.wave d.u).ctx k d.id

/-- A collective is over, in the same way (R403, R487). -/
def State.collDue (s : State) (c : CollOp) : Bool :=
  !c.done && (if s.replaying c.ctx then
      s.collLogged c
    else s.alone c.mask || !s.ranksIn c)

/-- Engines: copies, sprouts and matrix commands (R299, R303, R330, R336, R352, R368). -/
def State.engineEvents (s : State) : List (Unit → Option Event) :=
  [fun _ => s.copies.findSome? fun c => (c.left.head?).bind fun r => due execCopyUnitPerformed .copyUnitPerformed s (argNk c.id r.1),
   fun _ => (s.copies.find? Copy.ready).bind fun c => due execCopyComplete .copyComplete s (argN c.id),
   fun _ => (s.copies.filter s.mayHandOver).findSome? fun c => due execCopyxHandover .copyxHandover s (argN c.id),
   fun _ => s.carriedTraps.findSome? fun e => due execCarriedCommandTrap .carriedCommandTrap s (argN e.1),
   fun _ => s.sprReqs.findSome? fun r => (r.left.head?).bind fun x => due execBurstArrival .burstArrival s (argNk r.id x.1),
   fun _ => (s.waves.find? fun e => e.2.isSprout && s.sproutOver e.1).bind fun e => evt .sproutEnd (argN e.1),
   fun _ => (dedup (s.mcmds.map MCmd.core)).findSome? fun c => (s.headCmd c).bind fun m =>
     if isMseq m.unit then due execMseqStep .mseqStep s (argN c) else due execMatrixCommandExecute .matrixCommandExecute s (argN c),
   fun _ => (s.drains.find? s.drainDue).bind fun d => evt .mdrainReduction (argN d.id)]

/-- A queue may be fetched, or the log of a replay enters a launch. -/
def State.fetchDue (s : State) (q : Nat) : Bool :=
  let c := (s.queue q).ctx
  if s.recMode c == 2 then (s.loggedLaunch c).isSome else s.mayFetch q

/-- Where the next gang of a launch may start. -/
def State.dispatchDue (s : State) (l : Launch) : Option Event :=
  if !l.ready || l.left.isEmpty then none
  else if s.recMode l.ctx == 2 then (upto 0 4).findSome? fun d => due execBlockDispatch .blockDispatch s (argNk l.id (40 * d))
  else ((upto 0 160).find? (s.mayPlace l)).bind fun k => evt .blockDispatch (argNk l.id k)

/-- Queues, launches, blocks and teams (R381 to R394). -/
def State.launchEvents (s : State) : List (Unit → Option Event) :=
  [fun _ => ((fkeys s.queues).find? s.fetchDue).bind fun q => evt .queueFetch (argN q),
   fun _ => (s.launches.find? fun l => !l.ready && l.deps.all fun d => (s.launchOf d).isNone).bind fun l => evt .launchReady (argN l.id),
   fun _ => s.launches.findSome? s.dispatchDue,
   fun _ => (s.blocks.find? fun e => s.blockOver e.1 && s.gangOver e.1).bind fun e => evt .blockSlotFree (argN e.1),
   fun _ => (s.launches.find? s.launchOver).bind fun l => evt .launchComplete (argN l.id),
   fun _ => (s.queues.filter fun e => !e.2.pend.isEmpty).findSome? fun e => due execCompletionEntryWrite .completionEntryWrite s (argN e.1),
   fun _ => (s.teams.filter fun e => e.2.wdPeriod != 0).findSome? fun e => due execTeamWatchdogCheck .teamWatchdogCheck s (argN e.1)]

/-- Messages, collectives and the fabric (R399, R403, R411, R412). -/
def State.fabricEvents (s : State) : List (Unit → Option Event) :=
  [fun _ => (s.outbound.find? fun m => m.first s.outbound && m.retry == 0).bind fun m => due execMessageDelivery .messageDelivery s (argN m.id),
   fun _ => ((s.outbound.filter fun m => m.first s.outbound && m.retry != 0) ++ s.inbound.filter fun m => m.first s.inbound).findSome?
     fun m => due execMailboxFullRetry .mailboxFullRetry s (argN m.id),
   fun _ => (s.colls.find? s.collDue).bind fun c => evt .collectiveComplete (argN c.id),
   fun _ => (s.accs.find? fun a => a.st == .remote && a.isRead).bind fun a => evt .loadDataReturn (argN a.id),
   fun _ => (s.fenceMarks.find? s.markLate).bind fun m => evt .fabto (argN (m.upto - 1)),
   fun _ => (s.accs.filter Access.remoteStore).getLast?.bind fun a => evt .fenceMarkerAnswer (argN a.id)]

/-- Operand logs, halts and pre-emptions (R432, R438 to R446). -/
def State.systemEvents (s : State) : List (Unit → Option Event) :=
  [fun _ => (s.waves.filter fun e => e.2.nextReady.isSome).findSome? fun e => due execOperandLogReissue .operandLogReissue s (argN e.1),
   fun _ => s.waves.findSome? fun e => e.2.log.findSome? fun k =>
     if k.2.st == .failed then due execOplogFailedDelivery .oplogFailedDelivery s (argNk e.1 k.1) else none,
   fun _ => (s.waves.filter fun e => e.2.haltReq || e.2.stepped != 0).findSome? fun e => due execHaltEffect .haltEffect s (argN e.1),
   fun _ => (s.ctxs.filter fun e => e.2.pst == 1).findSome? fun e => due execForcedSave .forcedSave s (argN e.1),
   fun _ => (s.ctxs.find? fun e => e.2.pst == 1 && s.mayBeSaved e.1).bind fun e => evt .psaved (argN e.1),
   fun _ => (s.ctxs.filter fun e => e.2.pst == 3).findSome? fun e => due execPresumed .presumed s (argN e.1)]

/-- Recording and observation (R465, R475, R479, R494). -/
def State.recordEvents (s : State) : List (Unit → Option Event) :=
  [fun _ => (s.cutReq.find? fun c => !s.recording c || s.cutReady c).bind fun c => evt .cut (argN c),
   fun _ => ((fkeys s.ctxs).find? fun c => s.cutTimer c && !s.cutReq.contains c).bind fun c => evt .cut (argN c),
   fun _ => (s.silos.find? fun e => s.recording (e.1 / 64) && e.2.stale s.ptb).bind fun e => evt .segmentCloseTimeout (argNk (e.1 / 64) (e.1 % 64)),
   fun _ => if s.probes.isEmpty then none else evt .conflictProbe (argN 0),
   fun _ => (s.samplers.find? fun e => decide (e.2.last + e.2.int ≤ s.ptb)).bind fun e => evt .samplerRow (argN e.1)]

/-- The next write from outside that the log of a replay holds, when its home has come to it (R486). -/
def State.loggedWrite (s : State) (c : Nat) : Option Event :=
  (fget s.replays c).bind fun p => p.inputs.findSome? fun e =>
    let what := bits e.1.toNat 7 4
    let pa := bits e.1.toNat 63 8
    if !(what == 2 || what == 3) || s.homeOps.any (fun r => r.x == sectorOf pa) then none
    else match s.homeHead c (s.homeOf pa) with
      | some h =>
        if bits h.toNat 11 10 != what then none
        else evt (if what == 2 then .hostCxlMemWrite else .apertureAccessArrival) { (default : EvArg) with n := pa, bytes := e.2 }
      | none => none

/-- Replays (R485 to R491). -/
def State.replayEvents (s : State) : List (Unit → Option Event) :=
  [fun _ => ((fkeys s.ctxs).filter fun c => s.rpState c == 1).findSome? fun c => due execRpctlGo .rpctlGo s (argN c),
   fun _ => (s.waves.find? fun e => s.breakDue e.1).bind fun e => evt .replayBreakpoint (argN e.1),
   fun _ => (s.waves.filter fun e => s.schedBad e.1).findSome? fun e => due execReplay .replay s (argNk e.1 2),
   fun _ => (fkeys s.replays).findSome? s.loggedWrite,
   fun _ => (fkeys s.replays).findSome? fun c => due execRpend .rpend s (argN c)]

/-- The security controller, the clocks, and each second's update of the histograms (R498, R515, R528). -/
def State.packageEvents (s : State) : List (Unit → Option Event) :=
  [fun _ => s.secHead.bind fun r => evt (secOp r) (argN r.ticket),
   fun _ => due execFrequencyChange .frequencyChange s (argN 0),
   fun _ => due execThermalTrip .thermalTrip s (argN 0),
   fun _ => due execLifetimeHistogramUpdate .lifetimeHistogramUpdate s (argN 0)]

/-- Everything that the package's own agents may do now; each comes first in its turn. -/
def State.agentEvents (s : State) : List (Unit → Option Event) :=
  s.protocolEvents ++ s.memoryEvents ++ s.waitEvents ++ s.lockEvents ++ s.engineEvents ++ s.launchEvents ++ s.fabricEvents
    ++ s.systemEvents ++ s.recordEvents ++ s.replayEvents ++ s.packageEvents

/-- The next step of the package's own agents, if one has something to do. -/
def State.nextEvent (s : State) : Option Event :=
  let l := s.agentEvents
  let k := s.steps / 2 % (l.length + 1)
  firstOf (l.drop k ++ l.take k)

/-- A step of the package's own agents. -/
def tryEvent (run : Instr → State → Host.Outcome State Fault Refusal) (s : State) : Option (Host.Outcome State Fault Refusal) :=
  s.nextEvent.map fun e => run e.op { s with arg := e.arg }

/-- A package that does not run takes a reset, and after a boot that stopped a write to its identity block. -/
def hostOnly (run : Instr → State → Host.Outcome State Fault Refusal) (s : State) : Host.Outcome State Fault Refusal :=
  match s.agenda with
  | e :: rest =>
    let s := { s with agenda := rest }
    if e.op == .resetPackage || (e.op == .registerWrite && !s.tripped) then run e.op { s with arg := e.arg } else .next s
  | [] => .next s

/-- The next word of a chain; where it has to wait the chain's threads wait before its first word. -/
def State.runChain (run : Instr → State → Host.Outcome State Fault Refusal) (s : State) (c : Chain) : Host.Outcome State Fault Refusal :=
  let r := s.resumeChain c
  match r.2 with
  | none => .next r.1
  | some i => match run i r.1 with
    | .next s' => .next (if s'.stalled then s'.parked i c.threads else s')
    | o => o

/-- The selectors' turn, or that of the package's own agents where no word can issue. -/
def State.issueTurn (run : Instr → State → Host.Outcome State Fault Refusal) (s : State) : Host.Outcome State Fault Refusal :=
  match tryBundles run s s.allCandidates with
  | (_, some o) => o
  | (s, none) => (tryEvent run s).getD (.next s)

/-- The turn of the package's own agents, or that of the selectors where they have nothing to do. -/
def State.agentTurn (run : Instr → State → Host.Outcome State Fault Refusal) (s : State) : Host.Outcome State Fault Refusal :=
  match tryEvent run s with
  | some o => o
  | none => match tryBundles run s s.allCandidates with
    | (_, some o) => o
    | (s, none) => .next s

/-- One step: the chain in progress goes on; else what the agenda holds comes; else the selectors and the
package's own agents take turns, or the agents alone where issue stands still for a change of frequency (R17). Where nobody has
anything to do, time passes. -/
def stepWith (run : Instr → State → Host.Outcome State Fault Refusal) (s : State) : Host.Outcome State Fault Refusal :=
  ticking (if s.down then hostOnly run s else match s.chain with
    | some c => s.runChain run c
    | none =>
      match s.agenda with
      | e :: rest => run e.op { s with agenda := rest, arg := e.arg }
      | [] => if s.freqNext.isSome then (tryEvent run s).getD (.next s) else if s.steps % 2 == 0 then s.issueTurn run else s.agentTurn run)

/-! ## A word placed to run next -/

/-- The thread that stands at the placed word, released from whatever rendezvous that has. -/
def placedThread : Thread :=
  { (default : Thread) with pc := 0, st := .ready, readyAt := 0, go := 1 }

/-- A wave of width 8 with one live thread, of the placed block. -/
def placedWave : Wave :=
  { (default : Wave) with ctx := 0, core := 0, block := 1, slot := 0, wid := 0, width := 8, lane := 0, regs := 240,
                          tag := 1, threads := [(0, placedThread)], m := [(0, 1)] }

/-- A block of one wave with a scratchpad. -/
def placedBlock : Block :=
  { (default : Block) with ctx := 0, core := 0, die := 0, scratch := 65536, acc := 32, sprouts := 16, credit := 8, nbx := 1, nby := 1, nbz := 1 }

/-- The state in which the words of `w` stand at virtual address 0 of context 0, whose heap window maps the
first 64 KiB of device memory, and one thread stands at them and issues next. -/
def State.placeWord (s : State) (w : Nat) : State :=
  { s with
    steps := 0, agenda := [], freqNext := none, chain := none, issue := none, stalled := false, lastCore := 0, accs := [], walks := [], homeOps := [],
    tripped := false, secst := 0, crypt := Crypt.reset, rrb := [], deadM := [], replays := [], colls := [], mcmds := [], teams := [],
    waves := [(1, placedWave)], blocks := [(1, placedBlock)], cores := [],
    mem := Memory.setList s.mem 0 (leBytes w 24), poison := [], l2 := [], dir := [], toHome := [], toAgent := [],
    ctxs := fput s.ctxs 0 { CtxRegs.reset with hwb := 15, hwl := 0x10000, hwo := 0 } }

end Sys2Proof.Machine
end

