-- ==== Sys2Proof/Machine/Step.lean ====
section
/-! DEFINITION. One step of the machine, and the state in which a given word runs next. -/

namespace Sys2Proof.Machine

/-- One step. -/
def step (s : State) : Host.Outcome State Fault Refusal := stepWith exec s

/-- The state in which the instruction whose bits are `w` runs next (log entry 5): the unit is read whole,
whatever `nbits`. -/
def State.withFetchWord (s : State) (nbits w : Nat) : State := s.placeWord (w % 2 ^ max nbits 192)

end Sys2Proof.Machine
end

