-- ==== Sys2Proof/Safety.lean ====
section
/-! DEFINITION. The terms in which claims speak of a run: when a bundle runs a word with the effect of its entry,
and what such a word may change. -/

namespace Sys2Proof.Machine

/-! ## Nothing is logged -/

/-- No context is recorded or replayed, and no home names a core to probe (R458, R465, R485). -/
structure Unlogged (s : State) : Prop where
  modes : ∀ c, s.recMode c ≠ 1 ∧ s.recMode c ≠ 2
  replays : s.replays = []
  probes : s.probeTab = []

/-! ## The bundle runs the word -/

/-- The bundle `b` runs the word `i` with its entry's effect: it is issuing, the word is legal (R63), none of the
causes that stand before the entry's own is met (R65, R329), its threads are threads of their waves, and no thread has a burst's error to
raise (R330), no wave a register with an error (R527). -/
structure MayRun (s : State) (i : Instr) (b : Issue) : Prop where
  issue : s.issue = some b
  form : legalForm i = true
  place : chainOk i b.pos = true
  fields : legalEntry i = true
  sprouts : sproutMay i = true ∨ ∀ x ∈ b.threads, (s.wave x.u).isSprout = false
  clean : ∀ x ∈ b.threads, s.active i x = true → s.preHit i x = none
  nodup : b.threads.Nodup
  there : ∀ x ∈ b.threads, (fget (s.wave x.u).threads x.i).isSome = true
  whole : ∀ x ∈ b.threads, (s.thread x).burst = none
  sound : ∀ x ∈ b.threads, (s.wave x.u).errs = []

/-- The bundle runs the word, and no context of its waves is recorded or replayed (R458, R485). -/
structure Runs (s : State) (i : Instr) (b : Issue) : Prop extends MayRun s i b where
  plain : ∀ x ∈ b.threads, s.recMode (s.wave x.u).ctx ≠ 1 ∧ s.recMode (s.wave x.u).ctx ≠ 2
  log : ∀ x ∈ b.threads, fget s.replays (s.wave x.u).ctx = none

/-- The threads of the bundle whose guard is true (R88). -/
def State.actives (s : State) (i : Instr) (b : Issue) : List TRef := b.threads.filter (s.active i)

/-! ## What a word may change -/

/-- Only waves differ, the chain in progress, the agents' next steps, the teams' watchdogs and the performance counters. -/
def OnlyWaves (s t : State) : Prop :=
  t = { s with waves := t.waves, chain := t.chain, agenda := t.agenda, teams := t.teams, perf := t.perf }

/-- What a word of registers keeps: all outside the waves, every byte of memory, and of the waves and threads all but
the registers and the threads' states; the threads of the bundle stand at `pc`, and outside a chain their latches are
invalid (R36, R62). A chain that ends here has committed what its words wrote; one that goes on keeps its waves as they were before its
first word (R61). -/
structure After (i : Instr) (b : Issue) (s t : State) (pc : TRef → Nat) : Prop where
  rest : OnlyWaves s t
  bytes : ∀ a, t.byteAt a = s.byteAt a
  wave : ∀ u, t.wave u = { s.wave u with
    threads := (t.wave u).threads, s := (t.wave u).s, m := (t.wave u).m, fpsw := (t.wave u).fpsw, recd := (t.wave u).recd }
  others : ∀ x, x ∉ b.threads → t.thread x = s.thread x
  mine : ∀ x ∈ b.threads, t.thread x = { s.thread x with
    pc := pc x, st := (t.thread x).st, readyAt := (t.thread x).readyAt, go := 0, at_ := b.unitPc, step := s.steps,
    v := (t.thread x).v, p := (t.thread x).p, y := (t.thread x).y, wfault := (t.thread x).wfault, past := (t.thread x).past, draw := (t.thread x).draw,
    slept := (t.thread x).slept }
  latches : chainBit i = false → ∀ x ∈ b.threads, (t.thread x).y = []
  ended : chainBit i = false → t.chain = none
  held : chainBit i = true → ∃ c, t.chain = some c ∧ (∀ k, s.chain = some k → c.saved = k.saved)
    ∧ (s.chain = none → ∀ x ∈ b.threads, fget c.saved x.u = some (s.wave x.u))

/-- The threads of the bundle keep their state and are ready again now, and no SLEEP of theirs is over. -/
def GoesOn (b : Issue) (s t : State) : Prop :=
  ∀ x ∈ b.threads, (t.thread x).st = (s.thread x).st ∧ (t.thread x).readyAt = s.steps ∧ (t.thread x).slept = (s.thread x).slept

/-- No draw counter moves. -/
def NoDraw (s t : State) : Prop := ∀ x, (t.thread x).draw = (s.thread x).draw

/-- The registers of a state are these: v and predicate registers by thread, uniform and mask registers and FPSW by
wave. -/
structure RegsAre (t : State) (v : TRef → Nat → Word) (p : TRef → Nat → Bool) (q : Nat → Nat → Word)
    (m : Nat → Nat → Dword) (f : Nat → Word) : Prop where
  v : ∀ x r, t.vreg x r = v x r
  p : ∀ x k, t.preg x k = p x k
  q : ∀ u r, t.sreg u r = q u r
  m : ∀ u k, t.mreg u k = m u k
  f : ∀ u, (t.wave u).fpsw = f u

/-- FPSW of a wave. -/
def State.fpswOf (s : State) (u : Nat) : Word := (s.wave u).fpsw

/-- The v registers after a word that gives its active threads a result of `n` words in D (R52): with W nothing is
written. -/
def State.vGiven (s : State) (i : Instr) (b : Issue) (d : BitVec 8) (w : Bool) (n : Nat) (val : TRef → Nat)
    (x : TRef) (r : Nat) : Word :=
  if x ∈ s.actives i b ∧ w = false ∧ d.toNat ≤ r ∧ r < d.toNat + n then BitVec.ofNat 32 (val x >>> (32 * (r - d.toNat)))
  else s.vreg x r

/-- The predicates after a word that gives its active threads a pair of them (R52): `pair x` is the first predicate's
value and the second's; both name 7 where nothing is written, and the second governs where both name the same. -/
def State.pPair (s : State) (i : Instr) (b : Issue) (d : BitVec 8) (pair : TRef → Bool × Bool) (x : TRef) (k : Nat) : Bool :=
  if x ∈ s.actives i b ∧ k < 7 ∧ k = (d.extractLsb' 3 3).toNat then (pair x).2
  else if x ∈ s.actives i b ∧ k < 7 ∧ k = (d.extractLsb' 0 3).toNat then (pair x).1
  else s.preg x k

/-- The word completes: its threads stand at the next word, and the registers are these and all else is kept. -/
def Completes (i : Instr) (b : Issue) (s : State) (v : TRef → Nat → Word) (p : TRef → Nat → Bool) (q : Nat → Nat → Word)
    (m : Nat → Nat → Dword) (f : Nat → Word) : Prop :=
  ∃ t, exec i s = .next t ∧ After i b s t (fun _ => b.nextPc) ∧ GoesOn b s t ∧ NoDraw s t ∧ RegsAre t v p q m f

/-- The word completes and writes v registers only. -/
def GivesV (i : Instr) (b : Issue) (s : State) (d : BitVec 8) (w : Bool) (n : Nat) (val : TRef → Nat) : Prop :=
  Completes i b s (s.vGiven i b d w n val) s.preg s.sreg s.mreg s.fpswOf

/-- The latches of a thread once the word's result of `n` words has shifted in, low word first; where its guard is false, the unchanged
destination (R59, R89). -/
def State.shifted (s : State) (i : Instr) (b : Issue) (d : BitVec 8) (n : Nat) (val : TRef → Nat) (x : TRef) : List Word :=
  (((List.range n).map fun k => if x ∈ s.actives i b then BitVec.ofNat 32 (val x >>> (32 * k)) else s.vreg x (d.toNat + k)).reverse
    ++ (s.thread x).y).take 4

/-- The word completes, writes v registers only, and within a chain shifts the latches of its threads. -/
def GivesR (i : Instr) (b : Issue) (s : State) (d : BitVec 8) (w : Bool) (n : Nat) (val : TRef → Nat) : Prop :=
  GivesV i b s d w n val ∧ (chainBit i = true → ∃ t, exec i s = .next t ∧ ∀ x ∈ b.threads, (t.thread x).y = s.shifted i b d n val x)

/-- The word completes and writes predicates only. -/
def GivesP (i : Instr) (b : Issue) (s : State) (p : TRef → Nat → Bool) : Prop :=
  Completes i b s s.vreg p s.sreg s.mreg s.fpswOf

/-! ## Words that raise flags -/

/-- The draw of a thread's `k`-th rounded element (R191, R192): 0 but under stochastic rounding. -/
def State.drawAt (s : State) (x : TRef) (mode k : Nat) : Nat :=
  if mode = 4 then drawOf (s.drawKey x) ((s.thread x).draw + BitVec.ofNat 64 k) else 0

/-- The flags that the active threads of a wave raise, together. -/
def State.flagsOf (s : State) (i : Instr) (b : Issue) (fl : TRef → Nat) (u : Nat) : Nat :=
  ((s.actives i b).filter fun x => x.u == u).foldl (fun m x => m ||| fl x) 0

/-- A word that raises flags completes where no enabled flag is raised (R197): v registers and predicates are these, the
flags are ORed into FPSW, and each active thread takes `dr` draws. -/
def FpCompletes (i : Instr) (b : Issue) (s : State) (v : TRef → Nat → Word) (p : TRef → Nat → Bool) (fl : TRef → Nat)
    (dr : TRef → Nat) : Prop :=
  Runs s i b → (∀ x ∈ s.actives i b, fl x &&& s.enOf x.u = 0) →
    ∃ t, exec i s = .next t ∧ After i b s t (fun _ => b.nextPc) ∧ GoesOn b s t
      ∧ (∀ x, (t.thread x).draw = (s.thread x).draw + BitVec.ofNat 64 (if x ∈ s.actives i b then dr x else 0))
      ∧ RegsAre t v p s.sreg s.mreg fun u => s.fpswOf u ||| BitVec.ofNat 32 (s.flagsOf i b fl u % 32)

/-- Element `j` of a class 3 word in a thread, with its flags: the operation on the elements of the sources, negated as asked, with the
element's own draw. -/
def State.fpElem (s : State) (h : Hdr) (f : FmtF) (op : FpOp) (ty bits n : Nat) (x : TRef) (j : Nat) : Nat × Nat :=
  let m := rndOf f.mod
  let el := fun (src : BitVec 8) (u neg : Bool) =>
    let c := s.srcNat x h src u n / 2 ^ (bits * j) % 2 ^ bits
    if neg then c ^^^ 2 ^ (bits - 1) else c
  op (ffmt ty) m (satOf f.mod) (s.drawAt x m j) (el f.a f.ua (naOf f.mod)) (el f.b f.ub (nbOf f.mod)) (el f.c f.uc (ncOf f.mod))

/-- A class 3 word of `k` elements of `bits` bits of format `ty` in `n` words: each element is the operation on the
elements of its sources, negated as asked, with its own draw. -/
def GivesFp (i : Instr) (b : Issue) (s : State) (h : Hdr) (f : FmtF) (op : FpOp) (ty bits n k : Nat) : Prop :=
  let m := rndOf f.mod
  let r := fun (x : TRef) (j : Nat) => s.fpElem h f op ty bits n x j
  FpCompletes i b s
    (s.vGiven i b f.d f.w n fun x => (List.range k).foldl (fun v j => v + (r x j).1 * 2 ^ (bits * j)) 0) s.preg
    (fun x => (List.range k).foldl (fun g j => g ||| (r x j).2) 0) fun _ => if m = 4 then k else 0

/-! ## Words of waves and of groups of lanes -/

/-- The wave has an active thread. -/
def State.hasActive (s : State) (i : Instr) (b : Issue) (u : Nat) : Bool := (s.actives i b).any fun x => x.u == u

/-- Bit `j` of a mask of wave `u` is this thread's, and it is active. -/
def State.isActive (s : State) (i : Instr) (b : Issue) (u j : Nat) : Bool := decide ((⟨u, j⟩ : TRef) ∈ s.actives i b)

/-- The word completes and gives mask `k` of each wave with active threads these bits, below its width (R92); a sprout
thread's masks read 0 (R98). -/
def GivesM (i : Instr) (b : Issue) (s : State) (k : Nat) (bit : Nat → Nat → Bool) : Prop :=
  ∃ M : Nat → Nat → Dword, Completes i b s s.vreg s.preg s.sreg M s.fpswOf
    ∧ ∀ u r j, j < 64 → ((s.hasActive i b u = true ∧ r = k ∧ (s.wave u).isSprout = false →
        (M u r).getLsbD j = (decide (j < (s.wave u).width) && bit u j))
      ∧ (¬ (s.hasActive i b u = true ∧ r = k ∧ (s.wave u).isSprout = false) → M u r = s.mreg u r))

/-- The uniform registers after `n` words have been written from `d` on in each wave with active threads; in a sprout
thread only s8 to s15 take a write (R327). -/
def State.sGiven (s : State) (i : Instr) (b : Issue) (d n : Nat) (val : Nat → Nat) (u r : Nat) : Word :=
  if s.hasActive i b u = true ∧ d ≤ r ∧ r < d + n ∧ ((s.wave u).isSprout = true → 8 ≤ r ∧ r < 16) then
    BitVec.ofNat 32 (val u >>> (32 * (r - d)))
  else s.sreg u r

/-- The selector of an exchange names the thread, or named it as the bundle's threads were released (R113). -/
def State.isIn (s : State) (b : Issue) (sel : Nat) (x : TRef) : Bool := (s.participants x.u sel).contains x.i || b.gang.contains x

/-- The threads that carry an exchange out with a thread (R113): the active ones that the selector names, ascending, or
the thread alone where it is not named. -/
def State.mates (s : State) (i : Instr) (b : Issue) (sel : Nat) (x : TRef) : List Nat :=
  if s.isIn b sel x then (threadsOf (s.actives i b) x.u).filter fun j => s.isIn b sel ⟨x.u, j⟩ else [x.i]

/-- Left fold of an operator of RDX and SCAN, ascending (R118): the value and the flags of all. -/
def foldAll (op ty : Nat) : List Nat → Nat × Nat
  | [] => (0, 0)
  | a :: l => l.foldl (fun r y => ((foldOp op ty r.1 y).1, r.2 ||| (foldOp op ty r.1 y).2)) (a, 0)

/-! ## Words of memory and of engines -/

/-- Every register of every thread and wave, every trap register and every context register is kept; the bundle's threads
stand at the next word, and all others where they stood. -/
structure KeepsRegs (b : Issue) (s t : State) : Prop where
  regs : RegsAre t s.vreg s.preg s.sreg s.mreg s.fpswOf
  mine : ∀ x ∈ b.threads, (t.thread x).pc = b.nextPc
  others : ∀ x, x ∉ b.threads → (t.thread x).pc = (s.thread x).pc
  traps : ∀ x, (t.thread x).tcause = (s.thread x).tcause ∧ (t.thread x).taddr = (s.thread x).taddr
    ∧ (t.thread x).tinfo = (s.thread x).tinfo ∧ (t.thread x).tpc = (s.thread x).tpc ∧ (t.thread x).skip = (s.thread x).skip
    ∧ (t.thread x).inh = (s.thread x).inh ∧ (t.thread x).draw = (s.thread x).draw
  ctxs : t.ctxs = s.ctxs

/-- Loads, stores and atomics. -/
def plainMem (i : Instr) : Bool :=
  match i with
  | .ld _ _ | .st _ _ | .ldw _ _ | .stw _ _ | .lds _ _ | .sts _ _ | .ldc _ _ | .stc _ _ | .ldu _ _ | .stu _ _ | .cctlZero _ _ => true
  | .atomAdd _ _ | .atomAnd _ _ | .atomOr _ _ | .atomXor _ _ | .atomMin _ _ | .atomMax _ _ | .atomXchg _ _ | .atomIncw _ _
  | .atomAddb _ _ | .atomFadd _ _ | .atomFmin _ _ | .atomFmax _ _ | .acas _ _ | .acas2 _ _ => true
  | .redAdd _ _ | .redAnd _ _ | .redOr _ _ | .redXor _ _ | .redMin _ _ | .redMax _ _ | .redIncw _ _ | .redFadd _ _
  | .redFmin _ _ | .redFmax _ _ => true
  | _ => false

/-- The address of a lane is canonical and aligned, nothing of the thread or its die is under way that it would wait
for (R171, R172), and no MWAIT has a monitor that could fire (R108). -/
structure LaneFits (s : State) (m : MemOp) (x : TRef) : Prop where
  canon : m.space = 0 → (s.memLane m x).ea < 2 ^ 56
  aligned : (s.memPlace m x (s.memLane m x).ea).2 ≠ 0 → (s.memLane m x).ea % (s.memPlace m x (s.memLane m x).ea).2 = 0
  inSector : (s.memPlace m x (s.memLane m x).ea).2 = 0 → (s.memPlace m x (s.memLane m x).ea).1 % 64 + m.n ≤ 64
  quiet : ∀ a ∈ s.accs, a.t ≠ x ∧ a.isOf x = false ∧ (m.space = 0 → dieOf a.core ≠ dieOf (s.wave x.u).core)
  fresh : ∀ a ∈ s.accs, a.id ≠ s.next
  still : ∀ a ∈ s.accs, a.armed = true → a.fired = true

/-- The lane's address translates to device memory, on a page that it may write at once if it writes (R159, R165). -/
structure Translates (s : State) (m : MemOp) (x : TRef) (pa cls : Nat) : Prop where
  first : (s.laneTrans false x (s.memPlace m x (s.memLane m x).ea).1 (if m.writes then .write else .read)).1 = .ok pa cls
  also : m.isRmw = true → ∃ q c, (s.laneTrans false x (s.memPlace m x (s.memLane m x).ea).1 .read).1 = .ok q c
  low : pa % 64 = (s.memPlace m x (s.memLane m x).ea).1 % 64
  hbm : (s.target pa).1 = .hbm
  home : s.lostHome pa = false
  page : m.writes = true → cls ≠ 2 ∧ s.collapsing pa = false

/-- The copy of the sector in one of the four dies is its newest data, held in E or M and sound; no other die's copy is newer, and the core
has none in its L1 (R151, R251). -/
structure HeldAt (s : State) (d core pa : Nat) (c : L2Copy) : Prop where
  die : d < 4
  copy : s.l2copy d (sectorOf pa) = some c
  held : c.st = .e ∨ c.st = .m
  newest : s.latest (sectorOf pa) = c.data
  sound : c.poison = false
  alone : ∀ e, e ≠ d → (s.l2st e (sectorOf pa)).dirtyOwner = false
  l1 : fget (s.core core).l1 (sectorOf pa) = none

/-- What an access of a kind makes of the `n` bytes that it finds (R173, R268 to R271): what it writes, what it returns,
and whether a bounded atomic failed. -/
def madeOf (kind : AccKind) (data data2 : BitVec 128) (old : Nat) : Option Nat × Nat × Bool :=
  match kind with
  | .store => (some data.toNat, 0, false)
  | .rmw op ty =>
    let r := atomApply op ty old data.toNat data2.toNat
    (if r.2.1 then some r.1 else none, old, r.2.2)
  | _ => (none, old, false)

/-- An access of this kind leaves nothing that comes back: it returns no value and is no acquire (R173, R275). -/
def leavesNothing (m : MemOp) : Prop :=
  (m.kind = .store ∨ m.isRmw = true ∧ m.dest = .none ∧ m.pf = none) ∧ (m.kind = .store ∨ ordOf m.h = 0 ∨ ordOf m.h = 2)

/-- The access of a lane that has been performed and has a value to return, or nothing where it returns none and is no
acquire (R173, R275). -/
def Returns (s t : State) (m : MemOp) (x : TRef) (v : Nat) (fail : Bool) : Prop :=
  (leavesNothing m → t.accs = s.accs)
    ∧ (¬ leavesNothing m → ∃ a, t.accs = s.accs ++ [a] ∧ a.id = s.next ∧ a.t = x ∧ a.kind = m.kind ∧ a.n = m.n ∧ a.dest = m.dest ∧ a.pf = m.pf
    ∧ a.st = .done (BitVec.ofNat 128 v) fail)

/-- The accesses of several threads have been performed, each with a value to return, or with nothing. -/
def AllReturn (s t : State) (m : MemOp) (l : List TRef) (v : TRef → Nat) (fail : TRef → Bool) : Prop :=
  (leavesNothing m → t.accs = s.accs)
    ∧ (¬ leavesNothing m → ∃ more, t.accs = s.accs ++ more ∧ more.length = l.length ∧ ∀ x ∈ l, ∃ a ∈ more, a.t = x ∧ a.kind = m.kind ∧ a.n = m.n
      ∧ a.dest = m.dest ∧ a.pf = m.pf ∧ a.st = .done (BitVec.ofNat 128 (v x)) (fail x))

/-! ## Steps of the sector protocol -/

/-- A home's step about sector `x` keeps all but the messages, the homes' entries, the lines that L3 holds and memory, and of
these the other sectors'. -/
structure HomeFrame (s t : State) (x : Nat) : Prop where
  rest : t = { s with toHome := t.toHome, toAgent := t.toAgent, dir := t.dir, probeTab := t.probeTab, mem := t.mem, crypt := t.crypt,
                      poison := t.poison, hostHad := t.hostHad, l3 := t.l3, pers := t.pers }
  dirs : ∀ y, y ≠ x → t.dirOf y = s.dirOf y
  homes : ∀ y, y ≠ x → t.homeSector y = s.homeSector y
  marks : ∀ y, y ≠ x → t.poison.contains y = s.poison.contains y

/-- A message of the sector protocol without a timestamp of a recording, sent at this state's tick. -/
def State.homeMsg (s : State) (k : MsgKind) (a : Agent) (x : Nat) (d : SectorData) (dirty flag bad : Bool) : Msg :=
  { kind := k, agent := a, x := x, data := d, dirty := dirty, flag := flag, poison := bad, ts := 0, sent := s.ptb }

/-- Every register and place of every thread and wave is as it was. -/
structure SameRegs (s t : State) : Prop where
  regs : RegsAre t s.vreg s.preg s.sreg s.mreg s.fpswOf
  pcs : ∀ x, (t.thread x).pc = (s.thread x).pc
  ctxs : t.ctxs = s.ctxs

/-! ## Words that act once for a wave -/

/-- The active threads of the bundle, at least one, are of wave `u`, and ready. -/
structure OneWave (s : State) (i : Instr) (b : Issue) (u : Nat) : Prop where
  same : ∀ x ∈ s.actives i b, x.u = u ∧ (s.thread x).st = .ready
  some : s.hasActive i b u = true

/-- The word completes, and every register of every thread and wave, every byte of memory and every thread's state is kept. -/
structure GoesOnPlain (i : Instr) (b : Issue) (s t : State) : Prop where
  next : exec i s = .next t
  keeps : KeepsRegs b s t
  bytes : ∀ a, t.byteAt a = s.byteAt a
  states : ∀ x, (t.thread x).st = (s.thread x).st

/-- The word completes, its active threads wait for `w`, and every register and every byte of memory is kept. -/
structure WaitsPlain (i : Instr) (b : Issue) (w : Wait) (s t : State) : Prop where
  next : exec i s = .next t
  keeps : KeepsRegs b s t
  bytes : ∀ a, t.byteAt a = s.byteAt a
  states : ∀ x, (t.thread x).st = if x ∈ s.actives i b then .waiting w else (s.thread x).st

/-- The word completes with these registers; no byte of memory and no context register changes. -/
structure WordGives (i : Instr) (b : Issue) (s t : State) (v : TRef → Nat → Word) (p : TRef → Nat → Bool)
    (q : Nat → Nat → Word) : Prop where
  next : exec i s = .next t
  regs : RegsAre t v p q s.mreg s.fpswOf
  mine : ∀ x ∈ b.threads, (t.thread x).pc = b.nextPc
  others : ∀ x, x ∉ b.threads → (t.thread x).pc = (s.thread x).pc
  ctxs : t.ctxs = s.ctxs
  bytes : ∀ a, t.byteAt a = s.byteAt a

/-- The word completes and no register changes. -/
abbrev WordKeeps (i : Instr) (b : Issue) (s t : State) : Prop := WordGives i b s t s.vreg s.preg s.sreg

/-- The v registers with one register of the active threads written. -/
def State.vOne (s : State) (i : Instr) (b : Issue) (d : Nat) (val : Word) (x : TRef) (r : Nat) : Word :=
  if x ∈ s.actives i b ∧ r = d then val else s.vreg x r

/-- The predicates with one of the active threads written; 7 names none. -/
def State.pOne (s : State) (i : Instr) (b : Issue) (k : Nat) (val : Bool) (x : TRef) (j : Nat) : Bool :=
  if x ∈ s.actives i b ∧ j = k ∧ k < 7 then val else s.preg x j

/-- The uniform registers with `n` words of a wave written from `d` on. -/
def State.sSet (s : State) (u d n val v r : Nat) : Word :=
  if v = u ∧ d ≤ r ∧ r < d + n then BitVec.ofNat 32 (val >>> (32 * (r - d))) else s.sreg v r

/-- A range lies in scratchpad, or a wave's pin translates each of its pages, which does what the range does and needs no change of
the tables (R167). -/
def Pinnable (s : State) (u : Nat) (g : Rng) : Prop :=
  g.space ≠ 0 ∨ ∀ page ∈ g.pages, ∃ pa cls, s.translateNow (s.wave u).core (s.wave u).ctx page (if g.write then .write else .read)
    (s.wave u).high true = (.ok pa cls, s)

/-- Only this stretch of one block's scratchpad differs. -/
structure ScrOnly (s t : State) (k off n : Nat) : Prop where
  others : ∀ q, q ≠ k → t.block q = s.block q
  bytes : ∀ j, j < off ∨ off + n ≤ j → Memory.get (t.block k).scr j = Memory.get (s.block k).scr j

/-! ## Rounding (R188 to R190)

Values are rational numbers and exact results real ones, so that nothing of the machine's own arithmetic stands in what a rounded result
is. -/

/-- (-1)^s times m times 2^e. -/
def signedQ (s : Bool) (m : Nat) (e : Int) : ℚ := (if s then -1 else 1) * m * 2 ^ e

/-- `r` is the magnitude that R188 gives for a result of sign `s` and exact magnitude `x`, in the set `has` of magnitudes: x itself where
it is one, else one of its two neighbours, by the mode and the draw `g`. -/
structure Rounds (has even : ℚ → Prop) (mode g : Nat) (s : Bool) (x : ℝ) (r : ℚ) : Prop where
  isOne : has r
  below : r ≤ x → ∀ c, has c → c ≤ x → c ≤ r
  above : x ≤ r → ∀ c, has c → x ≤ c → r ≤ c
  nearest : mode = 0 → ∀ c, has c → |x - r| ≤ |x - c| ∧ (c ≠ r → |x - r| = |x - c| → even r)
  toZero : mode = 1 → r ≤ x
  down : mode = 2 → if s then x ≤ r else r ≤ x
  up : mode = 3 → if s then r ≤ x else x ≤ r
  drawn : mode = 4 → ∀ lo hi, has lo → has hi → lo < x → x < hi → (∀ c, has c → c ≤ lo ∨ hi ≤ c) →
    r = if g < ⌊2 ^ 32 * (x - lo) / (hi - lo)⌋₊ then hi else lo

/-- The magnitudes of a format with its exponent unbounded above, and below too if `free` (R188, R190). -/
def FFmt.has (f : FFmt) (free : Bool) (c : ℚ) : Prop :=
  ∃ (k : Nat) (e : Int), k < 2 ^ (f.mb + 1) ∧ (free = false → 1 - (f.bias : Int) - f.mb ≤ e) ∧ c = k * 2 ^ e

/-- The mantissa of the magnitude is even. -/
def FFmt.evenIn (f : FFmt) (free : Bool) (c : ℚ) : Prop :=
  ∃ (k : Nat) (e : Int), k < 2 ^ (f.mb + 1) ∧ k % 2 = 0 ∧ c = k * 2 ^ e
    ∧ (k = 0 ∨ (2 ^ f.mb ≤ k ∧ (free = false → 1 - (f.bias : Int) - f.mb ≤ e)) ∨ (free = false ∧ e = 1 - (f.bias : Int) - f.mb))

/-- The largest finite magnitude of a format, and its code without sign (R181). -/
def FFmt.top (f : FFmt) : ℚ × Nat :=
  match f.nan with
  | 2 => ((2 ^ (f.mb + 1) - 1) * 2 ^ ((f.bias : Int) - f.mb), (2 ^ f.eb - 1) * 2 ^ f.mb - 1)
  | 1 => ((2 ^ (f.mb + 1) - 2) * 2 ^ ((f.bias : Int) + 1 - f.mb), 2 ^ (f.eb + f.mb) - 2)
  | _ => ((2 ^ (f.mb + 1) - 1) * 2 ^ ((2 ^ f.eb - 1 : Int) - f.bias - f.mb), 2 ^ (f.eb + f.mb) - 1)

/-- The code, without sign, that an overflow of a result of sign `s` gives (R189). -/
def FFmt.over (f : FFmt) (mode : Nat) (sat s : Bool) : Nat :=
  if sat = true ∨ f.nan = 0 then f.top.2
  else if f.nan = 1 then 2 ^ (f.eb + f.mb) - 1
  else if mode = 1 ∨ (mode = 2 ∧ s = false) ∨ (mode = 3 ∧ s = true) then f.top.2
  else (2 ^ f.eb - 1) * 2 ^ f.mb

/-- The code and the flags `r` are those of a nonzero result of sign `s` and exact magnitude `x` in a format: rounded once by R188,
overflow by R189, tiny by R190 and the flags by R195. -/
def FFmt.Delivers (f : FFmt) (mode : Nat) (sat : Bool) (g : Nat) (s : Bool) (x : ℝ) (r : Nat × Nat) : Prop :=
  ∃ m u : ℚ, Rounds (f.has false) (f.evenIn false) mode g s x m ∧ Rounds (f.has true) (f.evenIn true) mode g s x u
    ∧ (f.top.1 < m → r = ((if s then 2 ^ (f.eb + f.mb) else 0) + f.over mode sat s, fOF ||| fNX))
    ∧ (m ≤ f.top.1 → r.1 < 2 ^ (f.eb + f.mb + 1) ∧ (∃ k e, f.decode r.1 = .num s k e ∧ m = k * 2 ^ e)
      ∧ (x = m → r.2 = 0) ∧ (x ≠ m → r.2 = if 0 < u ∧ u < 2 ^ (1 - (f.bias : Int)) then fNX ||| fUF else fNX))

/-- The code of a format denotes the number. -/
def FFmt.Denotes (f : FFmt) (c : Nat) (v : ℚ) : Prop :=
  c < 2 ^ (f.eb + f.mb + 1) ∧ ∃ s m e, f.decode c = .num s m e ∧ v = signedQ s m e

/-- A result of exact value `x`: a zero takes the sign `z`, any other is delivered rounded. -/
def FFmt.Gives (f : FFmt) (mode : Nat) (sat : Bool) (g : Nat) (z : Bool) (x : ℚ) (r : Nat × Nat) : Prop :=
  if x = 0 then r = (if z then 2 ^ (f.eb + f.mb) else 0, 0) else f.Delivers mode sat g (decide (x < 0)) ((|x| : ℚ) : ℝ) r

end Sys2Proof.Machine
end

