-- ==== Sys2Proof/Certificates/Slice0/Obligations.lean ====
section
/-! DEFINITION. The statements for the provers: what the words and the other agents do, what they keep, and what every
step keeps. -/

open Sys2Proof Sys2Proof.Machine

/-! ## Classes 1 and 2 -/

/-- R126, R131, R132, R141: the exact integer result of a two or three source word, saturated where SAT asks, then
taken modulo its width. R133: the carry and the borrow come in by a predicate and go out by another. R59: within a chain the result shifts the
latches, low word first. -/
def Obligations.IntegerArithmeticAndCarryChains : Prop :=
  (∀ (s : State) (b : Issue) (h : Hdr) (f : FmtF),
    let ty := tyOf f.mod
    let n := tyWords ty
    let A := fun x => intRead ty (s.srcNat x h f.a f.ua n)
    let B := fun x => intRead ty (s.srcNat x h f.b f.ub n)
    let C := fun x => intRead ty (s.srcNat x h f.c f.uc n)
    let gives := fun (i : Instr) (val : TRef → Int) => Runs s i b → GivesR i b s f.d f.w n fun x =>
      ((if satOf f.mod then max (tyMin ty) (min (tyMax ty) (val x)) else val x) % (2 ^ (32 * n) : Int)).toNat
    gives (.iadd h f) (fun x => A x + B x) ∧ gives (.isub h f) (fun x => A x - B x) ∧ gives (.imul h f) (fun x => A x * B x)
      ∧ gives (.imin h f) (fun x => min (A x) (B x)) ∧ gives (.imax h f) (fun x => max (A x) (B x))
      ∧ gives (.iabs h f) (fun x => ((A x).natAbs : Int)) ∧ gives (.imad h f) (fun x => A x * B x + C x)
      ∧ gives (.imulh h f) (fun x => A x * B x / 2 ^ (32 * n))
      ∧ (Runs s (.imadw h f) b → GivesR (.imadw h f) b s f.d f.w 2 fun x =>
          ((intRead ty (s.srcNat x h f.a f.ua 1) * intRead ty (s.srcNat x h f.b f.ub 1)
            + intRead (ty + 2) (s.srcNat x h f.c f.uc 2)) % 2 ^ 64).toNat))
    ∧ (∀ (s : State) (b : Issue) (h : Hdr) (f : FmtF),
    let n := tyWords (tyOf f.mod)
    let A := fun x => s.srcNat x h f.a f.ua n
    let B := fun x => s.srcNat x h f.b f.ub n
    let ci := fun x => if s.preg x (f.c.extractLsb' 0 3).toNat != f.c.getLsbD 3 then 1 else 0
    let co := (f.c.extractLsb' 4 3).toNat
    let puts := fun (i : Instr) (val : TRef → Nat) (out : TRef → Bool) =>
      Completes i b s (s.vGiven i b f.d f.w n val)
        (fun x k => if x ∈ s.actives i b ∧ k = co ∧ co < 7 then out x else s.preg x k) s.sreg s.mreg s.fpswOf
    (Runs s (.iaddc h f) b → puts (.iaddc h f) (fun x => (A x + B x + ci x) % 2 ^ (32 * n)) fun x => decide (2 ^ (32 * n) ≤ A x + B x + ci x))
      ∧ (Runs s (.isubb h f) b → puts (.isubb h f) (fun x => (A x + 2 ^ (32 * n + 1) - B x - ci x) % 2 ^ (32 * n))
          fun x => decide (A x < B x + ci x)))

/-- R142: quotient and remainder, and the exception predicate that C names; no division traps. -/
def Obligations.DivisionNeverTraps : Prop := ∀ (s : State) (b : Issue) (h : Hdr) (f : FmtF),
  let ty := tyOf f.mod
  let n := tyWords ty
  let N := 32 * n
  let A := fun x => intRead ty (s.srcNat x h f.a f.ua n)
  let B := fun x => intRead ty (s.srcNat x h f.b f.ub n)
  let ovf := fun x => (ty = 0 ∨ ty = 2) ∧ A x = -(2 ^ (N - 1)) ∧ B x = -1
  let puts := fun (i : Instr) (val : TRef → Int) =>
    Completes i b s (s.vGiven i b f.d f.w n fun x => (val x % (2 ^ N : Int)).toNat)
      (fun x k => if x ∈ s.actives i b ∧ k = (f.c.extractLsb' 0 3).toNat ∧ k < 7 then decide (B x = 0 ∨ ovf x) else s.preg x k)
      s.sreg s.mreg s.fpswOf
  (WellFormed (.idiv h f) ∨ WellFormed (.irem h f) → f.c.toNat < 8 ∧ f.uc = false)
    ∧ (Runs s (.idiv h f) b → puts (.idiv h f) fun x => if B x = 0 then 2 ^ N - 1 else if ovf x then A x else Int.tdiv (A x) (B x))
    ∧ (Runs s (.irem h f) b → puts (.irem h f) fun x => if B x = 0 then A x else if ovf x then 0 else Int.tmod (A x) (B x))

/-- R54, R128, R129, R131, R137: the words of one source, and those with an immediate, in whose place an IMX value
stands. R135 to R137: select, address formation, and logic of two sources. -/
def Obligations.MovesLogicSelectAndAddress : Prop :=
  (∀ (s : State) (b : Issue) (h : Hdr) (f : FmtF) (g : FmtI),
    let n := tyWords (tyOf f.mod)
    let imm := fun (signed : Bool) (k : Nat) => match h.imx with
      | some x => if signed then (x.toInt % 2 ^ (32 * k)).toNat else x.toNat
      | none => if signed then (g.imm.toInt % 2 ^ (32 * k)).toNat else g.imm.toNat
    let lk := if g.mod.getLsbD 5 then 2 else 1
    let logic := fun (i : Instr) (op : Nat → Nat → Nat) => Runs s i b → GivesV i b s g.d g.w lk fun x =>
      op (s.srcNat x h g.a g.ua lk) (imm (g.mod.getLsbD 4) lk)
    let ty := (g.mod.extractLsb' 4 2).toNat
    let exact := fun x => intRead ty (s.srcNat x h g.a g.ua (tyWords ty)) + (match h.imx with
      | some y => y.toInt
      | none => g.imm.toInt)
    (Runs s (.mov h f) b → GivesV (.mov h f) b s f.d f.w n fun x => s.srcNat x h f.a f.ua n)
      ∧ (Runs s (.movi h g) b → GivesV (.movi h g) b s g.d g.w
          (if g.mod.extractLsb' 0 2 = 2 then 2 else 1) fun _ =>
            if g.mod.extractLsb' 0 2 = 0 then imm true 1 else if g.mod.extractLsb' 0 2 = 1 then imm false 1 else imm true 2)
      ∧ (Runs s (.iaddi h g) b → GivesV (.iaddi h g) b s g.d g.w (tyWords ty) fun x =>
          ((if g.mod.getLsbD 3 then max (tyMin ty) (min (tyMax ty) (exact x)) else exact x) % (2 ^ (32 * tyWords ty) : Int)).toNat)
      ∧ logic (.andi h g) (· &&& ·) ∧ logic (.ori h g) (· ||| ·) ∧ logic (.xori h g) (· ^^^ ·))
    ∧ (∀ (s : State) (b : Issue) (h : Hdr) (f : FmtF),
    let n := tyWords (tyOf f.mod)
    let A := fun k x => s.srcNat x h f.a f.ua k
    let B := fun k x => s.srcNat x h f.b f.ub k
    let C := fun k x => s.srcNat x h f.c f.uc k
    let sh := 2 ^ (f.mod.extractLsb' 7 3).toNat
    let idx := fun x => match (f.mod.extractLsb' 10 2).toNat with
      | 0 => sext (B 1 x) 32
      | 1 => (B 1 x : Int)
      | _ => (B 2 x : Int)
    let gives := fun (i : Instr) (val : TRef → Nat) => Runs s i b → GivesV i b s f.d f.w n val
    gives (.and h f) (fun x => A n x &&& B n x) ∧ gives (.or h f) (fun x => A n x ||| B n x) ∧ gives (.xor h f) (fun x => A n x ^^^ B n x)
      ∧ gives (.andn h f) (fun x => A n x &&& (B n x ^^^ (2 ^ (32 * n) - 1)))
      ∧ gives (.isel h f) (fun x => if s.preg x (f.c.extractLsb' 0 3).toNat ≠ f.c.getLsbD 3 then A n x else B n x)
      ∧ (Runs s (.lea h f) b → f.mod.getLsbD 6 = true →
          GivesV (.lea h f) b s f.d f.w 1 fun x => (A 1 x + B 1 x * sh + C 1 x) % 2 ^ 32)
      ∧ (Runs s (.lea h f) b → f.mod.getLsbD 6 = false →
          GivesV (.lea h f) b s f.d f.w 2 fun x => (((A 2 x : Int) + idx x * sh + sext (C 1 x) 32) % 2 ^ 64).toNat))

/-- R138: shifts of at least the width, and rotation. R139, R140: fields, counts and reversal, bit by bit. -/
def Obligations.ShiftsBitFieldsAndCounts : Prop :=
  (∀ (s : State) (b : Issue) (h : Hdr) (f : FmtF),
    let n := tyWords (tyOf f.mod)
    let N := 32 * n
    let A := fun x => s.srcNat x h f.a f.ua n
    let K := fun x => if f.mod.getLsbD 6 then (f.mod.extractLsb' 0 6).toNat else s.srcNat x h f.b f.ub 1
    let gives := fun (i : Instr) (val : TRef → Nat) => Runs s i b → GivesV i b s f.d f.w n val
    gives (.shl h f) (fun x => A x * 2 ^ K x % 2 ^ N) ∧ gives (.shr h f) (fun x => A x / 2 ^ K x)
      ∧ gives (.sha h f) (fun x => (sext (A x) N / 2 ^ K x % (2 ^ N : Int)).toNat)
      ∧ gives (.rot h f) (fun x => A x * 2 ^ (K x % N) % 2 ^ N + A x / 2 ^ (N - K x % N)))
    ∧ (∀ (s : State) (b : Issue) (h : Hdr) (f : FmtF),
    let ty := tyOf f.mod
    let n := tyWords ty
    let N := 32 * n
    let A := fun x => s.srcNat x h f.a f.ua n
    let B := fun x => s.srcNat x h f.b f.ub n
    let im := f.mod.getLsbD 6
    let pos := fun ctl => if im then f.c.toNat else ctl % 256
    let len := fun ctl => min (if im then (f.mod.extractLsb' 0 6).toNat + 1 else ctl / 256 % 256) (N - pos ctl)
    let cB := fun x => s.srcNat x h f.b f.ub 1
    let cC := fun x => s.srcNat x h f.c f.uc 1
    (Runs s (.bfe h f) b → GivesV (.bfe h f) b s f.d f.w n fun x =>
        let raw := A x / 2 ^ pos (cB x) % 2 ^ len (cB x)
        if (ty = 0 ∨ ty = 2) ∧ 0 < len (cB x) then (sext raw (len (cB x)) % (2 ^ N : Int)).toNat else raw)
      ∧ (Runs s (.bfi h f) b → ∃ val : TRef → Nat, GivesV (.bfi h f) b s f.d f.w n val ∧ ∀ x k, k < N → (val x).testBit k =
          if pos (cC x) ≤ k ∧ k < pos (cC x) + len (cC x) then (A x).testBit (k - pos (cC x)) else (B x).testBit k)
      ∧ (Runs s (.popc h f) b → GivesV (.popc h f) b s f.d f.w 1 fun x => ((List.range N).filter fun k => (A x).testBit k).length)
      ∧ (Runs s (.clz h f) b → GivesV (.clz h f) b s f.d f.w 1 fun x => ((List.range N).takeWhile fun k => !(A x).testBit (N - 1 - k)).length)
      ∧ (Runs s (.brev h f) b → ∃ val : TRef → Nat, GivesV (.brev h f) b s f.d f.w n val
          ∧ ∀ x k, k < N → (val x).testBit k = (A x).testBit (N - 1 - k)))

/-- R91, R134: integer compares write a pair of predicates; the second write governs where both name one. R206, R207:
floating-point compares write predicates and raise their flags; FCMP and DCMP write a pair by PM, HCMP2 one predicate
for each half. -/
def Obligations.ComparesWritePredicates : Prop :=
  (∀ (s : State) (b : Issue) (h : Hdr) (f : FmtF) (g : FmtI),
    let n := tyWords (tyOf f.mod)
    let test := fun (cmp : Nat) (a c : Int) (x y : Nat) => match cmp with
      | 0 => decide (a = c) | 1 => decide (a ≠ c) | 2 => decide (a < c) | 3 => decide (a ≤ c) | 4 => decide (a > c)
      | 5 => decide (a ≥ c) | _ => decide (x &&& y ≠ 0)
    let second := fun (pm : Nat) (r old : Bool) => match pm with
      | 0 => !r | 1 => false | 2 => r && old | _ => r || old
    let puts := fun (i : Instr) (d : BitVec 8) (pm : Nat) (r : TRef → Bool) => Runs s i b →
      GivesP i b s (s.pPair i b d fun x => (r x, second pm (r x) (s.preg x (d.extractLsb' 3 3).toNat)))
    let ty := if g.mod.getLsbD 5 then 1 else 0
    let imm := match h.imx with
      | some x => x.toNat
      | none => if ty = 0 then (g.imm.toInt % 2 ^ 32).toNat else g.imm.toNat
    puts (.icmp h f) f.d (f.mod.extractLsb' 2 2).toNat (fun x =>
        test (f.mod.extractLsb' 4 3).toNat (intRead (tyOf f.mod) (s.srcNat x h f.a f.ua n)) (intRead (tyOf f.mod) (s.srcNat x h f.b f.ub n))
          (s.srcNat x h f.a f.ua n) (s.srcNat x h f.b f.ub n))
      ∧ puts (.icmpi h g) g.d (g.mod.extractLsb' 0 2).toNat (fun x =>
        test (g.mod.extractLsb' 2 3).toNat (intRead ty (s.srcNat x h g.a g.ua 1)) (intRead ty imm) (s.srcNat x h g.a g.ua 1) imm))
    ∧ (∀ (s : State) (b : Issue) (h : Hdr) (f : FmtF),
    let cmp := (f.mod.extractLsb' 4 3).toNat
    let second := fun (r un old : Bool) => match (f.mod.extractLsb' 2 2).toNat with
      | 0 => !r | 1 => un | 2 => r && old | _ => r || old
    let one := fun (i : Instr) (ty n : Nat) =>
      let r := fun x => cmpCodes ty (tyBits ty) cmp (s.srcNat x h f.a f.ua n) (s.srcNat x h f.b f.ub n) (f.mod.getLsbD 1) (f.mod.getLsbD 0)
      FpCompletes i b s s.vreg
        (s.pPair i b f.d fun x => ((r x).1, second (r x).1 (r x).2.1 (s.preg x (f.d.extractLsb' 3 3).toNat)))
        (fun x => (r x).2.2) fun _ => 0
    let ty := if tyOf f.mod = 0 then 12 else tyOf f.mod
    let half := fun (x : TRef) (k : Nat) => cmpCodes ty 16 cmp (s.srcNat x h f.a f.ua 1 / 2 ^ (16 * k)) (s.srcNat x h f.b f.ub 1 / 2 ^ (16 * k))
      (naOf f.mod) (nbOf f.mod)
    one (.fcmp h f) (if tyOf f.mod = 0 then 10 else tyOf f.mod) 1 ∧ one (.dcmp h f) 11 2
      ∧ FpCompletes (.hcmp2 h f) b s s.vreg (s.pPair (.hcmp2 h f) b f.d fun x => ((half x 0).1, (half x 1).1))
          (fun x => (half x 0).2.2 ||| (half x 1).2.2) fun _ => 0)

/-! ## Classes 3 and 4 -/

/-- R197, R199 to R205: a word that rounds writes its packed results and ORs the flags of all its elements into FPSW,
when no enabled flag is raised; under stochastic rounding each element takes one draw (R192), from the generator of R191. What the
results are is `RoundingAndSpecialOperands`. -/
def Obligations.FloatArithmeticResults : Prop := ∀ (s : State) (b : Issue) (h : Hdr) (f : FmtF),
  let f32op := fun (i : Instr) (op : FpOp) =>
    if tyOf f.mod = 9 then GivesFp i b s h f op 10 32 2 2 else GivesFp i b s h f op 10 32 1 1
  let half := fun (i : Instr) (op : FpOp) => GivesFp i b s h f op (if tyOf f.mod = 0 then 12 else tyOf f.mod) 16 1 2
  let double := fun (i : Instr) (op : FpOp) => GivesFp i b s h f op 11 64 2 1
  f32op (.fadd h f) opAdd ∧ f32op (.fsub h f) opSub ∧ f32op (.fmul h f) opMul ∧ f32op (.ffma h f) opFma
    ∧ f32op (.fmin h f) opMin ∧ f32op (.fmax h f) opMax ∧ f32op (.fclamp h f) opClamp ∧ f32op (.frnd h f) opRnd
    ∧ f32op (.ffrac h f) opFrac ∧ f32op (.frcp h f) opRcp ∧ f32op (.frsq h f) opRsq ∧ f32op (.fsqrt h f) opSqrt
    ∧ f32op (.fdiv h f) opDiv ∧ f32op (.fexp2 h f) (opTransc 0) ∧ f32op (.flog2 h f) (opTransc 1)
    ∧ f32op (.fsin h f) (opTransc 2) ∧ f32op (.fcos h f) (opTransc 3) ∧ f32op (.ftanh h f) (opTransc 4)
    ∧ half (.hadd2 h f) opAdd ∧ half (.hmul2 h f) opMul ∧ half (.hfma2 h f) opFma ∧ half (.hmin2 h f) opMin
    ∧ half (.hmax2 h f) opMax ∧ double (.dadd h f) opAdd ∧ double (.dmul h f) opMul ∧ double (.dfma h f) opFma
    ∧ ∀ (x : TRef) (k : Nat),
      let mix := fun (z : Dword) =>
        let y := (z ^^^ (z >>> 30)) * 0xBF58476D1CE4E5B9
        let v := (y ^^^ (y >>> 27)) * 0x94D049BB133111EB
        v ^^^ (v >>> 31)
      let bl := s.block (s.wave x.u).block
      let key := mix (bl.seed ^^^ bl.blin) ^^^ match (s.wave x.u).sprout with
        | none => BitVec.ofNat 64 (s.tid x)
        | some p => BitVec.ofNat 64 (2 ^ 63) ^^^ BitVec.ofNat 64 (p.req * 2 ^ 32) ^^^ BitVec.ofNat 64 p.ordinal
      s.drawAt x 4 k = ((mix (key + ((s.thread x).draw + BitVec.ofNat 64 k + 1) * 0x9E3779B97F4A7C15)).extractLsb' 32 32).toNat

/-- R203, R210, R211, R219, R220, R222: words that raise no flag: select, classify, permute, pack, unpack, and the
decoding of blocks. R215 to R218, R221, R223: conversions and block encodings, with their flags and draws; what a conversion's code is,
`ConversionsRoundOnce` says. The model's readings: CVT takes its draw under RND 4 between any two formats (log entry 23), and QDEC runs
with a uniform A (log entry 79). -/
def Obligations.ConversionsPackingAndBlocks : Prop :=
  (∀ (s : State) (b : Issue) (h : Hdr) (f : FmtF),
    let ty := tyOf f.mod
    let A := fun k x => s.srcNat x h f.a f.ua k
    let B := fun k x => s.srcNat x h f.b f.ub k
    let C := fun k x => s.srcNat x h f.c f.uc k
    let cty := if ty = 0 then 10 else ty
    let src := fun x => (B 1 x * 2 ^ 32 + A 1 x, C 1 x)
    let byte := fun (x : TRef) (k : Nat) =>
      let c := (src x).2 / 2 ^ (4 * k) % 16
      let y := (src x).1 / 2 ^ (8 * (c % 8)) % 256
      if c < 8 then y else if y < 128 then 0 else 255
    let sc := fun x => if f.mod.getLsbD 3 then none else some (A 2 x / 2 ^ 56)
    let el := fun (x : TRef) (k : Nat) => decodeElem ty (A 2 x / 2 ^ (tyBits ty * k) % 2 ^ tyBits ty) (sc x)
    (Runs s (.fsel h f) b → GivesV (.fsel h f) b s f.d f.w 1 fun x =>
        if s.preg x (f.c.extractLsb' 0 3).toNat ≠ f.c.getLsbD 3 then (if naOf f.mod then A 1 x ^^^ 2 ^ 31 else A 1 x)
        else if nbOf f.mod then B 1 x ^^^ 2 ^ 31 else B 1 x)
      ∧ (Runs s (.fclass h f) b → GivesV (.fclass h f) b s f.d f.w 1 fun x => classMask cty (A (if cty = 11 then 2 else 1) x))
      ∧ (Runs s (.prmt h f) b → GivesV (.prmt h f) b s f.d f.w 1 fun x =>
          byte x 0 + byte x 1 * 2 ^ 8 + byte x 2 * 2 ^ 16 + byte x 3 * 2 ^ 24)
      ∧ (Runs s (.pack2 h f) b → GivesV (.pack2 h f) b s f.d f.w 1 fun x =>
          packPair (byteTy ty) (f.mod.getLsbD 2) (narrow ty (satOf f.mod) (A 1 x)) (narrow ty (satOf f.mod) (B 1 x)) (C 1 x))
      ∧ (Runs s (.unpk2 h f) b → GivesV (.unpk2 h f) b s f.d f.w 2 fun x =>
          let e := unpackPair (byteTy ty) (f.mod.getLsbD 2) (A 1 x)
          placeCode ty e.2 * 2 ^ 32 + placeCode ty e.1)
      ∧ (Runs s (.qdec h f) b → GivesV (.qdec h f) b s f.d f.w 8 fun x =>
          el x 0 + el x 1 * 2 ^ 32 + el x 2 * 2 ^ 64 + el x 3 * 2 ^ 96 + el x 4 * 2 ^ 128 + el x 5 * 2 ^ 160 + el x 6 * 2 ^ 192
            + el x 7 * 2 ^ 224)
      ∧ (Runs s (.bsclDec h f) b → GivesV (.bsclDec h f) b s f.d f.w 1 fun x =>
          if A 1 x % 256 = 0xFF then 0x7FC00000
          else (convertTo 10 0 false 0 (.num false (scaleVal (A 1 x % 256)).1 (scaleVal (A 1 x % 256)).2)).1))
    ∧ (∀ (s : State) (b : Issue) (h : Hdr) (f : FmtF),
    let ty := tyOf f.mod
    let m := rndOf f.mod
    let A := fun k x => s.srcNat x h f.a f.ua k
    let B := fun k x => s.srcNat x h f.b f.ub k
    let C := fun k x => s.srcNat x h f.c f.uc k
    let dr := fun (x : TRef) (k : Nat) => s.drawAt x m k
    let puts := fun (i : Instr) (n k : Nat) (val : TRef → Nat × Nat) =>
      FpCompletes i b s (s.vGiven i b f.d f.w n fun x => (val x).1) s.preg (fun x => (val x).2) fun _ => if m = 4 then k else 0
    let st := f.b.toNat
    let vs := fun x => (List.range 8).map fun k => f32.decode (s.vreg x (f.a.toNat + k)).toNat
    let sc := fun x => blockScale ty (vs x) (if f.uc = false ∧ f.c = 244 then none else some (C 1 x))
    puts (.cvt h f) (fmtWords ty) 1 (fun x => cvtCode ty st m (satOf f.mod) (dr x 0) (A (fmtWords st) x))
      ∧ puts (.cvtp h f) 1 2 (fun x =>
          let e := convertTo ty m (satOf f.mod) (dr x 0) (f32.decode (A 1 x))
          let g := convertTo ty m (satOf f.mod) (dr x 1) (f32.decode (B 1 x))
          (packPair (byteTy ty) (f.mod.getLsbD 2) e.1 g.1 (C 1 x), e.2 ||| g.2))
      ∧ FpCompletes (.cvtx h f) b s (s.vGiven (.cvtx h f) b f.d f.w 2 fun x =>
          let e := unpackPair (byteTy ty) (f.mod.getLsbD 2) (A 1 x)
          (convertTo 10 0 false 0 (valueOf ty e.2)).1 * 2 ^ 32 + (convertTo 10 0 false 0 (valueOf ty e.1)).1) s.preg
          (fun x =>
            let e := unpackPair (byteTy ty) (f.mod.getLsbD 2) (A 1 x)
            (convertTo 10 0 false 0 (valueOf ty e.1)).2 ||| (convertTo 10 0 false 0 (valueOf ty e.2)).2) (fun _ => 0)
      ∧ FpCompletes (.qenc h f) b s (s.vGiven (.qenc h f) b f.d f.w 2 fun x =>
          sc x * 2 ^ 56 + (packBlock ty m (sc x) (vs x) (if scaleRounds (sc x) then (List.range 8).map (dr x) else [])).1) s.preg
          (fun x => (packBlock ty m (sc x) (vs x) (if scaleRounds (sc x) then (List.range 8).map (dr x) else [])).2
            ||| if (vs x).any FVal.special then fIV else 0)
          (fun x => if m = 4 ∧ scaleRounds (sc x) = true then 8 else 0)
      ∧ FpCompletes (.bsclEnc h f) b s (s.vGiven (.bsclEnc h f) b f.d f.w 1 fun x => blockScale ty [f32.decode (A 1 x)] none) s.preg
          (fun x => if (f32.decode (A 1 x)).special then fIV else 0) fun _ => 0)

/-- R181, R188 to R190, R195: the arithmetic of class 3 is exact and rounded once, a zero taking its sign by IEEE 754 (R201, R208, R209);
R212: FRCP, FRSQ, FSQRT and FDIV are the exact function rounded once, and FEXP2, FLOG2, FSIN, FCOS and FTANH give the exact results they
have. R193: the first NaN operand is the result, made quiet; an invalid operation gives the default NaN. R189, R213: infinite and other
special operands. R202: FMIN, FMAX and FCLAMP. The model's readings: a result is first rounded with its exponent unbounded above in the
formats without infinity too (log entry 23). -/
def Obligations.RoundingAndSpecialOperands : Prop :=
  (∀ (t c : Nat), 10 ≤ t → t ≤ 18 → let f := ffmt t
    c < 2 ^ (f.eb + f.mb + 1) → let e := c / 2 ^ f.mb % 2 ^ f.eb; let m := c % 2 ^ f.mb
    (f.nan = 2 → e < 2 ^ f.eb - 1) → (f.nan = 1 → ¬ (e = 2 ^ f.eb - 1 ∧ m = 2 ^ f.mb - 1)) →
    f.Denotes c ((if c.testBit (f.eb + f.mb) then -1 else 1) * (if e = 0 then (m : ℚ) / 2 ^ f.mb * 2 ^ (1 - (f.bias : Int))
      else (1 + (m : ℚ) / 2 ^ f.mb) * 2 ^ ((e : Int) - f.bias))))
    ∧ (∀ (t mode g a b c : Nat) (sat : Bool), 10 ≤ t → t ≤ 13 → mode ≤ 4 → g < 2 ^ 32 →
    let f := ffmt t
    let w := f.eb + f.mb
    let neg := fun (k : Nat) => k.testBit w
    let r := fun (op : FpOp) => op f mode sat g a b c
    let gives := f.Gives mode sat g
    (∀ va vb, f.Denotes a va → f.Denotes b vb →
        gives (if va = 0 ∧ vb = 0 ∧ neg a = neg b then neg a else decide (mode = 2)) (va + vb) (r opAdd)
        ∧ gives (if va = 0 ∧ vb = 0 ∧ neg a ≠ neg b then neg a else decide (mode = 2)) (va - vb) (r opSub)
        ∧ gives (neg a != neg b) (va * vb) (r opMul) ∧ (vb ≠ 0 → gives (neg a != neg b) (va / vb) (r opDiv))
        ∧ ∀ vc, f.Denotes c vc →
          gives (if va * vb = 0 ∧ vc = 0 ∧ (neg a != neg b) = neg c then neg c else decide (mode = 2)) (va * vb + vc) (r opFma))
      ∧ ∀ va, f.Denotes a va →
        (va ≠ 0 → gives false (1 / va) (r opRcp))
        ∧ (0 < va → f.Delivers mode sat g false (√(va : ℝ)) (r opSqrt) ∧ f.Delivers mode sat g false (1 / √(va : ℝ)) (r opRsq))
        ∧ (∃ m : ℚ, Rounds (fun y => ∃ n : Nat, y = n) (fun y => ∃ n : Nat, y = 2 * n) mode g (neg a) ((|va| : ℚ) : ℝ) m
          ∧ f.Denotes (r opRnd).1 (if neg a then -m else m) ∧ neg (r opRnd).1 = neg a ∧ (r opRnd).2 = 0)
        ∧ (t = 10 → ∃ y, f.Gives mode false g false (va - ⌊va⌋) y ∧ r opFrac = (min y.1 0x3F7FFFFF, y.2 % 2)))
    ∧ (∀ (t mode g a b c : Nat) (sat : Bool), 10 ≤ t → t ≤ 13 → mode ≤ 4 → let f := ffmt t
    let w := f.eb + f.mb
    a < 2 ^ (w + 1) → b < 2 ^ (w + 1) → c < 2 ^ (w + 1) →
    let infC := (2 ^ f.eb - 1) * 2 ^ f.mb
    let dflt := infC + 2 ^ (f.mb - 1)
    let neg := fun (k : Nat) => k.testBit w
    let put := fun (s : Bool) (k : Nat) => (if s then 2 ^ w else 0) + k
    let limit := fun (s : Bool) => put s (if sat then infC - 1 else infC)
    let inf := fun (k : Nat) => k % 2 ^ w = infC
    let zero := fun (k : Nat) => k % 2 ^ w = 0
    let nan := fun (k : Nat) => decide (infC < k % 2 ^ w)
    let sig := fun (k : Nat) => nan k && !k.testBit (f.mb - 1)
    let quiet := fun (k : Nat) => k ||| 2 ^ (f.mb - 1)
    let iv := fun (x : Bool) => if x then fIV else 0
    let order := fun (k : Nat) => if neg k then -((k % 2 ^ w : Nat) : Int) - 1 else ((k : Nat) : Int)
    let two := (if nan a then quiet a else quiet b, iv (sig a || sig b))
    let r := fun (op : FpOp) => op f mode sat g a b c
    let invalid := inf a ∧ zero b ∨ zero a ∧ inf b
    (nan a = true ∨ nan b = true → r opAdd = two ∧ r opSub = two ∧ r opMul = two ∧ r opDiv = two)
      ∧ (nan a = true ∨ nan b = true ∨ nan c = true → r opFma =
        (if nan a then quiet a else if nan b then quiet b else quiet c, iv (sig a || sig b || sig c || decide invalid)))
      ∧ (nan a = true → ∀ op ∈ [opRcp, opRsq, opSqrt, opRnd, opFrac, opTransc 0, opTransc 1, opTransc 2, opTransc 3, opTransc 4],
        r op = (quiet a, iv (sig a)))
      ∧ (nan a = false → nan b = false →
        (inf a → r opAdd = (if inf b ∧ neg a ≠ neg b then (dflt, fIV) else (limit (neg a), 0))
          ∧ r opSub = (if inf b ∧ neg a = neg b then (dflt, fIV) else (limit (neg a), 0))
          ∧ r opDiv = (if inf b then (dflt, fIV) else (limit (neg a != neg b), 0)))
        ∧ (¬ inf a → inf b → r opAdd = (limit (neg b), 0) ∧ r opSub = (limit (!neg b), 0) ∧ r opDiv = (put (neg a != neg b) 0, 0))
        ∧ (¬ inf a → zero b → r opDiv = if zero a then (dflt, fIV) else (limit (neg a != neg b), fDZ))
        ∧ (inf a ∨ inf b → r opMul = if invalid then (dflt, fIV) else (limit (neg a != neg b), 0))
        ∧ (nan c = false → inf a ∨ inf b ∨ inf c → r opFma =
          if invalid then (dflt, fIV)
          else if inf a ∨ inf b then (if inf c ∧ neg c ≠ (neg a != neg b) then (dflt, fIV) else (limit (neg a != neg b), 0))
          else (limit (neg c), 0))
        ∧ r opMin = (if order a ≤ order b then a else b, 0) ∧ r opMax = (if order a ≥ order b then a else b, 0))
      ∧ (nan a ≠ nan b → r opMin = (if nan a then b else a, iv (sig a || sig b)) ∧ r opMax = r opMin)
      ∧ (nan a = true → nan b = true → r opMin = two ∧ r opMax = two)
      ∧ r opClamp = ((opMin f mode sat g (r opMax).1 c c).1, (r opMax).2 ||| (opMin f mode sat g (r opMax).1 c c).2))
    ∧ ∀ (mode g a : Nat) (sat : Bool), mode ≤ 4 → g < 2 ^ 32 → a < 2 ^ 32 →
    let r := fun (op : FpOp) => op f32 mode sat g a 0 0
    let one := fun (s : Bool) => (if s then 0xBF800000 else 0x3F800000, 0)
    (∀ e ∈ ([(opRcp, 0xFF800000, 0x80000000, 0), (opRcp, 0x80000000, 0xFF800000, fDZ), (opRcp, 0, 0x7F800000, fDZ), (opRcp, 0x7F800000, 0, 0),
        (opRsq, 0xFF800000, 0x7FC00000, fIV), (opRsq, 0x80000000, 0xFF800000, fDZ), (opRsq, 0, 0x7F800000, fDZ), (opRsq, 0x7F800000, 0, 0),
        (opSqrt, 0xFF800000, 0x7FC00000, fIV), (opSqrt, 0x80000000, 0x80000000, 0), (opSqrt, 0, 0, 0), (opSqrt, 0x7F800000, 0x7F800000, 0),
        (opTransc 0, 0xFF800000, 0, 0), (opTransc 0, 0x80000000, 0x3F800000, 0), (opTransc 0, 0, 0x3F800000, 0),
        (opTransc 0, 0x7F800000, 0x7F800000, 0), (opTransc 1, 0xFF800000, 0x7FC00000, fIV), (opTransc 1, 0x80000000, 0xFF800000, fDZ),
        (opTransc 1, 0, 0xFF800000, fDZ), (opTransc 1, 0x7F800000, 0x7F800000, 0), (opTransc 2, 0xFF800000, 0x7FC00000, fIV),
        (opTransc 2, 0x80000000, 0x80000000, 0), (opTransc 2, 0, 0, 0), (opTransc 2, 0x7F800000, 0x7FC00000, fIV),
        (opTransc 3, 0xFF800000, 0x7FC00000, fIV), (opTransc 3, 0x80000000, 0x3F800000, 0), (opTransc 3, 0, 0x3F800000, 0),
        (opTransc 3, 0x7F800000, 0x7FC00000, fIV), (opTransc 4, 0xFF800000, 0xBF800000, 0), (opTransc 4, 0x80000000, 0x80000000, 0),
        (opTransc 4, 0, 0, 0), (opTransc 4, 0x7F800000, 0x3F800000, 0), (opFrac, 0x7F800000, 0x7FC00000, fIV),
        (opFrac, 0xFF800000, 0x7FC00000, fIV)] : List (FpOp × Nat × Nat × Nat)),
        a = e.2.1 → r e.1 = (if sat = true ∧ e.2.2.1 % 2 ^ 31 = 0x7F800000 then e.2.2.1 - 1 else e.2.2.1, e.2.2.2))
      ∧ (a % 2 ^ 31 = 0x7F800000 → r opRnd = (a, 0))
      ∧ (0x80000000 < a → a ≤ 0xFF800000 → r opRsq = (0x7FC00000, fIV) ∧ r opSqrt = (0x7FC00000, fIV) ∧ r (opTransc 1) = (0x7FC00000, fIV))
      ∧ (∀ n : Int, f32.Denotes a n → f32.Gives mode sat g false (2 ^ n) (r (opTransc 0)) ∧ r (opTransc 2) = (a / 2 ^ 31 * 2 ^ 31, 0)
        ∧ r (opTransc 3) = one (decide (n % 2 = 1)))
      ∧ (∀ n : Int, f32.Denotes a (2 ^ n) → f32.Gives mode sat g false n (r (opTransc 1)))
      ∧ (∀ n : Int, f32.Denotes a (n + 1 / 2) → r (opTransc 2) = one (decide (n % 2 = 1)) ∧ r (opTransc 3) = (0, 0))
      ∧ (mode = 1 → a % 2 ^ 31 < 0x7F800000 → (r (opTransc 4)).1 % 2 ^ 31 < 0x3F800000 ∧ (r (opTransc 4)).1 / 2 ^ 31 = a / 2 ^ 31)

/-- R215, R216: CVT between the formats of R181 to R183, by the numbers their codes denote: an integer is kept, saturated or taken modulo
its width; a floating-point number becomes an integer by one rounding, saturated with IV out of range; into a floating-point format, q4
and tn2 the value is rounded once. R189, R193 to R195: infinities and NaNs. R184: a signed integer fills its register with its sign. The
model's readings: an infinity raises IV alone in a conversion to a format without it, and an overflow OF there too (log entry 23). -/
def Obligations.ConversionsRoundOnce : Prop := ∀ (dt st mode g c : Nat) (sat : Bool), mode ≤ 4 → g < 2 ^ 32 →
  let isInt := fun (t : Nat) => t ≤ 7 ∨ t = 20
  let isFlt := fun (t : Nat) => 10 ≤ t ∧ t ≤ 18
  let signed := fun (t : Nat) => t ∈ [0, 2, 4, 6, 20]
  let lo := fun (t : Nat) => if signed t then -2 ^ (tyBits t - 1) else (0 : Int)
  let hi := fun (t : Nat) => (if signed t then 2 ^ (tyBits t - 1) else 2 ^ tyBits t : Int) - 1
  let put := fun (v : Int) => (v % 2 ^ max 32 (tyBits dt)).toNat
  let k := c % 2 ^ tyBits st
  let F := ffmt st
  let G := ffmt dt
  let s := k.testBit (tyBits st - 1)
  let code := fun (n : Nat) => (if s then 2 ^ (G.eb + G.mb) else 0) + n
  let denotes := fun (v : ℚ) =>
    (isInt st → ∃ n : Int, v = n ∧ lo st ≤ n ∧ n ≤ hi st ∧ n ≡ c [ZMOD 2 ^ tyBits st])
    ∧ (isFlt st → F.Denotes k v)
    ∧ (st = 19 → v = (if k ≤ 8 then 1 else -1) * ([0, 3, 6, 9, 13, 17, 23, 32].getD (k % 8) 0 : ℚ) / 32)
    ∧ (st = 21 → v = if k = 1 then 1 else if k = 3 then -1 else 0)
  let inf := isFlt st ∧ F.nan = 2 ∧ k % 2 ^ (F.eb + F.mb) = (2 ^ F.eb - 1) * 2 ^ F.mb
  let nan := isFlt st ∧ (F.nan = 2 ∧ (2 ^ F.eb - 1) * 2 ^ F.mb < k % 2 ^ (F.eb + F.mb) ∨ F.nan = 1 ∧ k % 2 ^ (F.eb + F.mb) = 2 ^ (F.eb + F.mb) - 1)
  let iv := if F.nan = 2 ∧ k.testBit (F.mb - 1) = false then fIV else 0
  let r := cvtCode dt st mode sat g c
  let steps := fun (mags : List ℚ) (v : ℚ) (top neg : Nat) =>
    (1 < |v| → r = (if v < 0 then neg + top else top, fOF ||| fNX))
    ∧ (|v| ≤ 1 → ∃ j ≤ top, Rounds (fun y => y ∈ mags) (fun y => ∃ i, i % 2 = 0 ∧ mags[i]? = some y) mode g (decide (v < 0)) ((|v| : ℚ) : ℝ) (mags.getD j 0)
      ∧ r = (if v < 0 ∧ j ≠ 0 then neg + j else j, if |v| = mags.getD j 0 then 0 else fNX))
  isInt st ∨ isFlt st ∨ st = 19 ∨ st = 21 →
  (isInt dt → ∀ v, denotes v → (isInt st → ∃ u, lo dt ≤ u ∧ u ≤ hi dt ∧ r = (put u, 0)
        ∧ (if sat then (u : ℚ) = max (lo dt : ℚ) (min (hi dt) v) else ∃ n : Int, v = n ∧ u ≡ n [ZMOD 2 ^ tyBits dt]))
      ∧ (¬ isInt st → ∃ n : Nat, Rounds (fun y => ∃ i : Nat, y = i) (fun y => ∃ i : Nat, y = 2 * i) mode g (decide (v < 0)) ((|v| : ℚ) : ℝ) n
        ∧ let m := if v < 0 then -(n : Int) else n
          r = if m < lo dt ∨ hi dt < m then (put (max (lo dt) (min (hi dt) m)), fIV) else (put m, if v = m then 0 else fNX)))
    ∧ (isFlt dt → ∀ v, denotes v → if v = 0 then r = (if isFlt st then code 0 else 0, 0) else G.Delivers mode sat g (decide (v < 0)) ((|v| : ℚ) : ℝ) r)
    ∧ (dt = 19 → ∀ v, denotes v → steps [0, 3 / 32, 6 / 32, 9 / 32, 13 / 32, 17 / 32, 23 / 32, 1] v 7 8)
    ∧ (dt = 21 → ∀ v, denotes v → steps [0, 1] v 1 2)
    ∧ (inf → (isInt dt → r = (put (if s then lo dt else hi dt), fIV)) ∧ (dt = 19 → r = (if s then 15 else 7, fIV))
      ∧ (dt = 21 → r = (if s then 3 else 1, fIV))
      ∧ (isFlt dt → r = if G.nan = 2 then (code (if sat then G.top.2 else (2 ^ G.eb - 1) * 2 ^ G.mb), 0) else (code (G.over mode sat s), fIV)))
    ∧ (nan → (¬ (isFlt dt ∧ G.nan ≠ 0) → isInt dt ∨ isFlt dt ∨ dt = 19 ∨ dt = 21 → r = (0, fIV))
      ∧ (isFlt dt → G.nan = 1 → r = (code (2 ^ (G.eb + G.mb) - 1), iv))
      ∧ (isFlt dt → G.nan = 2 → r.2 = iv ∧ r.1 / 2 ^ G.mb = (if s then 2 ^ G.eb else 0) + (2 ^ G.eb - 1) ∧ r.1.testBit (G.mb - 1) = true
        ∧ ∀ j, j < G.mb - 1 → r.1.testBit j = (decide (G.mb ≤ j + F.mb) && k.testBit (j + F.mb - G.mb))))

/-- R38 to R42: a paired word's halves read the registers before either writes, the second half's write governs, and
each half follows its own guard. R42: within a chain each half that is not NOP shifts the latches once, the second one last. -/
def Obligations.PairedHalvesReadBeforeWriting : Prop := ∀ (s : State) (b : Issue) (c : Bool) (p q : PHalf),
  let i := Instr.pairedWord c p q
  let res := fun (x : TRef) (e : PHalf) => halfValue e (s.srcWord x none e.s false 0).toNat (s.vreg x e.d.toNat).toNat
  let writes := fun (x : TRef) (e : PHalf) => x ∈ b.threads ∧ e.op6 ≠ 0 ∧ s.preg x e.p.toNat = true
  let flags := fun (x : TRef) => (if writes x p then (res x p).2 else 0) ||| if writes x q then (res x q).2 else 0
  let shifts := fun (x : TRef) (e : PHalf) (y : List Word) => if e.op6 = 0 then y
    else (if s.preg x e.p.toNat then BitVec.ofNat 32 (res x e).1 else s.vreg x e.d.toNat) :: y
  FpCompletes i b s
    (fun x r => if writes x q ∧ r = q.d.toNat then BitVec.ofNat 32 (res x q).1
      else if writes x p ∧ r = p.d.toNat then BitVec.ofNat 32 (res x p).1 else s.vreg x r)
    s.preg flags (fun _ => 0)
    ∧ (Runs s i b → c = true → (∀ x ∈ s.actives i b, flags x &&& s.enOf x.u = 0) → ∃ t, exec i s = .next t
      ∧ ∀ x ∈ b.threads, (t.thread x).y = (shifts x q (shifts x p (s.thread x).y)).take 4)

/-! ## Classes 0 and 5 -/

/-- R99 to R101: where each branch goes, and the link it leaves; an active thread goes to the target, another to the
next word. BRX, CALLX and RET raise MEMFAULT in the threads whose register is not canonical, and ALIGN in those whose target is no multiple
of 8, and then have no effect in any thread. -/
def Obligations.BranchesGoToTheirTargets : Prop := ∀ (s : State) (b : Issue) (h : Hdr) (f : FmtJ),
  let rel := fun (a : Nat) (d : BitVec 32) => (((a : Int) + 8 * d.toInt) % 2 ^ 56).toNat
  let reg := fun x => (s.vreg x (f.a.toNat + 1) ++ s.vreg x f.a.toNat).toNat
  let goes := fun (i : Instr) (link : Bool) (tgt : TRef → Nat) =>
    ∃ t, exec i s = .next t ∧ After i b s t (fun x => if x ∈ s.actives i b then tgt x else b.nextPc) ∧ GoesOn b s t ∧ NoDraw s t
      ∧ RegsAre t (s.vGiven i b f.ld (!link) 2 fun _ => (b.wordPc + 8) % 2 ^ 56) s.preg s.sreg s.mreg s.fpswOf
  let fits := fun (i : Instr) (d : BitVec 32) => ∀ x ∈ s.actives i b, reg x < 2 ^ 56 ∧ rel (reg x) d % 8 = 0
  let far := fun (i : Instr) => (s.actives i b).filter fun x => decide (2 ^ 56 ≤ reg x)
  let odd := fun (i : Instr) (d : BitVec 32) => (s.actives i b).filter fun x => rel (reg x) d % 8 != 0
  let trapsOn := fun (i : Instr) (d : BitVec 32) =>
    (MayRun s i b → far i ≠ [] → exec i s = .next (s.unitTrap i b ((far i).map fun x => { hit x (rankOwn 0) .memfault 5 with addr := some (reg x) }) [] false))
      ∧ (MayRun s i b → far i = [] → odd i d ≠ [] → exec i s = .next (s.unitTrap i b ((odd i d).map fun x => hit x (rankOwn 1) .align 0) [] false))
  (Runs s (.bra h f) b → goes (.bra h f) false fun _ => rel b.wordPc f.rel)
    ∧ (Runs s (.call h f) b → goes (.call h f) true fun _ => rel b.wordPc f.rel)
    ∧ (Runs s (.brx h f) b → fits (.brx h f) f.rel → goes (.brx h f) false fun x => rel (reg x) f.rel)
    ∧ (Runs s (.callx h f) b → fits (.callx h f) f.rel → goes (.callx h f) true fun x => rel (reg x) f.rel)
    ∧ (Runs s (.ret h f) b → fits (.ret h f) 0 → goes (.ret h f) false reg)
    ∧ trapsOn (.brx h f) f.rel ∧ trapsOn (.callx h f) f.rel ∧ trapsOn (.ret h f) 0

/-- R95, R103 to R105: NOP changes no register, YIELD makes its threads ready a step later, SLEEP waits for a tick, which
one that issues again after its wait was abandoned keeps, and WAITM waits where the mask names the thread. R102: EXIT ends its active threads: they are exited, leave every mask
of their wave and lose their pending loads; no v register and no byte of memory changes, and the other threads of the
bundle go on. -/
def Obligations.NopYieldSleepWaitmAndExit : Prop :=
  (∀ (s : State) (b : Issue) (h : Hdr) (f : FmtS) (g : FmtI),
    let waits := fun (i : Instr) (st : TRef → TState) (at_ : TRef → Nat) =>
      ∃ t, exec i s = .next t ∧ After i b s t (fun _ => b.nextPc) ∧ NoDraw s t ∧ RegsAre t s.vreg s.preg s.sreg s.mreg s.fpswOf
        ∧ ∀ x ∈ b.threads, (x ∈ s.actives i b → (t.thread x).st = st x ∧ (t.thread x).readyAt = at_ x)
          ∧ (x ∉ s.actives i b → (t.thread x).st = (s.thread x).st ∧ (t.thread x).readyAt = s.steps)
    let ticks := fun x => min (s.srcNat x h g.a g.ua 1 + (match h.imx with
      | some y => y.toNat
      | none => g.imm.toNat)) 0xFFFFFFFF
    let kept := fun x => fget (s.thread x).slept (2 * b.unitPc + if (s.thread x).inh then 1 else 0)
    let named := fun x => (s.mreg x.u (f.body.extractLsb' 44 4).toNat).getLsbD x.i = true ∧ b.inChain = false
    (Runs s (.nop h f) b → Completes (.nop h f) b s s.vreg s.preg s.sreg s.mreg s.fpswOf)
      ∧ (Runs s (.yield h f) b → waits (.yield h f) (fun x => (s.thread x).st) fun _ => s.steps + 1)
      ∧ (Runs s (.sleep h g) b → waits (.sleep h g)
          (fun x => match kept x with
            | some d => if d ≤ s.ptb then (s.thread x).st else .waiting (.sleep d)
            | none => if ticks x = 0 then (s.thread x).st else .waiting (.sleep (s.ptb + ticks x)))
          fun x => if kept x = none ∧ ticks x = 0 then s.steps + 1 else s.steps)
      ∧ (Runs s (.waitm h f) b → ∃ t, exec (.waitm h f) s = .next t ∧ After (.waitm h f) b s t (fun _ => b.nextPc) ∧ NoDraw s t
          ∧ RegsAre t s.vreg s.preg s.sreg s.mreg s.fpswOf
          ∧ ∀ x ∈ b.threads, (x ∈ s.actives (.waitm h f) b ∧ named x →
              (t.thread x).st = .waiting (.waitm (f.body.extractLsb' 44 4).toNat))
            ∧ (¬ (x ∈ s.actives (.waitm h f) b ∧ named x) → (t.thread x).st = (s.thread x).st)))
    ∧ (∀ (s : State) (b : Issue) (h : Hdr) (f : FmtS), Runs s (.exit h f) b →
    (∀ u, s.recMode (s.wave u).ctx = 0 ∨ s.recMode (s.wave u).ctx = 3) → (∀ x ∈ b.threads, (s.thread x).st = .ready) →
    ∃ t, exec (.exit h f) s = .next t ∧ (∀ x r, t.vreg x r = s.vreg x r) ∧ (∀ a, t.byteAt a = s.byteAt a) ∧ t.ctxs = s.ctxs
      ∧ (∀ x ∈ s.actives (.exit h f) b, (t.thread x).st = .exited ∧ (∀ k, (t.mreg x.u k).getLsbD x.i = false)
          ∧ ∀ a ∈ t.accs, a.t = x → ∀ sx r n, ¬ (a.kind = .load sx ∧ a.dest = .vreg r n))
      ∧ ∀ x ∈ b.threads, x ∉ s.actives (.exit h f) b → (t.thread x).pc = b.nextPc ∧ (t.thread x).st = (s.thread x).st)

/-- R92, R109, R110, R121: the words that rewrite a mask of each wave with active threads; of the wave's masks no
other changes, and bits at the width and above read 0. R121, R130: moves between masks, uniform and v registers, the
count of a mask, and the rank of a thread in it. R196, R211: the words of FPSW read it, clear flags of it and set its
enables. -/
def Obligations.MaskWordsMovesAndStatus : Prop :=
  (∀ (s : State) (b : Issue) (h : Hdr) (f : FmtS) (g : FmtI) (e : FmtF),
    let k := (f.body.extractLsb' 44 4).toNat
    let imm := match h.imx with
      | some y => y.toNat
      | none => g.imm.toNat
    let two := fun (i : Instr) (op : Bool → Bool → Bool) => Runs s i b → GivesM i b s e.d.toNat fun u j =>
      op ((s.mreg u e.a.toNat).getLsbD j) ((s.mreg u e.b.toNat).getLsbD j)
    (Runs s (.join h f) b → GivesM (.join h f) b s k fun u j => (s.mreg u k).getLsbD j || s.isActive (.join h f) b u j)
      ∧ (Runs s (.leave h f) b → GivesM (.leave h f) b s k fun u j => (s.mreg u k).getLsbD j && !s.isActive (.leave h f) b u j)
      ∧ (Runs s (.msetNone h g) b → GivesM (.msetNone h g) b s g.d.toNat fun _ _ => false)
      ∧ (Runs s (.msetLive h g) b → GivesM (.msetLive h g) b s g.d.toNat fun u j => (s.wave u).live.contains j)
      ∧ (Runs s (.msetHere h g) b → GivesM (.msetHere h g) b s g.d.toNat fun u j => s.isActive (.msetHere h g) b u j)
      ∧ (Runs s (.msetImm h g) b → GivesM (.msetImm h g) b s g.d.toNat fun _ j => imm.testBit j)
      ∧ (Runs s (.msetSreg h g) b → GivesM (.msetSreg h g) b s g.d.toNat fun u j =>
          (s.sreg u (g.a.toNat + 1) ++ s.sreg u g.a.toNat).getLsbD j)
      ∧ two (.mand h e) (· && ·) ∧ two (.mor h e) (· || ·) ∧ two (.mxor h e) (fun x y => x != y) ∧ two (.mandn h e) fun x y => x && !y)
    ∧ (∀ (s : State) (b : Issue) (h : Hdr) (f : FmtF),
    let op := (f.mod.extractLsb' 4 3).toNat
    let mask := fun u => s.mreg u f.a.toNat
    let n := tyWords (tyOf f.mod)
    let lead := fun u => leadOf ((s.actives (.movs h f) b).filter fun x => x.u == u)
    (Runs s (.mmov h f) b →
        (op = 0 → GivesM (.mmov h f) b s f.d.toNat fun u j => (mask u).getLsbD j)
        ∧ (op = 1 → GivesM (.mmov h f) b s f.d.toNat fun u j => (s.sreg u (f.a.toNat + 1) ++ s.sreg u f.a.toNat).getLsbD j)
        ∧ (op = 2 → GivesV (.mmov h f) b s f.d f.w 2 fun x => (mask x.u).toNat)
        ∧ (op = 3 → Completes (.mmov h f) b s s.vreg s.preg (s.sGiven (.mmov h f) b f.d.toNat 2 fun u => (mask u).toNat) s.mreg s.fpswOf))
      ∧ (Runs s (.mpopc h f) b → GivesV (.mpopc h f) b s f.d f.w 1 fun x =>
          ((List.range (if op = 1 then x.i else 64)).filter fun j => (mask x.u).getLsbD j).length)
      ∧ (Runs s (.movs h f) b → Completes (.movs h f) b s s.vreg s.preg
          (s.sGiven (.movs h f) b f.d.toNat n fun u => s.srcNat (lead u) h f.a f.ua n) s.mreg s.fpswOf))
    ∧ (∀ (s : State) (b : Issue) (h : Hdr) (f : FmtF),
    let lead := fun u => leadOf ((s.actives (.fclassClrsw h f) b).filter fun x => x.u == u)
    let A := fun u => (s.srcNat (lead u) h f.a f.ua 1)
    let on := fun (i : Instr) (u : Nat) => ∃ x ∈ s.actives i b, x.u = u
    (Runs s (.fclassRdsw h f) b → GivesV (.fclassRdsw h f) b s f.d f.w 1 fun x => (s.fpswOf x.u).toNat)
      ∧ (Runs s (.fclassClrsw h f) b → ∃ F : Nat → Word, Completes (.fclassClrsw h f) b s s.vreg s.preg s.sreg s.mreg F
          ∧ ∀ u k, k < 32 → (F u).getLsbD k = ((s.fpswOf u).getLsbD k && !(decide (on (.fclassClrsw h f) u) && decide (k < 5) && (A u).testBit k)))
      ∧ (Runs s (.fclassWren h f) b → ∃ F : Nat → Word, Completes (.fclassWren h f) b s s.vreg s.preg s.sreg s.mreg F
          ∧ ∀ u k, k < 32 → (F u).getLsbD k =
            if on (.fclassWren h f) u ∧ 8 ≤ k ∧ k ≤ 12 then (A u).testBit k else (s.fpswOf u).getLsbD k))

/-- R112 to R117, R120: exchanges among the participants: each reads inputs from before any wrote, a thread that the
selector does not name exchanges with itself alone. R118, R119: RDX gives every participant the left fold in ascending
order; SCAN gives each the fold up to itself, or with X up to the one before it from the identity. -/
def Obligations.ExchangesAndFolds : Prop :=
  (∀ (s : State) (b : Issue) (h : Hdr) (f : FmtF),
    let n := tyWords (tyOf f.mod)
    let op := (f.mod.extractLsb' 4 3).toNat
    let at_ := fun (u j : Nat) => (⟨u, j⟩ : TRef)
    let vote := fun (u j : Nat) => s.preg (at_ u j) (f.a.extractLsb' 0 3).toNat != f.a.getLsbD 3
    let mates := fun (i : Instr) (x : TRef) => s.mates i b f.c.toNat x
    let bits := fun (l : List Nat) (p : Nat → Bool) => l.foldl (fun m j => m + if p j then 2 ^ j else 0) 0
    let A := fun (u j : Nat) => s.srcNat (at_ u j) h f.a f.ua n
    let K := fun x => s.srcNat x h f.b f.ub 1 % 64
    let from_ := fun x => match op with
      | 0 => some (K x) | 1 => if K x ≤ x.i then some (x.i - K x) else none | 2 => some (x.i + K x) | _ => some (x.i ^^^ K x)
    let one := fun (i : Instr) => ∀ x ∈ s.actives i b, s.isIn b f.c.toNat x = true
    let ans := fun (l : List Bool) => match op with
      | 0 => l.any id | 1 => l.all id | _ => l.all id || !l.any id
    (Runs s (.ballot h f) b → f.mod.getLsbD 3 = false →
        GivesV (.ballot h f) b s f.d f.w 2 fun x => bits (mates (.ballot h f) x) (vote x.u))
      ∧ (Runs s (.ballot h f) b → f.mod.getLsbD 3 = true → one (.ballot h f) →
        GivesM (.ballot h f) b s f.d.toNat fun u j => s.isActive (.ballot h f) b u j && vote u j)
      ∧ (Runs s (.vote h f) b → GivesP (.vote h f) b s (s.pPair (.vote h f) b f.d fun x =>
          (ans ((mates (.vote h f) x).map (vote x.u)), !ans ((mates (.vote h f) x).map (vote x.u)))))
      ∧ (Runs s (.shfl h f) b → GivesV (.shfl h f) b s f.d f.w n fun x => match from_ x with
          | some j => if (mates (.shfl h f) x).contains j then A x.u j else A x.u x.i
          | none => A x.u x.i)
      ∧ (Runs s (.bcast h f) b → f.mod.getLsbD 3 = false → GivesV (.bcast h f) b s f.d f.w n fun x =>
          if (mates (.bcast h f) x).contains (K x) then A x.u (K x) else 0)
      ∧ (Runs s (.bcast h f) b → f.mod.getLsbD 3 = true → one (.bcast h f) → Completes (.bcast h f) b s s.vreg s.preg
          (s.sGiven (.bcast h f) b f.d.toNat n fun u =>
            let x := at_ u ((threadsOf (s.actives (.bcast h f) b) u).headD 0)
            if (threadsOf (s.actives (.bcast h f) b) u).contains (K x) then A u (K x) else 0) s.mreg s.fpswOf)
      ∧ (Runs s (.matchLanes h f) b → GivesV (.matchLanes h f) b s f.d f.w 2 fun x =>
          bits (mates (.matchLanes h f) x) fun j => A x.u j == A x.u x.i))
    ∧ (∀ (s : State) (b : Issue) (h : Hdr) (f : FmtF),
    let ty := tyOf f.mod
    let n := tyWords ty
    let op := (f.mod.extractLsb' 4 3).toNat
    let xs := fun (i : Instr) (x : TRef) => (s.mates i b f.c.toNat x).map fun j => s.srcNat (⟨x.u, j⟩ : TRef) h f.a f.ua n
    let pos := fun (i : Instr) (x : TRef) => ((s.mates i b f.c.toNat x).takeWhile fun j => j != x.i).length
    let all := fun (i : Instr) (x : TRef) => if f.mod.getLsbD 3 then (xs i x).dropLast else xs i x
    FpCompletes (.rdx h f) b s (s.vGiven (.rdx h f) b f.d f.w n fun x => (foldAll op ty (xs (.rdx h f) x)).1) s.preg
        (fun x => (foldAll op ty (xs (.rdx h f) x)).2) (fun _ => 0)
      ∧ FpCompletes (.scan h f) b s (s.vGiven (.scan h f) b f.d f.w n fun x =>
          if f.mod.getLsbD 3 then
            (if pos (.scan h f) x = 0 then foldIdentity op ty else (foldAll op ty ((xs (.scan h f) x).take (pos (.scan h f) x))).1)
          else (foldAll op ty ((xs (.scan h f) x).take (pos (.scan h f) x + 1))).1) s.preg
        (fun x => (foldAll op ty (all (.scan h f) x)).2) fun _ => 0)

/-! ## Classes 6 and 7: memory -/

/-- R170 to R174, R228, R251, R263 to R275: an access of global memory whose sector its die holds in E or M is
performed at once: it finds the sector's newest bytes, a store or an atomic leaves its own bytes there, and every
other byte of memory and every register is kept until the value returns; so do the accesses of several threads, to sectors of their own. R149, R150, R171, R259: an access of a
scratchpad in bounds is performed in its bank at once; no other byte of any scratchpad, no byte of memory and no
register changes. -/
def Obligations.HeldSectorsAndScratchpadsAreAccessedAtOnce : Prop :=
  (∀ (s : State) (b : Issue) (i : Instr) (m : MemOp) (x : TRef) (pa cls : Nat) (c : L2Copy),
    plainMem i = true → memOp i = some m → m.space = 0 → Runs s i b → s.actives i b = [x] → LaneFits s m x → Translates s m x pa cls →
    HeldAt s (dieOf (s.wave x.u).core) (s.wave x.u).core pa c →
    let l := s.memLane m x
    let r := madeOf m.kind l.data l.data2 (pick c.data (pa % 64) m.n)
    ∃ t, exec i s = .next t ∧ KeepsRegs b s t ∧ Returns s t m x r.2.1 r.2.2
      ∧ (∀ v, r.1 = some v → ∀ k, k < m.n → t.byteAt (pa + k) = BitVec.ofNat 8 (v >>> (8 * k)))
      ∧ ∀ a, a < 2 ^ 52 → (a < pa ∨ pa + m.n ≤ a ∨ r.1 = none) → t.byteAt a = s.byteAt a)
    ∧ (∀ (s : State) (b : Issue) (i : Instr) (m : MemOp) (pa cls : TRef → Nat) (c : TRef → L2Copy),
    let l := s.actives i b
    let r := fun x => madeOf m.kind (s.memLane m x).data (s.memLane m x).data2 (pick (c x).data (pa x % 64) m.n)
    plainMem i = true → memOp i = some m → m.space = 0 → m.group = none → m.once = false → Runs s i b → l ≠ [] →
    (∀ x ∈ l, LaneFits s m x ∧ Translates s m x (pa x) (cls x) ∧ HeldAt s (dieOf (s.wave x.u).core) (s.wave x.u).core (pa x) (c x)) →
    (∀ a ∈ s.accs, a.id < s.next) → (∀ x ∈ l, ∀ y ∈ l, (s.wave x.u).core = (s.wave y.u).core) →
    (∀ x ∈ l, ∀ y ∈ l, x ≠ y → sectorOf (pa x) ≠ sectorOf (pa y)) →
    ∃ t, exec i s = .next t ∧ KeepsRegs b s t ∧ AllReturn s t m l (fun x => (r x).2.1) (fun x => (r x).2.2)
      ∧ (∀ x ∈ l, ∀ v, (r x).1 = some v → ∀ k, k < m.n → t.byteAt (pa x + k) = BitVec.ofNat 8 (v >>> (8 * k)))
      ∧ ∀ a, a < 2 ^ 52 → (∀ x ∈ l, a < pa x ∨ pa x + m.n ≤ a ∨ (r x).1 = none) → t.byteAt a = s.byteAt a)
    ∧ (∀ (s : State) (b : Issue) (i : Instr) (m : MemOp) (x : TRef) (k off : Nat),
    plainMem i = true → memOp i = some m → m.space ≠ 0 → Runs s i b → s.actives i b = [x] → LaneFits s m x →
    s.scrLane m x (s.memPlace m x (s.memLane m x).ea).1 = .scr k off → s.scrBad k off m.n = false →
    let l := s.memLane m x
    let r := madeOf m.kind l.data l.data2 (s.scrRead k off m.n)
    ∃ t, exec i s = .next t ∧ KeepsRegs b s t ∧ Returns s t m x r.2.1 r.2.2
      ∧ (∀ v, r.1 = some v → ∀ j, j < m.n → Memory.get (t.block k).scr (off + j) = BitVec.ofNat 8 (v >>> (8 * j)))
      ∧ (∀ j, (j < off ∨ off + m.n ≤ j ∨ r.1 = none) → Memory.get (t.block k).scr j = Memory.get (s.block k).scr j)
      ∧ (∀ q, q ≠ k → t.block q = s.block q) ∧ ∀ a, t.byteAt a = s.byteAt a)

/-- R169, R170, R171, R176: where a lane's address lies: base, index and offset modulo 2^64 in global space and 2^32
in a scratchpad; the lanes of a group take its consecutive elements; a scratchpad address is the block's own, or names
a member of its cluster in [23:22]. -/
def Obligations.AddressesOfMemoryWords : Prop := ∀ (s : State) (m : MemOp) (x : TRef),
  let ix := match m.idx with
    | some f => if f.toNat = 255 then (s.src64 x m.h f false).toInt else (s.src x m.h f false).toInt
    | none => 0
  let ix32 := match m.idx with
    | some f => (s.src x m.h f false).toInt
    | none => 0
  let g := fun n => min n (s.wave x.u).width
  (m.space = 0 → ((s.memLane m x).ea : Int) = ((s.src64 x m.h m.ar m.ua).toInt + ix + m.off) % 2 ^ 64)
    ∧ (m.space ≠ 0 → ((s.memLane m x).ea : Int) = ((s.src x m.h m.ar m.ua).toInt + ix32 + m.off) % 2 ^ 32)
    ∧ (m.group = none → ∀ ea, s.memPlace m x ea = (ea, m.align))
    ∧ (∀ n ea, m.group = some n → s.memPlace m x ea =
        ((ea + (x.i % g n) * m.n) % (if m.space = 0 then 2 ^ 64 else 2 ^ 32), g n * m.n))
    ∧ (∀ ea, m.space = 1 → (s.scrLane m x ea = .scr (s.wave x.u).block ea ↔ ea + m.n ≤ (s.block (s.wave x.u).block).scratch))
    ∧ ∀ ea k off, m.space = 2 → (s.scrLane m x ea = .scr k off ↔
        ea < 2 ^ 24 ∧ s.memberBlock (s.wave x.u).block (ea / 2 ^ 22) = some k ∧ off = ea % 2 ^ 22 ∧ off + m.n ≤ (s.block k).scratch)

/-- R263, R268 to R271: what each integer atomic makes of the old value, whether it writes, and whether it failed. -/
def Obligations.AtomicArithmetic : Prop := ∀ (ty old a c : Nat), ty ≤ 3 → old < 2 ^ (8 * atomBytes ty) → a < 2 ^ (8 * atomBytes ty) →
  c < 2 ^ (8 * atomBytes ty) →
  let M := 2 ^ (8 * atomBytes ty)
  let val := fun v => if ty = 0 ∨ ty = 2 then sext v (8 * atomBytes ty) else (v : Int)
  atomApply .add ty old a c = ((old + a) % M, true, false) ∧ atomApply .and ty old a c = (old &&& a, true, false)
    ∧ atomApply .or ty old a c = (old ||| a, true, false) ∧ atomApply .xor ty old a c = (old ^^^ a, true, false)
    ∧ atomApply .xchg ty old a c = (a, true, false)
    ∧ atomApply .min ty old a c = (if val old ≤ val a then old else a, true, false)
    ∧ atomApply .max ty old a c = (if val old ≥ val a then old else a, true, false)
    ∧ atomApply .incw ty old a c = (if old ≥ a then 0 else old + 1, true, false)
    ∧ atomApply .addb ty old a c = (if old + a > c then (old, false, true) else (old + a, true, false))
    ∧ (atomApply .cas ty old a c).2 = (decide (old = c), decide (old ≠ c)) ∧ (old = c → (atomApply .cas ty old a c).1 = a)

/-- R178, R153: PREF never traps: where its address does not translate it is dropped, and where its die holds the
sector it fills the core's L1 under D 0, where the core has one, but not under the policies that bypass it. R179: CCTL 0 drops the sector from
the core's L1; CCTL 1 evicts it from the die's L2 and L1s, silently from S, with EvC from E and with its data from M
and O; CCTL 2 takes the line's persistence mark away. Memory is not written.
R154, R241, R242: FENCE retires at once: it stays with the threads whose earlier accesses that it orders have not been
performed, and holds their later accesses back. Where it has nothing to wait for, or once that has been performed, it is over:
but for kind `rel`, a scope of block or wider then drops the untracked copies of the thread's L1. -/
def Obligations.CacheControlAndFences : Prop :=
  (∀ (s : State) (b : Issue) (h : Hdr) (f : FmtM) (m : MemOp) (x : TRef),
    let i := Instr.pref h f
    memOp i = some m → m.space = 0 → Runs s i b → s.actives i b = [x] → LaneFits s m x →
    let core := (s.wave x.u).core
    let pol := s.polOf (s.wave x.u).ctx h
    let done := fun (t : State) => exec i s = .next t ∧ KeepsRegs b s t ∧ t.accs = s.accs ∧ t.l2 = s.l2 ∧ ∀ a, t.byteAt a = s.byteAt a
    (∀ code, (s.laneTrans false x (s.memPlace m x (s.memLane m x).ea).1 .read).1 = .fault code → ∃ t, done t)
      ∧ ∀ pa cls c, Translates s m x pa cls → HeldAt s (dieOf core) core pa c → ∃ t, done t
        ∧ fget (t.core core).l1 (sectorOf pa) =
          if f.d.toNat = 0 ∧ pol ≠ 3 ∧ pol ≠ 4 ∧ partL1 (s.core core).part.toNat ≠ 0 then some { data := c.data, tracked := decide (pol ≠ 1) } else none)
    ∧ (∀ (s : State) (b : Issue) (h : Hdr) (f : FmtM) (m : MemOp) (x : TRef) (pa cls : Nat),
    m.space = 0 → LaneFits s m x → Translates s m x pa cls →
    let core := (s.wave x.u).core
    let d := dieOf core
    let y := sectorOf pa
    let runs := fun i => memOp i = some m ∧ Runs s i b ∧ s.actives i b = [x]
    let done := fun (i : Instr) (t : State) => exec i s = .next t ∧ KeepsRegs b s t ∧ t.accs = s.accs ∧ t.mem = s.mem ∧ t.dir = s.dir
    (runs (.cctlInv1 h f) → ∃ t, done (.cctlInv1 h f) t ∧ t.l2 = s.l2 ∧ fget (t.core core).l1 y = none)
      ∧ (runs (.cctlEv2 h f) → ∀ c, s.l2copy d y = some c → ∃ t, done (.cctlEv2 h f) t ∧ fget (t.core core).l1 y = none
        ∧ (∀ k p, dieOf k = d → fget (t.core k).l1 y = some p → p.tracked = false)
        ∧ (c.st = .s → t.l2copy d y = none ∧ t.toHome = s.toHome)
        ∧ (c.st = .e → t.l2copy d y = some { c with st := .miA, dirty := false }
            ∧ t.toHome = s.toHome ++ [s.homeMsg .evC (.l2 d) y c.data false false c.poison])
        ∧ (c.st = .m ∨ c.st = .o → t.l2copy d y = some { c with st := .miA, dirty := true }
            ∧ t.toHome = s.toHome ++ [s.homeMsg .wbD (.l2 d) y c.data true false c.poison]))
      ∧ (runs (.cctlUnp3 h f) → ∃ t, done (.cctlUnp3 h f) t ∧ t.l2 = s.l2 ∧ t.pers = s.pers.filter (· ≠ pa / 256)))
    ∧ (∀ (s : State) (b : Issue) (h : Hdr) (f : FmtS),
    let i := Instr.fence h f
    let kind := (f.body.extractLsb' 46 2).toNat
    let scope := (f.body.extractLsb' 43 3).toNat
    let waits := fun (x : TRef) => ∃ a ∈ s.accs, a.isOf x = true ∧ a.id < s.next ∧ ¬ (kind = 1 ∧ a.isRead = false) ∧ a.performedAt scope = false
    Runs s i b → ∃ t, exec i s = .next t ∧ KeepsRegs b s t ∧ t.accs = s.accs ∧ (∀ a, t.byteAt a = s.byteAt a)
      ∧ (∀ x, x ∈ s.actives i b ∧ waits x → (t.thread x).fences = (s.thread x).fences ++ [{ kind := kind, scope := scope, before := s.next, past := 0 }])
      ∧ (∀ x, ¬ (x ∈ s.actives i b ∧ waits x) → (t.thread x).fences = (s.thread x).fences)
      ∧ (kind ≠ 2 → 1 ≤ scope → ∀ x ∈ s.actives i b, ¬ waits x → ∀ e ∈ (t.core (s.wave x.u).core).l1, e.2.tracked = true))
    ∧ (∀ (s : State) (x : TRef) (i : Instr) (m : MemOp) (c : Fence) (a : Access),
    (s.chainAt x).last = some i → memOp i = some m → memPort i = true → (s.active i x = true ∨ 1 < (s.chainAt x).units.length) →
    c ∈ (s.thread x).fences → a ∈ s.accs → a.isOf x = true → a.id < c.before → a.performedAt c.scope = false →
    (a.st = .remote → c.past ≤ a.id) → (c.kind = 0 ∨ (c.kind ≠ 2 ∧ a.isRead = true) ∨ (2 ≤ c.kind ∧ m.writes = true)) → s.canIssue x = false)
    ∧ ∀ (s : State) (x : TRef), (∀ a ∈ s.accs, a.isOf x = true → a.performedAt 6 = true) →
    ((s.settleFences x).thread x).fences = [] ∧ ((∃ c ∈ (s.thread x).fences, c.kind ≠ 2 ∧ 1 ≤ c.scope) →
      ∀ e ∈ ((s.settleFences x).core (s.wave x.u).core).l1, e.2.tracked = true)

/-- R107, R108: MWAIT reads its location, in global memory or in a scratchpad, and its thread waits for the value; no register is written before it comes.
R108: a first read that equals B leaves the thread watching the sector for 65,536 ticks, or waiting 1,024 where no
monitor is free; any other read is written and its thread is ready. -/
def Obligations.MwaitReadsWaitsAndEnds : Prop :=
  (∀ (s : State) (b : Issue) (h : Hdr) (f : FmtM) (m : MemOp) (x : TRef) (pa cls : Nat)
      (c : L2Copy), let i := Instr.mwait h f
    memOp i = some m → m.space = 0 → Runs s i b → s.actives i b = [x] → LaneFits s m x → Translates s m x pa cls →
    HeldAt s (dieOf (s.wave x.u).core) (s.wave x.u).core pa c →
    ∃ t a, exec i s = .next t ∧ KeepsRegs b s t ∧ (∀ k, t.byteAt k = s.byteAt k) ∧ (t.thread x).st = .waiting (.mwait s.next)
      ∧ t.accs = s.accs ++ [a] ∧ a.id = s.next ∧ a.t = x ∧ a.kind = .mwait true ∧ a.n = m.n ∧ a.dest = m.dest ∧ a.data = (s.memLane m x).data
      ∧ a.st = .done (BitVec.ofNat 128 (pick c.data (pa % 64) m.n)) false)
    ∧ (∀ (s : State) (b : Issue) (h : Hdr) (f : FmtM) (m : MemOp) (x : TRef) (k off : Nat), let i := Instr.mwait h f
    memOp i = some m → m.space ≠ 0 → Runs s i b → s.actives i b = [x] → LaneFits s m x →
    s.scrLane m x (s.memPlace m x (s.memLane m x).ea).1 = .scr k off → s.scrBad k off m.n = false →
    ∃ t a, exec i s = .next t ∧ KeepsRegs b s t ∧ (∀ j, t.byteAt j = s.byteAt j) ∧ (∀ q, t.block q = s.block q) ∧ (t.thread x).st = .waiting (.mwait s.next)
      ∧ t.accs = s.accs ++ [a] ∧ a.id = s.next ∧ a.t = x ∧ a.kind = .mwait true ∧ a.n = m.n ∧ a.dest = m.dest ∧ a.data = (s.memLane m x).data
      ∧ a.st = .done (BitVec.ofNat 128 (s.scrRead k off m.n)) false)
    ∧ (∀ (s : State) (a : Access) (v : BitVec 128) (fail first : Bool),
    s.accs.find? (fun a => a.id == s.arg.n) = some a → a.st = .done v fail → a.kind = .mwait first → Unlogged s →
    (s.thread a.t).st = .waiting (.mwait a.id) →
    let free := decide (s.monitors a.core < 64)
    ∃ t, exec .loadDataReturn s = .next t ∧ (∀ k, t.byteAt k = s.byteAt k) ∧ (∀ x, (t.thread x).pc = (s.thread x).pc)
      ∧ (first = true ∧ v.toNat = a.data.toNat → (∀ x k, t.vreg x k = s.vreg x k) ∧ (t.thread a.t).st = .waiting (.mwait a.id)
          ∧ t.accs = s.accs.map fun c => if c.id = a.id then { c with st := .watching free (s.ptb + if free then 65536 else 1024) } else c)
      ∧ (¬ (first = true ∧ v.toNat = a.data.toNat) → (t.thread a.t).st = .ready ∧ t.accs = s.accs.filter (fun c => c.id ≠ a.id)
          ∧ ∀ r n, a.dest = .vreg r n → n = a.n / 4 → ∀ x k, t.vreg x k =
            if x = a.t ∧ r ≤ k ∧ k < r + n then BitVec.ofNat 32 (v.toNat >>> (32 * (k - r))) else s.vreg x k))

/-- R151, R251: an access to a sector that its die does not hold and has room for, under a policy other than nal2, asks the
home for it: a store or an exchange for ownership (RdX), a load for a shared copy (RdS). R102, R152, R169, R173, R267: a
performed access's value reaches its thread: the destination takes its words, sign-extended where the load asks so, a
failure flag its predicate; an exited thread's v registers and predicates stay as they are. R259 to R261: an atomic or a RED whose sector
its die does not hold asks for ownership where it goes near, and goes to the home, without data, where it goes far. -/
def Obligations.MissesRequestAndReturnedDataIsWritten : Prop :=
  (∀ (s : State) (b : Issue) (i : Instr) (m : MemOp) (x : TRef) (pa cls : Nat),
    plainMem i = true → memOp i = some m → m.isRmw = false → m.space = 0 → Runs s i b → s.actives i b = [x] → LaneFits s m x →
    Translates s m x pa cls → s.polOf (s.wave x.u).ctx m.h ≠ 4 →
    let d := dieOf (s.wave x.u).core
    let y := sectorOf pa
    s.l2copy d y = none → fget (s.core (s.wave x.u).core).l1 y = none → (s.l2.filter fun e => e.1 / 2 ^ 52 == d).length < Config.l2Sectors →
    ∃ t a, exec i s = .next t ∧ KeepsRegs b s t ∧ t.accs = s.accs ++ [a] ∧ a.t = x ∧ a.pa = pa ∧ a.st = .atL2 ∧ t.mem = s.mem
      ∧ t.toHome = s.toHome ++ [s.homeMsg (if m.kind = .store then .rdX else .rdS) (.l2 d) y 0 false false false]
      ∧ t.l2st d y = (if m.kind = .store then .imD else .isD))
    ∧ (∀ (s : State) (b : Issue) (i : Instr) (m : MemOp) (x : TRef) (pa cls : Nat),
    plainMem i = true → memOp i = some m → m.isRmw = true → m.space = 0 → Runs s i b → s.actives i b = [x] → LaneFits s m x → Translates s m x pa cls →
    let d := dieOf (s.wave x.u).core
    let y := sectorOf pa
    let far := cls ≠ 0 ∧ 2 ≤ fgetD s.pred (predKey d y) 0
    s.l2copy d y = none → fget (s.core (s.wave x.u).core).l1 y = none → (s.l2.filter fun e => e.1 / 2 ^ 52 == d).length < Config.l2Sectors →
    ∃ t a, exec i s = .next t ∧ KeepsRegs b s t ∧ t.accs = s.accs ++ [a] ∧ a.t = x ∧ a.pa = pa ∧ a.kind = m.kind ∧ t.mem = s.mem
      ∧ (far → a.st = .atHome ∧ t.toHome = s.toHome ∧ t.l2copy d y = none ∧ ∃ n, t.homeOps = s.homeOps ++ [{ n := n, x := y, pa := pa, op := .access a.id }])
      ∧ (¬ far → a.st = .atL2 ∧ t.toHome = s.toHome ++ [s.homeMsg .rdX (.l2 d) y 0 false false false] ∧ t.l2st d y = .imD ∧ t.homeOps = s.homeOps))
    ∧ (∀ (s : State) (a : Access) (v : BitVec 128) (fail : Bool),
    s.accs.find? (fun a => a.id == s.arg.n) = some a → a.st = .done v fail → (∀ first, a.kind ≠ .mwait first) → Unlogged s →
    (∀ p, a.pf = some p → p < 7) →
    let word := fun (k : Nat) => if a.kind = .load true ∧ a.n ≤ 4 then BitVec.ofInt 32 (sext v.toNat (8 * a.n)) else BitVec.ofNat 32 (v.toNat >>> (32 * k))
    let words := if a.n ≤ 4 then 1 else a.n / 4
    let live := (s.thread a.t).st ≠ .exited
    ∃ t, exec .loadDataReturn s = .next t ∧ t.accs = s.accs.filter (fun c => c.id ≠ a.id) ∧ (∀ k, t.byteAt k = s.byteAt k)
      ∧ (∀ x, (t.thread x).pc = (s.thread x).pc ∧ (t.thread x).st = (s.thread x).st) ∧ t.mreg = s.mreg ∧ t.ctxs = s.ctxs
      ∧ (∀ x k, t.preg x k = if x = a.t ∧ live ∧ a.pf = some k then fail else s.preg x k)
      ∧ (∀ x k, (∀ r n, a.dest = .vreg r n → n = words → t.vreg x k = if x = a.t ∧ live ∧ r ≤ k ∧ k < r + n then word (k - r) else s.vreg x k)
        ∧ ((∀ r n, a.dest ≠ .vreg r n) → t.vreg x k = s.vreg x k))
      ∧ ∀ u k, (∀ r n, a.dest = .sreg r n → n = words → (s.wave u).isSprout = false →
          t.sreg u k = if u = a.t.u ∧ r ≤ k ∧ k < r + n then word (k - r) else s.sreg u k)
        ∧ ((∀ r n, a.dest ≠ .sreg r n) → t.sreg u k = s.sreg u k))

/-! ## Waits, walks and the core's own steps -/

/-- R85, R95, R97, R105, R108, R427: a deadline that has come makes its thread ready, and one that has not changes nothing;
the threads that wait on a mask, at a WAITM or before a chain that ends in one, go once all that it names wait there; an MWAIT
that watched reads its location again; the starvation guard promotes the entry of the thread's block and PC. R421, R425, R437:
a deferred machine check is taken at its point by an in-thread handler: the registers that the access was to write are 0, the
trap registers name cause 13 and the thread's next word, and no other thread and no byte changes. R158 to R165: a walk
that ends in a fault leaves its code with the threads that waited; one that finds a leaf sets A, D and the first touch
in it and fills the core's TLB; a P page of another core turns S first. A transition's last step drops the page from
the owner's L1 and every TLB; a collapse turns the page S on region 0's frame, and is over once the homes have invalidated
its replicas. -/
def Obligations.WaitsMachineChecksAndWalksEnd : Prop :=
  (∀ (s : State),
    let x := s.arg.t
    let th := s.thread x
    let woken := s.setThread x { th with st := .ready, readyAt := s.steps }
    (∀ d, th.st = .waiting (.sleep d) → exec .sleepWake s = .next (if d ≤ s.ptb then woken else s))
      ∧ (∀ d, th.st = .waiting (.record d) → exec .trapRecordRetry s = .next (if d ≤ s.ptb then s.setThread x { th with st := .ready } else s))
      ∧ (∃ t, exec .waitmRelease s = .next t ∧ SameRegs s t ∧ (∀ a, t.byteAt a = s.byteAt a)
        ∧ ∀ k i, k < 12 → i < (s.wave s.arg.n).width → s.waitsOn ⟨s.arg.n, i⟩ k = true →
          let named := fun j => j < (s.wave s.arg.n).width ∧ (s.mreg s.arg.n k).getLsbD j = true
          (¬ named i ∨ (∀ j, named j → s.waitsOn ⟨s.arg.n, j⟩ k = true) →
            (t.thread ⟨s.arg.n, i⟩).st = .ready ∧ (t.thread ⟨s.arg.n, i⟩).readyAt = s.steps)
          ∧ (named i → ∀ j, named j → s.waitsOn ⟨s.arg.n, j⟩ k = false → t.thread ⟨s.arg.n, i⟩ = s.thread ⟨s.arg.n, i⟩))
      ∧ (∀ (a : Access) (c : L2Copy) (mon : Bool) (d pa cls : Nat), s.accs = [a] → a.id = s.arg.n → a.st = .watching mon d → a.scr = none →
          s.translateNow a.core (s.ctxOf a.t) a.va .read (s.wave a.t.u).high false = (.ok pa cls, s) → (s.target pa).1 = .hbm → s.lostHome pa = false →
          s.l2copy (dieOf a.core) (sectorOf pa) = some c → c.st = .e ∨ c.st = .m → c.poison = false → Unlogged s →
          let again := fun (t : State) => SameRegs s t ∧ (∀ k, t.byteAt k = s.byteAt k) ∧ (t.thread a.t).st = (s.thread a.t).st
            ∧ t.accs = [{ a with kind := .mwait false, pa := pa, cls := cls, st := .done (BitVec.ofNat 128 (pick c.data (pa % 64) a.n)) false }]
          (mon = true → a.fired = true → ∃ t, exec .mwaitMonitorFire s = .next t ∧ again t) ∧ (d ≤ s.ptb → ∃ t, exec .mwaitTimeout s = .next t ∧ again t)
          ∧ (s.monitorFired a = false → exec .mwaitMonitorFire s = .next s) ∧ (s.ptb < d → exec .mwaitTimeout s = .next s))
      ∧ (s.canIssue x = true → ∃ t, exec .starvationPromotion s = .next t ∧ t = { s with cores := t.cores, perf := t.perf } ∧
          let core := (s.wave x.u).core
          let key := fun (e : MergeEntry) => e.block = (s.wave x.u).block ∧ e.pc = th.pc
          (∀ e ∈ (t.core core).table, key e → e.promoted = true)
          ∧ ((∃ e ∈ s.mergeTable core (s.readyThreads core), key e ∨ e.set = pcSet th.pc ∧ e.promoted = false) →
              ∃ e ∈ (t.core core).table, key e ∧ e.promoted = true)))
    ∧ (∀ (s : State) (a : Async) (hpc : Nat),
    let x := s.arg.t
    let th := s.thread x
    th.st = .ready → s.chain = none → s.asyncDue x (s.chainAt x) = some a → a.cause = .mchk → a.order = 0 → s.modeOf x .mchk false = .inThread hpc →
    s.hashHeld x.u = false → Unlogged s →
    ∃ t, exec .deferredMchk s = .next t ∧ (∀ k, t.byteAt k = s.byteAt k) ∧ t.ctxs = s.ctxs ∧ (∀ y, y ≠ x → t.thread y = s.thread y)
      ∧ (t.thread x).st = .ready ∧ (t.thread x).pc = hpc ∧ (t.thread x).tcause = 13 ∧ (t.thread x).tinfo = a.info
      ∧ (t.thread x).taddr = BitVec.ofNat 64 th.pc ∧ (t.thread x).tpc = th.pc ∧ (t.thread x).inh = true ∧ (t.thread x).y = []
      ∧ t.accs = s.accs.filter (fun c => c.id ≠ a.acc)
      ∧ (∀ q n, a.dest = .vreg q n → ∀ r, t.vreg x r = if (s.accs.any fun c => c.id == a.acc) && decide (q ≤ r) && decide (r < q + n) then 0 else s.vreg x r)
      ∧ ((∀ q n, a.dest ≠ .vreg q n) → ∀ r, t.vreg x r = s.vreg x r))
    ∧ (∀ (s : State),
    let waits := fun (x : TRef) => (s.thread x).st = .waiting .walk
    (∀ w, s.walks.find? (fun w => w.id == s.arg.n) = some w → w.ptos = false → s.inPtoS w.ctx w.va = false → s.walkActive w = true →
      let sets := fun p log => w.write && s.leafWrites w.core w.va p log w.high
      ∃ t, exec .pageWalkComplete s = .next t ∧ (∀ x r, t.vreg x r = s.vreg x r) ∧ t.ctxs = s.ctxs
        ∧ (∀ code, s.walk w.ctx w.va = .fault code → t.walks = s.walks.filter (fun v => v.id ≠ w.id) ∧ t.mem = s.mem ∧ t.cores = s.cores
            ∧ ∀ x ∈ w.who, waits x → fget (t.thread x).wfault (w.va / 65536) = some code ∧ (t.thread x).st = .ready)
        ∧ (∀ at_ p log, s.walk w.ctx w.va = .leaf at_ p log → leafForeign p w.core = false → (s.target at_).1 = .hbm → at_ % 8 = 0 → p < 2 ^ 64 →
            let q := leafUpdate p w.core (sets p log)
            t.walks = s.walks.filter (fun v => v.id ≠ w.id) ∧ (∀ x ∈ w.who, waits x → (t.thread x).st = .ready) ∧ (t.peek at_ 8 = q ∨ q = p)
            ∧ (t.core w.core).tlb.head? = some { ctx := w.ctx, va := w.va / 2 ^ log * 2 ^ log, log := log, pte := BitVec.ofNat 64 q, at_ := at_ })
        ∧ (∀ at_ p log, s.walk w.ctx w.va = .leaf at_ p log → leafForeign p w.core = true → (s.target at_).1 = .hbm → at_ % 8 = 0 → p < 2 ^ 64 →
            t.peek at_ 8 = leafUpdate (leafToS p) w.core (sets p log)
            ∧ t.ptos = s.ptos ++ [{ ctx := w.ctx, va := w.va / 2 ^ log * 2 ^ log, log := log, owner := bits p 62 55, pte := at_, frame := pteAddr p }]
            ∧ ∀ v ∈ t.walks, v.id = w.id → v.ptos = true))
      ∧ (∀ w p, s.walks.find? (fun w => w.id == s.arg.n && w.ptos) = some w →
          s.ptos.find? (fun p => p.ctx == w.ctx && p.va ≤ w.va && w.va < p.va + 2 ^ p.log) = some p →
          ∃ t, exec .pToSTransition s = .next t ∧ SameRegs s t ∧ t.mem = s.mem ∧ t.ptos = eraseFirst (· == p) s.ptos
            ∧ (∀ v ∈ t.walks, v.id = w.id → v.ptos = false) ∧ (∀ core e, e ∈ (t.core core).tlb → e.at_ ≠ p.pte)
            ∧ (∀ k e, e ∈ fgetD t.ctlb k [] → e.at_ ≠ p.pte)
            ∧ ∀ e ∈ (t.core p.owner).l1, ¬ (p.frame ≤ 64 * e.1 ∧ 64 * e.1 < p.frame + 2 ^ p.log))
      ∧ (∀ k, s.collapses.find? (fun k => k.ctx == s.arg.n && k.va == pageBase s.arg.k 16 && k.running) = some k → s.replicaReads k = false →
          (k.inv = false → s.replicaSectors k.slot ≠ [] → ∃ t l, exec .collapse s = .next t ∧ SameRegs s t ∧ t.mem = s.mem ∧ t.homeOps = s.homeOps ++ l
            ∧ l.map HomeReq.x = s.replicaSectors k.slot ∧ (∀ r ∈ l, r.op = .invalidate)
            ∧ t.collapses = s.collapses.map fun x => if x = k then { x with inv := true } else x)
          ∧ (k.inv = true ∨ s.replicaSectors k.slot = [] → (∀ r ∈ s.homeOps, r.op = .invalidate → s.onReplica k.slot r.x = false) →
            (∀ a ∈ s.accs, a.st ≠ .collapse) → (∀ c ∈ s.collapses, c.running = true) →
            exec .collapse s = .next { s.dropReplica k.slot with collapses := eraseFirst (· == k) s.collapses }))
      ∧ (∀ a at_ p log, s.accs.find? (fun a => a.id == s.arg.n && a.st == .collapse) = some a → s.walk (s.ctxOf a.t) a.va = .leaf at_ p log → pteCls p = 2 →
          (∀ k ∈ s.collapses, k.pte ≠ at_ ∧ k.running = true) →
          let asked : Collapse := { ctx := s.ctxOf a.t, va := pageBase a.va 16, pte := at_, running := false, slot := bits p 51 16, before := 0, inv := false }
          (8 ≤ s.collapses.length → s.collapses.length < 72 → exec .collapseRetry s = .next { s with collapses := s.collapses ++ [asked] })
          ∧ (s.collapses.length < 8 → (s.target at_).1 = .hbm → at_ % 8 = 0 → p < 2 ^ 64 → s.walk (s.ctxOf a.t) (pageBase a.va 16) = .leaf at_ p log →
            ∃ t, exec .collapseRetry s = .next t ∧ SameRegs s t ∧ t.collapses = s.collapses ++ [{ asked with running := true, before := s.next }]
            ∧ (∀ core e, e ∈ (t.core core).tlb → e.at_ ≠ at_) ∧ (∀ j e, e ∈ fgetD t.ctlb j [] → e.at_ ≠ at_)
            ∧ t.peek at_ 8 = setBits (setBits p 53 52 1) 51 8 (s.slotFrame 0 (bits p 51 16) / 256))))

/-! ## The sector protocol -/

/-- R246, R248 to R250, R252: how a home whose entry is stable serves a request, a write-back or an eviction notice:
from I it grants the sector in E, from S a read shares it and a writer waits until every other sharer is invalidated,
from E the owner is asked to forward it; an owner's write-back is written and acknowledged. R246, R250, R253, R255: a
request that was turned away is sent again and queued while its sector is busy; the home takes the first that waits
once the entry is stable; a home-side read of a sector that no agent owns is over at once and moves no data; the
host's answer brings its data to the proxy home, that which the device wrote there last unless the host has written since; a
host that has not answered for 20,000 ticks is taken as a clean drop. R260: an access that is performed at the home finds the newest bytes
there, and an atomic leaves its own. -/
def Obligations.HomesServeRetryAndQueue : Prop :=
  (∀ (s : State) (m : Msg),
    let x := s.arg.n
    let a := s.arg.a
    let e := s.dirOf x
    let bad := s.poison.contains x
    let done := fun (ev : Instr) (t : State) => exec ev s = .next t ∧ HomeFrame s t x
    let put := fun (st : DSt) (own : Option Agent) (sh : List Agent) => { e with
      st := st, own := own, sh := sh, acks := [], fwd := none, task := .none, back := st, data := 0, dirty := false, bad := false, ts := 0 }
    let sent := fun (t : State) (k : MsgKind) (l : List Agent) => t.toAgent = s.toAgent ++ l.map fun q => s.homeMsg k q x 0 false false false
    let gives := fun (t : State) (k : MsgKind) => t.toAgent = s.toAgent ++ [s.homeMsg k a x (s.homeSector x) false false bad]
    let others := e.sh.filter (· ≠ a)
    m.kind.isRequest = true ∨ m.kind = .wbD ∨ m.kind = .evC → s.nextToHome m.kind a x = some m → e.queue = [] → Unlogged s →
      (m.kind = .rdS → e.st = .i → s.hostSector x = false → ∃ t, done .rds t ∧ gives t .dataE ∧ t.dirOf x = put .e (some a) [])
      ∧ (m.kind = .rdS → e.st = .s → ∃ t, done .rds t ∧ gives t .dataS ∧ t.dirOf x = put .s e.own (dedup (e.sh ++ [a])))
      ∧ (∀ o, m.kind = .rdS → e.st = .e → e.own = some o → o ≠ a → ∃ t, done .rds t ∧ sent t .fwdS [o] ∧ (t.dirOf x).st = .hFwd ∧ (t.dirOf x).fwd = some o)
      ∧ (m.kind = .rdX → e.st = .i → s.hostSector x = false → ∃ t, done .rdxRequest t ∧ gives t .dataE ∧ t.dirOf x = put .e (some a) [])
      ∧ (m.kind = .rdX → e.st = .s → others ≠ [] → ∃ t, done .rdxRequest t ∧ sent t .inv others ∧ (t.dirOf x).st = .hInv ∧ (t.dirOf x).acks = others)
      ∧ (∀ o, m.kind = .rdX → e.st = .e → e.own = some o → o ≠ a → ∃ t, done .rdxRequest t ∧ sent t .fwdX [o] ∧ (t.dirOf x).st = .hFwd)
      ∧ (m.kind = .upg → e.st = .s → e.sh = [a] → ∃ t, done .upg t ∧ gives t .cmp ∧ t.dirOf x = put .e (some a) [])
      ∧ (m.kind = .upg → e.st = .s → a ∈ e.sh → others ≠ [] → ∃ t, done .upg t ∧ sent t .inv others ∧ (t.dirOf x).st = .hInv)
      ∧ (m.kind = .wbD → e.st = .e → e.own = some a → m.x = x → ∃ t, done .wbd t ∧ t.homeSector x = m.data ∧ t.dirOf x = put .i none []
          ∧ t.toAgent = s.toAgent ++ [s.homeMsg .wbAck a x 0 false true false])
      ∧ (m.kind = .evC → e.st = .e → e.own = some a → ∃ t, done .evc t ∧ t.homeSector x = s.homeSector x ∧ t.dirOf x = put .i none []
          ∧ t.toAgent = s.toAgent ++ [s.homeMsg .wbAck a x 0 false true false])
      ∧ (m.kind = .evC → e.st = .s → e.own ≠ some a → ∃ t, done .evc t ∧ t.dirOf x = e
          ∧ t.toAgent = s.toAgent ++ [s.homeMsg .wbAck a x 0 false false false]))
    ∧ (∀ (s : State) (m : Msg), Unlogged s →
    let x := s.arg.n
    let e := s.dirOf x
    let put := fun (st : DSt) (own : Option Agent) (sh : List Agent) => { e with
      st := st, own := own, sh := sh, acks := [], fwd := none, task := .none, back := st, data := 0, dirty := false, bad := false, ts := 0 }
    (s.retries = [m] → m.agent = s.arg.a → m.x = x → e.st.stable = false → s.sliceQueued x < 256 →
        ∃ t, exec .retryResend s = .next t ∧ t = { s with retries := [], dir := t.dir } ∧ (∀ y, y ≠ x → t.dirOf y = s.dirOf y)
          ∧ t.dirOf x = { e with queue := e.queue ++ [{ msg := m }] })
      ∧ (∀ rest, e.queue = { msg := m } :: rest → e.st = .s → m.kind = .rdS → m.x = x → ∃ t, exec .sectorQueueNext s = .next t ∧ HomeFrame s t x
          ∧ t.toAgent = s.toAgent ++ [s.homeMsg .dataS m.agent x (s.homeSector x) false false (s.poison.contains x)]
          ∧ t.dirOf x = { put .s e.own (dedup (e.sh ++ [m.agent])) with queue := rest })
      ∧ (e.queue ≠ [] → e.st.stable = false → exec .sectorQueueNext s = .next s)
      ∧ (∀ r : HomeReq, s.homeOps = [r] → r.n = s.arg.n → r.op = .scrub → (s.dirOf r.x).st = .s → (s.dirOf r.x).queue = [] →
          ∃ t, exec .homeSideOperation s = .next t ∧ t.homeOps = [] ∧ t.mem = s.mem ∧ t.toAgent = s.toAgent ∧ (t.dirOf r.x).st = .s
            ∧ (t.dirOf r.x).sh = (s.dirOf r.x).sh)
      ∧ (∀ (r : HomeReq) (a : Access) (op : AOp) (ty : Nat), s.homeOps = [r] → r.n = s.arg.n → r.op = .access a.id → s.accs = [a] → a.st = .atHome →
          a.kind = .rmw op ty → r.x = sectorOf a.pa → a.pa % 64 + a.n ≤ 64 → (s.target a.pa).1 = .hbm → (s.target (64 * r.x)).1 = .hbm → s.poison = [] →
          (s.dirOf r.x).st = .i → (s.dirOf r.x).sh = [] → (s.dirOf r.x).queue = [] →
          let v := pick (s.homeSector r.x) (a.pa % 64) a.n
          let w := atomApply op ty v a.data.toNat a.data2.toNat
          ∃ t, exec .homeSideOperation s = .next t ∧ t.homeOps = [] ∧ (t.dirOf r.x).st = .i
            ∧ t.homeSector r.x = (if w.2.1 then patch (s.homeSector r.x) (a.pa % 64) (leBytes w.1 a.n) else s.homeSector r.x)
            ∧ (∀ y, y ≠ r.x → t.homeSector y = s.homeSector y)
            ∧ (a.dest ≠ .none ∨ a.acq ≠ none → ∃ c, t.accs = [c] ∧ c.id = a.id ∧ c.st = .done (BitVec.ofNat 128 v) w.2.2)
            ∧ (a.dest = .none → a.pf = none → a.acq = none → t.accs = []))
      ∧ (∀ q, e.st = .hRd → e.acks = [] → e.fwd = none → e.task = .host .rdS q → e.back = .i → e.dirty = false → e.ts = 0 → ∃ t, exec .proxyHomeHostResponse s = .next t
          ∧ HomeFrame s t x ∧ t.toAgent = s.toAgent ++ [s.homeMsg .dataE q x (s.hostValue x) false false false] ∧ t.dirOf x = put .e (some q) [])
      ∧ (s.hostHad.contains x = true → Config.hostWrote s.steps x = none → s.hostValue x = s.homeSector x)
      ∧ (s.hostAsked x [.inv, .fwdS, .fwdX, .recallMsg, .peek] = some m → s.ptb < m.sent + 20000 → exec .hostcoh s = .next s)
      ∧ (∀ q, s.hostAsked x [.inv, .fwdS, .fwdX, .recallMsg, .peek] = some m → m.sent + 20000 ≤ s.ptb → m.kind = .inv → e.st = .hInv → e.acks = [.host] → e.fwd = none →
          e.task = .serve .rdX q → e.back = .s → e.dirty = false → e.ts = 0 → ∃ t, exec .hostcoh s = .next t
          ∧ t.posts = s.posts ++ [{ vector := 0, event := "HOSTCOH", datum := BitVec.ofNat 64 (64 * x) }] ∧ t.dirOf x = put .e (some q) []
          ∧ t.toAgent = eraseFirst (· == m) s.toAgent ++ [s.homeMsg .dataE q x e.data false false e.bad] ∧ t.mem = s.mem))

/-- R249, R252: the last InvAck lets an upgrade complete; forwarded data lets the requester share or own the sector,
and is written home where the owner was leaving. A home-side operation reads the entry's data under PeekData and
leaves the entry as it was. -/
def Obligations.HomesTakeAnswers : Prop := ∀ (s : State) (m : Msg) (q : Agent),
  let x := s.arg.n
  let a := s.arg.a
  let e := s.dirOf x
  let done := fun (ev : Instr) (t : State) => exec ev s = .next t
  let put := fun (st : DSt) (own : Option Agent) (sh : List Agent) => { e with
    st := st, own := own, sh := sh, acks := [], fwd := none, task := .none, back := st, data := 0, dirty := false, bad := false, ts := 0 }
  let gives := fun (t : State) (k : MsgKind) (d : SectorData) (dirty bad : Bool) => t.toAgent = s.toAgent ++ [s.homeMsg k q x d dirty false bad]
  s.nextToHome m.kind a x = some m → m.ts = 0 → e.ts = 0 → Unlogged s →
    (m.kind = .invAck → e.st = .hInv → e.acks = [a] → e.fwd = none → e.task = .serve .upg q → e.back = .s → ∃ t, done .invack t ∧ HomeFrame s t x
        ∧ gives t .cmp e.data false e.bad ∧ t.dirOf x = put .e (some q) [])
    ∧ (m.kind = .invAck → e.st = .hInv → a ∈ e.acks → e.acks.filter (· ≠ a) ≠ [] → ∃ t, done .invack t ∧ HomeFrame s t x
        ∧ t.toAgent = s.toAgent ∧ t.dirOf x = { e with acks := e.acks.filter (· ≠ a) })
    ∧ (m.kind = .fwdData → m.flag = false → e.st = .hFwd → e.acks = [] → e.fwd = some a → e.own = some a → e.task = .serve .rdS q → e.back = .e →
        ∃ t, done .fwddata t ∧ HomeFrame s t x ∧ gives t .dataS m.data false m.poison
        ∧ t.dirOf x = if m.dirty then put .o (some a) [q] else put .s none (dedup [a, q]))
    ∧ (m.kind = .fwdData → m.flag = true → m.dirty = true → e.st = .hFwd → e.acks = [] → e.fwd = some a → e.own = some a → e.task = .serve .rdX q →
        e.back = .e → ∃ t, done .fwddata t ∧ HomeFrame s t x ∧ t.homeSector x = m.data ∧ gives t .dataE m.data true m.poison ∧ t.dirOf x = put .e (some q) [])
    ∧ ∀ r n, m.kind = .peekData → e.st = .hOp → e.acks = [] → e.fwd = some a → e.task = .homeOp n → s.homeOps = [r] → r.n = n → r.x = x → r.op = .scrub →
        ∃ t, done .peekdata t ∧ t.homeOps = [] ∧ t.mem = s.mem ∧ t.toAgent = s.toAgent ∧ t.dirOf x = put e.back e.own e.sh

/-- R251, R254: how a die's L2 takes the home's messages: data fills the copy that waits for it, an invalidation drops
it, a forward or recall sends the data back. -/
def Obligations.DiesTakeTheHomesMessages : Prop := ∀ (s : State) (m : Msg) (d : Nat) (c : L2Copy),
  let x := s.arg.n
  s.arg.a = .l2 d → s.arg.e = none → s.nextToAgent m.kind (.l2 d) x = some m → m.ts = 0 → s.l2copy d x = some c → s.accs = [] →
  fget s.nearLast (l2Key d x) = none → Unlogged s →
  let done := fun (ev : Instr) (t : State) => exec ev s = .next t ∧ t.mem = s.mem ∧ SameRegs s t ∧ t.toAgent = eraseFirst (· == m) s.toAgent
  let fills := fun (ev : Instr) (st : CSt) (data : SectorData) (bad : Bool) =>
    ∃ t, done ev t ∧ t.l2copy d x = some { st := st, data := data, dirty := false, poison := bad, early := c.early } ∧ t.toHome = s.toHome
  let answers := fun (t : State) (k : MsgKind) (data : SectorData) (dirty flag bad : Bool) =>
    t.toHome = s.toHome ++ [s.homeMsg k (.l2 d) x data dirty flag bad]
  let noL1 := fun (t : State) => ∀ core p, dieOf core = d → fget (t.core core).l1 x = some p → p.tracked = false
  (m.kind = .dataS → c.st = .isD → fills .datas .s m.data m.poison)
    ∧ (m.kind = .dataE → c.st = .isD → fills .datae (if m.dirty then .m else .e) m.data m.poison)
    ∧ (m.kind = .dataE → c.st = .imD → fills .datae .m m.data m.poison)
    ∧ (m.kind = .cmp → c.st = .smA ∨ c.st = .omA → fills .cmp .m c.data c.poison)
    ∧ (m.kind = .inv → c.st = .s → ∃ t, done .invMsg t ∧ t.l2copy d x = none ∧ noL1 t ∧ answers t .invAck 0 false false false)
    ∧ (m.kind = .inv → c.st = .smA ∨ c.st = .omA → ∃ t, done .invMsg t ∧ t.l2copy d x = some { c with st := .imD } ∧ answers t .invAck 0 false false false)
    ∧ (m.kind = .fwdS → c.st = .m → ∃ t, done .fwds t ∧ t.l2copy d x = some { c with st := .o } ∧ answers t .fwdData c.data true false c.poison)
    ∧ (m.kind = .fwdS → c.st = .e → ∃ t, done .fwds t ∧ t.l2copy d x = some { c with st := .s } ∧ answers t .fwdData c.data false false c.poison)
    ∧ (m.kind = .fwdX → c.st = .m ∨ c.st = .o → ∃ t, done .fwdx t ∧ t.l2copy d x = none ∧ noL1 t ∧ answers t .fwdData c.data true false c.poison)
    ∧ (m.kind = .recallMsg → c.st = .e → ∃ t, done .recallMsg t ∧ t.l2copy d x = none ∧ noL1 t ∧ answers t .fwdData c.data false false c.poison)
    ∧ (m.kind = .recallMsg → c.st = .s → ∃ t, done .recallMsg t ∧ t.l2copy d x = none ∧ answers t .invAck 0 false false false)
    ∧ (m.kind = .peek → ∃ t, done .peek t ∧ t.l2copy d x = some c ∧ answers t .peekData c.data false false c.poison)
    ∧ (m.kind = .wbAck → c.st = .miA → ∃ t, done .wback t ∧ t.l2copy d x = none ∧ t.toHome = s.toHome)

/-! ## Line locks -/

/-- R289 to R294: an acquire or a try of a lock that the wave does not hold goes to the lock unit and its threads
wait; one that it holds ends at once with status 0 and PS true; UNLOCK gives the lock up, and LKQRY reads its state.
The model's readings: LKQRY reads the lock unit, the held list and the retrying wait in the step in which it issues (log entry 24), and
UNLOCK sets sr.lkstat when it issues (log entry 102). -/
def Obligations.LockWordsActOnceForTheWave : Prop := ∀ (s : State) (b : Issue) (h : Hdr) (f : FmtX) (u pa cls : Nat),
  let w := s.wave u
  let ea := (s.sreg u (f.u0.toNat + 1) ++ s.sreg u f.u0.toNat).toNat
  let x := sectorOf pa
  let ps := (f.xmod.extractLsb' 0 3).toNat
  let r := s.lockOf x
  let runs := fun (i : Instr) => Runs s i b ∧ OneWave s i b u ∧ (∀ y ∈ s.actives i b, (s.laneTrans false y ea .read).1 = .ok pa cls)
    ∧ (i ≠ .lkqry h f → ∀ y ∈ s.actives i b, (s.laneTrans false y ea .write).1 = .ok pa cls)
  let new := w.lockWait = none ∧ ∀ e ∈ w.lockers, (⟨u, e.i⟩ : TRef) ∈ b.threads → e.x ≠ x
  let asks := fun (i : Instr) (k : LockKind) (wait : Option (Nat × Nat)) => runs i → x ∉ w.held → w.held.length < 8 → new →
    ∃ t, WaitsPlain i b .lock s t
      ∧ t.lockMsgs = s.lockMsgs ++ [{ n := s.next, u := u, x := x, kind := k, req := s.next, after := 0, scope := 0, past := 0 }]
      ∧ (t.wave u).lockWait = wait ∧ (t.wave u).held = w.held
  let has := fun (i : Instr) => runs i → x ∈ w.held → new → ∃ t, exec i s = .next t ∧ GoesOn b s t ∧ (∀ a, t.byteAt a = s.byteAt a)
      ∧ RegsAre t s.vreg (fun y k => if y ∈ s.actives i b ∧ k = ps ∧ k < 7 then true else s.preg y k) s.sreg s.mreg s.fpswOf
      ∧ (t.wave u).lkstat = 0 ∧ (t.wave u).held = w.held ∧ t.lockMsgs = s.lockMsgs
  let flag := fun (c : Bool) (n : Nat) => if c then n else 0
  let wst := if w.held.contains x then 1 else if s.retrying u x then 3
    else match r.queue.find? (fun w => w.u == u) with
      | some w => if w.passed then 4 else 2
      | none => 0
  ea < 2 ^ 56 → ea % 64 = 0 → (s.target pa).1 = .hbm → s.lostHome pa = false → s.lostHome (64 * x) = false →
    asks (.lock h f) (.acquire none none) (some (x, s.next))
    ∧ asks (.lockt h f) (.acquire (some (s.ptb + (s.sreg u f.u1.toNat).toNat)) none) (some (x, s.next))
    ∧ asks (.trylk h f) .try_ none
    ∧ has (.lock h f) ∧ has (.lockt h f) ∧ has (.trylk h f)
    ∧ (runs (.unlock h f) → x ∈ w.held → ∃ t, GoesOnPlain (.unlock h f) b s t ∧ (t.wave u).held = w.held.filter (· ≠ x) ∧ (t.wave u).lkstat = 0
        ∧ t.lockMsgs = s.lockMsgs ++ [{ n := s.next, u := u, x := x, kind := .release, req := 0, after := s.next, scope := lockScope h, past := 0 }])
    ∧ (runs (.lkqry h f) → w.isSprout = false → ∃ t, exec (.lkqry h f) s = .next t ∧ GoesOn b s t ∧ (∀ a, t.byteAt a = s.byteAt a)
        ∧ t.locks = s.locks ∧ RegsAre t s.vreg s.preg (fun v k => if v = u ∧ k = f.u1.toNat then BitVec.ofNat 32
            (wst * 2 ^ 28 + min 4095 r.queue.length * 2 ^ 16 + flag (decide (s.waiterCount (s.homeOf (64 * x)) ≥ 4096)) 8
              + flag (r.holder.isNone && !r.queue.isEmpty) 4 + flag (s.lockMarks.contains x) 2 + flag r.holder.isSome 1)
          else s.sreg v k) s.mreg s.fpswOf)

/-- R277 to R283: an acquire of a free sector is granted, of a held one queued; a try of a held one fails with status
1; a release grants the first waiter or frees the sector, an abandon marks it; no register and no byte changes. R278,
R280 to R285, R291: a reserved head that is back is granted, one whose grace has passed goes behind the others; a
waiter past its deadline is answered TIMEOUT and never granted, an acquire answered FULL is sent again; a reply ends the
lock instruction of the threads of its request; the scanner fails the newest waiter of a confirmed cycle. -/
def Obligations.LockUnitsGrantReplyAndTimeOut : Prop :=
  (∀ (s : State) (m : LockMsg) (w : LockWaiter) (rest : List LockWaiter),
    let x := m.x
    let r := s.lockOf x
    let grants := fun (t : State) (u req status : Nat) (queue : List LockWaiter) =>
      t.lockOf x = { holder := some u, queue := queue, grace := none, aband := false } ∧ x ∉ t.lockMarks ∧ ∃ n, t.homeOps = s.homeOps ++
        [{ n := n, x := x, pa := 64 * x, op := .grant (dieOf (s.wave u).core) u status req }]
    let status := fun (ab : Bool) => if ab || s.lockMarks.contains x then 2 else if w.passed then 5 else 0
    let done := fun (ev : Instr) (t : State) => exec ev s = .next t ∧ t.waves = s.waves ∧ t.mem = s.mem ∧ t.lockMsgs = []
    s.lockMsgs = [m] → m.n = s.arg.n → s.lockMsgReady m = true →
      (∀ d, m.kind = .acquire d none → r.free = true → s.lockCount (s.homeOf (64 * x)) < 4096 →
          ∃ t, done .lockAcquireArrival t ∧ grants t m.u m.req (if s.lockMarks.contains x then 2 else 0) [] ∧ t.lockReplies = s.lockReplies)
      ∧ (∀ h, m.kind = .acquire none none → r.holder = some h → r.queue = [] → r.grace = none → s.waiterCount (s.homeOf (64 * x)) < 4096 →
          ∃ t n, done .lockAcquireArrival t ∧ t.lockReplies = s.lockReplies ∧ t.homeOps = s.homeOps
            ∧ t.lockOf x = { r with queue := [{ u := m.u, req := m.req, tick := s.ptb, order := n, deadline := none, passed := false }] })
      ∧ (∀ d h, m.kind = .acquire (some d) none → r.holder = some h → d ≤ s.ptb → ∃ t n, done .lockAcquireArrival t ∧ t.locks = s.locks
            ∧ t.lockReplies = s.lockReplies ++ [{ n := n, u := m.u, x := x, status := 1, req := m.req, again := none }])
      ∧ (m.kind = .try_ → r.free = true → s.lockCount (s.homeOf (64 * x)) < 4096 →
          ∃ t, done .lockTryArrival t ∧ grants t m.u m.req (if s.lockMarks.contains x then 2 else 0) [])
      ∧ (m.kind = .try_ → r.free = false → ∃ t n, done .lockTryArrival t ∧ t.locks = s.locks
            ∧ t.lockReplies = s.lockReplies ++ [{ n := n, u := m.u, x := x, status := 1, req := m.req, again := none }])
      ∧ (m.kind = .release → r.holder = some m.u → r.queue = [] → ∃ t, done .lockReleaseArrival t ∧ fget t.locks x = none ∧ t.lockMarks = s.lockMarks)
      ∧ (m.kind = .release → r.holder = some m.u → r.queue = w :: rest → w.late s.ptb = false → s.absent w.u = false →
          ∃ t, done .lockReleaseArrival t ∧ grants t w.u w.req (status false) rest)
      ∧ (m.kind = .release → r.holder = some m.u → r.queue = [w] → w.late s.ptb = true → ∃ t n, done .lockReleaseArrival t
            ∧ fget t.locks x = none ∧ t.homeOps = s.homeOps
            ∧ t.lockReplies = s.lockReplies ++ [{ n := n, u := w.u, x := x, status := 1, req := w.req, again := none }])
      ∧ (m.kind = .release → r.holder = some m.u → r.queue = w :: rest → w.late s.ptb = false → s.absent w.u = true →
          ∃ t, done .lockReleaseArrival t ∧ t.lockOf x = { r with holder := none, grace := some s.ptb, aband := false } ∧ t.homeOps = s.homeOps)
      ∧ (m.kind = .abandon → r.holder = some m.u → r.queue = [] → ∃ t, done .lockAbandonArrival t ∧ fget t.locks x = none ∧ x ∈ t.lockMarks)
      ∧ (m.kind = .abandon → r.holder = some m.u → r.queue = w :: rest → w.late s.ptb = false → s.absent w.u = false →
          ∃ t, done .lockAbandonArrival t ∧ grants t w.u w.req 2 rest))
    ∧ (∀ (s : State) (w y : LockWaiter) (rest : List LockWaiter),
    let x := s.arg.n
    let r := s.lockOf x
    let status := fun (w : LockWaiter) => if r.aband || s.lockMarks.contains x then 2 else if w.passed then 5 else 0
    let grants := fun (t : State) (w : LockWaiter) (queue : List LockWaiter) =>
      t.lockOf x = { holder := some w.u, queue := queue, grace := none, aband := false } ∧ ∃ n, t.homeOps = s.homeOps ++
        [{ n := n, x := x, pa := 64 * x, op := .grant (dieOf (s.wave w.u).core) w.u (status w) w.req }]
    (r.queue = w :: rest → r.holder = none → w.late s.ptb = false → s.absent w.u = false → ∃ t, exec .lockHeadReturn s = .next t ∧ t.waves = s.waves ∧ grants t w rest)
      ∧ (∀ g, r.queue = w :: y :: rest → r.holder = none → r.grace = some g → g + 50000 ≤ s.ptb → s.absent w.u = true → y.late s.ptb = false →
          s.absent y.u = false → ∃ t, exec .lockGraceExpiry s = .next t ∧ t.waves = s.waves ∧ grants t y (rest ++ [{ w with passed := true }]))
      ∧ (∀ k d, s.lockRetries = [k] → k.u = s.arg.n → k.deadline = some d → d ≤ s.ptb → ∃ t n, exec .lockDeadlineExpiry s = .next t ∧ t.lockRetries = []
          ∧ t.waves = s.waves ∧ t.lockReplies = s.lockReplies ++ [{ n := n, u := k.u, x := k.x, status := 1, req := k.req, again := none }])
      ∧ (∀ k, s.lockRetries = [k] → k.u = s.arg.n → k.next ≤ s.ptb → ∃ t n, exec .lockFullRetry s = .next t ∧ t.lockRetries = [] ∧ t.waves = s.waves
          ∧ ((∀ d, k.deadline = some d → s.ptb < d) → t.lockReplies = s.lockReplies ∧ t.lockMsgs = s.lockMsgs ++
            [{ n := n, u := k.u, x := k.x, kind := .acquire k.deadline (some k.stamp), req := k.req, after := 0, scope := 0, past := 0 }])
          ∧ ∀ d, k.deadline = some d → d ≤ s.ptb → t.lockMsgs = s.lockMsgs
            ∧ t.lockReplies = s.lockReplies ++ [{ n := n, u := k.u, x := k.x, status := 1, req := k.req, again := none }])
      ∧ (∀ (q : LockReply) (e : Locker), s.lockReplies = [q] → q.n = s.arg.n → q.again = none → (fget s.waves q.u).isSome = true →
          (∀ m ∈ s.toAgent, m.kind = .dataE → m.x = q.x → m.agent ≠ .l2 (dieOf (s.wave q.u).core)) →
          (s.wave q.u).lockers = [e] → e.x = q.x → e.req = q.req → e.late = false → e.pc = (s.thread ⟨q.u, e.i⟩).at_ → (s.wave q.u).held = [] →
          (s.thread ⟨q.u, e.i⟩).st = .waiting .lock → e.ps < 7 → Unlogged s →
          let held := q.status == 0 || q.status == 2 || q.status == 5
          ∃ t, exec .lockReply s = .next t ∧ t.lockReplies = [] ∧ (t.thread ⟨q.u, e.i⟩).st = .ready ∧ (t.wave q.u).lkstat = BitVec.ofNat 32 q.status
            ∧ (t.wave q.u).held = (if held then [q.x] else []) ∧ (∀ a, t.byteAt a = s.byteAt a)
            ∧ RegsAre t s.vreg (fun z k => if z = ⟨q.u, e.i⟩ ∧ k = e.ps then held else s.preg z k) s.sreg s.mreg s.fpswOf)
      ∧ (s.lkctl.getLsbD 0 = true → s.scanCand = [] → s.scanTick + 65536 ≤ s.ptb → ∃ t, exec .deadlockScan s = .next t ∧ t.scanTick = s.ptb
          ∧ t = { s with scanTick := t.scanTick, scanCand := t.scanCand, dlSeen := t.dlSeen } ∧ ∀ c ∈ t.scanCand, ∀ e ∈ c, s.waitSector e.1 = some e.2)
      ∧ (∀ c, s.scanCand = [c] → c ≠ [] → s.scanTick + 4096 ≤ s.ptb → (∀ e ∈ c, s.waitSector e.1 = some e.2) → s.lockCycles.any (sameCycle c) = true →
          s.dlSeen = [] → s.lkctl = 7 → s.dlrb.getLsbD 0 = false → ∃ t e k, exec .deadlockConfirm s = .next t ∧ t.scanCand = [] ∧ t.waves = s.waves
            ∧ e ∈ c ∧ (∀ d ∈ c, s.stampKey d ≤ s.stampKey e) ∧ t.lockReplies = s.lockReplies ++ [k] ∧ k.u = e.1 ∧ k.x = e.2 ∧ k.status = 3
            ∧ t.posts = s.posts ++ [{ vector := 0, event := "DEADLOCK", datum := BitVec.ofNat 64 s.dlCyc }]))

/-! ## Copies, batches and barrier objects -/

/-- R297 to R306, R317: a copy whose checks pass, whose pages can be pinned and that finds a free entry is accepted:
it joins the copies with its units all to be performed, in the open batch of its wave and with the policy of its instruction; one of
no unit, without a stamp, is over at once; COPYM takes a slot for each receiver, COPYX carries its command. No register and no byte changes. -/
def Obligations.CopiesAreAccepted : Prop := ∀ (s : State) (b : Issue) (h : Hdr) (f : FmtX) (u : Nat),
  let w := s.wave u
  let accepts := fun (i : Instr) (kind : Nat) =>
    let r := s.copyRegs u i
    let p := copyPlan f kind r
    Runs s i b → OneWave s i b u → firstEng (s.copyChecks f kind w.block r p) = none →
    (∀ g ∈ [p.src, p.dst] ++ p.stamp.toList, Pinnable s u g) → (∀ x ∈ s.actives i b, s.allDone x 6 = true) → s.entriesUsed w.core < 64 →
    w.sealed = false → s.carriedPending u i r = false → (kind = 2 → ∀ m ∈ cpMembers f, (s.block w.block).slot m ≠ 0) →
    (p.shape.rows * p.shape.len / 16 = 0 → kind < 2 → p.stamp = none → (∀ c ∈ s.copies, c.id ≠ s.next) →
      ∃ t, WordKeeps i b s t ∧ t.copies = s.copies ∧ t.blocks = s.blocks)
    ∧ (p.shape.rows * p.shape.len / 16 ≠ 0 → ∃ t c, WordKeeps i b s t ∧ t.copies = s.copies ++ [c] ∧ c.id = s.next ∧ c.u = u ∧ c.ctx = w.ctx ∧ c.core = w.core ∧ c.block = w.block
      ∧ c.batch = w.batch ∧ c.left = [(0, p.shape.rows * p.shape.len / 16)] ∧ c.rowUnits = max 1 (p.shape.len / 16)
      ∧ c.dst = planOff kind p.dst ∧ c.srcPitch = p.shape.srcPitch ∧ c.dstPitch = p.shape.dstPitch ∧ c.bar = p.bar ∧ c.err = false
      ∧ (c.carried.map Carried.unit = if kind = 3 then carriedWord r f else none)
      ∧ c.pol = s.polOf w.ctx h
      ∧ ∀ m, (t.block w.block).slot m = (s.block w.block).slot m - if kind = 2 ∧ m ∈ cpMembers f then 1 else 0)
  accepts (.copy h f) 0 ∧ accepts (.copy2 h f) 1 ∧ accepts (.copym h f) 2 ∧ accepts (.copyx h f) 3

/-- R299, R300, R303, R304, R307, R312, R313: one unit of a copy moves 16 bytes, in scratchpad or in device memory,
and every other byte is kept; a barrier object counts them, the last of them as the copy ends, with its error. R300, R305, R307,
R309, R319: a copy with no unit left writes its stamp and is over, marks its batch where it met an error, and opens the next batch
of a wave that has sealed its own; its carried command joins the matrix engine's queue, or its trap waits for the threads of its
wave to stand at a memory or engine word. -/
def Obligations.CopyUnitsMoveAndCopiesEnd : Prop :=
  (∀ (s : State) (c : Copy) (k e q : Nat) (d : ScrDst),
    s.copies = [c] → c.id = s.arg.n → c.left = [(k, e)] → k < e → s.arg.k = k → s.arg.m = 1 →
    let src := c.src + k / c.rowUnits * c.srcPitch + 16 * (k % c.rowUnits)
    let dst := c.dst + k / c.rowUnits * c.dstPitch + 16 * (k % c.rowUnits)
    let spa := pinned c.srcPins src
    let dpa := pinned c.dstPins dst
    let one := c.targets = [d] ∧ d.block = q ∧ s.blockLive q = true ∧ (s.block q).saved = false
    let done := fun (t : State) => exec .copyUnitPerformed s = .next t ∧ SameRegs s t
      ∧ t.copies = [if k + 1 = e then { c with left := [], owed := 1 } else { c with left := [(k + 1, e)] }]
    (c.ssp ≠ 0 → c.dsp ≠ 0 → one → s.scrBad c.srcBlock src 16 = false → c.bar = none ∨ k + 1 = e → ∃ t, done t
        ∧ t.scrRead q dst 16 = s.scrRead c.srcBlock src 16 ∧ ScrOnly s t q dst 16 ∧ ∀ a, t.byteAt a = s.byteAt a)
      ∧ (∀ o, c.ssp ≠ 0 → c.dsp ≠ 0 → one → s.scrBad c.srcBlock src 16 = false → c.bar = some o → k + 1 < e → dst + 16 ≤ o → ∃ t, done t
        ∧ t.scrRead q dst 16 = s.scrRead c.srcBlock src 16 ∧ t.scrRead q o 16 = barTest (setBits (s.scrRead q o 16) 55 0 (bits (s.scrRead q o 16) 55 0 + 2 ^ 56 - 16)))
      ∧ (c.ssp = 0 → c.dsp = 0 → c.bar = none → s.deadM = [] → (s.target spa).1 = .hbm → (s.target dpa).1 = .hbm → s.poisoned (sectorOf spa) = false → spa % 16 = 0 →
        dpa % 16 = 0 → dpa < 2 ^ 52 → Unlogged s → ∃ t, done t ∧ (∀ j, j < 16 → t.byteAt (dpa + j) = s.byteAt (spa + j))
        ∧ ∀ a, a < 2 ^ 52 → a < dpa ∨ dpa + 16 ≤ a → t.byteAt a = s.byteAt a))
    ∧ (∀ (s : State) (c : Copy) (q : Nat) (d : ScrDst),
    (s.copies = [c] → c.id = s.arg.n → c.ready = true → c.multicast = false → (fget s.waves c.u).isSome = true →
      let w := s.wave c.u
      let next := (w.batch + 1) % 16
      let err := w.batchErr ||| if c.err then 2 ^ c.batch else 0
      let ends := fun (t : State) => exec .copyComplete s = .next t ∧ SameRegs s t ∧ t.copies = []
        ∧ (if w.sealed then (t.wave c.u).batch = next ∧ (t.wave c.u).sealed = false ∧ (t.wave c.u).batchErr = err &&& (0xFFFF - 2 ^ next)
          else (t.wave c.u).batch = w.batch ∧ (t.wave c.u).batchErr = err)
      let live := d.block = q ∧ s.blockLive q = true ∧ (s.block q).saved = false
      (c.stamp = none → c.bar = none → ∃ t, ends t ∧ t.blocks = s.blocks ∧ t.mem = s.mem)
      ∧ (∀ o, c.stamp = none → c.bar = some o → c.owed ≠ 0 → c.targets = [d] → live → ∃ t, ends t ∧ ScrOnly s t q o 16 ∧ t.mem = s.mem
        ∧ let v := setBits (s.scrRead q o 16) 55 0 (bits (s.scrRead q o 16) 55 0 + 2 ^ 56 - 16 * c.owed % 2 ^ 56)
          t.scrRead q o 16 = barTest (if c.err then setBits v 56 56 1 else v))
      ∧ ∀ a v, c.stamp = some (a, v) → c.bar = none → c.dsp ≠ 0 → c.stampTo = [d] → live →
        ∃ t, ends t ∧ t.scrRead q a 8 = v.toNat ∧ ScrOnly s t q a 8 ∧ t.mem = s.mem)
      ∧ (∀ k f, s.copies = [c] → c.id = s.arg.n → c.left = [] → c.carried = some k → k.landed = false → (s.block c.block).saved = false → s.carriedFree c k = true →
        s.matWaiters c.core = [] → s.chain = none → matFields k.unit = some f → (productIndex k.unit).isSome = true → Unlogged s →
        let w := s.wave c.u
        let landed := { c with carried := some { k with landed := true } }
        (firstEng (s.matChecks k.unit f c.u k.regs) = none → (∀ i ∈ w.live, s.allDone ⟨c.u, i⟩ 6 = true) → (s.queued w.core).length < 16 →
          ∃ t m, exec .copyxHandover s = .next t ∧ SameRegs s t ∧ t.copies = [landed] ∧ t.mcmds = s.mcmds ++ [m] ∧ m.unit = k.unit ∧ m.u = c.u
            ∧ m.core = w.core ∧ m.block = w.block ∧ m.regs = k.regs ∧ m.who = w.live ∧ t.mem = s.mem)
        ∧ ∀ e, firstEng (s.matChecks k.unit f c.u k.regs) = some e → (fget s.waves c.u).isSome = true →
          ∃ t a, exec .copyxHandover s = .next t ∧ SameRegs s t ∧ t.copies = [{ landed with err := true }] ∧ t.mcmds = s.mcmds ∧ (t.wave c.u).merr = true
            ∧ t.carriedTraps = s.carriedTraps ++ [(c.id, c.u, a)] ∧ a.cause = e.cause ∧ a.info = BitVec.ofNat 32 (e.det + 32))
      ∧ ∀ n u a, s.carriedTraps = [(n, u, a)] → n = s.arg.n → (s.wave u).live ≠ [] → (fsorted (s.wave u).threads = true) →
        (s.atMemWord u = true → ∃ t, exec .carriedCommandTrap s = .next t ∧ SameRegs s t ∧ t.carriedTraps = []
          ∧ ∀ i ∈ (s.wave u).live, (t.thread ⟨u, i⟩).async = (s.thread ⟨u, i⟩).async ++ [a])
        ∧ (s.atMemWord u = false → exec .carriedCommandTrap s = .next s))

/-- R307 to R310, R317, R318: BSEAL seals the open batch at once and gives its number; it waits where the next number is not done,
and goes on when that has opened. BWAIT seals the open batch that it names, and its predicate says that a batch that is done met no
error. BQRY reads the errors and the batches done, SLOTQ the receivers' slots, and SLOTRET returns slots up to the credit. -/
def Obligations.BatchesAndSlots : Prop := ∀ (s : State) (b : Issue) (h : Hdr) (f : FmtS) (g : FmtX) (u k : Nat),
  let w := s.wave u
  let blk := s.block w.block
  let next := (w.batch + 1) % 16
  let empty := fun n => ∀ c ∈ s.copies, ¬ (c.u = u ∧ c.batch = n)
  let doneB := fun n => (w.batch ≠ n ∨ w.sealed = true) ∧ empty n
  let runs := fun i => Runs s i b ∧ OneWave s i b u
  let fresh := fun i => runs i ∧ w.sealed = false ∧ s.sealedBy b.chainPc (s.actives i b) = none
  let named := if bsRb f then (s.sreg u (bsUs f)).toNat % 16 else bsBn f
  let gives := fun (t : State) (n : Nat) => WordGives (.bseal h f) b s t
    (if bsD f = 244 then s.vreg else s.vOne (.bseal h f) b (bsD f) (BitVec.ofNat 32 n)) s.preg s.sreg
  let tells := fun (t : State) => WordGives (.bwait h f) b s t s.vreg (s.pOne (.bwait h f) b (bsPs f) (!w.batchErr.testBit named)) s.sreg
  let opens := fun (t : State) => (t.wave u).batch = next ∧ (t.wave u).sealed = false ∧ (t.wave u).batchErr = w.batchErr &&& (0xFFFF - 2 ^ next)
  let waits := fun (i : Instr) (t : State) => exec i s = .next t ∧ SameRegs s t ∧ (∀ a, t.byteAt a = s.byteAt a)
    ∧ ∀ x ∈ s.actives i b, (t.thread x).sealed = some (b.chainPc, w.batch)
  (fresh (.bseal h f) → empty next → ∃ t, gives t w.batch ∧ opens t)
    ∧ (fresh (.bseal h f) → ¬ empty next → s.chain = none → ∃ t, waits (.bseal h f) t ∧ (t.wave u).sealed = true ∧ (t.wave u).batch = w.batch)
    ∧ (∀ n, runs (.bseal h f) → s.sealedBy b.chainPc (s.actives (.bseal h f) b) = some n → ¬ (w.sealed = true ∧ w.batch = n) →
      ∃ t, gives t n ∧ (t.wave u).batch = w.batch ∧ ∀ x ∈ s.actives (.bseal h f) b, (t.thread x).sealed = none)
    ∧ (runs (.bwait h f) → s.sealedBy b.chainPc (s.actives (.bwait h f) b) = none → doneB named → ∃ t, tells t ∧ (t.wave u).batch = w.batch)
    ∧ (fresh (.bwait h f) → named = w.batch → named < 16 → empty named → empty next → ∃ t, tells t ∧ opens t)
    ∧ (fresh (.bwait h f) → named = w.batch → ¬ empty named → empty next → s.chain = none → ∃ t, waits (.bwait h f) t ∧ opens t)
    ∧ (runs (.bwait h f) → s.sealedBy b.chainPc (s.actives (.bwait h f) b) = none → named ≠ w.batch → ¬ empty named → s.chain = none →
      exec (.bwait h f) s = .next { s with stalled := true })
    ∧ (runs (.bqry h f) → ∃ t n, WordGives (.bqry h f) b s t (s.vOne (.bqry h f) b (bsD f) (BitVec.ofNat 32 (w.batchErr * 65536 + n))) s.preg s.sreg
      ∧ n < 65536 ∧ ∀ k, k < 16 → (n.testBit k = true ↔ doneB k))
    ∧ (runs (.slotq h g) → ∃ t, WordGives (.slotq h g) b s t s.vreg s.preg (s.sSet u g.u0.toNat 1
          (blk.overs * 2 ^ 20 + blk.gone * 2 ^ 16 + blk.slot 0 + blk.slot 1 * 2 ^ 4 + blk.slot 2 * 2 ^ 8 + blk.slot 3 * 2 ^ 12))
      ∧ t.block w.block = { blk with overs := 0, gone := 0 })
    ∧ (runs (.slotret h g) → s.memberBlock w.block (g.xmod.extractLsb' 10 2).toNat = some k → ∃ t, WordKeeps (.slotret h g) b s t
      ∧ (t.block k).slot blk.member = min ((s.block k).slot blk.member + (g.xmod.extractLsb' 6 4).toNat) (s.block k).credit
      ∧ ∀ j, j ≠ k → t.block j = s.block j)

/-- R312: the test after every operation on a barrier object: with no byte pending and every arrival in, the phase
rises, the arrivals start anew, and the error of the phase moves from ERR to its place. R311 to R316: BARI starts an
object with N expected arrivals, BARX adds bytes, BARA arrives and may take the phase as a token, BARW goes on once
the phase is another than the token's and waits before, BART tells without waiting. -/
def Obligations.BarrierPhasesAndWords : Prop :=
  (∀ (o : Nat), o < 2 ^ 128 →
    let full := bits o 79 64 = bits o 95 80 ∧ bits o 55 0 = 0
    let n := barTest o
    (¬ full → n = o) ∧ (full → bits n 127 96 = (bits o 127 96 + 1) % 2 ^ 32 ∧ bits n 95 80 = bits o 95 80 ∧ bits n 79 64 = 0 ∧ bits n 55 0 = 0
      ∧ bits n 56 56 = 0 ∧ bits n 57 57 = bits o 56 56))
    ∧ (∀ (s : State) (b : Issue) (h : Hdr) (f : FmtX) (u k off : Nat),
    let w := s.wave u
    let a := (s.sreg u f.u0.toNat).toNat
    let v := (s.sreg u f.u1.toNat).toNat
    let o := s.scrRead k off 16
    let sc := if barCs f then 2 else 1
    let runs := fun i => Runs s i b ∧ OneWave s i b u
    let n := fun (i : Instr) => if barPt f then (s.actives i b).length else 1
    let ready := fun (i : Instr) => ∀ x ∈ s.actives i b, s.allDone x sc = true
    let makes := fun (t : State) (o : Nat) => t.scrRead k off 16 = o ∧ ScrOnly s t k off 16
    a % 16 = 0 → s.scrPlace w.block sc a = some (k, off) → off + 16 ≤ (s.block k).scratch → s.blockLive k = true → (s.block k).saved = false →
      (runs (.bari h f) → 1 ≤ v → v ≤ 65535 → ready (.bari h f) → ∃ t, WordKeeps (.bari h f) b s t ∧ makes t (v * 2 ^ 80))
      ∧ (runs (.barx h f) → ∃ t, WordKeeps (.barx h f) b s t ∧ makes t (barTest (setBits o 55 0 (bits o 55 0 + v))))
      ∧ (runs (.bara h f) → bits o 79 64 + n (.bara h f) ≤ bits o 95 80 → ready (.bara h f) → ∃ t, WordGives (.bara h f) b s t s.vreg s.preg
            (if barTk f then s.sSet u f.u1.toNat 1 (bits o 127 96) else s.sreg)
          ∧ makes t (barTest (setBits o 79 64 (bits o 79 64 + n (.bara h f)))))
      ∧ (runs (.barw h f) → bits o 127 96 ≠ v → ∃ t, WordGives (.barw h f) b s t s.vreg (s.pOne (.barw h f) b (barPs f) (!o.testBit 57)) s.sreg
          ∧ t.blocks = s.blocks ∧ ∀ e ∈ (t.core w.core).l1, e.2.tracked = true)
      ∧ (runs (.barw h f) → bits o 127 96 = v → s.chain = none → exec (.barw h f) s = .next { s with stalled := true })
      ∧ (runs (.bart h f) → ∃ t, WordGives (.bart h f) b s t s.vreg (s.pOne (.bart h f) b (barPs f) (decide (bits o 127 96 ≠ v))) s.sreg ∧ t.blocks = s.blocks))

/-! ## The matrix engine -/

/-- R351 to R354, R359 to R374: a matrix command whose checks pass, whose pages can be pinned and that finds room
joins the queue of its core with the registers that it reads and the threads that issued it; no register, tile or byte
changes. R370, R371: MSTAT reads the commands pending, the room in the queue, the MSEQ step and the error flag; MFENCE
waits for the wave's commands, gives the negated error flag to its predicate and clears it. -/
def Obligations.MatrixCommandsJoinStatusAndFence : Prop :=
  (∀ (s : State) (b : Issue) (h : Hdr) (f : FmtX) (u : Nat),
    let w := s.wave u
    let joins := fun (i : Instr) =>
      let r := s.namedRegs u i
      Runs s i b → OneWave s i b u → firstEng (s.matChecks i f u r) = none → (∀ g ∈ matRngs i r, Pinnable s u g) →
      (∀ x ∈ s.actives i b, s.allDone x 6 = true) → s.matFull w.core i = false → s.matYields u w.core = false →
      ∃ t m, WordKeeps i b s t ∧ t.mcmds = s.mcmds ++ [m] ∧ m.id = s.next ∧ m.unit = i ∧ m.u = u ∧ m.core = w.core ∧ m.block = w.block ∧ m.regs = r
        ∧ m.who = (s.actives i b).map TRef.i ∧ m.next = 0 ∧ ∀ k, (t.block k).tiles = (s.block k).tiles ∧ (t.block k).scr = (s.block k).scr
    joins (.mma h f) ∧ joins (.mmas h f) ∧ joins (.mmat h f) ∧ joins (.mzero h f) ∧ joins (.mlda h f) ∧ joins (.msta h f) ∧ joins (.mcvt h f)
      ∧ joins (.mepi h f) ∧ joins (.mdrain h f) ∧ joins (.mseq h f))
    ∧ (∀ (s : State) (b : Issue) (h : Hdr) (f : FmtX) (u : Nat),
    let w := s.wave u
    let runs := fun i => Runs s i b ∧ OneWave s i b u
    let pending := (s.mcmds.filter fun m => m.u == u).length + (s.drains.filter fun d => d.u == u).length
    let carrying := ∃ c ∈ s.copies, c.u = u ∧ ∃ k, c.carried = some k ∧ k.landed = false
    let room := 16 - (s.mcmds.filter fun m => m.core == w.core && !(s.block m.block).saved).length
    (runs (.mstat h f) → ∃ t, WordGives (.mstat h f) b s t s.vreg s.preg (s.sSet u f.u0.toNat 1
        ((if w.merr then 2 ^ 24 else 0) + min w.mseqNext 255 * 2 ^ 16 + room * 2 ^ 8 + min pending 255)))
      ∧ (runs (.mfence h f) → pending = 0 → ¬ carrying → ∃ t,
          WordGives (.mfence h f) b s t s.vreg (s.pOne (.mfence h f) b (f.xmod.extractLsb' 0 3).toNat (!w.merr)) s.sreg ∧ (t.wave u).merr = false)
      ∧ (runs (.mfence h f) → pending ≠ 0 ∨ carrying → s.chain = none → exec (.mfence h f) s = .next { s with stalled := true }))

/-- R357 to R366: what the command at the head of a core's order does: a product leaves in each element the sum of its
row and column or the mask's fill, MZERO its value, MLDA and MSTA move rows of scratchpad, MEPI finishes each element,
MCVT converts rows into registers, MDRAIN's tile waits for the other ranks. R375, R527: a command that reads an element with an
uncorrectable error sets its wave's matrix error flag. -/
def Obligations.MatrixCommandsRun : Prop := ∀ (s : State) (m : MCmd) (h : Hdr) (f : FmtX), s.headCmd s.arg.n = some m → s.blockLive m.block = true →
  let k := s.block m.block
  let hurt := fun (e : Nat) => e ∈ k.tileBad ∧ e / 4096 ∈ m.tiles.map Prod.snd
  let acc := mAcc f
  let runs := fun (t : State) => exec .matrixCommandExecute s = .next t ∧ t.mcmds = s.mcmds.filter (fun x => x.id ≠ m.id) ∧ (∀ a, t.byteAt a = s.byteAt a)
    ∧ (∀ q, q ≠ m.block → t.block q = s.block q) ∧ ∀ x, (t.thread x).pc = (s.thread x).pc ∧ (t.thread x).p = (s.thread x).p
  let same := fun (t : State) => ∀ x r, t.vreg x r = s.vreg x r
  let tilesBut := fun (t : State) (ok : Nat → Bool) => ∀ n, ok n = false → fget (t.block m.block).tiles n = fget k.tiles n
  let elems := fun (t : State) (n : Nat) (val : Nat → Nat → Nat) => ∀ i j, i < 64 → j < 64 → (t.block m.block).elem n i j = BitVec.ofNat 32 (val i j)
  let prods := fun (z : Bool) =>
    let o := s.operands m 0 1 0 0
    let dbl := o.group == 5
    ∃ t, runs t ∧ same t ∧ tilesBut t (fun n => n == acc || (dbl && n == acc + 1)) ∧ ∀ i j, i < 64 → j < 64 →
      (t.block m.block).code dbl acc i j = (if m.masked i j then m.fill o.group (k.code dbl acc i j)
        else ((o.prodAt i j).elem (if z then 0 else k.code dbl acc i j)).1) % (if dbl then 2 ^ 64 else 2 ^ 32)
  (∀ e, hurt e → tileReads m.unit = true → isMseq m.unit = false → (fget s.waves m.u).isSome = true →
    ∃ t, exec .matrixCommandExecute s = .next t ∧ (t.wave m.u).merr = true ∧ ¬ e ∈ (t.block m.block).tileBad)
  ∧ ((∀ e, ¬ hurt e) → (m.unit = .mma h f ∨ m.unit = .mmas h f ∨ m.unit = .mmat h f → prods (mZ f))
    ∧ (m.unit = .mzero h f → ∃ t, runs t ∧ same t ∧ tilesBut t (fun n => decide (acc ≤ n) && decide (n < acc + mCnt f))
        ∧ ∀ n, acc ≤ n → n < acc + mCnt f → elems t n fun _ _ => if mBit f 6 then (regOf m.regs f.u0.toNat).toNat else 0)
    ∧ (∀ g, m.unit = .mlda h f → mBit f 4 = false → matRngs m.unit m.regs = [g] → g.space = 1 → k.scrPoison = [] → ∃ t, runs t ∧ same t
        ∧ tilesBut t (· == acc) ∧ elems t acc fun i j => s.scrRead m.block (g.base + i * g.pitch + 4 * j) 4)
    ∧ (∀ g, m.unit = .msta h f → mBit f 4 = false → matRngs m.unit m.regs = [g] → g.space = 1 → 256 ≤ g.pitch → ∃ t, runs t ∧ same t
        ∧ tilesBut t (fun _ => false) ∧ ∀ i j, i < 64 → j < 64 → t.scrRead m.block (g.base + i * g.pitch + 4 * j) 4 = (k.elem acc i j).toNat)
    ∧ (m.unit = .mepi h f → mBit f 3 = false → ∃ t, runs t ∧ same t ∧ tilesBut t (· == acc) ∧ elems t acc fun i j =>
        (matFinish (mTop3 f) (k.elem acc i j).toNat (if mBit f 2 then some (regOf m.regs f.u1.toNat).toNat else none) none).1)
    ∧ (∀ d, m.unit = .mcvt h f → descAt m.unit m.regs 0 = some (.out, d) → d.kind = 0 → (fget s.waves m.u).isSome = true →
        (∀ i ∈ m.who, i < 64 ∧ (s.thread ⟨m.u, i⟩).st ≠ .exited) →
        let dbl := mBit f 1
        let row := fun (i : Nat) => (List.range 64).foldl (fun v j => v + (matConvert d.fmt (if mBit f 2 then 0 else if dbl then 11 else 10) (mTop3 f) (mBit f 3)
          (drawOf k.matKey (m.draw + BitVec.ofNat 64 (64 * i + j))) (k.code dbl acc i j)).1 % 2 ^ elemBits d.fmt * 2 ^ (elemBits d.fmt * j)) 0
        ∃ t, runs t ∧ t.blocks = s.blocks ∧ ∀ x r, t.vreg x r = if x.u = m.u ∧ x.i ∈ m.who ∧ d.base ≤ r ∧ r < d.base + d.rowBytes .out / 4
          then BitVec.ofNat 32 (row x.i >>> (32 * (r - d.base))) else s.vreg x r)
    ∧ (m.unit = .mdrain h f → ∃ t d, runs t ∧ same t ∧ t.blocks = s.blocks ∧ t.drains = s.drains ++ [d] ∧ d.id = m.id ∧ d.u = m.u
        ∧ d.mask = regOf64 m.regs f.u0.toNat ∧ d.tag = regOf m.regs f.u1.toNat ∧ d.tile = fgetD k.tiles acc []
        ∧ d.dst = (regOf64 m.regs f.u2.toNat).toNat ∧ d.pitch = (regOf m.regs f.u3.toNat).toNat))

/-- R357: an element of an integer product is the exact sum modulo 2^32; of the f32 and f64 groups a chain of fused
multiply-adds in ascending order; of the narrow groups the sums of eight exact products, rounded once each, added in
ascending order. -/
def Obligations.ProductElementsSumInOrder : Prop := ∀ (p : ProdIn) (c n : Nat), p.a.length = 8 * n → p.b.length = 8 * n →
  let val := fun (k : Nat) => (p.a.getD k engNan).toInt * (p.b.getD k engNan).toInt
  let whole := ∀ v ∈ p.a ++ p.b, ∃ g m, v = FVal.num g m 0
  let fma := fun (f : FFmt) (r k : Nat) => (f.engine (f.fma 0 false 0 (p.a.getD k engNan) (p.b.getD k engNan) (f.decode r))).1
  let group := fun (g : Nat) => ((((sumE ((List.range 8).map fun j => (p.a.getD (8 * g + j) engNan).mulE (p.b.getD (8 * g + j) engNan))).mulE
    (p.sa.getD g engOne)).mulE (p.sb.getD g engOne)).mulE p.xa).mulE p.xb
  (p.group = 2 → whole → ((p.elem c).1 : Int) = ((c : Int) + ((List.range (8 * n)).map val).foldl (· + ·) 0) % 2 ^ 32)
    ∧ (p.group = 4 → (p.elem c).1 = (List.range (8 * n)).foldl (fma (ffmt 10)) c)
    ∧ (p.group = 5 → (p.elem c).1 = (List.range (8 * n)).foldl (fma (ffmt 11)) c)
    ∧ (p.group ≤ 3 → p.group ≠ 2 → (p.elem c).1 = (List.range n).foldl (fun r g =>
        (f32.engine (f32.add 0 false 0 (f32.decode r) (f32.decode (f32.roundV (group g)).1))).1) c)

/-- R366 to R370: a step of MSEQ moves its count on, which MSTAT reads if it is the wave's newest, and the last takes the command off
the queue, but none runs while the context is being saved; the reduction of an MDRAIN of this device alone writes the tile to its
rows, and one that a lost rank fails leaves them and sets the error flag. -/
def Obligations.MseqStepsAndDrains : Prop := ∀ (s : State),
  (∀ m h f a e, s.headCmd s.arg.n = some m → m.unit = .mseq h f → descAt m.unit m.regs 2 = some a → descAt m.unit m.regs 3 = some e →
    (fget s.waves m.u).isSome = true → ∃ t, exec .mseqStep s = .next t ∧ (∀ x r, t.vreg x r = s.vreg x r) ∧ (∀ k, t.byteAt k = s.byteAt k)
      ∧ (t.wave m.u).mseqNext = (if (s.wave m.u).mseqId = m.id then m.next + 1 else (s.wave m.u).mseqNext)
      ∧ ((regOf m.regs f.u5.toNat).toNat ≤ m.next + 1 → t.mcmds = s.mcmds.filter fun x => x.id ≠ m.id)
      ∧ (m.next + 1 < (regOf m.regs f.u5.toNat).toNat → ∀ x ∈ t.mcmds, x.id = m.id → x.next = m.next + 1))
    ∧ (∀ m, s.queued s.arg.n = [m] → isMseq m.unit = true → s.cmdHeld m = true → exec .mseqStep s = .next s)
    ∧ (∀ d dev, s.drains = [d] → d.id = s.arg.n → dev ∈ maskDevs d.mask → s.reaches dev = false ∨ (dev, (s.wave d.u).ctx) ∈ s.lostCtxs → (fget s.waves d.u).isSome = true →
      Unlogged s → ∃ t, exec .mdrainReduction s = .next t ∧ t.drains = []
        ∧ (Config.contributed dev d.id = false → SameRegs s t ∧ t.mem = s.mem ∧ (t.wave d.u).merr = true))
    ∧ ∀ d p, s.drains = [d] → d.id = s.arg.n → maskDevs d.mask = [s.devid] → (s.devid, (s.wave d.u).ctx) ∉ s.lostCtxs → fgetD d.pins (d.dst / 65536) 0 = p → p % 65536 = 0 → p + 65536 ≤ Config.hbmBytes →
      d.dst % 65536 + 63 * d.pitch + 256 ≤ 65536 → d.dst % 16 = 0 → d.pitch % 16 = 0 → 256 ≤ d.pitch → s.deadM = [] → Unlogged s →
      ∃ t, exec .mdrainReduction s = .next t ∧ SameRegs s t ∧ t.drains = [] ∧ ∀ i j k, i < 64 → j < 64 → k < 4 →
        t.byteAt (p + (d.dst + i * d.pitch + 4 * j) % 65536 + k) = BitVec.ofNat 8 ((fgetD d.tile (64 * i + j) 0).toNat >>> (8 * k))

/-! ## Sprouts -/

/-- R322 to R326, R345, R346: a request whose checks pass, whose pages can be pinned and that finds an entry is
accepted: it joins the requests under the block's next number, with the wave's sprout context and all its bursts to
come, or is over at once where it has none, and the number is written. R334, R347 to R349: SPCTX takes eight registers as the wave's sprout context;
SPWAIT's predicate says that a request that is over met no error, SPQRY reads a request's status, SPCAN discards the
bursts not yet born and counts them; SPEND ends its threads. -/
def Obligations.SproutRequestsAndControlWords : Prop :=
  (∀ (s : State) (b : Issue) (h : Hdr) (f : FmtX) (g : FmtM) (u : Nat),
    let w := s.wave u
    let blk := s.block w.block
    let accepts := fun (i : Instr) (p : SpPlan) (total out : Nat) => Runs s i b → OneWave s i b u → firstEng (s.sprChecks w.block p) = none →
      (∀ g ∈ p.src ++ p.stampRng, Pinnable s u g) → (∀ x ∈ s.actives i b, s.allDone x 6 = true) →
      (s.sprReqs.filter fun r => r.core == w.core && !(s.block r.block).saved).length < 32 →
      (total = 0 → p.cm = 0 → (∀ r ∈ s.sprReqs, r.id ≠ s.next) → (∀ x ∈ s.sprBuf, x.req ≠ s.next) → ∃ t,
        WordGives i b s t s.vreg s.preg (s.sSet u out 1 blk.nextReq) ∧ t.sprReqs = s.sprReqs ∧ (t.block w.block).nextReq = (blk.nextReq + 1) % 2 ^ 32)
      ∧ (total ≠ 0 → ∃ t r, WordGives i b s t s.vreg s.preg (s.sSet u out 1 blk.nextReq) ∧ t.sprReqs = s.sprReqs ++ [r] ∧ r.id = s.next ∧ r.u = u ∧ r.ctx = w.ctx
        ∧ r.core = w.core ∧ r.block = w.block ∧ r.n = blk.nextReq ∧ r.regs = w.spctx ∧ r.pc = p.pc ∧ r.cm = p.cm ∧ r.bar = p.bar ∧ r.total = total
        ∧ rangeCount r.left = total ∧ r.born = 0 ∧ r.ended = 0 ∧ r.err = false ∧ r.pol = s.polOf w.ctx ((hdrOf i).getD default) ∧ (t.block w.block).nextReq = (blk.nextReq + 1) % 2 ^ 32)
    let plan := fun (kind : Nat) (i : Instr) => planSprd f kind (s.sprRegs u i)
    let lanes := (s.actives (.sprx h g) b).map fun x => (x, s.memLane (memBase h g 0 64 .store) x)
    let px := planSprx g { u := u, lanes := lanes, regs := s.sprRegs u (.sprx h g), rows := [], pc := b.unitPc, next := b.skipPc }
    accepts (.sprd h f) (plan 0 (.sprd h f)) ((s.sreg u f.u1.toNat).toNat / 64) f.u5.toNat
      ∧ accepts (.sprd2 h f) (plan 1 (.sprd2 h f))
          ((bits (s.sreg u f.u1.toNat).toNat 31 16 + 1) * (bits (s.sreg u f.u1.toNat).toNat 9 0 + 1)) f.u5.toNat
      ∧ accepts (.sprx h g) px (s.actives (.sprx h g) b).length (g.d.toNat + 3))
    ∧ (∀ (s : State) (b : Issue) (h : Hdr) (f : FmtX) (g : FmtS) (u : Nat) (r : SprReq),
    let w := s.wave u
    let n := (s.sreg u f.u0.toNat).toNat
    let runs := fun i => Runs s i b ∧ OneWave s i b u
    let none_ := s.sprReqs.find? (fun r => r.block == w.block && r.n == n) = none
    let live := s.sprReqs.find? (fun r => r.block == w.block && r.n == n) = some r
    let c := rangeCount r.left + (s.sprBuf.filter fun b => b.req == r.id).length
    let sWrites := fun (i : Instr) (d val : Nat) => fun (t : State) =>
      WordGives i b s t s.vreg s.preg (fun v k => if v = u ∧ k = d ∧ (w.isSprout = true → 8 ≤ d ∧ d < 16) then BitVec.ofNat 32 val else s.sreg v k)
    (runs (.spctx h f) → ∃ t, WordKeeps (.spctx h f) b s t ∧ ∀ j, j < 8 → fgetD (t.wave u).spctx j 0 = s.sreg u (f.u0.toNat + j))
      ∧ (runs (.spwait h f) → none_ → ∃ t, WordGives (.spwait h f) b s t s.vreg (s.pOne (.spwait h f) b (f.xmod.extractLsb' 0 3).toNat
          (match s.sprDone.reverse.find? (fun r => r.block == w.block && r.n == n) with
            | some d => !d.err
            | none => true)) s.sreg)
      ∧ (runs (.spwait h f) → live → s.chain = none → exec (.spwait h f) s = .next { s with stalled := true })
      ∧ (runs (.spqry h f) → none_ → ∃ t, sWrites (.spqry h f) f.u1.toNat (match s.sprDone.reverse.find? (fun r => r.block == w.block && r.n == n) with
          | some d => (if d.err then 2 ^ 30 else 0) + (if d.cancelled then 2 ^ 29 else 0) + d.born
          | none => 0) t)
      ∧ (runs (.spqry h f) → live → ∃ t, sWrites (.spqry h f) f.u1.toNat (2 ^ 31 + (if r.err || s.reqErr.contains (r.block, r.n) then 2 ^ 30 else 0)
          + (if r.cancelled then 2 ^ 29 else 0) + r.born) t)
      ∧ (runs (.spcan h f) → none_ → ∃ t, (if f.xmod.getLsbD 3 then sWrites (.spcan h f) f.u1.toNat 0 t else WordKeeps (.spcan h f) b s t) ∧ t.sprReqs = s.sprReqs)
      ∧ (runs (.spcan h f) → s.sprReqs = [r] → r.block = w.block → r.n = n → r.cm = 0 → r.born ≠ r.ended → ∃ t,
          (if f.xmod.getLsbD 3 then sWrites (.spcan h f) f.u1.toNat c t else WordKeeps (.spcan h f) b s t)
          ∧ t.sprReqs = [{ r with left := [], dropped := r.dropped + c, cancelled := true }] ∧ ∀ b ∈ t.sprBuf, b.req ≠ r.id)
      ∧ (Runs s (.spend h g) b → (∀ x ∈ b.threads, (s.thread x).st = .ready) → ∃ t, exec (.spend h g) s = .next t ∧ (∀ x q, t.vreg x q = s.vreg x q)
          ∧ (∀ a, t.byteAt a = s.byteAt a) ∧ ∀ x ∈ s.actives (.spend h g) b, (t.thread x).st = .exited ∧ ∀ k, (t.mreg x.u k).getLsbD x.i = false))

/-- R327 to R336: a burst that arrives where a frame is free is born as a thread of one lane at the request's entry,
its 64 bytes in v0 to v15 and the request's context in its uniform registers; where none is free it waits in the
buffer. A sprout thread whose accesses are performed leaves, and with the last one the request is over. -/
def Obligations.BurstsAreBornAndEnd : Prop := ∀ (s : State) (r : SprReq) (k : Nat), Unlogged s →
  (s.sprReqs = [r] → r.id = s.arg.n → r.left = [(k, k + 1)] → s.arg.k = k → s.sprBuf = [] → s.birthsStop r.ctx = false → r.addrs = [] →
    let pa := pinned r.pins (r.src + k / r.rowBursts * r.pitch + 64 * (k % r.rowBursts))
    let x := s.engRead pa 64
    let free := s.sproutsOf r.block < (s.block r.block).sprouts
    (free → x.2 = false → fget s.waves s.next = none → ∃ t, exec .burstArrival s = .next t ∧ t.mem = s.mem ∧ t.ctxs = s.ctxs
      ∧ (∀ v, v ≠ s.next → t.wave v = s.wave v) ∧ t.sprReqs = [{ r with left := [], born := r.born + 1 }]
      ∧ (t.wave s.next).isSprout = true ∧ (t.wave s.next).ctx = r.ctx ∧ (t.wave s.next).block = r.block ∧ (t.wave s.next).width = 1
      ∧ (t.wave s.next).s = r.regs ∧ (t.thread ⟨s.next, 0⟩).pc = r.pc ∧ (t.thread ⟨s.next, 0⟩).st = .ready
      ∧ (t.thread ⟨s.next, 0⟩).burst = none ∧ ∀ j, j < 16 → t.vreg ⟨s.next, 0⟩ j = BitVec.ofNat 32 (x.1 >>> (32 * j)))
    ∧ (¬ free → 0 < s.sprBufSize r.core → ∃ t, exec .burstArrival s = .next t ∧ t.waves = s.waves ∧ t.mem = s.mem ∧ t.sprReqs = [{ r with left := [] }]
      ∧ t.sprBuf = [{ req := r.id, ordinal := k, pa := pa, data := BitVec.ofNat 512 x.1, bad := x.2, lost := s.unreached pa }]))
    ∧ ∀ u p, s.arg.n = u → (s.wave u).sprout = some p → p.ended = true → (s.wave u).saved = false → (s.wave u).log = [] → s.accs = [] → s.sprReqs = [r] → r.block = (s.wave u).block →
      r.n = p.req → s.sprBuf = [] → r.cm = 0 → ∃ t, exec .sproutEnd s = .next t ∧ fget t.waves u = none ∧ (∀ v, v ≠ u → t.wave v = s.wave v)
        ∧ t.mem = s.mem ∧ (r.left = [] ∧ r.born = r.ended + 1 → t.sprReqs = [] ∧ ∃ d ∈ t.sprDone, d.block = r.block ∧ d.n = r.n ∧ d.born = r.born)
        ∧ (¬ (r.left = [] ∧ r.born = r.ended + 1) → t.sprReqs = [{ r with ended := r.ended + 1 }])

/-! ## Teams and launches -/

/-- R392, R393, R395, R396: a team word of a member: TBAR and RESHAPE arrive and wait, TARR arrives and takes the
phase, TWAIT waits for the phase to end, TQRY reads the team; the last arrival ends the phase and wakes those that
wait for it. R394: a watchdog with no period does nothing, nor one whose period has not passed; one whose period has passed without a
bundle, while a member has waited all the time, is disarmed, and each waiting thread stands again at its instruction with WATCHDOG
pending, its arrival withdrawn. -/
def Obligations.TeamWordsAndWatchdog : Prop :=
  (∀ (s : State) (b : Issue) (h : Hdr) (f : FmtX) (u : Nat) (tm : Team),
    let w := s.wave u
    let key := fun (i : Instr) => match i with
      | .reshape _ _ => 32 * w.block + 16
      | _ => 32 * w.block + tmTeam f
    let runs := fun i => Runs s i b ∧ OneWave s i b u ∧ fget s.teams (key i) = some tm ∧ u ∈ tm.members ∧ tmTeam f ≤ 16
    let may := fun i => fget w.tbar (key i) = none ∧ u ∉ tm.arrived ∧ ∀ x ∈ s.actives i b, s.allDone x 1 = true
    let joined := fun (i : Instr) (t : State) => (fget t.teams (key i)).map Team.arrived = some (tm.arrived ++ [u]) ∧ (fget t.teams (key i)).map Team.ph = some tm.ph
    let isOver := fun (i : Instr) (t : State) => (fget t.teams (key i)).map Team.arrived = some [] ∧ (fget t.teams (key i)).map Team.ph = some ((tm.ph + 1) % 2 ^ 32)
      ∧ ∀ x, x.u ∈ tm.members → (s.thread x).st = .waiting (.team (key i) tm.ph) → (t.thread x).st = .ready
    let waits := fun (i : Instr) (t : State) => ∀ x ∈ s.actives i b, (t.thread x).st = .waiting (.team (key i) tm.ph)
    let plain := (∀ v, v ∈ tm.arrived → (s.wave v).reshape = none) ∧ w.reshape = none
    let v := (s.sreg u f.u0.toNat).toNat
    let x := s.sreg u f.u1.toNat
    let blk := s.block w.block
    (runs (.tbar h f) → may (.tbar h f) → tm.arrived.length + 1 < tm.members.length →
        ∃ t, WordKeeps (.tbar h f) b s t ∧ joined (.tbar h f) t ∧ waits (.tbar h f) t)
      ∧ (runs (.tbar h f) → may (.tbar h f) → tm.members.length = tm.arrived.length + 1 → plain →
        ∃ t, WordKeeps (.tbar h f) b s t ∧ isOver (.tbar h f) t ∧ ∀ x ∈ s.actives (.tbar h f) b, (t.thread x).st = .ready)
      ∧ (runs (.tarr h f) → may (.tarr h f) → tm.arrived.length + 1 < tm.members.length →
        ∃ t, WordGives (.tarr h f) b s t s.vreg s.preg (s.sSet u f.u0.toNat 1 tm.ph) ∧ joined (.tarr h f) t)
      ∧ (runs (.twait h f) → tm.ph = v → ∃ t, WordKeeps (.twait h f) b s t ∧ waits (.twait h f) t)
      ∧ (runs (.twait h f) → tm.ph ≠ v → ∃ t, WordKeeps (.twait h f) b s t ∧ (∀ e ∈ (t.core tm.core).l1, e.2.tracked = true)
        ∧ ∀ x ∈ s.actives (.twait h f) b, (t.thread x).st = .ready)
      ∧ (runs (.tqry h f) → w.isSprout = false → ∃ t, WordGives (.tqry h f) b s t s.vreg s.preg (s.sSet u f.u0.toNat 1
          (tm.ph % 65536 * 2 ^ 16 + tm.arrived.length % 64 * 2 ^ 10 + tm.members.length % 64 * 2 ^ 4 + if tm.wdPeriod ≠ 0 then 8 else 0))
        ∧ (tmWd f = true → (fget t.teams (key (.tqry h f))).map Team.wdPeriod = some x.toNat))
      ∧ (runs (.reshape h f) → may (.reshape h f) → bits x.toNat 31 25 = 0 → tm.arrived.length + 1 < tm.members.length →
        ∃ t, WordKeeps (.reshape h f) b s t ∧ joined (.reshape h f) t ∧ waits (.reshape h f) t ∧ (t.wave u).reshape = some (f.u0.toNat, x))
      ∧ (runs (.reshape h f) → may (.reshape h f) → bits x.toNat 31 25 = 0 → tm.members = [u] → tm.arrived = [] → tm.block = w.block → s.isCl4 w.block = false →
        (s.blockBusy w.block = true → ∃ t, WordGives (.reshape h f) b s t s.vreg s.preg (s.sSet u f.u0.toNat 1 2) ∧ t.blocks = s.blocks)
        ∧ ∀ p, s.blockBusy w.block = false → s.reshapePart w.block x.toNat = some p → ∃ t, WordGives (.reshape h f) b s t s.vreg s.preg (s.sSet u f.u0.toNat 1 0)
          ∧ (t.block w.block).scratch = shScr x.toNat ∧ (t.block w.block).acc = shAcc x.toNat ∧ (t.block w.block).sprouts = shSpr x.toNat
          ∧ (t.core blk.core).part = p ∧ ∀ j, j < shScr x.toNat → Memory.get (t.block w.block).scr j = Memory.get blk.scr j))
    ∧ (∀ (s : State) (t : Team) (u i : Nat), fget s.teams s.arg.n = some t →
    let k := s.arg.n
    let x : TRef := ⟨u, i⟩
    (t.wdPeriod = 0 → exec .teamWatchdogCheck s = .next s)
      ∧ (t.wdPeriod ≠ 0 → t.wdSince = none → (∀ v ∈ t.members, (s.wave v).halted = false ∧ (s.wave v).saved = false) →
        exec .teamWatchdogCheck s = .next { s with teams := fput s.teams k { t with wdSince := some s.ptb } })
      ∧ (∀ since wait, t.wdSince = some since → t.wdWait = some wait → s.ptb < max since wait + t.wdPeriod →
        (∀ v ∈ t.members, (s.wave v).halted = false ∧ (s.wave v).saved = false) → exec .teamWatchdogCheck s = .next s)
      ∧ ∀ since wait, t.wdPeriod ≠ 0 → t.wdSince = some since → t.wdWait = some wait → max since wait + t.wdPeriod ≤ s.ptb → t.members = [u] → (s.wave u).halted = false → (s.wave u).saved = false →
        (s.wave u).live = [i] → (s.thread x).st = .waiting (.team k t.ph) → (s.wave u).tbar = [(k, t.ph)] →
        ∃ r, exec .teamWatchdogCheck s = .next r ∧ RegsAre r s.vreg s.preg s.sreg s.mreg s.fpswOf ∧ (∀ a, r.byteAt a = s.byteAt a)
          ∧ (r.thread x).st = .ready ∧ (r.thread x).pc = (s.thread x).at_
          ∧ (r.thread x).async = (s.thread x).async ++ [bareAsync .watchdog (BitVec.ofNat 32 (k % 32)) (s.thread x).at_]
          ∧ (fget r.teams k).map Team.wdPeriod = some 0 ∧ (fget r.teams k).map Team.arrived = some (t.arrived.filter (· ≠ u)))

/-- R397, R398: LAUNCH copies the record into the device queue's ring and gives the ticket, LWAIT waits for the launch
of a ticket and gives its status. -/
def Obligations.LaunchAndLwait : Prop := ∀ (s : State) (b : Issue) (h : Hdr) (f : FmtX) (u pa : Nat),
  let w := s.wave u
  let a := (s.sreg64 u f.u1.toNat).toNat
  let q := (s.sreg u f.u2.toNat).toNat
  let k := s.queue q
  let slot := k.slotAt k.tail
  let page := a / 65536 * 65536
  let runs := fun i => Runs s i b ∧ OneWave s i b u
  let n := (s.sreg64 u f.u0.toNat).toNat
  let ends := fun (ok : Bool) (status : Nat) => ∃ t, WordGives (.lwait h f) b s t s.vreg (s.pOne (.lwait h f) b (xPs f) ok)
    (if lwSt f then s.sSet u f.u1.toNat 1 status else s.sreg)
  (runs (.launch h f) → a + 256 ≤ 2 ^ 56 → a % 256 = 0 → q ≤ 63 → k.ctx = w.ctx → k.devq = true → k.en = true → k.waiting < k.slots →
      (∃ cls, s.translateNow w.core w.ctx page .read w.high true = (.ok pa cls, s)) → pa % 65536 = 0 →
      pa + 65536 ≤ Config.hbmBytes → slot + 256 ≤ Config.hbmBytes → s.deadM = [] → (∀ x ∈ s.actives (.launch h f) b, s.allDone x 6 = true) →
      ∃ t, exec (.launch h f) s = .next t ∧ RegsAre t s.vreg s.preg (s.sSet u f.u0.toNat 2 (q * 2 ^ 48 + k.tail)) s.mreg s.fpswOf
        ∧ (∀ x ∈ b.threads, (t.thread x).pc = b.nextPc) ∧ t.ctxs = s.ctxs ∧ (t.queue q).tail = (k.tail + 1) % 2 ^ 32 ∧ (t.queue q).head = k.head
        ∧ (∀ j, j < 256 → t.byteAt (slot + j) = s.byteAt (pa + a % 65536 + j)) ∧ ∀ c, c < 2 ^ 52 → c < slot ∨ slot + 256 ≤ c → t.byteAt c = s.byteAt c)
    ∧ (runs (.lwait h f) → s.ticketOf n = .unknown → ends true 0)
    ∧ (∀ st, runs (.lwait h f) → s.ticketOf n = .done st → ends (st == 0) st)
    ∧ (runs (.lwait h f) → s.ticketOf n = .waiting → s.chain = none → exec (.lwait h f) s = .next { s with stalled := true })
    ∧ ((∃ l ∈ s.launches, l.ticket = n) → n < 64 * 2 ^ 48 → s.ticketOf n = .waiting)

/-- R380 to R388: the doorbell moves a host queue's tail; a fetched record takes the ticket of its place and waits for
the launches that it conflicts with; a launch without them is ready; a block that finds room starts with its waves at
the kernel's first word. -/
def Obligations.LaunchesAreFetchedAndDispatched : Prop := ∀ (s : State), Unlogged s →
  let q := s.arg.n
  let k := s.queue q
  let tail := s.arg.k % 2 ^ 32
  let at_ := k.slotAt k.head
  let r := (List.range 4).foldl (fun v j => v + s.peek (at_ + 64 * j) 64 * 2 ^ (512 * j)) 0
  let ticket := q * 2 ^ 48 + k.head
  (q < 64 → k.devq = false → (tail + 2 ^ 32 - k.head) % 2 ^ 32 ≤ k.slots →
      exec .qtailDoorbell s = .next { s with queues := fput s.queues q { k with tail := tail } })
    ∧ (k.devq = true ∨ (tail + 2 ^ 32 - k.head) % 2 ^ 32 > k.slots → exec .qtailDoorbell s = .next s)
    ∧ (s.mayFetch q = true → recRefusal r (s.levelH k.ctx) = none → (∀ x ∈ recRanges r, x.2.2 ∉ s.deadDies) →
      ∃ t l, exec .queueFetch s = .next t ∧ t.waves = s.waves ∧ t.mem = s.mem ∧ t.launches = s.launches ++ [l] ∧ l.ticket = ticket ∧ l.ctx = k.ctx
        ∧ l.record = r ∧ l.left = recRanges r ∧ (t.queue q).head = (k.head + 1) % 2 ^ 32
        ∧ (l.ready = true ↔ ∀ e ∈ s.launches, ¬ (e.ctx = k.ctx ∧ recConflict e.record r = true ∧ some e.id ≠ fget k.issuers k.head)))
    ∧ (∀ d, s.mayFetch q = true → recRefusal r (s.levelH k.ctx) = some d → k.done = [] →
      ∃ t, exec .queueFetch s = .next t ∧ t.waves = s.waves ∧ t.launches = s.launches.filter (fun l => l.id ≠ s.next) ∧ (t.queue q).done = [(ticket, 1)])
    ∧ (∀ l, s.launches = [l] → l.id = s.arg.n → (∀ d ∈ l.deps, d ≠ l.id) → exec .launchReady s = .next { s with launches := [{ l with ready := true }] })
    ∧ ∀ l lin, s.launches = [l] → l.id = s.arg.n → recCl4 l.record = false → l.firstOn (dieOf (s.arg.k % 160)) = some lin →
      s.mayPlace l (s.arg.k % 160) = true → let n := recNw l.record
      ∃ t, exec .blockDispatch s = .next t ∧ t.mem = s.mem ∧ t.ctxs = s.ctxs ∧ (∀ u, u < s.next ∨ s.next + n < u → t.wave u = s.wave u)
        ∧ (t.block s.next).launch = l.id ∧ (t.block s.next).core = s.arg.k % 160 ∧ (t.block s.next).lin = lin ∧ (t.block s.next).scratch = shScr (recShares l.record)
        ∧ (∀ j, (t.block s.next).scr = [] ∧ (j < n → (t.wave (s.next + 1 + j)).wid = j ∧ (t.wave (s.next + 1 + j)).block = s.next
          ∧ (t.wave (s.next + 1 + j)).width = recWidth l.record ∧ (t.wave (s.next + 1 + j)).ctx = l.ctx
          ∧ ∀ i, i < recWidth l.record → (t.thread ⟨s.next + 1 + j, i⟩).pc = recKpc l.record ∧ (t.thread ⟨s.next + 1 + j, i⟩).st = .ready
            ∧ ∀ q, t.vreg ⟨s.next + 1 + j, i⟩ q = 0))

/-- R384, R389 to R391, R398: a block all of whose work is over frees its slot, a launch all of whose blocks are over
completes with its status, and its entry is written to the completion ring when the ring has room, after which the context of a
host queue posts its vector. -/
def Obligations.BlocksAndLaunchesEnd : Prop := ∀ (s : State),
  let b := s.arg.n
  (∀ k, fget s.blocks b = some k → s.blockOver b = true → s.isCl4 b = false → ∃ t, exec .blockSlotFree s = .next t ∧ fget t.blocks b = none ∧ t.mem = s.mem
      ∧ (∀ e ∈ t.waves, e.2.block ≠ b) ∧ (∀ e ∈ s.waves, e.2.block ≠ b → e ∈ t.waves) ∧ ∀ c, c ≠ b → fget t.blocks c = fget s.blocks c)
    ∧ (s.blockOver b = false → exec .blockSlotFree s = .next s)
    ∧ (∀ l, s.launches = [l] → l.id = s.arg.n → s.launchOver l = true → s.recMode l.ctx ≠ 2 → (s.queue l.q).done = [] →
      ∃ t e, exec .launchComplete s = .next t ∧ t.launches = [] ∧ t.waves = s.waves ∧ t.mem = s.mem ∧ (t.queue l.q).done = [(l.ticket, l.status)]
        ∧ (t.queue l.q).pend = (s.queue l.q).pend ++ [e] ∧ e.extractLsb' 0 64 = BitVec.ofNat 64 l.ticket ∧ e.extractLsb' 64 8 = BitVec.ofNat 8 l.status
        ∧ t.posts = s.posts)
    ∧ ∀ e rest, let k := s.queue b; let at_ := bits k.cb.toNat 51 12 * 4096 + 16 * (k.cp % k.compSlots)
      k.pend = e :: rest → (k.cp + 2 ^ 32 - k.cc) % 2 ^ 32 < k.compSlots → at_ + 16 ≤ Config.hbmBytes →
      ∃ t, exec .completionEntryWrite s = .next t ∧ SameRegs s t ∧ (t.queue b).pend = rest ∧ (t.queue b).cp = (k.cp + 1) % 2 ^ 32
        ∧ t.posts = s.posts ++ (if k.devq then [] else [{ vector := k.ctx, event := "LAUNCH", datum := e.extractLsb' 0 64 }])
        ∧ (∀ j, j < 16 → t.byteAt (at_ + j) = BitVec.ofNat 8 (e.toNat >>> (8 * j))) ∧ ∀ a, a < 2 ^ 52 → a < at_ ∨ at_ + 16 ≤ a → t.byteAt a = s.byteAt a

/-! ## Messages, events and collectives -/

/-- R399 to R401, R406: a thread's message joins the outbound queue with its sixteen registers, or is turned away
where the queue is full; a message that waits in the context's mailbox is received; MSGQ reads what waits; EVSIG adds
to a counter, EVWAIT goes on once it is reached. -/
def Obligations.MessageAndEventWords : Prop := ∀ (s : State) (b : Issue) (h : Hdr) (f : FmtX) (x : TRef) (dev bx : Nat),
  let w := s.wave x.u
  let c := w.ctx
  let r0 := 16 * msVb f
  let v0 := (s.sreg x.u f.u0.toNat).toNat
  let box := s.box v0
  let runs := fun i => Runs s i b ∧ OneWave s i b x.u
  let one := fun i => Runs s i b ∧ s.actives i b = [x] ∧ (s.thread x).st = .ready
  let count := s.evCounter c v0
  let by_ := s.sreg x.u f.u1.toNat
  (one (.msgs h f) → msgTarget (s.sreg x.u f.u0.toNat) = some (dev, bx) → s.outbound.length < 4096 → (msB6 f = true → s.allDone x 5 = true) →
      ∃ t m, WordGives (.msgs h f) b s t s.vreg (s.pOne (.msgs h f) b (xPs f) true) s.sreg ∧ t.outbound = s.outbound ++ [m] ∧ m.id = s.next ∧ m.src = s.devid
        ∧ m.ctx = c ∧ m.dev = dev ∧ m.box = bx ∧ ∀ k, k < 16 → m.data.extractLsb' (32 * k) 32 = s.vreg x (r0 + k))
    ∧ (one (.msgs h f) → msgTarget (s.sreg x.u f.u0.toNat) = some (dev, bx) → 4096 ≤ s.outbound.length → msB7 f = true → (msB6 f = true → s.allDone x 5 = true) →
      ∃ t, WordGives (.msgs h f) b s t s.vreg (s.pOne (.msgs h f) b (xPs f) false) s.sreg ∧ t.outbound = s.outbound)
    ∧ (∀ src rest, one (.msgr h f) → v0 ≤ 255 → s.ownsBox c v0 = true → box.srcs = src :: rest →
      let data := (s.engRead (s.boxSlot v0 0) 64).1
      ∃ t, WordGives (.msgr h f) b s t (fun y r => if y = x ∧ r0 ≤ r ∧ r < r0 + 16 then BitVec.ofNat 32 (data >>> (32 * (r - r0)))
          else if y = x ∧ msB6 f = true ∧ r = r0 + 16 then BitVec.ofNat 32 src else s.vreg y r) (s.pOne (.msgr h f) b (xPs f) true) s.sreg
        ∧ (t.box v0).srcs = rest ∧ (t.box v0).head = box.head + 1)
    ∧ (one (.msgr h f) → v0 ≤ 255 → s.ownsBox c v0 = true → box.srcs = [] → msB7 f = false →
      ∃ t, WordGives (.msgr h f) b s t s.vreg (s.pOne (.msgr h f) b (xPs f) false) s.sreg ∧ t.boxes = s.boxes)
    ∧ (runs (.msgq h f) → v0 ≤ 255 → ∃ t, WordGives (.msgq h f) b s t s.vreg s.preg (s.sSet x.u f.u1.toNat 1
        (if s.ownsBox c v0 then min 65535 box.srcs.length * 65536 + min 4095 (4096 - s.outbound.length) else 0)) ∧ t.boxes = s.boxes)
    ∧ (runs (.evsig h f) → v0 ≤ 255 → (∀ y ∈ s.actives (.evsig h f) b, s.allDone y 6 = true) → ∃ t, exec (.evsig h f) s = .next t
        ∧ RegsAre t s.vreg s.preg s.sreg s.mreg s.fpswOf ∧ (∀ a, t.byteAt a = s.byteAt a) ∧ (∀ y ∈ b.threads, (t.thread y).pc = b.nextPc)
        ∧ (∀ d e, t.evCounter d e = if d = c ∧ e = v0 then count + by_ else s.evCounter d e)
        ∧ t.posts = s.posts ++ if s.evEnabled c v0 then [{ vector := c, event := "EVENT", datum := BitVec.ofNat 64 (c * 256 + v0) }] else [])
    ∧ (runs (.evwait h f) → v0 ≤ 255 → (count - by_).toNat < 2 ^ 31 → ∃ t, WordKeeps (.evwait h f) b s t ∧ ∀ e ∈ (t.core w.core).l1, e.2.tracked = true)
    ∧ (runs (.evwait h f) → v0 ≤ 255 → 2 ^ 31 ≤ (count - by_).toNat → s.chain = none → exec (.evwait h f) s = .next { s with stalled := true })

/-- R399, R406: an accepted message for a mailbox of this device is stored after the newest, held where the ring is
full, and dropped and counted where the mailbox is not valid; a held one is tried again after 1,000 ticks; the host
writes an event counter. -/
def Obligations.MessagesAreDelivered : Prop := ∀ (s : State) (m : OutMsg), Unlogged s →
  let e := s.boxEntry m.box
  let slot := boxBase e + 64 * (((s.box m.box).head + (s.box m.box).srcs.length) % 2 ^ boxLog e)
  let stores := fun (ev : Instr) => slot + 64 ≤ Config.hbmBytes → ∃ t, exec ev s = .next t ∧ SameRegs s t ∧ t.outbound = []
    ∧ (t.box m.box).srcs = (s.box m.box).srcs ++ [m.src] ∧ (t.box m.box).head = (s.box m.box).head
    ∧ (∀ j, j < 64 → t.byteAt (slot + j) = BitVec.ofNat 8 (m.data.toNat >>> (8 * j))) ∧ ∀ a, a < 2 ^ 52 → a < slot ∨ slot + 64 ≤ a → t.byteAt a = s.byteAt a
  let room := boxV e = true ∧ (s.box m.box).srcs.length < 2 ^ boxLog e
  (s.outbound = [m] → m.id = s.arg.n → s.arg.bytes = [] → m.dev = s.devid →
      (room → stores .messageDelivery)
      ∧ (boxV e = true → 2 ^ boxLog e ≤ (s.box m.box).srcs.length → exec .messageDelivery s = .next { s with outbound := [{ m with retry := s.ptb + 1000 }] })
      ∧ (boxV e = false → ∃ t, exec .messageDelivery s = .next t ∧ t.outbound = [] ∧ t.waves = s.waves ∧ t.mem = s.mem
        ∧ (t.ctx m.ctx).msgerr = ((s.ctx m.ctx).msgerr.setWidth 32 + 1 : Word).setWidth 64)
      ∧ (m.retry ≤ s.ptb → room → stores .mailboxFullRetry)
      ∧ (s.ptb < m.retry → exec .mailboxFullRetry s = .next s))
    ∧ (s.outbound = [m] → m.id = s.arg.n → s.arg.bytes = [] → m.dev ≠ s.devid → s.reach.contains m.dev = true → s.arg.k ≠ 1 →
        exec .messageDelivery s = .next { s with outbound := [] })
    ∧ ∃ t, exec .eventCounterHostWrite s = .next t ∧ t.waves = s.waves ∧ t.mem = s.mem ∧ ∀ d k, t.evCounter d k =
        if d = s.arg.n % 64 ∧ k = s.arg.k % 256 then s.arg.v.setWidth 32 else s.evCounter d k

/-- R402 to R405, R410: COLL takes the lowest free handle and its operands; COLLW waits for the handle's collective
and gives the absence of an error; a collective of this device alone writes its own elements; the loss of a device, or of a context
of it, completes with an error what waits for a contribution that will not come, and its block's CERR gets bit 8. -/
def Obligations.CollectivesCompleteOrFail : Prop := ∀ (s : State) (b : Issue) (h : Hdr) (f : FmtX) (u k : Nat) (c : CollOp),
  let w := s.wave u
  let p := collPlan f (s.namedRegs u (.coll h f))
  let runs := fun i => Runs s i b ∧ OneWave s i b u
  let hd := (s.sreg u f.u0.toNat).toNat
  let d := s.arg.n % 64
  (runs (.coll h f) → firstEng (s.collHits f p) = none → (∀ g ∈ collRanges f p s.devid, Pinnable s u g) → w.freeColl = some k →
      (∀ x ∈ s.actives (.coll h f) b, s.allDone x 6 = true) → ∃ t c, WordGives (.coll h f) b s t s.vreg s.preg (s.sSet u f.u5.toNat 1 k)
        ∧ t.colls = s.colls ++ [c] ∧ fget (t.wave u).colls k = some c.id ∧ c.u = u ∧ c.mask = p.mask ∧ c.tag = p.tag ∧ c.kind = clKind f ∧ c.op = clOp f
        ∧ c.ty = clTy f ∧ c.n = p.n ∧ c.src = p.src ∧ c.dst = p.dst ∧ c.done = false)
    ∧ (runs (.collw h f) → fget w.colls hd = none → ∃ t, WordGives (.collw h f) b s t s.vreg (s.pOne (.collw h f) b (xPs f) true) s.sreg ∧ t.colls = s.colls)
    ∧ (runs (.collw h f) → fget w.colls hd = some c.id → s.colls = [c] → c.done = true → ∃ t,
        WordGives (.collw h f) b s t s.vreg (s.pOne (.collw h f) b (xPs f) (!c.err)) s.sreg ∧ t.colls = [] ∧ fget (t.wave u).colls hd = none)
    ∧ (runs (.collw h f) → fget w.colls hd = some c.id → s.colls = [c] → c.ctx = w.ctx → c.done = false → s.chain = none →
        exec (.collw h f) s = .next { s with stalled := true })
    ∧ (Unlogged s → s.colls = [c] → c.id = s.arg.n → c.done = false → (fget s.waves c.u).isSome = true → s.arg.k = 1 → exec .collectiveComplete s = .next { s with colls := [{ c with done := true, err := true }] })
    ∧ (∀ spa dpa, Unlogged s → s.colls = [c] → c.id = s.arg.n → c.done = false → (fget s.waves c.u).isSome = true → s.arg.k ≠ 1 → maskDevs c.mask = [s.devid] → c.kind = 0 → c.ty = 10 → c.n = 4 →
        spa = pinned c.srcPins c.src → dpa = pinned c.dstPins c.dst → spa % 16 = 0 → dpa % 16 = 0 → spa + 16 ≤ Config.hbmBytes → dpa + 16 ≤ Config.hbmBytes →
        s.deadM = [] → (s.devid, c.ctx) ∉ s.lostCtxs → s.poisoned (sectorOf spa) = false → ∃ t, exec .collectiveComplete s = .next t ∧ SameRegs s t ∧ t.colls = [{ c with done := true, err := false }]
          ∧ (∀ j, j < 16 → t.byteAt (dpa + j) = s.byteAt (spa + j)) ∧ ∀ a, a < 2 ^ 52 → a < dpa ∨ dpa + 16 ≤ a → t.byteAt a = s.byteAt a)
    ∧ (d ≠ s.devid → s.arg.k ≠ 1 → ∃ t, exec .rankLost s = .next t ∧ t.lostDevs.contains d = true ∧ d ∉ t.reach ∧ t.mem = s.mem
        ∧ t.drains = s.drains.filter (fun x => !awaits d x.mask x.id) ∧ (∀ c ∈ t.colls, awaits d c.mask c.id = true → c.done = true)
        ∧ ∀ x ∈ s.drains, awaits d x.mask x.id = true → (fget s.waves x.u).isSome = true → (t.wave x.u).merr = true)
    ∧ (d ≠ s.devid → s.arg.k = 1 → ∃ t, exec .rankLost s = .next t ∧ t.reach = s.reach ∧ t.lostDevs = s.lostDevs ∧ (d, s.arg.m % 64) ∈ t.lostCtxs ∧ t.mem = s.mem
        ∧ ∀ c ∈ t.colls, c.ctx = s.arg.m % 64 → awaits d c.mask c.id = true → c.done = true)

/-! ## Traps, special registers, state saving and the operand log -/

/-- R106, R419 to R425, R427, R430, R448: BRK and TRAP raise DEBUG with their code, TRAP with DSRC 1: the thread's
trap registers, TPC and SKIP are written; its handler starts under MODE 1; it stands trapped with one record in the
fault queue under MODE 0; its context is killed under MODE 2. -/
def Obligations.DebugTrapsAreTaken : Prop := ∀ (s : State) (b : Issue) (h : Hdr) (f : FmtS) (x : TRef), Unlogged s → s.chain = none →
  let w := s.wave x.u
  let c := w.ctx
  let q := s.fqb c (dieOf w.core)
  let base := bits q 51 12 * 4096
  let cap := 64 * 2 ^ bits q 11 8
  let prod := s.peek base 8
  let slot := base + 64 + 64 * (prod % cap)
  let raises := fun (i : Instr) (det : Nat) => Runs s i b → s.actives i b = [x] →
    let info := det + (if b.inChain then 2 ^ 31 else 0) + (b.pos + unitLen i - 1) % 8 * 2 ^ 28
    let taken := fun (t : State) => exec i s = .next t ∧ RegsAre t s.vreg s.preg s.sreg s.mreg s.fpswOf ∧ t.ctxs = s.ctxs ∧ t.accs = s.accs
      ∧ (t.thread x).tcause = 10 ∧ (t.thread x).taddr = BitVec.ofNat 64 b.chainPc ∧ (t.thread x).tinfo = BitVec.ofNat 32 info
      ∧ (t.thread x).tpc = b.chainPc ∧ (t.thread x).skip = b.skipPc ∧ (t.thread x).y = [] ∧ ∀ y, y ≠ x → t.thread y = s.thread y
    let record := (2 ^ x.i % 2 ^ 64 + b.chainPc % 2 ^ 56 * 2 ^ 64 + 10 * 2 ^ 120 + info % 2 ^ 32 * 2 ^ 128 + w.tag.toNat * 2 ^ 160 + c * 2 ^ 192
      + w.core * 2 ^ 208 + b.chainPc % 2 ^ 56 * 2 ^ 256 + x.i * 2 ^ 312) % 2 ^ 384 + s.ptb % 2 ^ 64 * 2 ^ 384 + (prod + 1) % 2 ^ 64 * 2 ^ 448
    (∀ hpc, s.modeOf x .debug false = .inThread hpc → ∃ t, taken t ∧ t.mem = s.mem ∧ (t.thread x).pc = hpc ∧ (t.thread x).st = .ready
        ∧ (t.thread x).inh = true)
      ∧ (s.modeOf x .debug false = .queue → w.isSprout = false → s.allDone x 4 = true → s.fqRoom c (dieOf w.core) 1 = true →
        base + 64 + 64 * cap ≤ Config.hbmBytes → (∀ a ∈ s.accs, a.armed = true → a.fired = true) → ∃ t, taken t ∧ (t.thread x).pc = (s.thread x).pc ∧ (t.thread x).st = .trapped
          ∧ t.peek base 8 = (prod + 1) % 2 ^ 64 ∧ (∀ j, j < 64 → t.byteAt (slot + j) = BitVec.ofNat 8 (record >>> (8 * j)))
          ∧ ∀ a, a < 2 ^ 52 → (a < slot ∨ slot + 64 ≤ a) → (a < base ∨ base + 8 ≤ a) → t.byteAt a = s.byteAt a)
      ∧ (s.modeOf x .debug false = .kill → ∃ t, taken t ∧ t.mem = s.mem ∧ (t.thread x).st = .trapped
          ∧ t.agenda = { op := .ctxctlKill, arg := { (default : EvArg) with n := c } } :: s.agenda
          ∧ t.posts = s.posts ++ [{ vector := 0, event := "TRAPKILL", datum := BitVec.ofNat 64 (c * 256 + 10) }])
  raises (.brk h f) (f.body.extractLsb' 0 16).toNat ∧ raises (.trap h f) (2 ^ 16 + (f.body.extractLsb' 0 16).toNat)

/-- R67, R340, R449 to R451: TRET resumes its handler's thread, or the trapped threads of a mask in another wave, at
TPC or at SKIP, or ends them; PDONE stops a wave that is being pre-empted once all its threads have executed it; SRD
reads a special register, and SWR writes one that may be written. Of a saved wave TRET resumes the threads of its image (R445). That an SWR of
sr.rmode reads its value modulo 4 is log entry 76; that sr.trapinfo takes all 32 bits is log entry 89. -/
def Obligations.TrapReturnsAndSpecialRegisters : Prop := ∀ (s : State) (b : Issue) (h : Hdr) (f : FmtS) (x : TRef) (v : Nat), Unlogged s →
  let own := fun i => Runs s i b ∧ f.body.getLsbD 45 = false ∧ s.actives i b = [x] ∧ (s.thread x).inh = true
  let other := fun i => Runs s i b ∧ f.body.getLsbD 45 = true ∧ OneWave s i b x.u ∧ s.handleOf x.u (sf f 44 39) = some v ∧ v ≠ x.u
    ∧ (∀ y ∈ s.actives i b, s.allDone y 4 = true) ∧ (s.wave v).saved = false
  let imaged := fun (i : Instr) (a : Nat) => Runs s i b ∧ f.body.getLsbD 45 = true ∧ OneWave s i b x.u ∧ s.handleOf x.u (sf f 44 39) = some v ∧ v ≠ x.u
    ∧ (∀ y ∈ s.actives i b, s.allDone y 4 = true) ∧ s.inImage v = true ∧ (s.wave v).image = some a
  let back := fun (i : Instr) (t : State) => exec i s = .next t ∧ RegsAre t s.vreg s.preg s.sreg s.mreg s.fpswOf ∧ (∀ a, t.byteAt a = s.byteAt a)
    ∧ t.ctxs = s.ctxs
  let goesTo := fun (i : Instr) (pc : TRef → Nat) => (own i → ∃ t, back i t ∧ (t.thread x).st = .ready ∧ (t.thread x).pc = pc x ∧ (t.thread x).inh = false)
    ∧ (other i → ∃ t, back i t ∧ ∀ k, (s.thread ⟨v, k⟩).st = .trapped → (s.sreg64 x.u (sf f 38 33)).getLsbD k = true →
        (t.thread ⟨v, k⟩).st = .ready ∧ (t.thread ⟨v, k⟩).pc = pc ⟨v, k⟩)
  let fromImage := fun (i : Instr) (hi lo : Nat) => ∀ a, imaged i a → ∃ t, exec i s = .next t ∧ (t.wave v).saved = true ∧ (t.wave v).image = some a
    ∧ (∀ y r, y.u ≠ v → t.vreg y r = s.vreg y r) ∧ ∀ k, (fget (s.wave v).threads k).isSome = true → (s.sreg64 x.u (sf f 38 33)).getLsbD k = true →
        bits (s.engRead (a + 0x400 + 64 * k) 64).1 75 72 = 4 →
        (t.thread ⟨v, k⟩).st = .ready ∧ (t.thread ⟨v, k⟩).pc = bits (s.engRead (a + 0x400 + 64 * k) 64).1 hi lo
  let n := srNum f
  let val := fun (y : TRef) => s.swrSource y h f
  goesTo (.tretRetry h f) (fun y => (s.thread y).tpc) ∧ goesTo (.tretSkip h f) (fun y => (s.thread y).skip)
    ∧ fromImage (.tretRetry h f) 383 320 ∧ fromImage (.tretSkip h f) 447 384
    ∧ (own (.tretEnd h f) → (∃ e ∈ (s.wave x.u).threads, e.1 ≠ x.i ∧ e.2.st ≠ .exited) → ∃ t, exec (.tretEnd h f) s = .next t ∧ (t.thread x).st = .exited
        ∧ (∀ y r, t.vreg y r = s.vreg y r) ∧ ∀ a, t.byteAt a = s.byteAt a)
    ∧ (other (.tretEnd h f) → ∃ t, exec (.tretEnd h f) s = .next t ∧ (∀ y r, t.vreg y r = s.vreg y r) ∧ (∀ a, t.byteAt a = s.byteAt a)
        ∧ ∀ k, (s.thread ⟨v, k⟩).st = .trapped → (s.sreg64 x.u (sf f 38 33)).getLsbD k = true → (t.thread ⟨v, k⟩).st = .exited)
    ∧ (Runs s (.pdone h f) b → (∀ y ∈ s.actives (.pdone h f) b, s.pdoneActs y = false) → ∃ t, GoesOnPlain (.pdone h f) b s t)
    ∧ (Runs s (.pdone h f) b → s.actives (.pdone h f) b = [x] → s.pdoneActs x = true → (s.thread x).st = .ready → (s.wave x.u).stop = 0 →
        (∀ e ∈ (s.wave x.u).live, (s.thread ⟨x.u, e⟩).st ≠ .exited) →
        ∃ t, WordKeeps (.pdone h f) b s t ∧ (t.thread x).pdn = true ∧ (t.thread x).st = .waiting .gather
          ∧ ((t.wave x.u).stop = 3 ↔ ∀ e ∈ (s.wave x.u).live, e = x.i ∨ (s.thread ⟨x.u, e⟩).pdn = true))
    ∧ (Runs s (.srd h f) b → f.body.getLsbD 31 = false → GivesV (.srd h f) b s (f.body.extractLsb' 40 8) false (srWords f) fun y => s.special y n)
    ∧ (Runs s (.srd h f) b → f.body.getLsbD 31 = true → Completes (.srd h f) b s s.vreg s.preg
        (s.sGiven (.srd h f) b (sf f 47 40) (srWords f) fun u => s.special ⟨u, (threadsOf (s.actives (.srd h f) b) u).headD 0⟩ n) s.mreg s.fpswOf)
    ∧ (Runs s (.swr h f) b → n ≠ 0x31 → ∃ t, WordKeeps (.swr h f) b s t ∧ (∀ y, (t.thread y).st = (s.thread y).st)
        ∧ (∀ y, (t.thread y).tcause = if y ∈ s.actives (.swr h f) b ∧ n = 0x28 then (val y).setWidth 32 else (s.thread y).tcause)
        ∧ (∀ y, (t.thread y).taddr = if y ∈ s.actives (.swr h f) b ∧ n = 0x29 then val y else (s.thread y).taddr)
        ∧ (∀ y, (t.thread y).tinfo = if y ∈ s.actives (.swr h f) b ∧ n = 0x2A then (val y).setWidth 32 else (s.thread y).tinfo)
        ∧ (s.actives (.swr h f) b = [x] → ∀ u, (t.wave u).savearea = if u = x.u ∧ n = 0x2B then val x else (s.wave u).savearea))
    ∧ (Runs s (.swr h f) b → n = 0x31 → s.actives (.swr h f) b = [x] → (val x).toNat % 4 ≤ 1 → ∃ t, WordKeeps (.swr h f) b s t
        ∧ { op := if (val x).toNat % 4 = 1 then .rctlModeRecord else .rctlModeOff, arg := { (default : EvArg) with n := (s.wave x.u).ctx } } ∈ t.agenda)

/-- R431 to R433, R443, R444, R452 to R454: CSAVE stores a span of a thread's registers and CREST loads it; of another wave,
which is stopped, CSAVE.w writes the image and CREST.w loads it; OPLR reads an operand-log entry, FRESUME lets it go
on or fail; a READY entry's store is performed with its logged operands, and a FAILED entry traps its thread. Where TRET.skip goes after a
FAILED entry (State.skipFrom) is log entry 67. -/
def Obligations.StateSavesAndOperandLog : Prop := ∀ (s : State) (b : Issue) (h : Hdr) (f : FmtS) (x : TRef) (v : Nat), Unlogged s →
  let w := s.wave x.u
  let a := (s.sreg64 x.u (sf f 47 42)).toNat
  let span := fun (i : Instr) (want : Want) (pa cls : Nat → Nat) (c : Nat → L2Copy) => Runs s i b ∧ s.actives i b = [x] ∧ f.body.getLsbD 25 = false ∧ x.i < 64
    ∧ a % 256 = 0 ∧ a + 256 * csN f ≤ 2 ^ 56 ∧ w.log = []
    ∧ (∀ r, r < csN f → (s.laneTrans false x (a + 256 * r + 4 * x.i) want).1 = .ok (pa r) (cls r) ∧ cls r ≠ 2 ∧ pa r % 64 = (a + 4 * x.i) % 64
      ∧ (s.target (pa r)).1 = .hbm ∧ s.lostHome (pa r) = false ∧ HeldAt s (dieOf w.core) w.core (pa r) (c r) ∧ s.collapsing (pa r) = false)
    ∧ (∀ r q, r < q → q < csN f → sectorOf (pa r) ≠ sectorOf (pa q))
    ∧ ∀ e ∈ s.accs, e.t ≠ x ∧ e.isOf x = false ∧ dieOf e.core ≠ dieOf w.core ∧ e.id < s.next ∧ (e.armed = true → e.fired = true)
  let whole := fun (i : Instr) (write : Bool) => Runs s i b ∧ OneWave s i b x.u ∧ f.body.getLsbD 25 = true ∧ s.handleOf x.u (sf f 41 36) = some v ∧ v ≠ x.u
    ∧ (s.wave v).saved = false ∧ (s.wave v).stopped = true ∧ (s.wave v).isSprout = false ∧ a % 256 = 0 ∧ a + 82944 ≤ 2 ^ 56 ∧ Pinnable s x.u (imageRange a write) ∧ s.deadM = []
    ∧ ∀ j, j < 82944 → (s.ctx w.ctx).inWindow (a + j) = true ∧ (s.target ((s.ctx w.ctx).windowPa (a + j))).1 = .hbm ∧ (s.ctx w.ctx).windowPa (a + j) % 65536 = (a + j) % 65536
      ∧ (s.ctx w.ctx).windowPa (a + j) < Config.hbmBytes
  let phys := fun (off : Nat) => (s.ctx w.ctx).windowPa (a + off)
  let entry := fun (e : Option LogEntry) => match e with
    | none => 0
    | some e => e.pc % 2 ^ 64 + e.low % 2 ^ 64 * 2 ^ 64 + bitsOf (e.lanes.map LogLane.i) % 2 ^ 64 * 2 ^ 128
      + (e.st.code * 2 ^ 28 + e.code % 16 * 2 ^ 24) % 2 ^ 32 * 2 ^ 192 + e.det.toNat * 2 ^ 224
  let served := fun (k : Nat) (e e2 : LogEntry) => Runs s (.fresume h f) b → OneWave s (.fresume h f) b x.u → s.handleOf x.u (sf f 47 42) = some v →
    (s.wave v).saved = false → (∀ y ∈ s.actives (.fresume h f) b, s.allDone y 4 = true) → k = sf f 41 40 → fget (s.wave v).log k = some e → e.st = .wait →
    ∃ t, WordKeeps (.fresume h f) b s t ∧ fget (t.wave v).log k = some e2
  (∀ pa cls c, span (.csave h f) .write pa cls c → ∃ t, exec (.csave h f) s = .next t ∧ KeepsRegs b s t ∧ t.accs = s.accs
      ∧ (∀ r k, r < csN f → k < 4 → t.byteAt (pa r + k) = BitVec.ofNat 8 ((s.vreg x (csF f + r)).toNat >>> (8 * k)))
      ∧ ∀ k, k < 2 ^ 52 → (∀ r, r < csN f → k < pa r ∨ pa r + 4 ≤ k) → t.byteAt k = s.byteAt k)
    ∧ (∀ pa cls c, span (.crest h f) .read pa cls c → ∃ t l, exec (.crest h f) s = .next t ∧ KeepsRegs b s t ∧ t.accs = s.accs ++ l ∧ l.length = csN f
      ∧ (∀ r, r < csN f → ∃ e ∈ l, e.t = x ∧ e.dest = .vreg (csF f + r) 1 ∧ e.n = 4
        ∧ e.st = .done (BitVec.ofNat 128 (pick (c r).data (pa r % 64) 4)) false) ∧ ∀ k, t.byteAt k = s.byteAt k)
    ∧ (whole (.csave h f) true → ∃ t, exec (.csave h f) s = .next t ∧ KeepsRegs b s t
      ∧ (∀ r k j, r < 240 → k < (s.wave v).width → k < 64 → (s.wave v).stop ≠ 3 → j < 4 →
          t.byteAt (phys (0x5400 + 256 * r + 4 * k + j)) = BitVec.ofNat 8 ((s.vreg ⟨v, k⟩ r).toNat >>> (8 * j)))
      ∧ ∀ r j, r < 64 → j < 4 → t.byteAt (phys (0x200 + 4 * r + j)) = BitVec.ofNat 8 ((s.sreg v r).toNat >>> (8 * j)))
    ∧ (whole (.crest h f) false → ∃ t, exec (.crest h f) s = .next t ∧ (∀ k, t.byteAt k = s.byteAt k) ∧ (∀ y ∈ b.threads, (t.thread y).pc = b.nextPc)
      ∧ (∀ y r, y.u ≠ v → t.vreg y r = s.vreg y r) ∧ (∀ r, r < 64 → t.sreg v r = BitVec.ofNat 32 (s.peek (phys (0x200 + 4 * r)) 4))
      ∧ ∀ r k, r < 240 → k < 64 → (fget (s.wave v).threads k).isSome = true →
          t.vreg ⟨v, k⟩ r = BitVec.ofNat 32 (s.peek (phys (0x5400 + 256 * r + 4 * k)) 4))
    ∧ (Runs s (.oplr h f) b → OneWave s (.oplr h f) b x.u → (if f.body.getLsbD 35 then s.handleOf x.u (sf f 41 36) else some x.u) = some v →
      ∃ t, WordGives (.oplr h f) b s t s.vreg s.preg (s.sSet x.u (sf f 47 42) 8 (entry (fget (s.wave v).log (sf f 34 33)))))
    ∧ (∀ k e, f.body.getLsbD 39 = false → served k e { e with st := .ready, order := (s.wave v).logOrder })
    ∧ (∀ k e, f.body.getLsbD 39 = true → served k e { e with st := .failed, cause := .memfault, det := BitVec.ofNat 32 (setBits e.det.toNat 3 0 (sf f 38 35)) })
    ∧ (∀ k e m l pa c, (s.wave s.arg.n).nextReady = some (k, e) → s.mayReissue s.arg.n k e = true → memOp e.unit = some m → m.kind = .store → m.space = 0 →
      m.group = none → m.cctl = none → m.hint = false → e.lanes = [l] → l.ea < 2 ^ 56 → (m.align ≠ 0 → l.ea % m.align = 0) → l.ea % 64 + m.n ≤ 64 →
      (∃ cls, cls ≠ 2 ∧ s.translateNow (s.wave s.arg.n).core (s.wave s.arg.n).ctx l.ea .write (s.wave s.arg.n).high false = (.ok pa cls, s)) →
      s.collapsing pa = false → pa % 64 = l.ea % 64 → (s.target pa).1 = .hbm →
      s.lostHome pa = false → HeldAt s (dieOf (s.wave s.arg.n).core) (s.wave s.arg.n).core pa c → s.accs = [] → (s.wave s.arg.n).live ≠ [] →
      ∃ t, exec .operandLogReissue s = .next t ∧ SameRegs s t ∧ fget (t.wave s.arg.n).log k = none
        ∧ (∀ j, j < m.n → t.byteAt (pa + j) = BitVec.ofNat 8 (l.data.toNat >>> (8 * j)))
        ∧ ∀ j, j < 2 ^ 52 → j < pa ∨ pa + m.n ≤ j → t.byteAt j = s.byteAt j)
    ∧ ∀ e l hpc, x.u = s.arg.n → fget w.log s.arg.k = some e → s.mayFail x.u e = true → e.lanes = [l] → l.i = x.i → (s.thread x).st = .ready →
      s.modeOf x e.cause false = .inThread hpc → ∃ t, exec .oplogFailedDelivery s = .next t ∧ fget (t.wave x.u).log s.arg.k = none ∧ t.mem = s.mem
        ∧ (t.thread x).pc = hpc ∧ (t.thread x).tcause = BitVec.ofNat 32 e.cause.code ∧ (t.thread x).taddr = BitVec.ofNat 64 (e.trapAddr l)
        ∧ (t.thread x).tpc = e.next ∧ (t.thread x).skip = s.skipFrom w.core w.ctx 8 e.next [] 0 ∧ (loggedDest e.unit = (.none, []) → ∀ y r, t.vreg y r = s.vreg y r)
        ∧ ∀ r n, loggedDest e.unit = (.vreg r n, []) → skipsLogs e.unit = false → ∀ y k, t.vreg y k = if y = x ∧ r ≤ k ∧ k < r + n then 0 else s.vreg y k

/-! ## System words, services and observation -/

/-- R256 to R258, R446, R455, R456: TLBINV drops the range's translations from every TLB of the device; TLBSYNC waits
for what used them; HALT sets, releases or steps another wave, which halts at a boundary, after one bundle with a
DEBUG record of DSRC 3 where it steps. A wave that stands saved is halted, released or stepped in its image (R445, log entry 15). -/
def Obligations.TranslationsAndHalt : Prop := ∀ (s : State) (b : Issue) (h : Hdr) (f : FmtS) (u v : Nat), Unlogged s →
  let runs := fun i => Runs s i b ∧ OneWave s i b u
  let c := (s.sreg u (sf f 47 42)).toNat
  let every := f.body.getLsbD 29
  let lo := if every then 0 else (s.sreg64 u (sf f 41 36)).toNat / 65536 * 65536
  let hi := if every then 2 ^ 56 else lo + 65536 * (s.sreg u (sf f 35 30)).toNat
  let drops := fun (e : TlbEntry) => e.ctx = c ∧ e.va < hi ∧ lo < e.va + 2 ^ e.log
  let halts := fun i => runs i ∧ s.handleOf u (sf f 47 42) = some v ∧ (s.wave v).isSprout = false ∧ (s.wave v).saved = false ∧ (s.wave v).image = none
  let does := fun (i : Instr) (req : Bool) (halted stepping : Bool) => halts i → ∃ t, WordKeeps i b s t ∧ (t.wave v).haltReq = req
    ∧ (t.wave v).halted = halted ∧ (t.wave v).stepping = stepping ∧ (∀ x, x.u ≠ u → t.thread x = s.thread x ∨ x ∈ b.threads)
  let w := s.wave s.arg.n
  let d := dieOf w.core
  let base := bits (s.fqb w.ctx d) 51 12 * 4096
  let cap := 64 * 2 ^ bits (s.fqb w.ctx d) 11 8
  let prod := s.peek base 8
  let slot := base + 64 + 64 * (prod % cap)
  (runs (.tlbinv h f) → c ≤ 63 → (∀ y ∈ s.actives (.tlbinv h f) b, s.allDone y 4 = true) → (∀ e ∈ s.samplers, e.2.ctx ≠ c) →
      ∃ t, WordKeeps (.tlbinv h f) b s t ∧ (∀ k e, e ∈ (t.core k).tlb ↔ e ∈ (s.core k).tlb ∧ ¬ drops e)
        ∧ (∀ k e, e ∈ fgetD t.ctlb k [] ↔ e ∈ fgetD s.ctlb k [] ∧ ¬ drops e) ∧ (∀ p ∈ t.walks, p ∈ s.walks ∧ (p.ctx = c → p.ptos = true)))
    ∧ (runs (.tlbsync h f) → (∀ e ∈ (s.wave u).invs, s.invOver e = true) → ∃ t, WordKeeps (.tlbsync h f) b s t ∧ (t.wave u).invs = []
      ∧ ∀ e ∈ (t.core (s.wave u).core).l1, e.2.tracked = true)
    ∧ (runs (.tlbsync h f) → (∃ e ∈ (s.wave u).invs, s.invOver e = false) → s.chain = none → exec (.tlbsync h f) s = .next { s with stalled := true })
    ∧ does (.haltHalt h f) true (s.wave v).halted false ∧ does (.haltRel h f) false false false
    ∧ does (.haltStep h f) (s.wave v).haltReq (s.wave v).halted (s.wave v).halted
    ∧ (∀ a, runs (.haltHalt h f) → s.handleOf u (sf f 47 42) = some v → (s.wave v).isSprout = false → v ≠ u → s.inImage v = true → (s.wave v).image = some a →
      ∃ t, exec (.haltHalt h f) s = .next t ∧ (t.wave v).halted = true ∧ (t.wave v).saved = true ∧ (t.wave v).image = some a
        ∧ ∀ y r, y.u ≠ v → t.vreg y r = s.vreg y r)
    ∧ (w.recd.late = 0 → w.stepping = false → w.stepped = 0 → w.haltReq = true → w.retired = false → ∃ t, exec .haltEffect s = .next t ∧ SameRegs s t ∧ t.mem = s.mem
      ∧ t.wave s.arg.n = { w with halted := true, haltReq := false, stepping := false, threads := (t.wave s.arg.n).threads }
      ∧ ∀ i, t.thread ⟨s.arg.n, i⟩ = { s.thread ⟨s.arg.n, i⟩ with wfault := [] })
    ∧ (w.recd.late = 0 → w.stepping = true → s.arg.k ≠ 0 → s.fqb w.ctx d % 2 = 0 → ∃ t, exec .haltEffect s = .next t ∧ SameRegs s t ∧ t.mem = s.mem
      ∧ (t.wave s.arg.n).halted = true ∧ (t.wave s.arg.n).stepping = false ∧ (t.wave s.arg.n).stepped = 0)
    ∧ ∀ k, w.recd.late = 0 → w.stepping = true → s.arg.k = 2 ^ k → k < 64 → s.fqb w.ctx d % 2 = 1 → s.fqRoom w.ctx d 1 = true → s.accs = [] → w.isSprout = false →
      base + 64 + 64 * cap ≤ Config.hbmBytes → ∃ t, exec .haltEffect s = .next t ∧ SameRegs s t ∧ (t.wave s.arg.n).halted = true
        ∧ (t.wave s.arg.n).stepped = 0 ∧ t.peek base 8 = (prod + 1) % 2 ^ 64
        ∧ t.peek slot 24 = (2 ^ k + (s.thread ⟨s.arg.n, k⟩).pc % 2 ^ 56 * 2 ^ 64 + 10 * 2 ^ 120 + 3 * 2 ^ 144 + w.tag.toNat * 2 ^ 160) % 2 ^ 192

/-- R513, R515, R522 to R524: IDRD reads an identity item; SECCALL and ATTEST hand a request to the security
controller and give its ticket; SECWAIT waits for a ticket and gives its status, 6 where the controller does not know
it. R511, R512, R514, R516 to R521: the controller serves the request at its head: it draws a nonce, writes its
certificates, extends MR5 or MR6, draws a key, maps frames to a key, checks a token and changes the lifecycle state,
or fills a report; the request is over, and a token's nonce is consumed. The model's own: random values, keys and signatures are free values
(log entry 10) and keys are known by numbers (log entry 11); SECST is written for a refused token too, and MREXT's header is one
little-endian number (log entry 34); KEYGEN answers NOKEY in BLANK and RETIRED too (log entry 93). -/
def Obligations.ServiceWordsAndServices : Prop :=
  (∀ (s : State) (b : Issue) (h : Hdr) (f : FmtS) (u : Nat),
    let w := s.wave u
    let a := (s.sreg64 u (sf f 47 42)).toNat
    let runs := fun i => Runs s i b ∧ OneWave s i b u
    let asks := fun (i : Instr) (g : Rng) => runs i ∧ s.recMode w.ctx = 0 ∧ firstEng (g.noncanon 3) = none ∧ Pinnable s u g ∧ s.deadM = []
      ∧ (∀ y ∈ s.actives i b, s.allDone y 6 = true) ∧ s.secReqs.length < 16 ∧ ∀ r ∈ s.secReqs, r.attest = true ∨ 1 ≤ r.cmd ∧ r.cmd ≤ 7
    let gets := fun (i : Instr) (t : State) => WordGives i b s t s.vreg s.preg (s.sSet u (sf f 41 36) 1 s.secTicket) ∧ t.secTicket = (s.secTicket + 1) % 2 ^ 32
    let p := match s.translateNow w.core w.ctx (a / 65536 * 65536) .read w.high true with
      | (.ok p _, _) => p + a % 65536
      | _ => 0
    let blk := s.peek p 64
    let pay : Rng := ⟨0, bits blk 191 128, 0, 1, bits blk 127 64, false⟩
    let ans : Rng := ⟨0, bits blk 255 192, 0, 1, bits blk 319 256, true⟩
    let ticket := (s.sreg u (sf f 47 42)).toNat
    (runs (.idrd h f) → ∃ t, WordGives (.idrd h f) b s t s.vreg s.preg (s.sSet u (sf f 47 42) 2 (s.idItem (sf f 7 0))))
      ∧ s.idItem 4 = s.lcs % 8 ∧ s.idItem 5 % 65536 = 0x7400 ∧ s.idItem 6 = s.spareMap % 2 ^ 36
      ∧ (asks (.seccall h f) ⟨0, a, 0, 1, 64, false⟩ → a % 64 = 0 → (s.target p).1 = .hbm → p < Config.hbmBytes → secBad blk = false →
        firstEng (pay.noncanon 3 ++ ans.noncanon 4) = none → Pinnable s u pay → Pinnable s u ans → ∃ t r, gets (.seccall h f) t
          ∧ t.secReqs = s.secReqs ++ [r] ∧ r.ticket = s.secTicket ∧ r.ctx = w.ctx ∧ r.attest = false ∧ r.cmd = bits blk 31 0 ∧ r.bad = false
          ∧ r.paddr = pay.base ∧ r.plen = pay.len ∧ r.raddr = ans.base ∧ r.rlen = ans.len)
      ∧ (asks (.attest h f) ⟨0, a, 0, 1, 17184, true⟩ → Pinnable s u ⟨0, a + 0x40, 0, 1, 64, false⟩ → a % 256 = 0 → ∃ t r, gets (.attest h f) t ∧ t.secReqs = s.secReqs ++ [r] ∧ r.ticket = s.secTicket
          ∧ r.ctx = w.ctx ∧ r.attest = true ∧ r.raddr = a)
      ∧ (∀ st, runs (.secwait h f) → s.secStatus w.high ticket = some st → ∃ t, WordGives (.secwait h f) b s t s.vreg
          (s.pOne (.secwait h f) b (sf f 2 0) (st == 0)) (s.sSet u (sf f 41 36) 1 st) ∧ ∀ e ∈ (t.core w.core).l1, e.2.tracked = true)
      ∧ (runs (.secwait h f) → s.secStatus w.high ticket = none → s.chain = none → exec (.secwait h f) s = .next { s with stalled := true })
      ∧ (s.secStatus w.high ticket = none ↔ ∃ r, s.secReqs.find? (fun r => r.ticket == ticket) = some r ∧ (r.attest = true ∨ w.high = true))
      ∧ ((∀ r ∈ s.secReqs, r.ticket ≠ ticket) → (∀ r ∈ s.secDone, r.ticket ≠ ticket) → s.secStatus w.high ticket = some 6))
    ∧ (∀ (s : State) (r : SecReq) (base : Nat), s.secReqs = [r] → Unlogged s → s.deadM = [] →
    let asks := fun cmd => r.attest = false ∧ r.cmd = cmd ∧ r.bad = false
    let isOver := fun (t : State) (st : Nat) => t.secReqs = [] ∧ t.secDone.getLast? = some { ticket := r.ticket, attest := r.attest, status := st }
    let n := leNat ((s.reqPayload r).take 8)
    let pay := leNat (s.reqPayload r)
    let first := bits pay 17 0
    let last := first + bits pay 35 18 + 1
    let k := bits pay 41 36
    let answers := fun (len : Nat) => r.raddr % 64 = 0 ∧ base % 64 = 0 ∧ base + len ≤ Config.hbmBytes ∧ ∀ j, j < len → pinned r.rpins (r.raddr + j) = base + j
    let token := fun (ev : Instr) (cmd : Nat) => asks cmd → r.plen = 16736 → r.rlen = 0 →
      let l := s.reqPayload r
      let new := leNat (slice l 0x51 0x52)
      (s.tokenStatus cmd l = 0 → ∃ t, exec ev s = .next t ∧ isOver t 0 ∧ t.lcs = new ∧ t.nonce = none
          ∧ (∀ x, 64 * x < Config.hbmBytes → t.homeSector x = 0) ∧ (∀ e ∈ t.mem, Config.hbmBytes ≤ e.1 / 64 * 64)
          ∧ t.secst = BitVec.ofNat 64 (cmd * 256 + (if portOpen new then 2 ^ 24 else 0))
          ∧ t.mrOf 7 = mrExtend (s.mrOf 7) (eventRecord 1 s.lcs new (s.nonce.getD 0))
          ∧ t.posts.getLast? = some { vector := 0, event := "LCCHANGE", datum := BitVec.ofNat 64 new })
        ∧ (s.tokenStatus cmd l ≠ 0 → ∃ t, exec ev s = .next t ∧ isOver t (s.tokenStatus cmd l) ∧ SameRegs s t ∧ t.lcs = s.lcs ∧ t.nonce = none ∧ t.mem = s.mem
          ∧ t.secst = BitVec.ofNat 64 (setBits s.secst.toNat 23 0 (s.tokenStatus cmd l + cmd * 256)))
    let report := s.reportBody r.ctx (s.pinBytes r.rpins (r.raddr + 0x40) 64)
    (asks 3 → r.plen = 0 → r.rlen = 32 → answers 32 → ∃ t, exec .nonce s = .next t ∧ isOver t 0 ∧ SameRegs s t ∧ t.nonce = some (Config.random s.randCount)
        ∧ t.randCount = s.randCount + 1 ∧ ∀ j, j < 32 → t.byteAt (base + j) = BitVec.ofNat 8 ((Config.random s.randCount).toNat >>> (8 * j)))
      ∧ (asks 7 → r.plen = 0 → Config.certChain.length ≤ r.rlen → answers Config.certChain.length → ∃ t, exec .cert s = .next t ∧ isOver t 0 ∧ SameRegs s t
        ∧ ∀ j, j < Config.certChain.length → t.byteAt (base + j) = Config.certChain.getD j 0)
      ∧ (asks 6 → 9 ≤ r.plen → r.plen ≤ 72 → r.rlen = 0 → ∃ t, exec .mrext s = .next t ∧ SameRegs s t ∧ t.mem = s.mem
        ∧ (n = 5 ∨ n = 6 → isOver t 0 ∧ t.mrOf n = mrExtend (s.mrOf n) ((s.reqPayload r).drop 8) ∧ ∀ m, m ≠ n → t.mrOf m = s.mrOf m)
        ∧ (n ≠ 5 → n ≠ 6 → isOver t 1 ∧ t.mr = s.mr))
      ∧ (asks 4 → r.plen = 8 → r.rlen = 0 → ∃ t, exec .keygen s = .next t ∧ SameRegs s t ∧ t.mem = s.mem
        ∧ (1 ≤ pay → pay ≤ 63 → s.lcs = 2 ∨ s.lcs = 3 → isOver t 0 ∧ t.crypt.key pay = s.crypt.next ∧ t.crypt.next = s.crypt.next + 1 ∧ pay ∈ t.crypt.drawn
          ∧ t.crypt.frames = s.crypt.frames ∧ ∀ j, j ≠ pay → t.crypt.key j = s.crypt.key j)
        ∧ (1 ≤ pay → pay ≤ 63 → s.lcs ≠ 2 → s.lcs ≠ 3 → isOver t 5 ∧ t.crypt = s.crypt) ∧ (pay = 0 ∨ 64 ≤ pay → isOver t 1 ∧ t.crypt = s.crypt))
      ∧ (asks 5 → r.plen = 16 → r.rlen = 0 → bits pay 127 42 = 0 → last ≤ 262144 → (k = 0 ∨ k ∈ s.crypt.drawn) → ∃ t, exec .keymap s = .next t ∧ isOver t 0 ∧ SameRegs s t
        ∧ (∀ j, fgetD t.crypt.frames j 0 = if first ≤ j ∧ j < last then k else fgetD s.crypt.frames j 0) ∧ ∀ j, t.crypt.key j = s.crypt.key j)
      ∧ token .dbgunlock 1 ∧ token .lcset 2
      ∧ (r.attest = true → (∀ m, (s.mrOf m).length = 48) → answers 17184 → ∃ t, exec .attestReport s = .next t ∧ isOver t 0 ∧ SameRegs s t
        ∧ ∀ j, j < 17184 → t.byteAt (base + j) = if 0x40 ≤ j ∧ j < 0x80 then s.byteAt (base + j) else (report ++ signatures report).getD j 0))

/-- R471, R493 to R496, R498 to R506: outside a recording RECMARK does nothing and CKPTREQ answers 0xFFFFFFFF, in one
a mark is kept for the open chunk, by RECMARK itself, and the wave waits for the next cut, which CKPTREQ.DOM sends to the whole domain
(R482, R483); RECST, PERFRD, HISTRD and TELRD give their
values; SAMPARM arms the die's sampler and SAMPSTOP stops it; a row is written each interval. That a row goes
where PROD in the ring's header in memory says is log entry 62. -/
def Obligations.ObservationWords : Prop := ∀ (s : State) (b : Issue) (h : Hdr) (f : FmtS) (u : Nat),
  let w := s.wave u
  let c := w.ctx
  let d := sf f 47 42
  let die := dieOf w.core
  let a := (s.sreg64 u d).toNat
  let runs := fun i => Runs s i b ∧ OneWave s i b u
  let gives := fun (i : Instr) (n val : Nat) => ∃ t, WordGives i b s t s.vreg s.preg (s.sSet u d n val)
  let records := fun i => MayRun s i b ∧ OneWave s i b u ∧ s.recMode c = 1 ∧ s.replays = [] ∧ ∀ x ∈ b.threads, x.u = u
  let rctl := (s.ctx c).rctl
  let id := if f.body.getLsbD 35 then sf f 15 0 else (s.sreg u (sf f 41 36)).toNat % 65536
  let bin := (s.sreg u (sf f 41 36)).toNat
  let o := s.silo c (clusterOf w.core)
  let kept := if (s.ckpts.any fun e => e.1 / 2 ^ 32 == c) then s.ckCur c + 1 - s.ckOldest c else 0
  let occ := 256 * (o.wseg - o.rseg) / siloCap (s.siloEntry c (clusterOf w.core))
  let blk := (List.range 4).foldl (fun v j => v + s.peek ((s.ctx c).windowPa a + 64 * j) 64 * 2 ^ (512 * j)) 0
  let ring := bits blk 63 0
  let area : Rng := ⟨0, ring, 0, 1, 4096 * 2 ^ bits blk 68 64, true⟩
  let inHbm := fun (g : Rng) => firstEng (g.noncanon 4) = none ∧ Pinnable s u g ∧ ∀ j, j < g.len → (s.ctx c).inWindow (g.base + j) = true
    ∧ (s.target ((s.ctx c).windowPa (g.base + j))).1 = .hbm ∧ (s.ctx c).windowPa (g.base + j) < Config.hbmBytes
  (runs (.recmark h f) → ∃ t, GoesOnPlain (.recmark h f) b s t)
    ∧ (records (.recmark h f) → s.accs = [] → o.recs = [] → w.recd.pend = [] → ∃ t, exec (.recmark h f) s = .next t ∧ KeepsRegs b s t
      ∧ (t.silo c (clusterOf w.core)).recs.head? = some (BitVec.ofNat 128 (11 + w.recd.unit % 512 * 2 ^ 4 + w.recd.len * 2 ^ 13 + sf f 15 0 * 2 ^ 32
        + a * 2 ^ 64)) ∧ (t.silo c (clusterOf w.core)).recs.length = 3 ∧ (t.wave u).recd.chunk = w.recd.chunk + 1)
    ∧ (runs (.recst h f) → gives (.recst h f) 2 (s.recMode c * 2 ^ 62 + min 255 occ * 2 ^ 48 + min 65535 kept * 2 ^ 32 + s.ckCur c % 2 ^ 32))
    ∧ (runs (.ckptreq h f) → s.recMode c = 0 → gives (.ckptreq h f) 1 0xFFFFFFFF)
    ∧ (records (.ckptreq h f) → f.body.getLsbD 41 = true → rctl.getLsbD 6 = true → rctl.getLsbD 7 = false → ∃ t m, exec (.ckptreq h f) s = .next t
        ∧ (∀ v r, t.sreg v r = s.sSet u d 1 (s.ckCur c + 1) v r) ∧ t.cutReq = s.cutReq ∧ t.domSent = s.domSent ++ [m] ∧ m.ctx = c ∧ m.cut = none ∧ m.dev = none
        ∧ ∀ x ∈ s.actives (.ckptreq h f) b, (t.thread x).st = .waiting (.service 0))
    ∧ (records (.ckptreq h f) → f.body.getLsbD 41 = false ∨ rctl.getLsbD 6 = false ∨ rctl.getLsbD 7 = true → ∃ t, exec (.ckptreq h f) s = .next t
        ∧ (∀ v r, t.sreg v r = s.sSet u d 1 (s.ckCur c + 1) v r) ∧ c ∈ t.cutReq ∧ (∀ x ∈ b.threads, (t.thread x).pc = b.nextPc)
        ∧ ∀ x ∈ s.actives (.ckptreq h f) b, (t.thread x).st = .waiting (.service 0))
    ∧ (runs (.samparm h f) → a % 256 = 0 → s.recMode c = 0 → s.deadM = [] → inHbm ⟨0, a, 0, 1, 256, false⟩ → ring % 4096 = 0 → armBad blk = false → inHbm area →
      fget s.samplers die = none → ∃ t p, exec (.samparm h f) s = .next t ∧ KeepsRegs b s t ∧ t.samplers = fput s.samplers die p ∧ p.ctx = c ∧ p.core = w.core
        ∧ p.ring = ring ∧ p.rsz = bits blk 68 64 ∧ p.int = bits blk 127 96 ∧ p.sb = blk.testBit 80 ∧ p.ids.length = bits blk 79 72 ∧ p.last = s.ptb
        ∧ t.peek ((s.ctx c).windowPa ring + 16) 8 = 1)
    ∧ (runs (.sampstop h f) → fget s.samplers die = none → ∃ t, WordKeeps (.sampstop h f) b s t ∧ t.samplers = s.samplers)
    ∧ (∀ p, runs (.sampstop h f) → fget s.samplers die = some p → p.ring % 4096 = 0 → s.deadM = [] → pinned p.pins (p.ring + 16) % 64 = 16 →
      pinned p.pins (p.ring + 16) < Config.hbmBytes → ∃ t, exec (.sampstop h f) s = .next t ∧ KeepsRegs b s t ∧ fget t.samplers die = none
        ∧ t.peek (pinned p.pins (p.ring + 16)) 8 = 4)
    ∧ (runs (.perfrd h f) → counterOk id = true → gives (.perfrd h f) 2 (s.counter w.core id).toNat)
    ∧ (runs (.histrd h f) → bits bin 31 16 = 0 → bits bin 7 0 < histBins (bits bin 15 8) → gives (.histrd h f) 2 (fgetD s.hist bin 0).toNat)
    ∧ (runs (.telrd h f) → ∃ t, WordGives (.telrd h f) b s t s.vreg (s.pOne (.telrd h f) b (sf f 2 0) (!s.telRing.isEmpty))
      (s.sSet u d 8 (s.telRing.head?.getD 0).toNat) ∧ t.telRing = s.telRing.tail)
    ∧ ∀ p base prod, fget s.samplers s.arg.n = some p → p.last + p.int ≤ s.ptb → s.deadM = [] → base % 4096 = 0 → base + p.ringBytes ≤ Config.hbmBytes → 0 < p.rows →
      (∀ j, j < p.ringBytes → pinned p.pins (p.ring + j) = base + j) → prod = s.peek base 8 →
      let lost := (prod + 2 ^ 64 - s.peek (base + 8) 8) % 2 ^ 64 = p.rows
      ∃ t, exec .samplerRow s = .next t ∧ SameRegs s t ∧ (fget t.samplers s.arg.n).map Sampler.last = some s.ptb
        ∧ (lost → t.peek (base + 24) 8 = (s.peek (base + 24) 8 + 1) % 2 ^ 64 ∧ t.peek base 8 = prod)
        ∧ (¬ lost → t.peek base 8 = (prod + 1) % 2 ^ 64 ∧ t.peek (base + 64 + p.rowBytes * (prod % p.rows)) 8 = s.ptb % 2 ^ 64)
        ∧ ∀ j, j < 2 ^ 52 → j < base ∨ base + p.ringBytes ≤ j → t.byteAt j = s.byteAt j

/-! ## Outside accesses, kills and losses -/

/-- R146, R238, R239, R411, R412: the answer of a marker, or its time-out with FABTO, ends the aperture writes before
it, and a marker that has not stood 100 µs times nothing out; what takes the error path fails its read or is dropped and
counted; accesses from the fabric and the host become
home-side operations. -/
def Obligations.AccessesOfTheFabricAndTheHost : Prop := ∀ (s : State) (a : Access) (m : OutMsg),
  let pa := s.arg.n % 2 ^ 45
  let dev := s.arg.m % 64
  let v := s.arg.v.toNat
  let ty := v / 32 % 32
  let sent := fun (ev : Instr) (at_ : Nat) (op : HomeOp) =>
    exec ev s = .next { s with next := s.next + 1, homeOps := s.homeOps ++ [{ n := s.next, x := sectorOf at_, pa := at_, op := op }] }
  let open_ := pa < Config.hbmBytes ∧ s.deadM = [] ∧ s.markers = []
  let inOne := fun (at_ : Nat) => s.arg.bytes ≠ [] ∧ at_ % 64 + s.arg.bytes.length ≤ 64
  (s.accs = [a] → a.st = .remote → a.kind = .store → a.acq = none →
      (a.id ≤ s.arg.n → exec .fenceMarkerAnswer s = .next { s with accs := [] })
      ∧ (s.arg.n < a.id → exec .fenceMarkerAnswer s = .next s)
      ∧ ∀ m : FenceMark, s.fenceMarks = [m] → (a.id < m.upto → s.arg.n < m.upto → m.since + 100000 ≤ s.ptb → ∃ t, exec .fabto s = .next t
          ∧ t.accs = s.accs ∧ t.mem = s.mem ∧ t.fenceMarks = [] ∧ t.posts = s.posts ++ [{ vector := 0, event := "FABTO", datum := 0 }]
          ∧ RegsAre t s.vreg s.preg s.sreg s.mreg s.fpswOf
          ∧ (∀ x, (t.thread x).past = if (x, none) ∈ m.threads then max (s.thread x).past m.upto else (s.thread x).past)
          ∧ (∀ x, (t.thread x).fences = (s.thread x).fences.map fun f => if (x, some f.before) ∈ m.threads then { f with past := max f.past m.upto } else f)
          ∧ t.lockMsgs = s.lockMsgs.map fun k => if k.n ∈ m.locks then { k with past := max k.past m.upto } else k)
        ∧ (m.upto ≤ a.id ∨ s.ptb < m.since + 100000 → exec .fabto s = .next s))
    ∧ (s.fenceMarks = [] → exec .fabto s = .next s)
    ∧ (s.accs = [a] → a.st = .remote → a.id = s.arg.n →
      (a.isRead = true → exec .fabricErrorPath s = .next { s with accs := [{ a with st := .poisoned a.red true }] })
      ∧ (a.isRead = false → exec .fabricErrorPath s = .next { s with accs := [{ a with st := .poisoned true true }], posts := s.posts ++ [{ vector := 0, event := "DEVLOST", datum := BitVec.ofNat 64 (bits a.pa 50 45) }] }))
    ∧ (s.accs = [] → s.outbound = [m] → m.id = s.arg.n → ∃ t, exec .fabricErrorPath s = .next t ∧ t.outbound = [] ∧ t.waves = s.waves ∧ t.mem = s.mem
      ∧ (t.ctx m.ctx).msgerr.toNat = ((s.ctx m.ctx).msgerr.toNat + 1) % 2 ^ 32)
    ∧ (open_ → s.arg.bytes = [] → sent .apertureAccessArrival pa (.apRead dev (s.arg.k % 65)))
    ∧ (open_ → inOne pa → v = 0 → sent .apertureAccessArrival pa (.apWrite dev s.arg.bytes))
    ∧ (open_ → s.arg.bytes ≠ [] → v ≠ 0 → pa % atomBytes ty = 0 → sent .apertureAccessArrival pa (.apRmw dev (aopOf (v % 32 - 1)) ty
        (leNat (s.arg.bytes.take (atomBytes ty))) (leNat ((s.arg.bytes.drop (atomBytes ty)).take (atomBytes ty)))))
    ∧ (Config.hbmBytes ≤ pa → exec .apertureAccessArrival s = .next s)
    ∧ (s.arg.n < Config.hbmBytes → s.deadM = [] → sent .hostCxlMemRead s.arg.n (.hostRead (s.arg.k % 65)))
    ∧ (s.arg.n + s.arg.bytes.length ≤ Config.hbmBytes → s.deadM = [] → inOne s.arg.n → sent .hostCxlMemWrite s.arg.n (.hostWrite s.arg.bytes))

/-- R409, R410, R416: the kill of a context takes its blocks with their waves, completes its launches, disables its
queues and sets KDONE, and keeps the other contexts' registers; a lost die takes its blocks and its L2, and its
launches end with status 2. R438 to R445: PCTL.PRE makes PREEMPT pending in every wave on a core, stops whole what
cannot run a handler, and kills where the save area has no room, then or at the save; the handler runs at its entry; what has not stopped
after 100,000 ticks stops whole; a context all of which has stopped is saved; PCTL.RES and the blocks' return, out of the images, let it
go on. How many units of the save area the images take (`imageUnits`) and where they lie is log entry 15. -/
def Obligations.KillsLossesAndContextSwitches : Prop :=
  (∀ (s : State), Unlogged s →
    let c := s.arg.n % 64
    let gone := fun (w : Wave) => ∃ k, (w.block, k) ∈ s.blocks ∧ k.ctx = c
    (∃ t, exec .ctxctlKill s = .next t ∧ (∀ e ∈ t.waves, ¬ gone e.2) ∧ (∀ e ∈ s.blocks, e.2.ctx = c → fget t.blocks e.1 = none)
        ∧ (∀ l ∈ t.launches, l ∈ s.launches ∧ l.ctx ≠ c) ∧ (∀ q, (s.queue q).ctx = c → (t.queue q).en = false)
        ∧ (t.ctx c).ctxctl = (s.ctx c).ctxctl ||| 4 ∧ (∀ d, d ≠ c → t.ctx d = s.ctx d) ∧ c ∉ t.cutReq
        ∧ ∀ u w i r, fget s.waves u = some w → ¬ gone w → t.vreg ⟨u, i⟩ r = s.vreg ⟨u, i⟩ r ∧ (t.thread ⟨u, i⟩).pc = (s.thread ⟨u, i⟩).pc)
      ∧ ∃ t, exec .dieLost s = .next t
        ∧ (∀ d, d < 4 → s.arg.n.testBit d = true → d ∈ t.deadDies ∧ (d ∉ s.deadDies → (∀ x, x < 2 ^ 52 → t.l2copy d x = none)
          ∧ (∀ e ∈ s.blocks, dieOf e.2.core = d → fget t.blocks e.1 = none)
          ∧ ∀ l ∈ t.launches, (∀ x ∈ recRanges l.record, x.2.2 = d → l.status = 2)))
        ∧ (∀ d, d < 8 → s.arg.k.testBit d = true → d ∈ t.deadM) ∧ t.ctxs = s.ctxs
        ∧ t.posts.getLast? = some { vector := 0, event := "DIE_LOST", datum := BitVec.ofNat 64 (s.arg.n % 16 + s.arg.k % 256 * 256) })
    ∧ (∀ (s : State) (u i : Nat), Unlogged s →
    let c := s.arg.n % 64
    let pst := (s.ctx c).pst
    let x : TRef := ⟨u, i⟩
    let one := s.unitsOf c = [u] ∧ (s.wave u).ctx = c ∧ (s.wave u).live = [i] ∧ (s.thread x).st = .ready ∧ (s.wave u).stop = 0
    let keeps := fun (t : State) => RegsAre t s.vreg s.preg s.sreg s.mreg s.fpswOf ∧ t.mem = s.mem
    let size := bits (s.ctx c).psa.toNat 15 0
    let t0 := s.arg.t
    let w0 := s.wave t0.u
    (pst ≠ 0 → exec .pctlPre s = .next s)
      ∧ (pst = 0 → size < max 1 (s.imageUnits c) → ∃ t, exec .pctlPre s = .next t ∧ keeps t ∧ (t.ctx c).pst = 4
        ∧ t.agenda = { op := .ctxctlKill, arg := { (default : EvArg) with n := c } } :: s.agenda)
      ∧ (pst = 0 → 0 < size → s.imageUnits c ≤ size → one → ∃ t, exec .pctlPre s = .next t ∧ keeps t ∧ (t.ctx c).pst = 1 ∧ (t.ctx c).preTick = s.ptb
        ∧ (s.savedWhole u = true → (t.wave u).stop = 5)
        ∧ (s.savedWhole u = false → (t.wave u).stop = 0 ∧ (t.thread x).async = (s.thread x).async ++ [preemptAsync (s.thread x).pc]))
      ∧ (∀ hpc pc, (s.ctx w0.ctx).pst = 1 → w0.stop = 0 → s.noHandler t0.u = false → w0.live = [t0.i] → (s.thread t0).inh = false → (s.thread t0).st = .ready → s.chain = none →
        (s.thread t0).async = [preemptAsync pc] → s.asyncDue t0 (s.chainAt t0) = some (preemptAsync pc) → s.modeOf t0 .preempt false = .inThread hpc →
        ∃ t, exec .preempt s = .next t ∧ keeps t ∧ (t.thread t0).pc = hpc ∧ (t.thread t0).st = .ready ∧ (t.thread t0).inh = true ∧ (t.thread t0).inhPre = true
          ∧ (t.thread t0).tcause = 11 ∧ (t.thread t0).tpc = (s.thread t0).pc ∧ (t.thread t0).async = [])
      ∧ ((s.ctx w0.ctx).pst = 1 → w0.stop = 0 → s.noHandler t0.u = true → ∃ t, exec .preempt s = .next t ∧ keeps t ∧ (t.wave t0.u).stop = 5)
      ∧ (pst ≠ 1 → exec .forcedSave s = .next s)
      ∧ (pst = 1 → one → ∃ t, exec .forcedSave s = .next t ∧ keeps t
        ∧ (t.wave u).stop = if (s.ctx c).preTick + 100000 ≤ s.ptb then 4 else if (s.wave u).halted then 5 else 0)
      ∧ ((pst ≠ 1 ∨ s.mayBeSaved c = false) → exec .psaved s = .next s)
      ∧ (pst = 1 → s.mayBeSaved c = true → size < s.imageUnits c → ∃ t, exec .psaved s = .next t ∧ keeps t ∧ (t.ctx c).pst = 4
        ∧ t.agenda = { op := .ctxctlKill, arg := { (default : EvArg) with n := c } } :: s.agenda)
      ∧ (pst = 1 → s.mayBeSaved c = true → s.imageUnits c ≤ size → fsorted s.waves = true → ∃ t, exec .psaved s = .next t ∧ (t.ctx c).pst = 2 ∧ (∀ d, d ≠ c → t.ctx d = s.ctx d)
        ∧ (∀ e ∈ t.waves, e.2.ctx = c → e.2.saved = true) ∧ (∀ k ∈ s.blocksOf c, (s.block k).ctx = c → (t.block k).saved = true)
        ∧ (∀ y r, (s.wave y.u).ctx ≠ c ∨ (s.wave y.u).stop ≠ 3 → t.vreg y r = s.vreg y r)
        ∧ t.posts.getLast? = some { vector := 0, event := "PSAVED", datum := BitVec.ofNat 64 c })
      ∧ (pst ≠ 2 → exec .pctlRes s = .next s)
      ∧ (pst = 2 → ∃ t, exec .pctlRes s = .next t ∧ t.waves = s.waves ∧ t.mem = s.mem ∧ (t.ctx c).pst = 3 ∧ ∀ d, d ≠ c → t.ctx d = s.ctx d)
      ∧ (pst ≠ 3 → exec .presumed s = .next s)
      ∧ (pst = 3 → (∀ k ∈ s.blocksOf c, (s.block k).saved = false) → ∃ t, exec .presumed s = .next t ∧ keeps t ∧ (t.ctx c).pst = 0
        ∧ (∀ e ∈ t.waves, e.2.ctx = c → e.2.saved = false) ∧ t.posts.getLast? = some { vector := 0, event := "PRESUMED", datum := BitVec.ofNat 64 c })
      ∧ ∀ k, let core := 40 * (s.block k).die + s.arg.k % 40
        pst = 3 → s.blocksOf c = [k] → (s.block k).saved = true → s.isCl4 k = false → s.fitsBack k core = true →
        ∃ t, exec .presumed s = .next t ∧ t.mem = s.mem ∧ (∀ y r, (s.wave y.u).block ≠ k → t.vreg y r = s.vreg y r)
          ∧ (∀ v, v ∈ s.wavesOfBlock k → (s.wave v).image = none → ∀ i r, t.vreg ⟨v, i⟩ r = s.vreg ⟨v, i⟩ r ∧ t.sreg v r = s.sreg v r)
          ∧ (∀ v a, v ∈ s.wavesOfBlock k → (s.wave v).image = some a → (∀ r, r < 64 → t.sreg v r = BitVec.ofNat 32 (s.engRead (a + (0x200 + 4 * r)) 4).1)
            ∧ ∀ i, (fget (s.wave v).threads i).isSome = true → (t.thread ⟨v, i⟩).pc = bits (s.engRead (a + (0x400 + 64 * i)) 64).1 63 0
              ∧ ∀ r, r < 240 → t.vreg ⟨v, i⟩ r = BitVec.ofNat 32 (s.engRead (a + (0x5400 + 256 * r + 4 * i)) 4).1)
          ∧ (t.ctx c).pst = 0 ∧ (t.block k).core = core ∧ (t.block k).saved = false
          ∧ ∀ v ∈ s.wavesOfBlock k, (t.wave v).core = core ∧ (t.wave v).stop = 0)

/-! ## Recording, cuts and replay -/

/-- R458, R459, R465, R467, R475, R477 to R483: MODE 1 starts a recording with a cut, or posts RECFAIL; a cut numbers
the checkpoints from 0, opens every silo's segment with its CUT record and sets the clocks to 0; MODE 0 ends at a
final cut; undo copies are kept, segments close and markers of the domain bring cuts, which are sent on to the domain's other devices. A
conflict that a probe finds closes the chunk of the unit that holds the sector. -/
def Obligations.RecordingsAreCut : Prop := ∀ (s : State),
  let c := s.arg.n % 64
  let r := s.ctx c
  let now := s.recMode c = 1
  let keeps := fun (t : State) => RegsAre t s.vreg s.preg s.sreg s.mreg s.fpswOf
  let fresh := ∀ e ∈ s.ckpts, e.1 / 2 ^ 32 ≠ c
  let k := s.arg.k
  let o := s.silo c k
  let ring := bits (s.siloEntry c k) 51 12 * 4096 + o.wseg % siloCap (s.siloEntry c k) * 4096
  let seg := segment o.recs o.wseg (s.ckCur c) s.ptb
  let src := s.arg.k % 64
  let asked := fun (ev : Instr) => if c ∈ s.cutReq then exec ev s = .next s else exec ev s = .next { s with cutReq := s.cutReq ++ [c] }
  (s.recMode c ≠ 0 → exec .rctlModeRecord s = .next s)
    ∧ (s.recMode c = 0 → s.mayRecord c = false →
      exec .rctlModeRecord s = .next { s with posts := s.posts ++ [{ vector := 0, event := "RECFAIL", datum := BitVec.ofNat 64 c }] })
    ∧ (s.recMode c = 0 → s.mayRecord c = true → ∃ t, exec .rctlModeRecord s = .next t ∧ keeps t ∧ t.mem = s.mem ∧ t.recMode c = 1 ∧ c ∈ t.cutReq
      ∧ (∀ e ∈ t.ckpts, e.1 / 2 ^ 32 ≠ c) ∧ ∀ d, d ≠ c → t.ctx d = s.ctx d)
    ∧ (¬ now → exec .rctlModeOff s = .next s ∧ exec .clockForcedCheckpoint s = .next s ∧ exec .undoCopy s = .next s ∧ exec .segmentCloseTimeout s = .next s
      ∧ exec .domainCutMarker s = .next s ∧ exec .cut s = .next { s with cutReq := s.cutReq.filter (· ≠ c) })
    ∧ (now → asked .clockForcedCheckpoint ∧ ∃ t, exec .rctlModeOff s = .next t ∧ keeps t ∧ t.mem = s.mem ∧ c ∈ t.recOff ∧ c ∈ t.cutReq)
    ∧ (now → s.cutReady c = false → asked .cut)
    ∧ (now → s.cutReady c = true → c ∉ s.recOff → fresh → (∀ e ∈ s.waves, e.2.ctx ≠ c) → ∃ t, exec .cut s = .next t ∧ keeps t ∧ t.ckCur c = 0 ∧ t.ckOldest c = 0
      ∧ (fget t.ckpts (c * 2 ^ 32)).isSome = true ∧ c ∉ t.cutReq ∧ ∀ j, j < 41 → (t.silo c j).recs = [cutRecord 0 s.ptb])
    ∧ (now → s.cutReady c = true → c ∉ s.recOff → ¬ fresh → s.ckCur c + 1 < 2 ^ 32 → ∃ t, exec .cut s = .next t ∧ keeps t ∧ t.ckCur c = s.ckCur c + 1
      ∧ c ∉ t.cutReq ∧ (∀ j, j < 41 → (t.silo c j).recs = [cutRecord (s.ckCur c + 1) s.ptb])
      ∧ ∀ u w, fget s.waves u = some w → w.ctx = c → w.retired = false → (t.wave u).recd.clock = 0 ∧ (t.wave u).recd.rsig = 0 ∧ (t.wave u).recd.wsig = 0)
    ∧ (now → s.cutReady c = true → c ∈ s.recOff → ∃ t, exec .cut s = .next t ∧ keeps t ∧ t.recMode c = 0 ∧ c ∉ t.cutReq ∧ c ∉ t.recOff)
    ∧ (∀ ck, now → (s.target s.arg.k).1 = .hbm → s.ckCur c + 1 < 2 ^ 32 → fget s.ckpts (c * 2 ^ 32 + s.ckCur c) = some ck →
      ∃ t nk, exec .undoCopy s = .next t ∧ keeps t ∧ t.mem = s.mem
        ∧ fget t.ckpts (c * 2 ^ 32 + s.ckCur c) = some nk ∧ (fget nk.undo (s.arg.k / 65536 * 65536)).isSome = true)
    ∧ (now → o.recs ≠ [] → o.held = false → o.opened + 100000 ≤ s.ptb → o.wseg - o.rseg ≠ siloCap (s.siloEntry c k) → ring + 4096 ≤ Config.hbmBytes → seg.length = 4096 →
      ∃ t, exec .segmentCloseTimeout s = .next t ∧ keeps t ∧ (t.silo c k).recs = [] ∧ (t.silo c k).wseg = o.wseg + 1
        ∧ (∀ j, j < 4096 → t.byteAt (ring + j) = seg.getD j 0) ∧ ∀ a, a < 2 ^ 52 → a < ring ∨ ring + 4096 ≤ a → t.byteAt a = s.byteAt a)
    ∧ (now → r.rctl.getLsbD 6 = true → s.ckCur c < s.arg.m → 4096 + c * 64 + src ∉ s.markers → ∃ t, exec .domainCutMarker s = .next t ∧ keeps t ∧ t.mem = s.mem
      ∧ c ∈ t.cutReq ∧ t.markers = s.markers ++ [4096 + c * 64 + src])
    ∧ (now → r.rctl.getLsbD 6 = true → s.arg.m ≤ s.ckCur c → c * 64 + src ∉ s.markers → ∃ t, exec .domainCutMarker s = .next t ∧ keeps t
      ∧ t.markers = s.markers ++ [c * 64 + src] ∧ ∀ e ∈ t.flight, e.1 / 256 ≠ c * 64 + src)
    ∧ (now → s.cutReady c = true → c ∉ s.recOff → r.rctl.getLsbD 6 = true → ∃ t, exec .cut s = .next t
      ∧ ∀ d ∈ s.reach, d ≠ s.devid → ∃ m ∈ t.domSent, m.ctx = c ∧ m.dev = some d ∧ m.cut = some (if s.ckpts.any fun e => e.1 / 2 ^ 32 == c then s.ckCur c + 1 else 0))
    ∧ (s.probes = [] → exec .conflictProbe s = .next s)
    ∧ ∀ p rest, s.probes = p :: rest → fsorted s.waves = true → ∃ t, exec .conflictProbe s = .next t ∧ keeps t ∧ t.probes = rest
      ∧ ∀ u w, u ≠ 0 → fget s.waves u = some w → s.recMode p.ctx = 1 → w.ctx = p.ctx → w.core = p.core → w.saved = false → w.retired = false →
        let x := recXMem (64 * p.x)
        (s.issuing u = false → w.recd.hitOld x p.write = true → (t.wave u).recd.chunk = w.recd.chunk + 1 ∧ (t.wave u).recd.rsig = 0
          ∧ (t.wave u).recd.wsig = 0 ∧ (t.wave u).recd.len = 0 ∧ w.recd.clock + 1 ≤ (t.wave u).recd.clock)
        ∧ (s.issuing u = false → w.recd.hitOld x p.write = false → w.recd.hitNew x p.write = true → (t.wave u).recd.chunk = w.recd.chunk
          ∧ (t.wave u).recd.close = w.recd.close ||| flgConf)
        ∧ (w.recd.conflicts x p.write = false → t.wave u = s.wave u)

/-- R485, R486, R489 to R491: GO rolls the context's memory back, puts the checkpoint's images on their cores and
replays, or posts RPFAIL; STOP drops the units; a unit that cannot follow its log takes REPLAY; the interval's end
begins the next or halts the waves; a breakpoint halts its unit. That RPCTL.STATE reads 0 after a STOP is log entry 33. -/
def Obligations.ReplaysAreRun : Prop := ∀ (s : State) (k : Ckpt),
  let c := s.arg.n % 64
  let start := bits (s.ctx c).rpctl.toNat 31 0
  let u := s.arg.n
  let w := s.wave u
  let posted := fun (t : State) (name : String) (d : Nat) => t.posts.getLast? = some { vector := 0, event := name, datum := BitVec.ofNat 64 d }
  let off := fun (t : State) => t.recMode c = 0 ∧ t.rpState c = 0 ∧ fget t.replays c = none ∧ (∀ e ∈ s.blocks, e.2.ctx = c → fget t.blocks e.1 = none)
    ∧ ∀ l ∈ t.launches, l.ctx ≠ c
  let keeps := fun (t : State) => RegsAre t s.vreg s.preg s.sreg s.mreg s.fpswOf
  let gone := (((s.setRpState c 1).setCtx c { (s.setRpState c 1).ctx c with rpFrom := start }).dropAll c).setMode c 0
  (fget s.ckpts (c * 2 ^ 32 + start) = none → s.rpState c ≠ 1 ∨ s.arg.k = 1 → ∃ t, exec .rpctlGo s = .next t ∧ posted t "RPFAIL" c ∧ t.waves = s.waves ∧ t.mem = s.mem)
    ∧ (fget s.ckpts (c * 2 ^ 32 + start) = some k → s.rpState c ≠ 1 ∨ s.arg.k = 1 → s.recMode c = 0 → s.ckOldest c ≤ start → start ≤ s.ckCur c →
      (∀ e ∈ s.waves, ∃ b, (e.2.block, b) ∈ s.blocks) → (∀ e ∈ s.blocks, e.2.ctx = c) → s.locks = [] → fsorted k.waves = true →
      (gone.rollBack c start).roomToRestore k = true → ∃ t, exec .rpctlGo s = .next t ∧ t.recMode c = 2 ∧ t.rpState c = 2 ∧ (t.ctx c).pst = 0 ∧ (fget t.replays c).map Replay.interval = some start
        ∧ ∀ v x, fget k.waves v = some x → (∀ i r, t.vreg ⟨v, i⟩ r = fgetD (x.thread i).v r 0) ∧ (∀ i, (t.thread ⟨v, i⟩).pc = (x.thread i).pc)
          ∧ (t.wave v).core = x.core)
    ∧ (s.rpState c = 1 → s.arg.k ≠ 1 → fget s.ckpts (c * 2 ^ 32 + (s.ctx c).rpFrom) = none → exec .rpctlGo s = .next s)
    ∧ (s.recMode c ≠ 2 → s.rpState c ≠ 1 → exec .rpctlStop s = .next s)
    ∧ (s.recMode c = 2 → ∃ t, exec .rpctlStop s = .next t ∧ off t)
    ∧ (∀ i, s.recMode w.ctx = 2 → w.ctx < 64 → w.live = [i] → (s.thread ⟨u, i⟩).st ≠ .trapped → (s.thread ⟨u, i⟩).async = [] →
      ∃ t, exec .replay s = .next t ∧ keeps t ∧ t.mem = s.mem ∧ t.rpState w.ctx = 4 ∧ posted t "RPDIV" w.ctx
        ∧ (t.thread ⟨u, i⟩).async.map Async.cause = [.replay] ∧ (t.thread ⟨u, i⟩).async.map Async.info = [BitVec.ofNat 32 (s.arg.k % 16)])
    ∧ (fget s.replays c = none → exec .rpend s = .next s)
    ∧ (∀ p, fget s.replays c = some p → s.intervalOver c p = false → s.movedBlock c = none → exec .rpend s = .next s)
    ∧ (∀ p, fget s.replays c = some p → s.intervalOver c p = true → p.interval < p.last → ∃ t, exec .rpend s = .next t ∧ keeps t
      ∧ (fget t.replays c).map Replay.interval = some (p.interval + 1))
    ∧ (∀ p, fget s.replays c = some p → s.intervalOver c p = true → p.last ≤ p.interval → ∃ t, exec .rpend s = .next t ∧ keeps t ∧ t.mem = s.mem
      ∧ t.rpState c = 3 ∧ posted t "RPEND" c ∧ ∀ e ∈ t.waves, e.2.ctx = c → e.2.retired = false → e.2.halted = true)
    ∧ ((s.breakHere u = none ∨ s.loggedBundle u = none) → exec .replayBreakpoint s = .next s)
    ∧ ∀ n l, s.breakHere u = some n → s.loggedBundle u = some l → ∃ t, exec .replayBreakpoint s = .next t ∧ keeps t ∧ (t.wave u).halted = true
      ∧ (fget t.replays w.ctx).map Replay.passed = (fget s.replays w.ctx).map fun p => p.passed ++ [4 * u + n]

/-! ## The package -/

/-- R8, R9, R17, R35, R413 to R415, R485, R498, R525 to R528: the lifetime histograms count and mark worn units; a scrub reports
what it cannot correct; the frequency moves by steps, each once the links have drained, down where the limits are exceeded
and up where the next step keeps them, THERMCAP reports what 600 MHz does not cure, and a trip stops the package; a reset
starts it anew and keeps the lifetime store; the host's writes reach the fields of the registers and no other. The model's own: what an
offset inside a register does (log entry 75), the seconds and the bins of the histograms of residence (log entry 91), which part an error
wears (log entry 92), and DBGOPEN after a reset in DEBUG or RMA (log entry 95). -/
def Obligations.PackageServices : Prop := ∀ (s : State),
  let n := s.arg.n
  let k := s.arg.k
  let added := fun (t : State) (id bin m : Nat) => ∀ key, fgetD t.hist key 0 =
    if key = 256 * id + bin ∧ bin < histBins id then BitVec.ofNat 64 (min (2 ^ 64 - 1) ((fgetD s.hist key 0).toNat + m)) else fgetD s.hist key 0
  let off := n % 0x1000
  let c := (n - 0x20000) / 0x1000
  let field := fun (at_ mask : Nat) => 0x20000 ≤ n → n < 0x60000 → s.secst.getLsbD 25 = false → off = at_ → ∃ t, exec .registerWrite s = .next t
    ∧ t.waves = s.waves ∧ t.mem = s.mem ∧ t.readCtx c at_ = s.arg.v &&& BitVec.ofNat 64 mask ∧ (∀ e, e ≠ at_ → t.readCtx c e = s.readCtx c e)
    ∧ ∀ d, d ≠ c → t.ctx d = s.ctx d
  let overAll := fun (low : Nat) => ∀ f, low ≤ f → f % 100 = 0 → f ≤ 3000 → s.withinLimits f = false
  let booted := imageSigned 0 = true ∧ imageSigned 1 = true ∧ imageSigned 2 = true
  let updates := fun (t : State) => exec .lifetimeHistogramUpdate s = .next t ∧ t.mem = s.mem ∧ t.ctxs = s.ctxs
  let place := s.arg.v.toNat
  let now := fun (id : Nat) => match id with
    | 0 => min 63 (Config.junction s.steps 0 / 2)
    | 1 => min 63 (Config.junction s.steps 1 / 2)
    | 2 => (s.freqNow - 600) / 100
    | _ => min 63 (Config.power s.steps s.freqNow / 50000)
  let lane := n % 256 * 256 + k % 256
  (n < 4 → (s.histTick + 1000000000 ≤ s.ptb → ∃ t, updates t ∧ t.waves = s.waves ∧ t.histTick = s.histTick + 1000000000 ∧ ∀ key, fgetD t.hist key 0 =
        if key / 256 < 4 ∧ key % 256 = now (key / 256) ∧ key % 256 < histBins (key / 256)
        then BitVec.ofNat 64 (min (2 ^ 64 - 1) ((fgetD s.hist key 0).toNat + 1)) else fgetD s.hist key 0)
      ∧ (s.ptb < s.histTick + 1000000000 → exec .lifetimeHistogramUpdate s = .next s))
    ∧ (n = 4 → s.arg.m ≠ 0 → ∃ t, updates t ∧ t.waves = s.waves ∧ added t 4 k s.arg.m
      ∧ (4097 ≤ s.arg.m → (k < 4 → place < 10 → (0, k * 16 + place) ∈ t.worn) ∧ (4 ≤ k → k < 12 → place < 16 → (3, (k - 4) * 16 + place) ∈ t.worn)))
    ∧ (n = 5 → s.arg.m ≠ 0 → k < 8 → ∃ t, updates t ∧ t.waves = s.waves ∧ added t 5 k s.arg.m
      ∧ (4097 ≤ s.arg.m → (4, k * 2 ^ 48 + place) ∈ t.worn ∧ (1, k * 65536 + Config.rowChannel k place % 65536) ∈ t.worn))
    ∧ (n = 6 → ∃ t, updates t ∧ RegsAre t s.vreg s.preg s.sreg s.mreg s.fpswOf
      ∧ (s.arg.m = 5 → s.lostHome (64 * place) = false → place ∈ t.poison ∧ added t 6 (4 + s.homeOf (64 * place) / 8) 1)
      ∧ (s.arg.m = 0 → (fget s.waves s.arg.t.u).isSome = true → (s.pendV s.arg.t true).contains place = false →
          { kind := 0, i := s.arg.t.i, reg := place : RegErr } ∈ (t.wave s.arg.t.u).errs))
    ∧ (6 < n → ∃ t, updates t ∧ t.waves = s.waves ∧ added t n k s.arg.m ∧ t.worn = s.worn)
    ∧ (∃ t, exec .laneRetrain s = .next t ∧ added t 7 n 1 ∧ t.waves = s.waves ∧ t.mem = s.mem
      ∧ ((fgetD s.wear (lane * 8 + 2) []).length = 15 → (∀ e ∈ fgetD s.wear (lane * 8 + 2) [], e.2 = 1 ∧ s.ptb < e.1 + 86400000000000) → (2, lane) ∈ t.worn))
    ∧ (64 * n < Config.hbmBytes → s.deadM = [] → ∃ t, exec .patrolScrub s = .next t ∧ t.waves = s.waves ∧ t.mem = s.mem
      ∧ t.homeOps = s.homeOps ++ [{ n := s.next, x := n, pa := 64 * n, op := .scrub }]
      ∧ (s.arg.m ≠ 0 → n ∈ t.poison ∧ t.posts.getLast? = some { vector := 0, event := "MEMERR", datum := BitVec.ofNat 64 (64 * n) })
      ∧ (s.arg.m = 0 → t.poison = s.poison))
    ∧ (booted → s.worn = [] → ∃ t, exec .resetPackage s = .next t ∧ t.waves = [] ∧ t.blocks = [] ∧ t.ctxs = [] ∧ t.queues = [] ∧ t.l2 = [] ∧ t.dir = [] ∧ t.accs = []
      ∧ t.launches = [] ∧ t.ptb = 0 ∧ t.cycle = 0 ∧ t.tripped = false ∧ t.nonce = none ∧ t.secReqs = [] ∧ t.lcs = s.lcs ∧ t.spareMap = s.spareMap ∧ t.hist = s.hist
      ∧ t.trips = s.trips ∧ t.freqCap = 3000 ∧ t.pcap = 2400000 ∧ t.secst = BitVec.ofNat 64 (if s.lcs = 3 ∨ s.lcs = 4 then 2 ^ 24 else 0)
      ∧ t.mrOf 1 = mrExtend mrZero (Config.firmware 1) ∧ t.mrOf 4 = mrExtend mrZero (leBytes s.lcs 8) ∧ t.mrOf 5 = mrZero
      ∧ (∀ z ∈ s.wipes, ∀ e ∈ t.mem, e.1 / 2097152 < z.1 ∨ z.1 + z.2 ≤ e.1 / 2097152) ∧ t.crypt.drawn = [])
    ∧ (imageSigned 0 = false → ∃ t, exec .resetPackage s = .next t ∧ t.down = true ∧ t.waves = [])
    ∧ (∀ f, s.freqNext = some f → exec .frequencyChange s = .next (if s.linksQuiet then { s with freqNow := f, freqNext := none } else s))
    ∧ (s.freqNext = none → overAll s.freqNow → 600 < s.freqNow → exec .frequencyChange s = .next { s with freqNext := some (s.freqNow - 100), thermCap := false })
    ∧ (s.freqNext = none → s.freqNow % 100 = 0 → 500 ≤ s.freqNow → s.freqNow < 3000 → s.withinLimits (s.freqNow + 100) = true →
      exec .frequencyChange s = .next { s with freqNext := some (s.freqNow + 100), thermCap := false })
    ∧ (s.freqNext = none → s.freqNow = 600 → overAll 600 → (∀ f, 600 < f → f % 100 = 0 → f ≤ 3000 → s.withinLimits f = false) → exec .frequencyChange s
      = .next { s with thermCap := true, posts := if s.thermCap then s.posts else s.posts ++ [{ vector := 0, event := "THERMCAP", datum := 0 }] })
    ∧ (∀ h, s.freqNow = 600 → s.tripped = false → s.hotSince = some h → h + 1000000 ≤ s.ptb →
      exec .thermalTrip s = .next { s with tripped := true, trips := s.trips + 1 })
    ∧ (s.freqNow ≠ 600 ∨ s.hotSince = none ∨ (∃ h, s.hotSince = some h ∧ s.ptb < h + 1000000) → exec .thermalTrip s = .next s)
    ∧ (s.tripped = true → ∀ a, s.readReg a = none ∧ s.readDoorbell a = none)
    ∧ (0x20000 ≤ n → n < 0x60000 → off = 0x0C0 → s.secst.getLsbD 25 = false → bits s.arg.v.toNat 33 32 = 0 → ∃ t, exec .registerWrite s = .next t
      ∧ t.waves = s.waves ∧ t.mem = s.mem ∧ (t.readCtx c off).toNat % 2 ^ 32 = s.arg.v.toNat % 2 ^ 32 ∧ t.rpState c = s.rpState c)
    ∧ (∀ q, q < 64 → s.secst.getLsbD 25 = false → s.tripped = false → s.readDoorbell (4096 * q) = some (BitVec.ofNat 64 (s.queue q).tail))
    ∧ field 0x000 0x00FFFFFFFFFF000F ∧ field 0x008 0x00FFFFFFFFFF0000 ∧ field 0x010 0x000FFFFFFFFF0000 ∧ field 0x018 0x000FFFFFFFFE0001
    ∧ field 0x030 0xFFFFFFFF ∧ field 0x038 1 ∧ field 0x060 0x00FFFFFFFFFFFF01 ∧ field 0x068 0x000FFFFFFFFFFFFF ∧ field 0x0A8 0x000FFFFFFFFFF001
    ∧ (0x10000 ≤ n → n < 0x20000 → s.secst.getLsbD 25 = false → n ∉ [0x10000, 0x10008, 0x10018, 0x10100, 0x10200, 0x10208, 0x10210, 0x10218, 0x10300, 0x10308] →
      exec .registerWrite s = .next s)
    ∧ (s.secst.getLsbD 25 = false → ∀ j v, n = 0x20400 + 4 * j → j < 256 → (s.arg.v.setWidth 32 : Word) = v → ∃ t, exec .registerWrite s = .next t ∧ t.waves = s.waves
      ∧ ∀ d e, t.evCounter d e = if d = 0 ∧ e = j then v else s.evCounter d e)

/-! ## Every step, decoding, memory, reset -/

/-- R36, R57: the words of a well-formed instruction that stand at an address are fetched as that instruction, and
step runs it: a word is fetched from the newest bytes of memory when it issues (log entry 38), the bundle that comes first in the turn
(log entry 3) runs the unit at its PC as its own `exec`, where
that does not have to wait and issue does not stand still for a change of frequency; a chain in progress goes on with its
next word, in the same way; a step of another agent that the agenda holds comes before all bundles. After each the step counters move on. -/
def Obligations.StepRunsTheDecodedWord : Prop := ∀ (s : State) (i : Instr) (n : Nat) (core : Nat) (mem : Bool) (x : TRef) (l : List TRef)
    (more : List (Nat × Bool × List TRef)),
  let w := s.wave x.u
  let pc := (s.thread x).pc
  let wf := (s.thread x).wfault
  let b := x :: l
  let s1 := (s.picked core mem b).fullFirst b 1
  let gang := b.filter fun y => (s.thread y).go ≠ 0
  let s2 := { s1 with issue := some (issueOf w.core w.block b pc n pc ((pc + 8 * n) % 2 ^ 56) false 0 [] gang), lastCore := w.core }
  (∀ c va high, WellFormedWord i → (∀ k, k < (encode i).length → ∃ pa cls, s.translate core c ((va + 8 * k) % 2 ^ 56) .fetch high wf = .ok pa cls
      ∧ (s.target pa).1 = .hbm ∧ s.lostHome pa = false ∧ s.poisoned (sectorOf pa) = false ∧ s.peek pa 8 = ((encode i).getD k 0).toNat) → s.fetchUnit core c high va wf = .unit i (encode i).length)
    ∧ (s.down = false → s.chain = none → s.agenda = [] → s.freqNext = none → s.steps % 2 = 0 → s.allCandidates = (core, mem, b) :: more →
      s.fetchUnit w.core w.ctx w.high pc wf = .unit i n → chainBit i = false → (∀ t, exec i s2 = .next t → t.stalled = false) →
      step s = match exec i s2 with
        | .next t => .next t.ticked
        | o => o)
    ∧ (∀ c va rest, s.down = false → s.chain = some c → c.rest = (va, some i, n) :: rest →
      let r := exec i { s with issue := some (issueOf c.core c.block c.threads va n c.start c.stop true c.pos rest c.gang) }
      (∀ t, r = .next t → t.stalled = false) → step s = ticking r)
    ∧ (∀ e rest, s.down = false → s.chain = none → s.agenda = e :: rest → step s = ticking (exec e.op { s with agenda := rest, arg := e.arg }))

/-- R36 to R49, R54 to R57: words written out from the encoding tables decode to the instructions that they stand for:
an addition within a chain, a paired word, a store, an immediate with its IMX, a guarded move, a load with a PFX, an
atomic, a copy, a matrix command, a trap return. -/
def Obligations.SampleWordsDecode : Prop :=
  let h : Hdr := { pfx := none, imx := none, chain := false, neg := false, pred := 7 }
  let pol1 : Pfx := { ovo := false, ord := 0, scope := 0, ovs := false, space := 0, ovp := true, pol := 1, ovx := false, off32 := 0 }
  decodeTableWord 64 0x4843040409000000 = some (.iadd { h with chain := true, pred := 2 }
      { d := 4, a := 4, b := 9, c := 0, w := false, ua := false, ub := false, uc := false, mod := 0 })
    ∧ decodeTableWord 64 0xF2C17C02F081823F = some (.pairedWord true { p := 7, op6 := 11, d := 5, s := 240, imm6 := 2 }
      { p := 7, op6 := 2, d := 6, s := 8, imm6 := 63 })
    ∧ decodeTableWord 64 0x1D81F102F4100000 = some (.st h { d := 0xF1, ar := 2, b := 0xF4, w := false, ua := false, sz := 4, off := 0 })
    ∧ decodeTableWord 128 0x1C410300010000001F81000012345678 = some (.movi { h with imx := some 0x12345678 }
      { d := 3, a := 0, w := false, ua := false, mod := 1, imm := 0 })
    ∧ decodeTableWord 64 0x3040080500000400 = some (.mov { h with neg := true, pred := 4 }
      { d := 8, a := 5, b := 0, c := 0, w := false, ua := false, ub := false, uc := false, mod := 0x400 })
    ∧ decodeTableWord 128 0x1D821412F41000001F80002200000000 = some (.ldw { h with pfx := some pol1 } { d := 0x14, ar := 0x12, b := 0xF4, w := false, ua := false, sz := 4, off := 0 })
    ∧ decodeTableWord 64 0x1DC80A020B058008 = some (.atomAddb h { d := 10, ar := 2, b := 11, w := false, ua := false, sz := 1, off := 0x18008 })
    ∧ decodeTableWord 64 0x1E4020428000C440 = some (.copy h { u0 := 8, u1 := 4, u2 := 10, u3 := 0, u4 := 0, u5 := 12, xmod := 0x440 })
    ∧ decodeTableWord 64 0x1E82412614580054 = some (.mmat h { u0 := 16, u1 := 18, u2 := 24, u3 := 20, u4 := 22, u5 := 0, xmod := 0x054 })
    ∧ decodeTableWord 64 0x1F01400000000000 = some (.tretSkip h { body := 0x400000000000 })

/-- R36 to R57, R63, R64: for every well-formed word, whatever its operands and prefixes, the decoder reads its
encoding back whole, and takes exactly its words. -/
def Obligations.DecodeReadsBackEveryEncoding : Prop := ∀ i : Instr, WellFormedWord i → decodeUnit (encode i) = .ok (i, (encode i).length)

/-- A step of any kind keeps memory in its canonical form: addresses strictly rising, and no byte listed that an
unlisted address reads as. -/
def Obligations.EveryStepKeepsMemoryCanonical : Prop := ∀ s t : State, Memory.wf s.mem = true → step s = .next t → Memory.wf t.mem = true

/-- R22, R525, R526: after reset every on-die memory, table and queue is empty, memory lists nothing in its canonical
form, no wave, block, launch or queue exists, nothing is recorded or replayed, every context's registers hold their
reset values and every MWAIT, lock and fabric is idle. That an unlisted byte reads as 0 is the model's choice (log
entry 2). -/
def Obligations.ResetLeavesNothingHeld : Prop :=
  let s := State.reset
  Memory.wf s.mem = true ∧ Unlogged s ∧ s.waves = [] ∧ s.blocks = [] ∧ s.queues = [] ∧ s.launches = [] ∧ s.copies = [] ∧ s.mcmds = [] ∧ s.locks = []
    ∧ s.walks = [] ∧ s.chain = none ∧ s.issue = none ∧ s.down = false ∧ s.ptb = 0 ∧ s.cycle = 0
    ∧ (∀ d x, s.l2copy d x = none ∧ s.l2st d x = .i) ∧ (∀ x, (s.dirOf x).st = .i ∧ (s.dirOf x).queue = [] ∧ s.poisoned x = false)
    ∧ (∀ c, (s.core c).l1 = [] ∧ s.ctx c = CtxRegs.reset) ∧ (∀ c, s.recMode c = 0 ∧ s.rpState c = 0) ∧ s.colls = [] ∧ s.outbound = [] ∧ s.l3 = [] ∧ s.fenceMarks = [] ∧ s.freqNext = none
    ∧ (∀ a, a < Config.hbmBytes → s.byteAt a = 0)

/-- R37, R53, R58, R59, R61, R63, R65, R171, R172, R197, R329, R418, R421: a word that is illegal as encoded, or in its place of a chain,
traps every thread of its bundle, and one that breaks a rule of its own entry its active threads; a sprout thread may
not run every word, nor level U a privileged one; an access at an address that is not canonical or not aligned raises
its MEMFAULT or ALIGN with that address; a register or tile beyond what the launch allocated raises BOUNDS, a latch that is not valid LATCH, and
a flag that is enabled MATH, whose flags stay raised. The word has no effect and its threads take the trap: in an in-thread handler the thread
starts there with its report in its trap registers, and else it stands trapped; what the words of its chain wrote before is discarded. The
model's readings: which threads an ILLEGAL word traps (log entry 35), and the position modulo 8 in the report of a word past the eighth
(log entry 83). No word runs outside a bundle. -/
def Obligations.EarlierCausesTrapTheBundle : Prop := ∀ (s : State) (b : Issue) (i : Instr) (m : MemOp) (x : TRef),
  let traps := fun hits => exec i s = .next (s.unitTrap i b hits [] false)
  let word := isWord i = true ∧ s.issue = some b
  let formed := legalForm i = true ∧ chainOk i b.pos = true
  let spr := (s.wave x.u).isSprout
  let ea := (s.memLane m x).ea
  let place := s.memPlace m x ea
  let alone := fun (i : Instr) => s.issue = some b ∧ legalForm i = true ∧ chainOk i b.pos = true ∧ legalEntry i = true ∧ b.threads = [x] ∧ s.active i x = true
  let report := fun (t : State) (i : Instr) (hh : Hit) => (t.thread x).tcause = BitVec.ofNat 32 hh.cause.code
    ∧ (t.thread x).taddr = BitVec.ofNat 64 (hh.addr.getD b.chainPc) ∧ (t.thread x).tpc = b.chainPc ∧ (t.thread x).skip = b.skipPc ∧ (t.thread x).y = []
    ∧ (hh.cause ≠ .illegal → (t.thread x).tinfo = BitVec.ofNat 32 (hh.det + (if b.inChain then 2 ^ 31 else 0) + (b.pos + unitLen i - 1) % 8 * 2 ^ 28))
  let starts := fun (t : State) (hpc : Nat) => (t.thread x).pc = hpc ∧ (t.thread x).st = .ready ∧ (t.thread x).inh = true
  let en := s.enOf x.u
  (isWord i = true → s.issue = none → exec i s = .fault .noBundle)
    ∧ (∀ hh, hh.t = x → b.threads = [x] → hh.cause ≠ .math → Unlogged s → s.chain = none → (fget (s.wave x.u).threads x.i).isSome = true →
        let t := s.unitTrap i b [hh] [] false
        let kept := RegsAre t s.vreg s.preg s.sreg s.mreg s.fpswOf ∧ ∀ y, y ≠ x → t.thread y = s.thread y
        (∀ hpc, s.modeOf x hh.cause false = .inThread hpc → kept ∧ t.mem = s.mem ∧ report t i hh ∧ starts t hpc)
          ∧ (s.modeOf x hh.cause false = .kill → kept ∧ t.mem = s.mem ∧ report t i hh ∧ (t.thread x).st = .trapped)
          ∧ (s.modeOf x hh.cause false = .queue → s.allDone x 4 = true → s.fqRoom (s.wave x.u).ctx (dieOf (s.wave x.u).core) 1 = true →
            kept ∧ report t i hh ∧ (t.thread x).st = .trapped))
    ∧ (∀ hh c w hpc, hh.t = x → b.threads = [x] → hh.cause ≠ .math → Unlogged s → s.chain = some c → c.saved = [(x.u, w)] → (fget w.threads x.i).isSome = true →
        let u := { s with waves := fput s.waves x.u w, chain := none }
        u.modeOf x hh.cause false = .inThread hpc →
        let t := s.unitTrap i b [hh] [] false
        RegsAre t u.vreg u.preg u.sreg u.mreg u.fpswOf ∧ t.chain = none ∧ t.mem = s.mem ∧ report t i hh ∧ starts t hpc)
    ∧ (∀ h f, alone (.iadd h f) → (∃ k, k < tyWords (tyOf f.mod) ∧ (s.wave x.u).regs ≤ f.d.toNat + k) →
        exec (.iadd h f) s = .next (s.unitTrap (.iadd h f) b [hit x 3 .bounds 0] [] false))
    ∧ (∀ h f, alone (.iadd h f) → (∀ u ∈ usesOf (.iadd h f), ∀ r ∈ u.vnames, r < (s.wave x.u).regs) → f.ua = false → 240 ≤ f.a.toNat → f.a.toNat ≤ 243 →
        (s.thread x).y.length ≤ f.a.toNat - 240 → exec (.iadd h f) s = .next (s.unitTrap (.iadd h f) b [hit x 4 .latch 0] [] false))
    ∧ (∀ h f, MayRun s (.mzero h f) b → s.actives (.mzero h f) b = [x] → (s.block (s.wave x.u).block).acc ≤ mAcc f → (s.thread x).st = .ready →
        ∃ hh, hh.t = x ∧ hh.cause = .bounds ∧ hh.det = 8 ∧ exec (.mzero h f) s = .next (s.unitTrap (.mzero h f) b [hh] [] false))
    ∧ (∀ (h : Hdr) (f : FmtF) (op : FpOp) (i : Instr) (hpc : Nat), (i = .fadd h f ∧ op = opAdd) ∨ (i = .fmul h f ∧ op = opMul) ∨ (i = .fsub h f ∧ op = opSub) →
        tyOf f.mod ≠ 9 → MayRun s i b → Unlogged s → b.threads = [x] → s.active i x = true → s.chain = none →
        let fl := (s.fpElem h f op 10 32 1 x 0).2
        fl &&& en ≠ 0 → s.modeOf x .math false = .inThread hpc → ∃ t, exec i s = .next t
          ∧ RegsAre t s.vreg s.preg s.sreg s.mreg (fun u => if u = x.u then s.fpswOf u ||| BitVec.ofNat 32 (fl % 32) else s.fpswOf u) ∧ t.mem = s.mem
          ∧ report t i (hit x rankMath .math (fl &&& en)) ∧ starts t hpc ∧ (t.thread x).draw = (s.thread x).draw)
    ∧ (word → b.threads ≠ [] → ¬ formed → traps (b.threads.map fun t => hit t 0 .illegal 0))
    ∧ (word → formed → legalEntry i = false → s.actives i b ≠ [] → traps ((s.actives i b).map fun t => hit t 0 .illegal 0))
    ∧ (word → formed → legalEntry i = true → b.threads = [x] → sproutMay i = false → spr = true → traps [hit x 1 .illegal 48])
    ∧ (word → formed → legalEntry i = true → b.threads = [x] → sproutMay i = true ∨ spr = false → s.active i x = true → needsH i = true →
        (s.wave x.u).high = false → traps [hit x 2 .priv 0])
    ∧ (MayRun s i b → s.actives i b = [x] → memOp i = some m → plainMem i = true → m.space = 0 → 2 ^ 56 ≤ ea → traps [memHit x 5 ea m.writes])
    ∧ (MayRun s i b → s.actives i b = [x] → memOp i = some m → plainMem i = true → m.space = 0 → ea < 2 ^ 56 →
        (place.2 ≠ 0 ∧ ea % place.2 ≠ 0) ∨ (place.2 = 0 ∧ 64 < place.1 % 64 + m.n) →
        traps [{ hit x (rankOwn 1) .align 0 with addr := some ea }])
end

