-- ==== Sys2Proof/Laws/Maps.lean ====
section
/-! SUPPORT. The laws of maps and of memory: a read after a write, and the canonical form. -/

namespace Sys2Proof.Machine

/-! ## Maps -/

@[simp] theorem fget_fput_same {α : Type} (m : FMap α) (k : Nat) (v : α) : fget (fput m k v) k = some v := by
  induction m with
  | nil => simp [fput, fget]
  | cons e r ih =>
    obtain ⟨a, w⟩ := e
    by_cases h1 : k < a
    · simp [fput, fget, h1]
    · by_cases h2 : k = a
      · simp [fput, fget, h2]
      · have h3 : ¬ a = k := fun h => h2 h.symm
        simp [fput, fget, h1, h2, h3, ih]

theorem fget_fput_other {α : Type} (m : FMap α) {k j : Nat} (v : α) (h : j ≠ k) : fget (fput m k v) j = fget m j := by
  induction m with
  | nil => simp [fput, fget, Ne.symm h]
  | cons e r ih =>
    obtain ⟨a, w⟩ := e
    by_cases h1 : k < a
    · simp [fput, fget, h1, Ne.symm h]
    · by_cases h2 : k = a
      · subst h2; simp [fput, fget, Ne.symm h]
      · simp only [fput, h1, h2, if_false, fget, ih]

@[simp] theorem fget_fdel_same {α : Type} (m : FMap α) (k : Nat) : fget (fdel m k) k = none := by
  induction m with
  | nil => rfl
  | cons e r ih =>
    obtain ⟨a, w⟩ := e
    by_cases h : a = k
    · simp [fdel, h, ih]
    · simp [fdel, fget, h, ih]

theorem fget_fdel_other {α : Type} (m : FMap α) {k j : Nat} (h : j ≠ k) : fget (fdel m k) j = fget m j := by
  induction m with
  | nil => rfl
  | cons e r ih =>
    obtain ⟨a, w⟩ := e
    by_cases h1 : a = k
    · subst h1; simp [fdel, fget, ih, Ne.symm h]
    · simp only [fdel, h1, if_false, fget, ih]

theorem fget_fput {α : Type} (m : FMap α) (k j : Nat) (v : α) :
    fget (fput m k v) j = if j = k then some v else fget m j := by
  by_cases h : j = k
  · subst h; simp
  · simp [h, fget_fput_other m v h]

theorem fgetD_fput {α : Type} (m : FMap α) (k j : Nat) (v d : α) :
    fgetD (fput m k v) j d = if j = k then v else fgetD m j d := by
  simp only [fgetD, fget_fput]; split <;> rfl

@[simp] theorem fgetD_fput_same {α : Type} (m : FMap α) (k : Nat) (v d : α) : fgetD (fput m k v) k d = v := by
  simp [fgetD]

theorem fgetD_fput_other {α : Type} (m : FMap α) {k j : Nat} (v d : α) (h : j ≠ k) :
    fgetD (fput m k v) j d = fgetD m j d := by
  simp [fgetD, fget_fput_other m v h]

theorem fgetD_fsetD {α : Type} [DecidableEq α] (m : FMap α) (k j : Nat) (v d : α) :
    fgetD (fsetD m k v d) j d = if j = k then v else fgetD m j d := by
  unfold fsetD
  by_cases hv : v = d
  · subst hv
    by_cases h : j = k
    · subst h; simp [fgetD]
    · simp [fgetD, h, fget_fdel_other m h]
  · simp only [hv, if_false, fgetD_fput]

/-! ## Sorted maps -/

/-- The first key of a sorted map is below all others, and the rest is sorted. -/
theorem fsorted_cons {α : Type} (a : Nat) (v : α) (r : FMap α) :
    fsorted ((a, v) :: r) = true ↔ (∀ e ∈ r, a < e.1) ∧ fsorted r = true := by
  induction r generalizing a v with
  | nil => simp [fsorted]
  | cons e r ih =>
    obtain ⟨b, w⟩ := e
    simp only [fsorted, Bool.and_eq_true, decide_eq_true_eq, List.mem_cons]
    constructor
    · rintro ⟨h1, h2⟩
      have h3 := (ih b w).1 h2
      refine ⟨?_, h2⟩
      rintro e (rfl | he)
      · exact h1
      · exact Nat.lt_trans h1 (h3.1 e he)
    · rintro ⟨h1, h2⟩
      exact ⟨h1 _ (Or.inl rfl), h2⟩

theorem mem_fput {α : Type} (m : FMap α) (k : Nat) (v : α) {e : Nat × α} (h : e ∈ fput m k v) : e = (k, v) ∨ e ∈ m := by
  induction m with
  | nil => simp [fput] at h; exact Or.inl h
  | cons x r ih =>
    obtain ⟨a, w⟩ := x
    simp only [fput] at h
    split at h
    · simpa only [List.mem_cons] using h
    · split at h
      · simp only [List.mem_cons] at h ⊢
        exact h.imp_right Or.inr
      · simp only [List.mem_cons] at h ⊢
        rcases h with h | h
        · exact Or.inr (Or.inl h)
        · rcases ih h with h | h
          · exact Or.inl h
          · exact Or.inr (Or.inr h)

theorem mem_fdel {α : Type} (m : FMap α) (k : Nat) {e : Nat × α} (h : e ∈ fdel m k) : e ∈ m := by
  induction m with
  | nil => simp [fdel] at h
  | cons x r ih =>
    obtain ⟨a, w⟩ := x
    simp only [fdel] at h
    split at h
    · exact List.mem_cons_of_mem _ (ih h)
    · simp only [List.mem_cons] at h ⊢
      rcases h with h | h
      · exact Or.inl h
      · exact Or.inr (ih h)

theorem fsorted_fput {α : Type} (m : FMap α) (k : Nat) (v : α) (h : fsorted m = true) : fsorted (fput m k v) = true := by
  induction m with
  | nil => rfl
  | cons x r ih =>
    obtain ⟨a, w⟩ := x
    have hx := (fsorted_cons a w r).1 h
    simp only [fput]
    split
    next h1 =>
      refine (fsorted_cons _ _ _).2 ⟨?_, h⟩
      intro e he
      rcases List.mem_cons.1 he with rfl | he
      · exact h1
      · exact Nat.lt_trans h1 (hx.1 e he)
    next h1 =>
      split
      next h2 => subst h2; exact (fsorted_cons _ _ _).2 hx
      next h2 =>
        refine (fsorted_cons _ _ _).2 ⟨?_, ih hx.2⟩
        intro e he
        rcases mem_fput r k v he with rfl | he
        · show a < k; omega
        · exact hx.1 e he

theorem fsorted_fdel {α : Type} (m : FMap α) (k : Nat) (h : fsorted m = true) : fsorted (fdel m k) = true := by
  induction m with
  | nil => rfl
  | cons x r ih =>
    obtain ⟨a, w⟩ := x
    have hx := (fsorted_cons a w r).1 h
    simp only [fdel]
    split
    · exact ih hx.2
    · exact (fsorted_cons _ _ _).2 ⟨fun e he => hx.1 e (mem_fdel r k he), ih hx.2⟩

/-! ## Memory -/

theorem Memory.get_set (m : Memory) (a j : Nat) (b : Byte) : Memory.get (Memory.set m a b) j = if j = a then b else Memory.get m j :=
  fgetD_fsetD m a j b 0

/-- A byte written keeps the canonical form. -/
theorem Memory.wf_set (m : Memory) (a : Nat) (b : Byte) (h : Memory.wf m = true) : Memory.wf (Memory.set m a b) = true := by
  simp only [Memory.wf, Bool.and_eq_true, List.all_eq_true, decide_eq_true_eq] at *
  unfold Memory.set fsetD
  split
  · exact ⟨fsorted_fdel m a h.1, fun c hc => h.2 c (mem_fdel m a hc)⟩
  next hb =>
    refine ⟨fsorted_fput m a b h.1, fun c hc => ?_⟩
    rcases mem_fput m a b hc with rfl | hc
    · exact hb
    · exact h.2 c hc

/-- Bytes written keep the canonical form. -/
theorem Memory.wf_setList (l : List Byte) (m : Memory) (a : Nat) (h : Memory.wf m = true) :
    Memory.wf (Memory.setList m a l) = true := by
  induction l generalizing m a with
  | nil => exact h
  | cons b bs ih => exact ih _ _ (Memory.wf_set m a b h)

/-- A byte outside those written is kept. -/
theorem Memory.get_setList_other (l : List Byte) (m : Memory) (a j : Nat) (h : j < a ∨ a + l.length ≤ j) :
    Memory.get (Memory.setList m a l) j = Memory.get m j := by
  induction l generalizing m a with
  | nil => rfl
  | cons b bs ih =>
    simp only [List.length_cons] at h
    simp only [Memory.setList]
    rw [ih _ _ (by omega), Memory.get_set, if_neg (by omega)]

/-- A byte written is read back. -/
theorem Memory.get_setList (l : List Byte) (m : Memory) (a k : Nat) (h : k < l.length) :
    Memory.get (Memory.setList m a l) (a + k) = l.getD k 0 := by
  induction l generalizing m a k with
  | nil => simp at h
  | cons b bs ih =>
    simp only [Memory.setList]
    cases k with
    | zero => rw [Memory.get_setList_other _ _ _ _ (by omega), Memory.get_set, if_pos (by omega)]; rfl
    | succ k =>
      have := ih (Memory.set m a b) (a + 1) k (by simpa using h)
      rw [show a + (k + 1) = a + 1 + k by omega, this]; simp

@[simp] theorem length_leBytes (v n : Nat) : (leBytes v n).length = n := by
  induction n generalizing v with
  | zero => rfl
  | succ n ih => simp [leBytes, ih]

@[simp] theorem length_getList (m : Memory) (a n : Nat) : (Memory.getList m a n).length = n := by
  induction n generalizing a with
  | zero => rfl
  | succ n ih => simp [Memory.getList, ih]

/-- The first `n` numbers from `a`. -/
@[simp] theorem mem_upto (a n k : Nat) : k ∈ upto a n ↔ a ≤ k ∧ k < a + n := by
  induction n generalizing a with
  | zero => simp [upto]
  | succ n ih => simp only [upto, List.mem_cons, ih]; omega

@[simp] theorem length_upto (a n : Nat) : (upto a n).length = n := by
  induction n generalizing a with
  | zero => rfl
  | succ n ih => simp [upto, ih]

end Sys2Proof.Machine
end

