-- ==== Sys2Proof/Laws/PerInstr.lean ====
section
/-! SUPPORT. One fact for each instruction: a full word's encoding is its header's prefixes and one word of its
opcode; an event has no words. -/

namespace Sys2Proof.Laws.F

open Sys2Proof.Machine

/-- The encoding of an instruction that has a header holds its prefixes and one word of its own opcode (R37, R57). -/
def Statement (i : Instr) : Prop :=
  match hdrOf i, opcodeOf i with
  | some h, some op => ∃ b, encode i = unitWords h op b
  | _, _ => isWord i = false → encode i = []

theorem pairedWord (c : Bool) (a b : PHalf) : Statement (.pairedWord c a b) := fun h => nomatch h
theorem nop (h : Hdr) (f : FmtS) : Statement (.nop h f) := ⟨_, rfl⟩
theorem bra (h : Hdr) (f : FmtJ) : Statement (.bra h f) := ⟨_, rfl⟩
theorem brx (h : Hdr) (f : FmtJ) : Statement (.brx h f) := ⟨_, rfl⟩
theorem call (h : Hdr) (f : FmtJ) : Statement (.call h f) := ⟨_, rfl⟩
theorem callx (h : Hdr) (f : FmtJ) : Statement (.callx h f) := ⟨_, rfl⟩
theorem ret (h : Hdr) (f : FmtJ) : Statement (.ret h f) := ⟨_, rfl⟩
theorem exit (h : Hdr) (f : FmtS) : Statement (.exit h f) := ⟨_, rfl⟩
theorem yield (h : Hdr) (f : FmtS) : Statement (.yield h f) := ⟨_, rfl⟩
theorem sleep (h : Hdr) (f : FmtI) : Statement (.sleep h f) := ⟨_, rfl⟩
theorem mwait (h : Hdr) (f : FmtM) : Statement (.mwait h f) := ⟨_, rfl⟩
theorem brk (h : Hdr) (f : FmtS) : Statement (.brk h f) := ⟨_, rfl⟩
theorem join (h : Hdr) (f : FmtS) : Statement (.join h f) := ⟨_, rfl⟩
theorem leave (h : Hdr) (f : FmtS) : Statement (.leave h f) := ⟨_, rfl⟩
theorem waitm (h : Hdr) (f : FmtS) : Statement (.waitm h f) := ⟨_, rfl⟩
theorem msetNone (h : Hdr) (f : FmtI) : Statement (.msetNone h f) := ⟨_, rfl⟩
theorem msetLive (h : Hdr) (f : FmtI) : Statement (.msetLive h f) := ⟨_, rfl⟩
theorem msetHere (h : Hdr) (f : FmtI) : Statement (.msetHere h f) := ⟨_, rfl⟩
theorem msetImm (h : Hdr) (f : FmtI) : Statement (.msetImm h f) := ⟨_, rfl⟩
theorem msetSreg (h : Hdr) (f : FmtI) : Statement (.msetSreg h f) := ⟨_, rfl⟩
theorem mov (h : Hdr) (f : FmtF) : Statement (.mov h f) := ⟨_, rfl⟩
theorem movi (h : Hdr) (f : FmtI) : Statement (.movi h f) := ⟨_, rfl⟩
theorem movs (h : Hdr) (f : FmtF) : Statement (.movs h f) := ⟨_, rfl⟩
theorem iadd (h : Hdr) (f : FmtF) : Statement (.iadd h f) := ⟨_, rfl⟩
theorem iaddi (h : Hdr) (f : FmtI) : Statement (.iaddi h f) := ⟨_, rfl⟩
theorem isub (h : Hdr) (f : FmtF) : Statement (.isub h f) := ⟨_, rfl⟩
theorem iaddc (h : Hdr) (f : FmtF) : Statement (.iaddc h f) := ⟨_, rfl⟩
theorem isubb (h : Hdr) (f : FmtF) : Statement (.isubb h f) := ⟨_, rfl⟩
theorem imin (h : Hdr) (f : FmtF) : Statement (.imin h f) := ⟨_, rfl⟩
theorem imax (h : Hdr) (f : FmtF) : Statement (.imax h f) := ⟨_, rfl⟩
theorem iabs (h : Hdr) (f : FmtF) : Statement (.iabs h f) := ⟨_, rfl⟩
theorem icmp (h : Hdr) (f : FmtF) : Statement (.icmp h f) := ⟨_, rfl⟩
theorem icmpi (h : Hdr) (f : FmtI) : Statement (.icmpi h f) := ⟨_, rfl⟩
theorem isel (h : Hdr) (f : FmtF) : Statement (.isel h f) := ⟨_, rfl⟩
theorem lea (h : Hdr) (f : FmtF) : Statement (.lea h f) := ⟨_, rfl⟩
theorem and (h : Hdr) (f : FmtF) : Statement (.and h f) := ⟨_, rfl⟩
theorem or (h : Hdr) (f : FmtF) : Statement (.or h f) := ⟨_, rfl⟩
theorem xor (h : Hdr) (f : FmtF) : Statement (.xor h f) := ⟨_, rfl⟩
theorem andn (h : Hdr) (f : FmtF) : Statement (.andn h f) := ⟨_, rfl⟩
theorem andi (h : Hdr) (f : FmtI) : Statement (.andi h f) := ⟨_, rfl⟩
theorem ori (h : Hdr) (f : FmtI) : Statement (.ori h f) := ⟨_, rfl⟩
theorem xori (h : Hdr) (f : FmtI) : Statement (.xori h f) := ⟨_, rfl⟩
theorem shl (h : Hdr) (f : FmtF) : Statement (.shl h f) := ⟨_, rfl⟩
theorem shr (h : Hdr) (f : FmtF) : Statement (.shr h f) := ⟨_, rfl⟩
theorem sha (h : Hdr) (f : FmtF) : Statement (.sha h f) := ⟨_, rfl⟩
theorem rot (h : Hdr) (f : FmtF) : Statement (.rot h f) := ⟨_, rfl⟩
theorem bfe (h : Hdr) (f : FmtF) : Statement (.bfe h f) := ⟨_, rfl⟩
theorem bfi (h : Hdr) (f : FmtF) : Statement (.bfi h f) := ⟨_, rfl⟩
theorem popc (h : Hdr) (f : FmtF) : Statement (.popc h f) := ⟨_, rfl⟩
theorem clz (h : Hdr) (f : FmtF) : Statement (.clz h f) := ⟨_, rfl⟩
theorem brev (h : Hdr) (f : FmtF) : Statement (.brev h f) := ⟨_, rfl⟩
theorem imul (h : Hdr) (f : FmtF) : Statement (.imul h f) := ⟨_, rfl⟩
theorem imulh (h : Hdr) (f : FmtF) : Statement (.imulh h f) := ⟨_, rfl⟩
theorem imad (h : Hdr) (f : FmtF) : Statement (.imad h f) := ⟨_, rfl⟩
theorem imadw (h : Hdr) (f : FmtF) : Statement (.imadw h f) := ⟨_, rfl⟩
theorem idiv (h : Hdr) (f : FmtF) : Statement (.idiv h f) := ⟨_, rfl⟩
theorem irem (h : Hdr) (f : FmtF) : Statement (.irem h f) := ⟨_, rfl⟩
theorem fadd (h : Hdr) (f : FmtF) : Statement (.fadd h f) := ⟨_, rfl⟩
theorem fsub (h : Hdr) (f : FmtF) : Statement (.fsub h f) := ⟨_, rfl⟩
theorem fmul (h : Hdr) (f : FmtF) : Statement (.fmul h f) := ⟨_, rfl⟩
theorem ffma (h : Hdr) (f : FmtF) : Statement (.ffma h f) := ⟨_, rfl⟩
theorem fmin (h : Hdr) (f : FmtF) : Statement (.fmin h f) := ⟨_, rfl⟩
theorem fmax (h : Hdr) (f : FmtF) : Statement (.fmax h f) := ⟨_, rfl⟩
theorem fcmp (h : Hdr) (f : FmtF) : Statement (.fcmp h f) := ⟨_, rfl⟩
theorem fsel (h : Hdr) (f : FmtF) : Statement (.fsel h f) := ⟨_, rfl⟩
theorem fclamp (h : Hdr) (f : FmtF) : Statement (.fclamp h f) := ⟨_, rfl⟩
theorem frnd (h : Hdr) (f : FmtF) : Statement (.frnd h f) := ⟨_, rfl⟩
theorem ffrac (h : Hdr) (f : FmtF) : Statement (.ffrac h f) := ⟨_, rfl⟩
theorem fclass (h : Hdr) (f : FmtF) : Statement (.fclass h f) := ⟨_, rfl⟩
theorem fclassRdsw (h : Hdr) (f : FmtF) : Statement (.fclassRdsw h f) := ⟨_, rfl⟩
theorem fclassClrsw (h : Hdr) (f : FmtF) : Statement (.fclassClrsw h f) := ⟨_, rfl⟩
theorem fclassWren (h : Hdr) (f : FmtF) : Statement (.fclassWren h f) := ⟨_, rfl⟩
theorem frcp (h : Hdr) (f : FmtF) : Statement (.frcp h f) := ⟨_, rfl⟩
theorem frsq (h : Hdr) (f : FmtF) : Statement (.frsq h f) := ⟨_, rfl⟩
theorem fsqrt (h : Hdr) (f : FmtF) : Statement (.fsqrt h f) := ⟨_, rfl⟩
theorem fdiv (h : Hdr) (f : FmtF) : Statement (.fdiv h f) := ⟨_, rfl⟩
theorem fexp2 (h : Hdr) (f : FmtF) : Statement (.fexp2 h f) := ⟨_, rfl⟩
theorem flog2 (h : Hdr) (f : FmtF) : Statement (.flog2 h f) := ⟨_, rfl⟩
theorem fsin (h : Hdr) (f : FmtF) : Statement (.fsin h f) := ⟨_, rfl⟩
theorem fcos (h : Hdr) (f : FmtF) : Statement (.fcos h f) := ⟨_, rfl⟩
theorem ftanh (h : Hdr) (f : FmtF) : Statement (.ftanh h f) := ⟨_, rfl⟩
theorem hadd2 (h : Hdr) (f : FmtF) : Statement (.hadd2 h f) := ⟨_, rfl⟩
theorem hmul2 (h : Hdr) (f : FmtF) : Statement (.hmul2 h f) := ⟨_, rfl⟩
theorem hfma2 (h : Hdr) (f : FmtF) : Statement (.hfma2 h f) := ⟨_, rfl⟩
theorem hmin2 (h : Hdr) (f : FmtF) : Statement (.hmin2 h f) := ⟨_, rfl⟩
theorem hmax2 (h : Hdr) (f : FmtF) : Statement (.hmax2 h f) := ⟨_, rfl⟩
theorem hcmp2 (h : Hdr) (f : FmtF) : Statement (.hcmp2 h f) := ⟨_, rfl⟩
theorem dadd (h : Hdr) (f : FmtF) : Statement (.dadd h f) := ⟨_, rfl⟩
theorem dmul (h : Hdr) (f : FmtF) : Statement (.dmul h f) := ⟨_, rfl⟩
theorem dfma (h : Hdr) (f : FmtF) : Statement (.dfma h f) := ⟨_, rfl⟩
theorem dcmp (h : Hdr) (f : FmtF) : Statement (.dcmp h f) := ⟨_, rfl⟩
theorem cvt (h : Hdr) (f : FmtF) : Statement (.cvt h f) := ⟨_, rfl⟩
theorem cvtp (h : Hdr) (f : FmtF) : Statement (.cvtp h f) := ⟨_, rfl⟩
theorem cvtx (h : Hdr) (f : FmtF) : Statement (.cvtx h f) := ⟨_, rfl⟩
theorem qenc (h : Hdr) (f : FmtF) : Statement (.qenc h f) := ⟨_, rfl⟩
theorem qdec (h : Hdr) (f : FmtF) : Statement (.qdec h f) := ⟨_, rfl⟩
theorem bsclEnc (h : Hdr) (f : FmtF) : Statement (.bsclEnc h f) := ⟨_, rfl⟩
theorem bsclDec (h : Hdr) (f : FmtF) : Statement (.bsclDec h f) := ⟨_, rfl⟩
theorem prmt (h : Hdr) (f : FmtF) : Statement (.prmt h f) := ⟨_, rfl⟩
theorem pack2 (h : Hdr) (f : FmtF) : Statement (.pack2 h f) := ⟨_, rfl⟩
theorem unpk2 (h : Hdr) (f : FmtF) : Statement (.unpk2 h f) := ⟨_, rfl⟩
theorem ballot (h : Hdr) (f : FmtF) : Statement (.ballot h f) := ⟨_, rfl⟩
theorem vote (h : Hdr) (f : FmtF) : Statement (.vote h f) := ⟨_, rfl⟩
theorem shfl (h : Hdr) (f : FmtF) : Statement (.shfl h f) := ⟨_, rfl⟩
theorem bcast (h : Hdr) (f : FmtF) : Statement (.bcast h f) := ⟨_, rfl⟩
theorem rdx (h : Hdr) (f : FmtF) : Statement (.rdx h f) := ⟨_, rfl⟩
theorem scan (h : Hdr) (f : FmtF) : Statement (.scan h f) := ⟨_, rfl⟩
theorem matchLanes (h : Hdr) (f : FmtF) : Statement (.matchLanes h f) := ⟨_, rfl⟩
theorem mmov (h : Hdr) (f : FmtF) : Statement (.mmov h f) := ⟨_, rfl⟩
theorem mand (h : Hdr) (f : FmtF) : Statement (.mand h f) := ⟨_, rfl⟩
theorem mor (h : Hdr) (f : FmtF) : Statement (.mor h f) := ⟨_, rfl⟩
theorem mxor (h : Hdr) (f : FmtF) : Statement (.mxor h f) := ⟨_, rfl⟩
theorem mandn (h : Hdr) (f : FmtF) : Statement (.mandn h f) := ⟨_, rfl⟩
theorem mpopc (h : Hdr) (f : FmtF) : Statement (.mpopc h f) := ⟨_, rfl⟩
theorem ld (h : Hdr) (f : FmtM) : Statement (.ld h f) := ⟨_, rfl⟩
theorem st (h : Hdr) (f : FmtM) : Statement (.st h f) := ⟨_, rfl⟩
theorem ldw (h : Hdr) (f : FmtM) : Statement (.ldw h f) := ⟨_, rfl⟩
theorem stw (h : Hdr) (f : FmtM) : Statement (.stw h f) := ⟨_, rfl⟩
theorem lds (h : Hdr) (f : FmtM) : Statement (.lds h f) := ⟨_, rfl⟩
theorem sts (h : Hdr) (f : FmtM) : Statement (.sts h f) := ⟨_, rfl⟩
theorem ldc (h : Hdr) (f : FmtM) : Statement (.ldc h f) := ⟨_, rfl⟩
theorem stc (h : Hdr) (f : FmtM) : Statement (.stc h f) := ⟨_, rfl⟩
theorem ldu (h : Hdr) (f : FmtM) : Statement (.ldu h f) := ⟨_, rfl⟩
theorem stu (h : Hdr) (f : FmtM) : Statement (.stu h f) := ⟨_, rfl⟩
theorem pref (h : Hdr) (f : FmtM) : Statement (.pref h f) := ⟨_, rfl⟩
theorem cctlInv1 (h : Hdr) (f : FmtM) : Statement (.cctlInv1 h f) := ⟨_, rfl⟩
theorem cctlEv2 (h : Hdr) (f : FmtM) : Statement (.cctlEv2 h f) := ⟨_, rfl⟩
theorem cctlUnp3 (h : Hdr) (f : FmtM) : Statement (.cctlUnp3 h f) := ⟨_, rfl⟩
theorem cctlZero (h : Hdr) (f : FmtM) : Statement (.cctlZero h f) := ⟨_, rfl⟩
theorem fence (h : Hdr) (f : FmtS) : Statement (.fence h f) := ⟨_, rfl⟩
theorem atomAdd (h : Hdr) (f : FmtM) : Statement (.atomAdd h f) := ⟨_, rfl⟩
theorem atomAnd (h : Hdr) (f : FmtM) : Statement (.atomAnd h f) := ⟨_, rfl⟩
theorem atomOr (h : Hdr) (f : FmtM) : Statement (.atomOr h f) := ⟨_, rfl⟩
theorem atomXor (h : Hdr) (f : FmtM) : Statement (.atomXor h f) := ⟨_, rfl⟩
theorem atomMin (h : Hdr) (f : FmtM) : Statement (.atomMin h f) := ⟨_, rfl⟩
theorem atomMax (h : Hdr) (f : FmtM) : Statement (.atomMax h f) := ⟨_, rfl⟩
theorem atomXchg (h : Hdr) (f : FmtM) : Statement (.atomXchg h f) := ⟨_, rfl⟩
theorem atomIncw (h : Hdr) (f : FmtM) : Statement (.atomIncw h f) := ⟨_, rfl⟩
theorem atomAddb (h : Hdr) (f : FmtM) : Statement (.atomAddb h f) := ⟨_, rfl⟩
theorem atomFadd (h : Hdr) (f : FmtM) : Statement (.atomFadd h f) := ⟨_, rfl⟩
theorem atomFmin (h : Hdr) (f : FmtM) : Statement (.atomFmin h f) := ⟨_, rfl⟩
theorem atomFmax (h : Hdr) (f : FmtM) : Statement (.atomFmax h f) := ⟨_, rfl⟩
theorem acas (h : Hdr) (f : FmtM) : Statement (.acas h f) := ⟨_, rfl⟩
theorem acas2 (h : Hdr) (f : FmtM) : Statement (.acas2 h f) := ⟨_, rfl⟩
theorem redAdd (h : Hdr) (f : FmtM) : Statement (.redAdd h f) := ⟨_, rfl⟩
theorem redAnd (h : Hdr) (f : FmtM) : Statement (.redAnd h f) := ⟨_, rfl⟩
theorem redOr (h : Hdr) (f : FmtM) : Statement (.redOr h f) := ⟨_, rfl⟩
theorem redXor (h : Hdr) (f : FmtM) : Statement (.redXor h f) := ⟨_, rfl⟩
theorem redMin (h : Hdr) (f : FmtM) : Statement (.redMin h f) := ⟨_, rfl⟩
theorem redMax (h : Hdr) (f : FmtM) : Statement (.redMax h f) := ⟨_, rfl⟩
theorem redIncw (h : Hdr) (f : FmtM) : Statement (.redIncw h f) := ⟨_, rfl⟩
theorem redFadd (h : Hdr) (f : FmtM) : Statement (.redFadd h f) := ⟨_, rfl⟩
theorem redFmin (h : Hdr) (f : FmtM) : Statement (.redFmin h f) := ⟨_, rfl⟩
theorem redFmax (h : Hdr) (f : FmtM) : Statement (.redFmax h f) := ⟨_, rfl⟩
theorem lock (h : Hdr) (f : FmtX) : Statement (.lock h f) := ⟨_, rfl⟩
theorem lockt (h : Hdr) (f : FmtX) : Statement (.lockt h f) := ⟨_, rfl⟩
theorem trylk (h : Hdr) (f : FmtX) : Statement (.trylk h f) := ⟨_, rfl⟩
theorem unlock (h : Hdr) (f : FmtX) : Statement (.unlock h f) := ⟨_, rfl⟩
theorem lkqry (h : Hdr) (f : FmtX) : Statement (.lkqry h f) := ⟨_, rfl⟩
theorem sprd (h : Hdr) (f : FmtX) : Statement (.sprd h f) := ⟨_, rfl⟩
theorem sprd2 (h : Hdr) (f : FmtX) : Statement (.sprd2 h f) := ⟨_, rfl⟩
theorem sprx (h : Hdr) (f : FmtM) : Statement (.sprx h f) := ⟨_, rfl⟩
theorem spctx (h : Hdr) (f : FmtX) : Statement (.spctx h f) := ⟨_, rfl⟩
theorem spwait (h : Hdr) (f : FmtX) : Statement (.spwait h f) := ⟨_, rfl⟩
theorem spcan (h : Hdr) (f : FmtX) : Statement (.spcan h f) := ⟨_, rfl⟩
theorem spqry (h : Hdr) (f : FmtX) : Statement (.spqry h f) := ⟨_, rfl⟩
theorem spend (h : Hdr) (f : FmtS) : Statement (.spend h f) := ⟨_, rfl⟩
theorem copy (h : Hdr) (f : FmtX) : Statement (.copy h f) := ⟨_, rfl⟩
theorem copy2 (h : Hdr) (f : FmtX) : Statement (.copy2 h f) := ⟨_, rfl⟩
theorem copym (h : Hdr) (f : FmtX) : Statement (.copym h f) := ⟨_, rfl⟩
theorem copyx (h : Hdr) (f : FmtX) : Statement (.copyx h f) := ⟨_, rfl⟩
theorem bseal (h : Hdr) (f : FmtS) : Statement (.bseal h f) := ⟨_, rfl⟩
theorem bwait (h : Hdr) (f : FmtS) : Statement (.bwait h f) := ⟨_, rfl⟩
theorem bqry (h : Hdr) (f : FmtS) : Statement (.bqry h f) := ⟨_, rfl⟩
theorem slotq (h : Hdr) (f : FmtX) : Statement (.slotq h f) := ⟨_, rfl⟩
theorem slotret (h : Hdr) (f : FmtX) : Statement (.slotret h f) := ⟨_, rfl⟩
theorem bari (h : Hdr) (f : FmtX) : Statement (.bari h f) := ⟨_, rfl⟩
theorem bara (h : Hdr) (f : FmtX) : Statement (.bara h f) := ⟨_, rfl⟩
theorem barx (h : Hdr) (f : FmtX) : Statement (.barx h f) := ⟨_, rfl⟩
theorem barw (h : Hdr) (f : FmtX) : Statement (.barw h f) := ⟨_, rfl⟩
theorem bart (h : Hdr) (f : FmtX) : Statement (.bart h f) := ⟨_, rfl⟩
theorem mma (h : Hdr) (f : FmtX) : Statement (.mma h f) := ⟨_, rfl⟩
theorem mmas (h : Hdr) (f : FmtX) : Statement (.mmas h f) := ⟨_, rfl⟩
theorem mmat (h : Hdr) (f : FmtX) : Statement (.mmat h f) := ⟨_, rfl⟩
theorem mzero (h : Hdr) (f : FmtX) : Statement (.mzero h f) := ⟨_, rfl⟩
theorem mlda (h : Hdr) (f : FmtX) : Statement (.mlda h f) := ⟨_, rfl⟩
theorem msta (h : Hdr) (f : FmtX) : Statement (.msta h f) := ⟨_, rfl⟩
theorem mcvt (h : Hdr) (f : FmtX) : Statement (.mcvt h f) := ⟨_, rfl⟩
theorem mepi (h : Hdr) (f : FmtX) : Statement (.mepi h f) := ⟨_, rfl⟩
theorem mdrain (h : Hdr) (f : FmtX) : Statement (.mdrain h f) := ⟨_, rfl⟩
theorem mseq (h : Hdr) (f : FmtX) : Statement (.mseq h f) := ⟨_, rfl⟩
theorem mstat (h : Hdr) (f : FmtX) : Statement (.mstat h f) := ⟨_, rfl⟩
theorem mfence (h : Hdr) (f : FmtX) : Statement (.mfence h f) := ⟨_, rfl⟩
theorem tbar (h : Hdr) (f : FmtX) : Statement (.tbar h f) := ⟨_, rfl⟩
theorem tarr (h : Hdr) (f : FmtX) : Statement (.tarr h f) := ⟨_, rfl⟩
theorem twait (h : Hdr) (f : FmtX) : Statement (.twait h f) := ⟨_, rfl⟩
theorem tqry (h : Hdr) (f : FmtX) : Statement (.tqry h f) := ⟨_, rfl⟩
theorem reshape (h : Hdr) (f : FmtX) : Statement (.reshape h f) := ⟨_, rfl⟩
theorem launch (h : Hdr) (f : FmtX) : Statement (.launch h f) := ⟨_, rfl⟩
theorem lwait (h : Hdr) (f : FmtX) : Statement (.lwait h f) := ⟨_, rfl⟩
theorem msgs (h : Hdr) (f : FmtX) : Statement (.msgs h f) := ⟨_, rfl⟩
theorem msgr (h : Hdr) (f : FmtX) : Statement (.msgr h f) := ⟨_, rfl⟩
theorem msgq (h : Hdr) (f : FmtX) : Statement (.msgq h f) := ⟨_, rfl⟩
theorem coll (h : Hdr) (f : FmtX) : Statement (.coll h f) := ⟨_, rfl⟩
theorem collw (h : Hdr) (f : FmtX) : Statement (.collw h f) := ⟨_, rfl⟩
theorem evsig (h : Hdr) (f : FmtX) : Statement (.evsig h f) := ⟨_, rfl⟩
theorem evwait (h : Hdr) (f : FmtX) : Statement (.evwait h f) := ⟨_, rfl⟩
theorem trap (h : Hdr) (f : FmtS) : Statement (.trap h f) := ⟨_, rfl⟩
theorem tretRetry (h : Hdr) (f : FmtS) : Statement (.tretRetry h f) := ⟨_, rfl⟩
theorem tretSkip (h : Hdr) (f : FmtS) : Statement (.tretSkip h f) := ⟨_, rfl⟩
theorem tretEnd (h : Hdr) (f : FmtS) : Statement (.tretEnd h f) := ⟨_, rfl⟩
theorem pdone (h : Hdr) (f : FmtS) : Statement (.pdone h f) := ⟨_, rfl⟩
theorem srd (h : Hdr) (f : FmtS) : Statement (.srd h f) := ⟨_, rfl⟩
theorem swr (h : Hdr) (f : FmtS) : Statement (.swr h f) := ⟨_, rfl⟩
theorem csave (h : Hdr) (f : FmtS) : Statement (.csave h f) := ⟨_, rfl⟩
theorem crest (h : Hdr) (f : FmtS) : Statement (.crest h f) := ⟨_, rfl⟩
theorem oplr (h : Hdr) (f : FmtS) : Statement (.oplr h f) := ⟨_, rfl⟩
theorem fresume (h : Hdr) (f : FmtS) : Statement (.fresume h f) := ⟨_, rfl⟩
theorem tlbinv (h : Hdr) (f : FmtS) : Statement (.tlbinv h f) := ⟨_, rfl⟩
theorem tlbsync (h : Hdr) (f : FmtS) : Statement (.tlbsync h f) := ⟨_, rfl⟩
theorem haltHalt (h : Hdr) (f : FmtS) : Statement (.haltHalt h f) := ⟨_, rfl⟩
theorem haltRel (h : Hdr) (f : FmtS) : Statement (.haltRel h f) := ⟨_, rfl⟩
theorem haltStep (h : Hdr) (f : FmtS) : Statement (.haltStep h f) := ⟨_, rfl⟩
theorem idrd (h : Hdr) (f : FmtS) : Statement (.idrd h f) := ⟨_, rfl⟩
theorem seccall (h : Hdr) (f : FmtS) : Statement (.seccall h f) := ⟨_, rfl⟩
theorem secwait (h : Hdr) (f : FmtS) : Statement (.secwait h f) := ⟨_, rfl⟩
theorem attest (h : Hdr) (f : FmtS) : Statement (.attest h f) := ⟨_, rfl⟩
theorem recmark (h : Hdr) (f : FmtS) : Statement (.recmark h f) := ⟨_, rfl⟩
theorem recst (h : Hdr) (f : FmtS) : Statement (.recst h f) := ⟨_, rfl⟩
theorem ckptreq (h : Hdr) (f : FmtS) : Statement (.ckptreq h f) := ⟨_, rfl⟩
theorem samparm (h : Hdr) (f : FmtS) : Statement (.samparm h f) := ⟨_, rfl⟩
theorem sampstop (h : Hdr) (f : FmtS) : Statement (.sampstop h f) := ⟨_, rfl⟩
theorem perfrd (h : Hdr) (f : FmtS) : Statement (.perfrd h f) := ⟨_, rfl⟩
theorem histrd (h : Hdr) (f : FmtS) : Statement (.histrd h f) := ⟨_, rfl⟩
theorem telrd (h : Hdr) (f : FmtS) : Statement (.telrd h f) := ⟨_, rfl⟩
theorem waitmRelease : Statement .waitmRelease := fun _ => rfl
theorem starvationPromotion : Statement .starvationPromotion := fun _ => rfl
theorem loadDataReturn : Statement .loadDataReturn := fun _ => rfl
theorem mwaitMonitorFire : Statement .mwaitMonitorFire := fun _ => rfl
theorem mwaitTimeout : Statement .mwaitTimeout := fun _ => rfl
theorem sleepWake : Statement .sleepWake := fun _ => rfl
theorem rds : Statement .rds := fun _ => rfl
theorem rdxRequest : Statement .rdxRequest := fun _ => rfl
theorem upg : Statement .upg := fun _ => rfl
theorem wbd : Statement .wbd := fun _ => rfl
theorem evc : Statement .evc := fun _ => rfl
theorem invack : Statement .invack := fun _ => rfl
theorem fwddata : Statement .fwddata := fun _ => rfl
theorem peekdata : Statement .peekdata := fun _ => rfl
theorem datas : Statement .datas := fun _ => rfl
theorem datae : Statement .datae := fun _ => rfl
theorem cmp : Statement .cmp := fun _ => rfl
theorem invMsg : Statement .invMsg := fun _ => rfl
theorem fwds : Statement .fwds := fun _ => rfl
theorem fwdx : Statement .fwdx := fun _ => rfl
theorem recallMsg : Statement .recallMsg := fun _ => rfl
theorem peek : Statement .peek := fun _ => rfl
theorem wback : Statement .wback := fun _ => rfl
theorem retryResend : Statement .retryResend := fun _ => rfl
theorem sectorQueueNext : Statement .sectorQueueNext := fun _ => rfl
theorem homeSideOperation : Statement .homeSideOperation := fun _ => rfl
theorem hostcoh : Statement .hostcoh := fun _ => rfl
theorem pageWalkComplete : Statement .pageWalkComplete := fun _ => rfl
theorem pToSTransition : Statement .pToSTransition := fun _ => rfl
theorem collapse : Statement .collapse := fun _ => rfl
theorem collapseRetry : Statement .collapseRetry := fun _ => rfl
theorem lockAcquireArrival : Statement .lockAcquireArrival := fun _ => rfl
theorem lockTryArrival : Statement .lockTryArrival := fun _ => rfl
theorem lockReleaseArrival : Statement .lockReleaseArrival := fun _ => rfl
theorem lockAbandonArrival : Statement .lockAbandonArrival := fun _ => rfl
theorem lockReply : Statement .lockReply := fun _ => rfl
theorem lockHeadReturn : Statement .lockHeadReturn := fun _ => rfl
theorem lockGraceExpiry : Statement .lockGraceExpiry := fun _ => rfl
theorem lockDeadlineExpiry : Statement .lockDeadlineExpiry := fun _ => rfl
theorem lockFullRetry : Statement .lockFullRetry := fun _ => rfl
theorem deadlockScan : Statement .deadlockScan := fun _ => rfl
theorem deadlockConfirm : Statement .deadlockConfirm := fun _ => rfl
theorem copyUnitPerformed : Statement .copyUnitPerformed := fun _ => rfl
theorem copyComplete : Statement .copyComplete := fun _ => rfl
theorem copyxHandover : Statement .copyxHandover := fun _ => rfl
theorem carriedCommandTrap : Statement .carriedCommandTrap := fun _ => rfl
theorem burstArrival : Statement .burstArrival := fun _ => rfl
theorem sproutEnd : Statement .sproutEnd := fun _ => rfl
theorem matrixCommandExecute : Statement .matrixCommandExecute := fun _ => rfl
theorem mseqStep : Statement .mseqStep := fun _ => rfl
theorem mdrainReduction : Statement .mdrainReduction := fun _ => rfl
theorem qtailDoorbell : Statement .qtailDoorbell := fun _ => rfl
theorem queueFetch : Statement .queueFetch := fun _ => rfl
theorem launchReady : Statement .launchReady := fun _ => rfl
theorem blockDispatch : Statement .blockDispatch := fun _ => rfl
theorem blockSlotFree : Statement .blockSlotFree := fun _ => rfl
theorem launchComplete : Statement .launchComplete := fun _ => rfl
theorem completionEntryWrite : Statement .completionEntryWrite := fun _ => rfl
theorem teamWatchdogCheck : Statement .teamWatchdogCheck := fun _ => rfl
theorem messageDelivery : Statement .messageDelivery := fun _ => rfl
theorem mailboxFullRetry : Statement .mailboxFullRetry := fun _ => rfl
theorem collectiveComplete : Statement .collectiveComplete := fun _ => rfl
theorem fenceMarkerAnswer : Statement .fenceMarkerAnswer := fun _ => rfl
theorem fabto : Statement .fabto := fun _ => rfl
theorem fabricErrorPath : Statement .fabricErrorPath := fun _ => rfl
theorem apertureAccessArrival : Statement .apertureAccessArrival := fun _ => rfl
theorem hostCxlMemRead : Statement .hostCxlMemRead := fun _ => rfl
theorem hostCxlMemWrite : Statement .hostCxlMemWrite := fun _ => rfl
theorem eventCounterHostWrite : Statement .eventCounterHostWrite := fun _ => rfl
theorem ctxctlKill : Statement .ctxctlKill := fun _ => rfl
theorem dieLost : Statement .dieLost := fun _ => rfl
theorem trapRecordRetry : Statement .trapRecordRetry := fun _ => rfl
theorem operandLogReissue : Statement .operandLogReissue := fun _ => rfl
theorem oplogFailedDelivery : Statement .oplogFailedDelivery := fun _ => rfl
theorem deferredMchk : Statement .deferredMchk := fun _ => rfl
theorem pctlPre : Statement .pctlPre := fun _ => rfl
theorem preempt : Statement .preempt := fun _ => rfl
theorem forcedSave : Statement .forcedSave := fun _ => rfl
theorem psaved : Statement .psaved := fun _ => rfl
theorem pctlRes : Statement .pctlRes := fun _ => rfl
theorem presumed : Statement .presumed := fun _ => rfl
theorem haltEffect : Statement .haltEffect := fun _ => rfl
theorem rctlModeRecord : Statement .rctlModeRecord := fun _ => rfl
theorem rctlModeOff : Statement .rctlModeOff := fun _ => rfl
theorem conflictProbe : Statement .conflictProbe := fun _ => rfl
theorem clockForcedCheckpoint : Statement .clockForcedCheckpoint := fun _ => rfl
theorem cut : Statement .cut := fun _ => rfl
theorem undoCopy : Statement .undoCopy := fun _ => rfl
theorem segmentCloseTimeout : Statement .segmentCloseTimeout := fun _ => rfl
theorem domainCutMarker : Statement .domainCutMarker := fun _ => rfl
theorem rpctlGo : Statement .rpctlGo := fun _ => rfl
theorem rpctlStop : Statement .rpctlStop := fun _ => rfl
theorem replay : Statement .replay := fun _ => rfl
theorem rpend : Statement .rpend := fun _ => rfl
theorem replayBreakpoint : Statement .replayBreakpoint := fun _ => rfl
theorem samplerRow : Statement .samplerRow := fun _ => rfl
theorem lifetimeHistogramUpdate : Statement .lifetimeHistogramUpdate := fun _ => rfl
theorem dbgunlock : Statement .dbgunlock := fun _ => rfl
theorem lcset : Statement .lcset := fun _ => rfl
theorem nonce : Statement .nonce := fun _ => rfl
theorem keygen : Statement .keygen := fun _ => rfl
theorem keymap : Statement .keymap := fun _ => rfl
theorem mrext : Statement .mrext := fun _ => rfl
theorem cert : Statement .cert := fun _ => rfl
theorem attestReport : Statement .attestReport := fun _ => rfl
theorem resetPackage : Statement .resetPackage := fun _ => rfl
theorem frequencyChange : Statement .frequencyChange := fun _ => rfl
theorem thermalTrip : Statement .thermalTrip := fun _ => rfl
theorem patrolScrub : Statement .patrolScrub := fun _ => rfl
theorem registerWrite : Statement .registerWrite := fun _ => rfl
theorem laneRetrain : Statement .laneRetrain := fun _ => rfl
theorem rankLost : Statement .rankLost := fun _ => rfl
theorem proxyHomeHostResponse : Statement .proxyHomeHostResponse := fun _ => rfl

end Sys2Proof.Laws.F
end

