-- ==== Sys2Proof/Laws/State.lean ====
section
/-! SUPPORT. What each named update of the state does to each of its fields: all but one keep their value. -/

namespace Sys2Proof.Machine

/-! ## setWave -/

@[simp] theorem State.setWave_steps (s : State) (u : Nat) (w : Wave) : (s.setWave u w).steps = s.steps := rfl
@[simp] theorem State.setWave_ptb (s : State) (u : Nat) (w : Wave) : (s.setWave u w).ptb = s.ptb := rfl
@[simp] theorem State.setWave_cycle (s : State) (u : Nat) (w : Wave) : (s.setWave u w).cycle = s.cycle := rfl
@[simp] theorem State.setWave_agenda (s : State) (u : Nat) (w : Wave) : (s.setWave u w).agenda = s.agenda := rfl
@[simp] theorem State.setWave_arg (s : State) (u : Nat) (w : Wave) : (s.setWave u w).arg = s.arg := rfl
@[simp] theorem State.setWave_issue (s : State) (u : Nat) (w : Wave) : (s.setWave u w).issue = s.issue := rfl
@[simp] theorem State.setWave_chain (s : State) (u : Nat) (w : Wave) : (s.setWave u w).chain = s.chain := rfl
@[simp] theorem State.setWave_stalled (s : State) (u : Nat) (w : Wave) : (s.setWave u w).stalled = s.stalled := rfl
@[simp] theorem State.setWave_lastCore (s : State) (u : Nat) (w : Wave) : (s.setWave u w).lastCore = s.lastCore := rfl
@[simp] theorem State.setWave_next (s : State) (u : Nat) (w : Wave) : (s.setWave u w).next = s.next := rfl
@[simp] theorem State.setWave_blocks (s : State) (u : Nat) (w : Wave) : (s.setWave u w).blocks = s.blocks := rfl
@[simp] theorem State.setWave_cores (s : State) (u : Nat) (w : Wave) : (s.setWave u w).cores = s.cores := rfl
@[simp] theorem State.setWave_ctlb (s : State) (u : Nat) (w : Wave) : (s.setWave u w).ctlb = s.ctlb := rfl
@[simp] theorem State.setWave_ctxs (s : State) (u : Nat) (w : Wave) : (s.setWave u w).ctxs = s.ctxs := rfl
@[simp] theorem State.setWave_mem (s : State) (u : Nat) (w : Wave) : (s.setWave u w).mem = s.mem := rfl
@[simp] theorem State.setWave_poison (s : State) (u : Nat) (w : Wave) : (s.setWave u w).poison = s.poison := rfl
@[simp] theorem State.setWave_l2 (s : State) (u : Nat) (w : Wave) : (s.setWave u w).l2 = s.l2 := rfl
@[simp] theorem State.setWave_dir (s : State) (u : Nat) (w : Wave) : (s.setWave u w).dir = s.dir := rfl
@[simp] theorem State.setWave_toHome (s : State) (u : Nat) (w : Wave) : (s.setWave u w).toHome = s.toHome := rfl
@[simp] theorem State.setWave_toAgent (s : State) (u : Nat) (w : Wave) : (s.setWave u w).toAgent = s.toAgent := rfl
@[simp] theorem State.setWave_retries (s : State) (u : Nat) (w : Wave) : (s.setWave u w).retries = s.retries := rfl
@[simp] theorem State.setWave_homeOps (s : State) (u : Nat) (w : Wave) : (s.setWave u w).homeOps = s.homeOps := rfl
@[simp] theorem State.setWave_hostHad (s : State) (u : Nat) (w : Wave) : (s.setWave u w).hostHad = s.hostHad := rfl
@[simp] theorem State.setWave_l3 (s : State) (u : Nat) (w : Wave) : (s.setWave u w).l3 = s.l3 := rfl
@[simp] theorem State.setWave_pers (s : State) (u : Nat) (w : Wave) : (s.setWave u w).pers = s.pers := rfl
@[simp] theorem State.setWave_accs (s : State) (u : Nat) (w : Wave) : (s.setWave u w).accs = s.accs := rfl
@[simp] theorem State.setWave_walks (s : State) (u : Nat) (w : Wave) : (s.setWave u w).walks = s.walks := rfl
@[simp] theorem State.setWave_ptos (s : State) (u : Nat) (w : Wave) : (s.setWave u w).ptos = s.ptos := rfl
@[simp] theorem State.setWave_collapses (s : State) (u : Nat) (w : Wave) : (s.setWave u w).collapses = s.collapses := rfl
@[simp] theorem State.setWave_posts (s : State) (u : Nat) (w : Wave) : (s.setWave u w).posts = s.posts := rfl
@[simp] theorem State.setWave_rrb (s : State) (u : Nat) (w : Wave) : (s.setWave u w).rrb = s.rrb := rfl
@[simp] theorem State.setWave_domid (s : State) (u : Nat) (w : Wave) : (s.setWave u w).domid = s.domid := rfl
@[simp] theorem State.setWave_reach (s : State) (u : Nat) (w : Wave) : (s.setWave u w).reach = s.reach := rfl
@[simp] theorem State.setWave_pred (s : State) (u : Nat) (w : Wave) : (s.setWave u w).pred = s.pred := rfl
@[simp] theorem State.setWave_nearLast (s : State) (u : Nat) (w : Wave) : (s.setWave u w).nearLast = s.nearLast := rfl
@[simp] theorem State.setWave_locks (s : State) (u : Nat) (w : Wave) : (s.setWave u w).locks = s.locks := rfl
@[simp] theorem State.setWave_lockMarks (s : State) (u : Nat) (w : Wave) : (s.setWave u w).lockMarks = s.lockMarks := rfl
@[simp] theorem State.setWave_lockMsgs (s : State) (u : Nat) (w : Wave) : (s.setWave u w).lockMsgs = s.lockMsgs := rfl
@[simp] theorem State.setWave_lockReplies (s : State) (u : Nat) (w : Wave) : (s.setWave u w).lockReplies = s.lockReplies := rfl
@[simp] theorem State.setWave_lockRetries (s : State) (u : Nat) (w : Wave) : (s.setWave u w).lockRetries = s.lockRetries := rfl
@[simp] theorem State.setWave_lockStamps (s : State) (u : Nat) (w : Wave) : (s.setWave u w).lockStamps = s.lockStamps := rfl
@[simp] theorem State.setWave_lkctl (s : State) (u : Nat) (w : Wave) : (s.setWave u w).lkctl = s.lkctl := rfl
@[simp] theorem State.setWave_dlrb (s : State) (u : Nat) (w : Wave) : (s.setWave u w).dlrb = s.dlrb := rfl
@[simp] theorem State.setWave_dlrp (s : State) (u : Nat) (w : Wave) : (s.setWave u w).dlrp = s.dlrp := rfl
@[simp] theorem State.setWave_dlrc (s : State) (u : Nat) (w : Wave) : (s.setWave u w).dlrc = s.dlrc := rfl
@[simp] theorem State.setWave_dlCyc (s : State) (u : Nat) (w : Wave) : (s.setWave u w).dlCyc = s.dlCyc := rfl
@[simp] theorem State.setWave_dlOver (s : State) (u : Nat) (w : Wave) : (s.setWave u w).dlOver = s.dlOver := rfl
@[simp] theorem State.setWave_scanTick (s : State) (u : Nat) (w : Wave) : (s.setWave u w).scanTick = s.scanTick := rfl
@[simp] theorem State.setWave_scanCand (s : State) (u : Nat) (w : Wave) : (s.setWave u w).scanCand = s.scanCand := rfl
@[simp] theorem State.setWave_dlSeen (s : State) (u : Nat) (w : Wave) : (s.setWave u w).dlSeen = s.dlSeen := rfl
@[simp] theorem State.setWave_copies (s : State) (u : Nat) (w : Wave) : (s.setWave u w).copies = s.copies := rfl
@[simp] theorem State.setWave_sprReqs (s : State) (u : Nat) (w : Wave) : (s.setWave u w).sprReqs = s.sprReqs := rfl
@[simp] theorem State.setWave_sprBuf (s : State) (u : Nat) (w : Wave) : (s.setWave u w).sprBuf = s.sprBuf := rfl
@[simp] theorem State.setWave_sprDone (s : State) (u : Nat) (w : Wave) : (s.setWave u w).sprDone = s.sprDone := rfl
@[simp] theorem State.setWave_reqErr (s : State) (u : Nat) (w : Wave) : (s.setWave u w).reqErr = s.reqErr := rfl
@[simp] theorem State.setWave_mcmds (s : State) (u : Nat) (w : Wave) : (s.setWave u w).mcmds = s.mcmds := rfl
@[simp] theorem State.setWave_drains (s : State) (u : Nat) (w : Wave) : (s.setWave u w).drains = s.drains := rfl
@[simp] theorem State.setWave_drainCount (s : State) (u : Nat) (w : Wave) : (s.setWave u w).drainCount = s.drainCount := rfl
@[simp] theorem State.setWave_telctl (s : State) (u : Nat) (w : Wave) : (s.setWave u w).telctl = s.telctl := rfl
@[simp] theorem State.setWave_telRing (s : State) (u : Nat) (w : Wave) : (s.setWave u w).telRing = s.telRing := rfl
@[simp] theorem State.setWave_carriedTraps (s : State) (u : Nat) (w : Wave) : (s.setWave u w).carriedTraps = s.carriedTraps := rfl
@[simp] theorem State.setWave_teams (s : State) (u : Nat) (w : Wave) : (s.setWave u w).teams = s.teams := rfl
@[simp] theorem State.setWave_queues (s : State) (u : Nat) (w : Wave) : (s.setWave u w).queues = s.queues := rfl
@[simp] theorem State.setWave_launches (s : State) (u : Nat) (w : Wave) : (s.setWave u w).launches = s.launches := rfl
@[simp] theorem State.setWave_launchCount (s : State) (u : Nat) (w : Wave) : (s.setWave u w).launchCount = s.launchCount := rfl
@[simp] theorem State.setWave_mbtb (s : State) (u : Nat) (w : Wave) : (s.setWave u w).mbtb = s.mbtb := rfl
@[simp] theorem State.setWave_boxes (s : State) (u : Nat) (w : Wave) : (s.setWave u w).boxes = s.boxes := rfl
@[simp] theorem State.setWave_outbound (s : State) (u : Nat) (w : Wave) : (s.setWave u w).outbound = s.outbound := rfl
@[simp] theorem State.setWave_inbound (s : State) (u : Nat) (w : Wave) : (s.setWave u w).inbound = s.inbound := rfl
@[simp] theorem State.setWave_fenceMarks (s : State) (u : Nat) (w : Wave) : (s.setWave u w).fenceMarks = s.fenceMarks := rfl
@[simp] theorem State.setWave_colls (s : State) (u : Nat) (w : Wave) : (s.setWave u w).colls = s.colls := rfl
@[simp] theorem State.setWave_collCount (s : State) (u : Nat) (w : Wave) : (s.setWave u w).collCount = s.collCount := rfl
@[simp] theorem State.setWave_deadDies (s : State) (u : Nat) (w : Wave) : (s.setWave u w).deadDies = s.deadDies := rfl
@[simp] theorem State.setWave_deadM (s : State) (u : Nat) (w : Wave) : (s.setWave u w).deadM = s.deadM := rfl
@[simp] theorem State.setWave_lostDevs (s : State) (u : Nat) (w : Wave) : (s.setWave u w).lostDevs = s.lostDevs := rfl
@[simp] theorem State.setWave_lostCtxs (s : State) (u : Nat) (w : Wave) : (s.setWave u w).lostCtxs = s.lostCtxs := rfl
@[simp] theorem State.setWave_silos (s : State) (u : Nat) (w : Wave) : (s.setWave u w).silos = s.silos := rfl
@[simp] theorem State.setWave_probes (s : State) (u : Nat) (w : Wave) : (s.setWave u w).probes = s.probes := rfl
@[simp] theorem State.setWave_probeTab (s : State) (u : Nat) (w : Wave) : (s.setWave u w).probeTab = s.probeTab := rfl
@[simp] theorem State.setWave_objClock (s : State) (u : Nat) (w : Wave) : (s.setWave u w).objClock = s.objClock := rfl
@[simp] theorem State.setWave_homeSeq (s : State) (u : Nat) (w : Wave) : (s.setWave u w).homeSeq = s.homeSeq := rfl
@[simp] theorem State.setWave_homeLast (s : State) (u : Nat) (w : Wave) : (s.setWave u w).homeLast = s.homeLast := rfl
@[simp] theorem State.setWave_ckpts (s : State) (u : Nat) (w : Wave) : (s.setWave u w).ckpts = s.ckpts := rfl
@[simp] theorem State.setWave_perf (s : State) (u : Nat) (w : Wave) : (s.setWave u w).perf = s.perf := rfl
@[simp] theorem State.setWave_cutReq (s : State) (u : Nat) (w : Wave) : (s.setWave u w).cutReq = s.cutReq := rfl
@[simp] theorem State.setWave_flight (s : State) (u : Nat) (w : Wave) : (s.setWave u w).flight = s.flight := rfl
@[simp] theorem State.setWave_markers (s : State) (u : Nat) (w : Wave) : (s.setWave u w).markers = s.markers := rfl
@[simp] theorem State.setWave_domSent (s : State) (u : Nat) (w : Wave) : (s.setWave u w).domSent = s.domSent := rfl
@[simp] theorem State.setWave_recOff (s : State) (u : Nat) (w : Wave) : (s.setWave u w).recOff = s.recOff := rfl
@[simp] theorem State.setWave_samplers (s : State) (u : Nat) (w : Wave) : (s.setWave u w).samplers = s.samplers := rfl
@[simp] theorem State.setWave_hist (s : State) (u : Nat) (w : Wave) : (s.setWave u w).hist = s.hist := rfl
@[simp] theorem State.setWave_replays (s : State) (u : Nat) (w : Wave) : (s.setWave u w).replays = s.replays := rfl
@[simp] theorem State.setWave_heldIn (s : State) (u : Nat) (w : Wave) : (s.setWave u w).heldIn = s.heldIn := rfl
@[simp] theorem State.setWave_lcs (s : State) (u : Nat) (w : Wave) : (s.setWave u w).lcs = s.lcs := rfl
@[simp] theorem State.setWave_secst (s : State) (u : Nat) (w : Wave) : (s.setWave u w).secst = s.secst := rfl
@[simp] theorem State.setWave_secReqs (s : State) (u : Nat) (w : Wave) : (s.setWave u w).secReqs = s.secReqs := rfl
@[simp] theorem State.setWave_secTicket (s : State) (u : Nat) (w : Wave) : (s.setWave u w).secTicket = s.secTicket := rfl
@[simp] theorem State.setWave_secDone (s : State) (u : Nat) (w : Wave) : (s.setWave u w).secDone = s.secDone := rfl
@[simp] theorem State.setWave_nonce (s : State) (u : Nat) (w : Wave) : (s.setWave u w).nonce = s.nonce := rfl
@[simp] theorem State.setWave_randCount (s : State) (u : Nat) (w : Wave) : (s.setWave u w).randCount = s.randCount := rfl
@[simp] theorem State.setWave_crypt (s : State) (u : Nat) (w : Wave) : (s.setWave u w).crypt = s.crypt := rfl
@[simp] theorem State.setWave_mr (s : State) (u : Nat) (w : Wave) : (s.setWave u w).mr = s.mr := rfl
@[simp] theorem State.setWave_spareMap (s : State) (u : Nat) (w : Wave) : (s.setWave u w).spareMap = s.spareMap := rfl
@[simp] theorem State.setWave_histTick (s : State) (u : Nat) (w : Wave) : (s.setWave u w).histTick = s.histTick := rfl
@[simp] theorem State.setWave_worn (s : State) (u : Nat) (w : Wave) : (s.setWave u w).worn = s.worn := rfl
@[simp] theorem State.setWave_wear (s : State) (u : Nat) (w : Wave) : (s.setWave u w).wear = s.wear := rfl
@[simp] theorem State.setWave_rowSpares (s : State) (u : Nat) (w : Wave) : (s.setWave u w).rowSpares = s.rowSpares := rfl
@[simp] theorem State.setWave_pcap (s : State) (u : Nat) (w : Wave) : (s.setWave u w).pcap = s.pcap := rfl
@[simp] theorem State.setWave_freqCap (s : State) (u : Nat) (w : Wave) : (s.setWave u w).freqCap = s.freqCap := rfl
@[simp] theorem State.setWave_freqNow (s : State) (u : Nat) (w : Wave) : (s.setWave u w).freqNow = s.freqNow := rfl
@[simp] theorem State.setWave_freqNext (s : State) (u : Nat) (w : Wave) : (s.setWave u w).freqNext = s.freqNext := rfl
@[simp] theorem State.setWave_thermCap (s : State) (u : Nat) (w : Wave) : (s.setWave u w).thermCap = s.thermCap := rfl
@[simp] theorem State.setWave_throttle (s : State) (u : Nat) (w : Wave) : (s.setWave u w).throttle = s.throttle := rfl
@[simp] theorem State.setWave_hotSince (s : State) (u : Nat) (w : Wave) : (s.setWave u w).hotSince = s.hotSince := rfl
@[simp] theorem State.setWave_tripped (s : State) (u : Nat) (w : Wave) : (s.setWave u w).tripped = s.tripped := rfl
@[simp] theorem State.setWave_trips (s : State) (u : Nat) (w : Wave) : (s.setWave u w).trips = s.trips := rfl
@[simp] theorem State.setWave_wipes (s : State) (u : Nat) (w : Wave) : (s.setWave u w).wipes = s.wipes := rfl

/-! ## setThread -/

@[simp] theorem State.setThread_steps (s : State) (x : TRef) (h : Thread) : (s.setThread x h).steps = s.steps := rfl
@[simp] theorem State.setThread_ptb (s : State) (x : TRef) (h : Thread) : (s.setThread x h).ptb = s.ptb := rfl
@[simp] theorem State.setThread_cycle (s : State) (x : TRef) (h : Thread) : (s.setThread x h).cycle = s.cycle := rfl
@[simp] theorem State.setThread_agenda (s : State) (x : TRef) (h : Thread) : (s.setThread x h).agenda = s.agenda := rfl
@[simp] theorem State.setThread_arg (s : State) (x : TRef) (h : Thread) : (s.setThread x h).arg = s.arg := rfl
@[simp] theorem State.setThread_issue (s : State) (x : TRef) (h : Thread) : (s.setThread x h).issue = s.issue := rfl
@[simp] theorem State.setThread_chain (s : State) (x : TRef) (h : Thread) : (s.setThread x h).chain = s.chain := rfl
@[simp] theorem State.setThread_stalled (s : State) (x : TRef) (h : Thread) : (s.setThread x h).stalled = s.stalled := rfl
@[simp] theorem State.setThread_lastCore (s : State) (x : TRef) (h : Thread) : (s.setThread x h).lastCore = s.lastCore := rfl
@[simp] theorem State.setThread_next (s : State) (x : TRef) (h : Thread) : (s.setThread x h).next = s.next := rfl
@[simp] theorem State.setThread_blocks (s : State) (x : TRef) (h : Thread) : (s.setThread x h).blocks = s.blocks := rfl
@[simp] theorem State.setThread_cores (s : State) (x : TRef) (h : Thread) : (s.setThread x h).cores = s.cores := rfl
@[simp] theorem State.setThread_ctlb (s : State) (x : TRef) (h : Thread) : (s.setThread x h).ctlb = s.ctlb := rfl
@[simp] theorem State.setThread_ctxs (s : State) (x : TRef) (h : Thread) : (s.setThread x h).ctxs = s.ctxs := rfl
@[simp] theorem State.setThread_mem (s : State) (x : TRef) (h : Thread) : (s.setThread x h).mem = s.mem := rfl
@[simp] theorem State.setThread_poison (s : State) (x : TRef) (h : Thread) : (s.setThread x h).poison = s.poison := rfl
@[simp] theorem State.setThread_l2 (s : State) (x : TRef) (h : Thread) : (s.setThread x h).l2 = s.l2 := rfl
@[simp] theorem State.setThread_dir (s : State) (x : TRef) (h : Thread) : (s.setThread x h).dir = s.dir := rfl
@[simp] theorem State.setThread_toHome (s : State) (x : TRef) (h : Thread) : (s.setThread x h).toHome = s.toHome := rfl
@[simp] theorem State.setThread_toAgent (s : State) (x : TRef) (h : Thread) : (s.setThread x h).toAgent = s.toAgent := rfl
@[simp] theorem State.setThread_retries (s : State) (x : TRef) (h : Thread) : (s.setThread x h).retries = s.retries := rfl
@[simp] theorem State.setThread_homeOps (s : State) (x : TRef) (h : Thread) : (s.setThread x h).homeOps = s.homeOps := rfl
@[simp] theorem State.setThread_hostHad (s : State) (x : TRef) (h : Thread) : (s.setThread x h).hostHad = s.hostHad := rfl
@[simp] theorem State.setThread_l3 (s : State) (x : TRef) (h : Thread) : (s.setThread x h).l3 = s.l3 := rfl
@[simp] theorem State.setThread_pers (s : State) (x : TRef) (h : Thread) : (s.setThread x h).pers = s.pers := rfl
@[simp] theorem State.setThread_accs (s : State) (x : TRef) (h : Thread) : (s.setThread x h).accs = s.accs := rfl
@[simp] theorem State.setThread_walks (s : State) (x : TRef) (h : Thread) : (s.setThread x h).walks = s.walks := rfl
@[simp] theorem State.setThread_ptos (s : State) (x : TRef) (h : Thread) : (s.setThread x h).ptos = s.ptos := rfl
@[simp] theorem State.setThread_collapses (s : State) (x : TRef) (h : Thread) : (s.setThread x h).collapses = s.collapses := rfl
@[simp] theorem State.setThread_posts (s : State) (x : TRef) (h : Thread) : (s.setThread x h).posts = s.posts := rfl
@[simp] theorem State.setThread_rrb (s : State) (x : TRef) (h : Thread) : (s.setThread x h).rrb = s.rrb := rfl
@[simp] theorem State.setThread_domid (s : State) (x : TRef) (h : Thread) : (s.setThread x h).domid = s.domid := rfl
@[simp] theorem State.setThread_reach (s : State) (x : TRef) (h : Thread) : (s.setThread x h).reach = s.reach := rfl
@[simp] theorem State.setThread_pred (s : State) (x : TRef) (h : Thread) : (s.setThread x h).pred = s.pred := rfl
@[simp] theorem State.setThread_nearLast (s : State) (x : TRef) (h : Thread) : (s.setThread x h).nearLast = s.nearLast := rfl
@[simp] theorem State.setThread_locks (s : State) (x : TRef) (h : Thread) : (s.setThread x h).locks = s.locks := rfl
@[simp] theorem State.setThread_lockMarks (s : State) (x : TRef) (h : Thread) : (s.setThread x h).lockMarks = s.lockMarks := rfl
@[simp] theorem State.setThread_lockMsgs (s : State) (x : TRef) (h : Thread) : (s.setThread x h).lockMsgs = s.lockMsgs := rfl
@[simp] theorem State.setThread_lockReplies (s : State) (x : TRef) (h : Thread) : (s.setThread x h).lockReplies = s.lockReplies := rfl
@[simp] theorem State.setThread_lockRetries (s : State) (x : TRef) (h : Thread) : (s.setThread x h).lockRetries = s.lockRetries := rfl
@[simp] theorem State.setThread_lockStamps (s : State) (x : TRef) (h : Thread) : (s.setThread x h).lockStamps = s.lockStamps := rfl
@[simp] theorem State.setThread_lkctl (s : State) (x : TRef) (h : Thread) : (s.setThread x h).lkctl = s.lkctl := rfl
@[simp] theorem State.setThread_dlrb (s : State) (x : TRef) (h : Thread) : (s.setThread x h).dlrb = s.dlrb := rfl
@[simp] theorem State.setThread_dlrp (s : State) (x : TRef) (h : Thread) : (s.setThread x h).dlrp = s.dlrp := rfl
@[simp] theorem State.setThread_dlrc (s : State) (x : TRef) (h : Thread) : (s.setThread x h).dlrc = s.dlrc := rfl
@[simp] theorem State.setThread_dlCyc (s : State) (x : TRef) (h : Thread) : (s.setThread x h).dlCyc = s.dlCyc := rfl
@[simp] theorem State.setThread_dlOver (s : State) (x : TRef) (h : Thread) : (s.setThread x h).dlOver = s.dlOver := rfl
@[simp] theorem State.setThread_scanTick (s : State) (x : TRef) (h : Thread) : (s.setThread x h).scanTick = s.scanTick := rfl
@[simp] theorem State.setThread_scanCand (s : State) (x : TRef) (h : Thread) : (s.setThread x h).scanCand = s.scanCand := rfl
@[simp] theorem State.setThread_dlSeen (s : State) (x : TRef) (h : Thread) : (s.setThread x h).dlSeen = s.dlSeen := rfl
@[simp] theorem State.setThread_copies (s : State) (x : TRef) (h : Thread) : (s.setThread x h).copies = s.copies := rfl
@[simp] theorem State.setThread_sprReqs (s : State) (x : TRef) (h : Thread) : (s.setThread x h).sprReqs = s.sprReqs := rfl
@[simp] theorem State.setThread_sprBuf (s : State) (x : TRef) (h : Thread) : (s.setThread x h).sprBuf = s.sprBuf := rfl
@[simp] theorem State.setThread_sprDone (s : State) (x : TRef) (h : Thread) : (s.setThread x h).sprDone = s.sprDone := rfl
@[simp] theorem State.setThread_reqErr (s : State) (x : TRef) (h : Thread) : (s.setThread x h).reqErr = s.reqErr := rfl
@[simp] theorem State.setThread_mcmds (s : State) (x : TRef) (h : Thread) : (s.setThread x h).mcmds = s.mcmds := rfl
@[simp] theorem State.setThread_drains (s : State) (x : TRef) (h : Thread) : (s.setThread x h).drains = s.drains := rfl
@[simp] theorem State.setThread_drainCount (s : State) (x : TRef) (h : Thread) : (s.setThread x h).drainCount = s.drainCount := rfl
@[simp] theorem State.setThread_telctl (s : State) (x : TRef) (h : Thread) : (s.setThread x h).telctl = s.telctl := rfl
@[simp] theorem State.setThread_telRing (s : State) (x : TRef) (h : Thread) : (s.setThread x h).telRing = s.telRing := rfl
@[simp] theorem State.setThread_carriedTraps (s : State) (x : TRef) (h : Thread) : (s.setThread x h).carriedTraps = s.carriedTraps := rfl
@[simp] theorem State.setThread_teams (s : State) (x : TRef) (h : Thread) : (s.setThread x h).teams = s.teams := rfl
@[simp] theorem State.setThread_queues (s : State) (x : TRef) (h : Thread) : (s.setThread x h).queues = s.queues := rfl
@[simp] theorem State.setThread_launches (s : State) (x : TRef) (h : Thread) : (s.setThread x h).launches = s.launches := rfl
@[simp] theorem State.setThread_launchCount (s : State) (x : TRef) (h : Thread) : (s.setThread x h).launchCount = s.launchCount := rfl
@[simp] theorem State.setThread_mbtb (s : State) (x : TRef) (h : Thread) : (s.setThread x h).mbtb = s.mbtb := rfl
@[simp] theorem State.setThread_boxes (s : State) (x : TRef) (h : Thread) : (s.setThread x h).boxes = s.boxes := rfl
@[simp] theorem State.setThread_outbound (s : State) (x : TRef) (h : Thread) : (s.setThread x h).outbound = s.outbound := rfl
@[simp] theorem State.setThread_inbound (s : State) (x : TRef) (h : Thread) : (s.setThread x h).inbound = s.inbound := rfl
@[simp] theorem State.setThread_fenceMarks (s : State) (x : TRef) (h : Thread) : (s.setThread x h).fenceMarks = s.fenceMarks := rfl
@[simp] theorem State.setThread_colls (s : State) (x : TRef) (h : Thread) : (s.setThread x h).colls = s.colls := rfl
@[simp] theorem State.setThread_collCount (s : State) (x : TRef) (h : Thread) : (s.setThread x h).collCount = s.collCount := rfl
@[simp] theorem State.setThread_deadDies (s : State) (x : TRef) (h : Thread) : (s.setThread x h).deadDies = s.deadDies := rfl
@[simp] theorem State.setThread_deadM (s : State) (x : TRef) (h : Thread) : (s.setThread x h).deadM = s.deadM := rfl
@[simp] theorem State.setThread_lostDevs (s : State) (x : TRef) (h : Thread) : (s.setThread x h).lostDevs = s.lostDevs := rfl
@[simp] theorem State.setThread_lostCtxs (s : State) (x : TRef) (h : Thread) : (s.setThread x h).lostCtxs = s.lostCtxs := rfl
@[simp] theorem State.setThread_silos (s : State) (x : TRef) (h : Thread) : (s.setThread x h).silos = s.silos := rfl
@[simp] theorem State.setThread_probes (s : State) (x : TRef) (h : Thread) : (s.setThread x h).probes = s.probes := rfl
@[simp] theorem State.setThread_probeTab (s : State) (x : TRef) (h : Thread) : (s.setThread x h).probeTab = s.probeTab := rfl
@[simp] theorem State.setThread_objClock (s : State) (x : TRef) (h : Thread) : (s.setThread x h).objClock = s.objClock := rfl
@[simp] theorem State.setThread_homeSeq (s : State) (x : TRef) (h : Thread) : (s.setThread x h).homeSeq = s.homeSeq := rfl
@[simp] theorem State.setThread_homeLast (s : State) (x : TRef) (h : Thread) : (s.setThread x h).homeLast = s.homeLast := rfl
@[simp] theorem State.setThread_ckpts (s : State) (x : TRef) (h : Thread) : (s.setThread x h).ckpts = s.ckpts := rfl
@[simp] theorem State.setThread_perf (s : State) (x : TRef) (h : Thread) : (s.setThread x h).perf = s.perf := rfl
@[simp] theorem State.setThread_cutReq (s : State) (x : TRef) (h : Thread) : (s.setThread x h).cutReq = s.cutReq := rfl
@[simp] theorem State.setThread_flight (s : State) (x : TRef) (h : Thread) : (s.setThread x h).flight = s.flight := rfl
@[simp] theorem State.setThread_markers (s : State) (x : TRef) (h : Thread) : (s.setThread x h).markers = s.markers := rfl
@[simp] theorem State.setThread_domSent (s : State) (x : TRef) (h : Thread) : (s.setThread x h).domSent = s.domSent := rfl
@[simp] theorem State.setThread_recOff (s : State) (x : TRef) (h : Thread) : (s.setThread x h).recOff = s.recOff := rfl
@[simp] theorem State.setThread_samplers (s : State) (x : TRef) (h : Thread) : (s.setThread x h).samplers = s.samplers := rfl
@[simp] theorem State.setThread_hist (s : State) (x : TRef) (h : Thread) : (s.setThread x h).hist = s.hist := rfl
@[simp] theorem State.setThread_replays (s : State) (x : TRef) (h : Thread) : (s.setThread x h).replays = s.replays := rfl
@[simp] theorem State.setThread_heldIn (s : State) (x : TRef) (h : Thread) : (s.setThread x h).heldIn = s.heldIn := rfl
@[simp] theorem State.setThread_lcs (s : State) (x : TRef) (h : Thread) : (s.setThread x h).lcs = s.lcs := rfl
@[simp] theorem State.setThread_secst (s : State) (x : TRef) (h : Thread) : (s.setThread x h).secst = s.secst := rfl
@[simp] theorem State.setThread_secReqs (s : State) (x : TRef) (h : Thread) : (s.setThread x h).secReqs = s.secReqs := rfl
@[simp] theorem State.setThread_secTicket (s : State) (x : TRef) (h : Thread) : (s.setThread x h).secTicket = s.secTicket := rfl
@[simp] theorem State.setThread_secDone (s : State) (x : TRef) (h : Thread) : (s.setThread x h).secDone = s.secDone := rfl
@[simp] theorem State.setThread_nonce (s : State) (x : TRef) (h : Thread) : (s.setThread x h).nonce = s.nonce := rfl
@[simp] theorem State.setThread_randCount (s : State) (x : TRef) (h : Thread) : (s.setThread x h).randCount = s.randCount := rfl
@[simp] theorem State.setThread_crypt (s : State) (x : TRef) (h : Thread) : (s.setThread x h).crypt = s.crypt := rfl
@[simp] theorem State.setThread_mr (s : State) (x : TRef) (h : Thread) : (s.setThread x h).mr = s.mr := rfl
@[simp] theorem State.setThread_spareMap (s : State) (x : TRef) (h : Thread) : (s.setThread x h).spareMap = s.spareMap := rfl
@[simp] theorem State.setThread_histTick (s : State) (x : TRef) (h : Thread) : (s.setThread x h).histTick = s.histTick := rfl
@[simp] theorem State.setThread_worn (s : State) (x : TRef) (h : Thread) : (s.setThread x h).worn = s.worn := rfl
@[simp] theorem State.setThread_wear (s : State) (x : TRef) (h : Thread) : (s.setThread x h).wear = s.wear := rfl
@[simp] theorem State.setThread_rowSpares (s : State) (x : TRef) (h : Thread) : (s.setThread x h).rowSpares = s.rowSpares := rfl
@[simp] theorem State.setThread_pcap (s : State) (x : TRef) (h : Thread) : (s.setThread x h).pcap = s.pcap := rfl
@[simp] theorem State.setThread_freqCap (s : State) (x : TRef) (h : Thread) : (s.setThread x h).freqCap = s.freqCap := rfl
@[simp] theorem State.setThread_freqNow (s : State) (x : TRef) (h : Thread) : (s.setThread x h).freqNow = s.freqNow := rfl
@[simp] theorem State.setThread_freqNext (s : State) (x : TRef) (h : Thread) : (s.setThread x h).freqNext = s.freqNext := rfl
@[simp] theorem State.setThread_thermCap (s : State) (x : TRef) (h : Thread) : (s.setThread x h).thermCap = s.thermCap := rfl
@[simp] theorem State.setThread_throttle (s : State) (x : TRef) (h : Thread) : (s.setThread x h).throttle = s.throttle := rfl
@[simp] theorem State.setThread_hotSince (s : State) (x : TRef) (h : Thread) : (s.setThread x h).hotSince = s.hotSince := rfl
@[simp] theorem State.setThread_tripped (s : State) (x : TRef) (h : Thread) : (s.setThread x h).tripped = s.tripped := rfl
@[simp] theorem State.setThread_trips (s : State) (x : TRef) (h : Thread) : (s.setThread x h).trips = s.trips := rfl
@[simp] theorem State.setThread_wipes (s : State) (x : TRef) (h : Thread) : (s.setThread x h).wipes = s.wipes := rfl

/-! ## modThread -/

@[simp] theorem State.modThread_steps (s : State) (x : TRef) (f : Thread → Thread) : (s.modThread x f).steps = s.steps := rfl
@[simp] theorem State.modThread_ptb (s : State) (x : TRef) (f : Thread → Thread) : (s.modThread x f).ptb = s.ptb := rfl
@[simp] theorem State.modThread_cycle (s : State) (x : TRef) (f : Thread → Thread) : (s.modThread x f).cycle = s.cycle := rfl
@[simp] theorem State.modThread_agenda (s : State) (x : TRef) (f : Thread → Thread) : (s.modThread x f).agenda = s.agenda := rfl
@[simp] theorem State.modThread_arg (s : State) (x : TRef) (f : Thread → Thread) : (s.modThread x f).arg = s.arg := rfl
@[simp] theorem State.modThread_issue (s : State) (x : TRef) (f : Thread → Thread) : (s.modThread x f).issue = s.issue := rfl
@[simp] theorem State.modThread_chain (s : State) (x : TRef) (f : Thread → Thread) : (s.modThread x f).chain = s.chain := rfl
@[simp] theorem State.modThread_stalled (s : State) (x : TRef) (f : Thread → Thread) : (s.modThread x f).stalled = s.stalled := rfl
@[simp] theorem State.modThread_lastCore (s : State) (x : TRef) (f : Thread → Thread) : (s.modThread x f).lastCore = s.lastCore := rfl
@[simp] theorem State.modThread_next (s : State) (x : TRef) (f : Thread → Thread) : (s.modThread x f).next = s.next := rfl
@[simp] theorem State.modThread_blocks (s : State) (x : TRef) (f : Thread → Thread) : (s.modThread x f).blocks = s.blocks := rfl
@[simp] theorem State.modThread_cores (s : State) (x : TRef) (f : Thread → Thread) : (s.modThread x f).cores = s.cores := rfl
@[simp] theorem State.modThread_ctlb (s : State) (x : TRef) (f : Thread → Thread) : (s.modThread x f).ctlb = s.ctlb := rfl
@[simp] theorem State.modThread_ctxs (s : State) (x : TRef) (f : Thread → Thread) : (s.modThread x f).ctxs = s.ctxs := rfl
@[simp] theorem State.modThread_mem (s : State) (x : TRef) (f : Thread → Thread) : (s.modThread x f).mem = s.mem := rfl
@[simp] theorem State.modThread_poison (s : State) (x : TRef) (f : Thread → Thread) : (s.modThread x f).poison = s.poison := rfl
@[simp] theorem State.modThread_l2 (s : State) (x : TRef) (f : Thread → Thread) : (s.modThread x f).l2 = s.l2 := rfl
@[simp] theorem State.modThread_dir (s : State) (x : TRef) (f : Thread → Thread) : (s.modThread x f).dir = s.dir := rfl
@[simp] theorem State.modThread_toHome (s : State) (x : TRef) (f : Thread → Thread) : (s.modThread x f).toHome = s.toHome := rfl
@[simp] theorem State.modThread_toAgent (s : State) (x : TRef) (f : Thread → Thread) : (s.modThread x f).toAgent = s.toAgent := rfl
@[simp] theorem State.modThread_retries (s : State) (x : TRef) (f : Thread → Thread) : (s.modThread x f).retries = s.retries := rfl
@[simp] theorem State.modThread_homeOps (s : State) (x : TRef) (f : Thread → Thread) : (s.modThread x f).homeOps = s.homeOps := rfl
@[simp] theorem State.modThread_hostHad (s : State) (x : TRef) (f : Thread → Thread) : (s.modThread x f).hostHad = s.hostHad := rfl
@[simp] theorem State.modThread_l3 (s : State) (x : TRef) (f : Thread → Thread) : (s.modThread x f).l3 = s.l3 := rfl
@[simp] theorem State.modThread_pers (s : State) (x : TRef) (f : Thread → Thread) : (s.modThread x f).pers = s.pers := rfl
@[simp] theorem State.modThread_accs (s : State) (x : TRef) (f : Thread → Thread) : (s.modThread x f).accs = s.accs := rfl
@[simp] theorem State.modThread_walks (s : State) (x : TRef) (f : Thread → Thread) : (s.modThread x f).walks = s.walks := rfl
@[simp] theorem State.modThread_ptos (s : State) (x : TRef) (f : Thread → Thread) : (s.modThread x f).ptos = s.ptos := rfl
@[simp] theorem State.modThread_collapses (s : State) (x : TRef) (f : Thread → Thread) : (s.modThread x f).collapses = s.collapses := rfl
@[simp] theorem State.modThread_posts (s : State) (x : TRef) (f : Thread → Thread) : (s.modThread x f).posts = s.posts := rfl
@[simp] theorem State.modThread_rrb (s : State) (x : TRef) (f : Thread → Thread) : (s.modThread x f).rrb = s.rrb := rfl
@[simp] theorem State.modThread_domid (s : State) (x : TRef) (f : Thread → Thread) : (s.modThread x f).domid = s.domid := rfl
@[simp] theorem State.modThread_reach (s : State) (x : TRef) (f : Thread → Thread) : (s.modThread x f).reach = s.reach := rfl
@[simp] theorem State.modThread_pred (s : State) (x : TRef) (f : Thread → Thread) : (s.modThread x f).pred = s.pred := rfl
@[simp] theorem State.modThread_nearLast (s : State) (x : TRef) (f : Thread → Thread) : (s.modThread x f).nearLast = s.nearLast := rfl
@[simp] theorem State.modThread_locks (s : State) (x : TRef) (f : Thread → Thread) : (s.modThread x f).locks = s.locks := rfl
@[simp] theorem State.modThread_lockMarks (s : State) (x : TRef) (f : Thread → Thread) : (s.modThread x f).lockMarks = s.lockMarks := rfl
@[simp] theorem State.modThread_lockMsgs (s : State) (x : TRef) (f : Thread → Thread) : (s.modThread x f).lockMsgs = s.lockMsgs := rfl
@[simp] theorem State.modThread_lockReplies (s : State) (x : TRef) (f : Thread → Thread) : (s.modThread x f).lockReplies = s.lockReplies := rfl
@[simp] theorem State.modThread_lockRetries (s : State) (x : TRef) (f : Thread → Thread) : (s.modThread x f).lockRetries = s.lockRetries := rfl
@[simp] theorem State.modThread_lockStamps (s : State) (x : TRef) (f : Thread → Thread) : (s.modThread x f).lockStamps = s.lockStamps := rfl
@[simp] theorem State.modThread_lkctl (s : State) (x : TRef) (f : Thread → Thread) : (s.modThread x f).lkctl = s.lkctl := rfl
@[simp] theorem State.modThread_dlrb (s : State) (x : TRef) (f : Thread → Thread) : (s.modThread x f).dlrb = s.dlrb := rfl
@[simp] theorem State.modThread_dlrp (s : State) (x : TRef) (f : Thread → Thread) : (s.modThread x f).dlrp = s.dlrp := rfl
@[simp] theorem State.modThread_dlrc (s : State) (x : TRef) (f : Thread → Thread) : (s.modThread x f).dlrc = s.dlrc := rfl
@[simp] theorem State.modThread_dlCyc (s : State) (x : TRef) (f : Thread → Thread) : (s.modThread x f).dlCyc = s.dlCyc := rfl
@[simp] theorem State.modThread_dlOver (s : State) (x : TRef) (f : Thread → Thread) : (s.modThread x f).dlOver = s.dlOver := rfl
@[simp] theorem State.modThread_scanTick (s : State) (x : TRef) (f : Thread → Thread) : (s.modThread x f).scanTick = s.scanTick := rfl
@[simp] theorem State.modThread_scanCand (s : State) (x : TRef) (f : Thread → Thread) : (s.modThread x f).scanCand = s.scanCand := rfl
@[simp] theorem State.modThread_dlSeen (s : State) (x : TRef) (f : Thread → Thread) : (s.modThread x f).dlSeen = s.dlSeen := rfl
@[simp] theorem State.modThread_copies (s : State) (x : TRef) (f : Thread → Thread) : (s.modThread x f).copies = s.copies := rfl
@[simp] theorem State.modThread_sprReqs (s : State) (x : TRef) (f : Thread → Thread) : (s.modThread x f).sprReqs = s.sprReqs := rfl
@[simp] theorem State.modThread_sprBuf (s : State) (x : TRef) (f : Thread → Thread) : (s.modThread x f).sprBuf = s.sprBuf := rfl
@[simp] theorem State.modThread_sprDone (s : State) (x : TRef) (f : Thread → Thread) : (s.modThread x f).sprDone = s.sprDone := rfl
@[simp] theorem State.modThread_reqErr (s : State) (x : TRef) (f : Thread → Thread) : (s.modThread x f).reqErr = s.reqErr := rfl
@[simp] theorem State.modThread_mcmds (s : State) (x : TRef) (f : Thread → Thread) : (s.modThread x f).mcmds = s.mcmds := rfl
@[simp] theorem State.modThread_drains (s : State) (x : TRef) (f : Thread → Thread) : (s.modThread x f).drains = s.drains := rfl
@[simp] theorem State.modThread_drainCount (s : State) (x : TRef) (f : Thread → Thread) : (s.modThread x f).drainCount = s.drainCount := rfl
@[simp] theorem State.modThread_telctl (s : State) (x : TRef) (f : Thread → Thread) : (s.modThread x f).telctl = s.telctl := rfl
@[simp] theorem State.modThread_telRing (s : State) (x : TRef) (f : Thread → Thread) : (s.modThread x f).telRing = s.telRing := rfl
@[simp] theorem State.modThread_carriedTraps (s : State) (x : TRef) (f : Thread → Thread) : (s.modThread x f).carriedTraps = s.carriedTraps := rfl
@[simp] theorem State.modThread_teams (s : State) (x : TRef) (f : Thread → Thread) : (s.modThread x f).teams = s.teams := rfl
@[simp] theorem State.modThread_queues (s : State) (x : TRef) (f : Thread → Thread) : (s.modThread x f).queues = s.queues := rfl
@[simp] theorem State.modThread_launches (s : State) (x : TRef) (f : Thread → Thread) : (s.modThread x f).launches = s.launches := rfl
@[simp] theorem State.modThread_launchCount (s : State) (x : TRef) (f : Thread → Thread) : (s.modThread x f).launchCount = s.launchCount := rfl
@[simp] theorem State.modThread_mbtb (s : State) (x : TRef) (f : Thread → Thread) : (s.modThread x f).mbtb = s.mbtb := rfl
@[simp] theorem State.modThread_boxes (s : State) (x : TRef) (f : Thread → Thread) : (s.modThread x f).boxes = s.boxes := rfl
@[simp] theorem State.modThread_outbound (s : State) (x : TRef) (f : Thread → Thread) : (s.modThread x f).outbound = s.outbound := rfl
@[simp] theorem State.modThread_inbound (s : State) (x : TRef) (f : Thread → Thread) : (s.modThread x f).inbound = s.inbound := rfl
@[simp] theorem State.modThread_fenceMarks (s : State) (x : TRef) (f : Thread → Thread) : (s.modThread x f).fenceMarks = s.fenceMarks := rfl
@[simp] theorem State.modThread_colls (s : State) (x : TRef) (f : Thread → Thread) : (s.modThread x f).colls = s.colls := rfl
@[simp] theorem State.modThread_collCount (s : State) (x : TRef) (f : Thread → Thread) : (s.modThread x f).collCount = s.collCount := rfl
@[simp] theorem State.modThread_deadDies (s : State) (x : TRef) (f : Thread → Thread) : (s.modThread x f).deadDies = s.deadDies := rfl
@[simp] theorem State.modThread_deadM (s : State) (x : TRef) (f : Thread → Thread) : (s.modThread x f).deadM = s.deadM := rfl
@[simp] theorem State.modThread_lostDevs (s : State) (x : TRef) (f : Thread → Thread) : (s.modThread x f).lostDevs = s.lostDevs := rfl
@[simp] theorem State.modThread_lostCtxs (s : State) (x : TRef) (f : Thread → Thread) : (s.modThread x f).lostCtxs = s.lostCtxs := rfl
@[simp] theorem State.modThread_silos (s : State) (x : TRef) (f : Thread → Thread) : (s.modThread x f).silos = s.silos := rfl
@[simp] theorem State.modThread_probes (s : State) (x : TRef) (f : Thread → Thread) : (s.modThread x f).probes = s.probes := rfl
@[simp] theorem State.modThread_probeTab (s : State) (x : TRef) (f : Thread → Thread) : (s.modThread x f).probeTab = s.probeTab := rfl
@[simp] theorem State.modThread_objClock (s : State) (x : TRef) (f : Thread → Thread) : (s.modThread x f).objClock = s.objClock := rfl
@[simp] theorem State.modThread_homeSeq (s : State) (x : TRef) (f : Thread → Thread) : (s.modThread x f).homeSeq = s.homeSeq := rfl
@[simp] theorem State.modThread_homeLast (s : State) (x : TRef) (f : Thread → Thread) : (s.modThread x f).homeLast = s.homeLast := rfl
@[simp] theorem State.modThread_ckpts (s : State) (x : TRef) (f : Thread → Thread) : (s.modThread x f).ckpts = s.ckpts := rfl
@[simp] theorem State.modThread_perf (s : State) (x : TRef) (f : Thread → Thread) : (s.modThread x f).perf = s.perf := rfl
@[simp] theorem State.modThread_cutReq (s : State) (x : TRef) (f : Thread → Thread) : (s.modThread x f).cutReq = s.cutReq := rfl
@[simp] theorem State.modThread_flight (s : State) (x : TRef) (f : Thread → Thread) : (s.modThread x f).flight = s.flight := rfl
@[simp] theorem State.modThread_markers (s : State) (x : TRef) (f : Thread → Thread) : (s.modThread x f).markers = s.markers := rfl
@[simp] theorem State.modThread_domSent (s : State) (x : TRef) (f : Thread → Thread) : (s.modThread x f).domSent = s.domSent := rfl
@[simp] theorem State.modThread_recOff (s : State) (x : TRef) (f : Thread → Thread) : (s.modThread x f).recOff = s.recOff := rfl
@[simp] theorem State.modThread_samplers (s : State) (x : TRef) (f : Thread → Thread) : (s.modThread x f).samplers = s.samplers := rfl
@[simp] theorem State.modThread_hist (s : State) (x : TRef) (f : Thread → Thread) : (s.modThread x f).hist = s.hist := rfl
@[simp] theorem State.modThread_replays (s : State) (x : TRef) (f : Thread → Thread) : (s.modThread x f).replays = s.replays := rfl
@[simp] theorem State.modThread_heldIn (s : State) (x : TRef) (f : Thread → Thread) : (s.modThread x f).heldIn = s.heldIn := rfl
@[simp] theorem State.modThread_lcs (s : State) (x : TRef) (f : Thread → Thread) : (s.modThread x f).lcs = s.lcs := rfl
@[simp] theorem State.modThread_secst (s : State) (x : TRef) (f : Thread → Thread) : (s.modThread x f).secst = s.secst := rfl
@[simp] theorem State.modThread_secReqs (s : State) (x : TRef) (f : Thread → Thread) : (s.modThread x f).secReqs = s.secReqs := rfl
@[simp] theorem State.modThread_secTicket (s : State) (x : TRef) (f : Thread → Thread) : (s.modThread x f).secTicket = s.secTicket := rfl
@[simp] theorem State.modThread_secDone (s : State) (x : TRef) (f : Thread → Thread) : (s.modThread x f).secDone = s.secDone := rfl
@[simp] theorem State.modThread_nonce (s : State) (x : TRef) (f : Thread → Thread) : (s.modThread x f).nonce = s.nonce := rfl
@[simp] theorem State.modThread_randCount (s : State) (x : TRef) (f : Thread → Thread) : (s.modThread x f).randCount = s.randCount := rfl
@[simp] theorem State.modThread_crypt (s : State) (x : TRef) (f : Thread → Thread) : (s.modThread x f).crypt = s.crypt := rfl
@[simp] theorem State.modThread_mr (s : State) (x : TRef) (f : Thread → Thread) : (s.modThread x f).mr = s.mr := rfl
@[simp] theorem State.modThread_spareMap (s : State) (x : TRef) (f : Thread → Thread) : (s.modThread x f).spareMap = s.spareMap := rfl
@[simp] theorem State.modThread_histTick (s : State) (x : TRef) (f : Thread → Thread) : (s.modThread x f).histTick = s.histTick := rfl
@[simp] theorem State.modThread_worn (s : State) (x : TRef) (f : Thread → Thread) : (s.modThread x f).worn = s.worn := rfl
@[simp] theorem State.modThread_wear (s : State) (x : TRef) (f : Thread → Thread) : (s.modThread x f).wear = s.wear := rfl
@[simp] theorem State.modThread_rowSpares (s : State) (x : TRef) (f : Thread → Thread) : (s.modThread x f).rowSpares = s.rowSpares := rfl
@[simp] theorem State.modThread_pcap (s : State) (x : TRef) (f : Thread → Thread) : (s.modThread x f).pcap = s.pcap := rfl
@[simp] theorem State.modThread_freqCap (s : State) (x : TRef) (f : Thread → Thread) : (s.modThread x f).freqCap = s.freqCap := rfl
@[simp] theorem State.modThread_freqNow (s : State) (x : TRef) (f : Thread → Thread) : (s.modThread x f).freqNow = s.freqNow := rfl
@[simp] theorem State.modThread_freqNext (s : State) (x : TRef) (f : Thread → Thread) : (s.modThread x f).freqNext = s.freqNext := rfl
@[simp] theorem State.modThread_thermCap (s : State) (x : TRef) (f : Thread → Thread) : (s.modThread x f).thermCap = s.thermCap := rfl
@[simp] theorem State.modThread_throttle (s : State) (x : TRef) (f : Thread → Thread) : (s.modThread x f).throttle = s.throttle := rfl
@[simp] theorem State.modThread_hotSince (s : State) (x : TRef) (f : Thread → Thread) : (s.modThread x f).hotSince = s.hotSince := rfl
@[simp] theorem State.modThread_tripped (s : State) (x : TRef) (f : Thread → Thread) : (s.modThread x f).tripped = s.tripped := rfl
@[simp] theorem State.modThread_trips (s : State) (x : TRef) (f : Thread → Thread) : (s.modThread x f).trips = s.trips := rfl
@[simp] theorem State.modThread_wipes (s : State) (x : TRef) (f : Thread → Thread) : (s.modThread x f).wipes = s.wipes := rfl

/-! ## modWave -/

@[simp] theorem State.modWave_steps (s : State) (u : Nat) (f : Wave → Wave) : (s.modWave u f).steps = s.steps := rfl
@[simp] theorem State.modWave_ptb (s : State) (u : Nat) (f : Wave → Wave) : (s.modWave u f).ptb = s.ptb := rfl
@[simp] theorem State.modWave_cycle (s : State) (u : Nat) (f : Wave → Wave) : (s.modWave u f).cycle = s.cycle := rfl
@[simp] theorem State.modWave_agenda (s : State) (u : Nat) (f : Wave → Wave) : (s.modWave u f).agenda = s.agenda := rfl
@[simp] theorem State.modWave_arg (s : State) (u : Nat) (f : Wave → Wave) : (s.modWave u f).arg = s.arg := rfl
@[simp] theorem State.modWave_issue (s : State) (u : Nat) (f : Wave → Wave) : (s.modWave u f).issue = s.issue := rfl
@[simp] theorem State.modWave_chain (s : State) (u : Nat) (f : Wave → Wave) : (s.modWave u f).chain = s.chain := rfl
@[simp] theorem State.modWave_stalled (s : State) (u : Nat) (f : Wave → Wave) : (s.modWave u f).stalled = s.stalled := rfl
@[simp] theorem State.modWave_lastCore (s : State) (u : Nat) (f : Wave → Wave) : (s.modWave u f).lastCore = s.lastCore := rfl
@[simp] theorem State.modWave_next (s : State) (u : Nat) (f : Wave → Wave) : (s.modWave u f).next = s.next := rfl
@[simp] theorem State.modWave_blocks (s : State) (u : Nat) (f : Wave → Wave) : (s.modWave u f).blocks = s.blocks := rfl
@[simp] theorem State.modWave_cores (s : State) (u : Nat) (f : Wave → Wave) : (s.modWave u f).cores = s.cores := rfl
@[simp] theorem State.modWave_ctlb (s : State) (u : Nat) (f : Wave → Wave) : (s.modWave u f).ctlb = s.ctlb := rfl
@[simp] theorem State.modWave_ctxs (s : State) (u : Nat) (f : Wave → Wave) : (s.modWave u f).ctxs = s.ctxs := rfl
@[simp] theorem State.modWave_mem (s : State) (u : Nat) (f : Wave → Wave) : (s.modWave u f).mem = s.mem := rfl
@[simp] theorem State.modWave_poison (s : State) (u : Nat) (f : Wave → Wave) : (s.modWave u f).poison = s.poison := rfl
@[simp] theorem State.modWave_l2 (s : State) (u : Nat) (f : Wave → Wave) : (s.modWave u f).l2 = s.l2 := rfl
@[simp] theorem State.modWave_dir (s : State) (u : Nat) (f : Wave → Wave) : (s.modWave u f).dir = s.dir := rfl
@[simp] theorem State.modWave_toHome (s : State) (u : Nat) (f : Wave → Wave) : (s.modWave u f).toHome = s.toHome := rfl
@[simp] theorem State.modWave_toAgent (s : State) (u : Nat) (f : Wave → Wave) : (s.modWave u f).toAgent = s.toAgent := rfl
@[simp] theorem State.modWave_retries (s : State) (u : Nat) (f : Wave → Wave) : (s.modWave u f).retries = s.retries := rfl
@[simp] theorem State.modWave_homeOps (s : State) (u : Nat) (f : Wave → Wave) : (s.modWave u f).homeOps = s.homeOps := rfl
@[simp] theorem State.modWave_hostHad (s : State) (u : Nat) (f : Wave → Wave) : (s.modWave u f).hostHad = s.hostHad := rfl
@[simp] theorem State.modWave_l3 (s : State) (u : Nat) (f : Wave → Wave) : (s.modWave u f).l3 = s.l3 := rfl
@[simp] theorem State.modWave_pers (s : State) (u : Nat) (f : Wave → Wave) : (s.modWave u f).pers = s.pers := rfl
@[simp] theorem State.modWave_accs (s : State) (u : Nat) (f : Wave → Wave) : (s.modWave u f).accs = s.accs := rfl
@[simp] theorem State.modWave_walks (s : State) (u : Nat) (f : Wave → Wave) : (s.modWave u f).walks = s.walks := rfl
@[simp] theorem State.modWave_ptos (s : State) (u : Nat) (f : Wave → Wave) : (s.modWave u f).ptos = s.ptos := rfl
@[simp] theorem State.modWave_collapses (s : State) (u : Nat) (f : Wave → Wave) : (s.modWave u f).collapses = s.collapses := rfl
@[simp] theorem State.modWave_posts (s : State) (u : Nat) (f : Wave → Wave) : (s.modWave u f).posts = s.posts := rfl
@[simp] theorem State.modWave_rrb (s : State) (u : Nat) (f : Wave → Wave) : (s.modWave u f).rrb = s.rrb := rfl
@[simp] theorem State.modWave_domid (s : State) (u : Nat) (f : Wave → Wave) : (s.modWave u f).domid = s.domid := rfl
@[simp] theorem State.modWave_reach (s : State) (u : Nat) (f : Wave → Wave) : (s.modWave u f).reach = s.reach := rfl
@[simp] theorem State.modWave_pred (s : State) (u : Nat) (f : Wave → Wave) : (s.modWave u f).pred = s.pred := rfl
@[simp] theorem State.modWave_nearLast (s : State) (u : Nat) (f : Wave → Wave) : (s.modWave u f).nearLast = s.nearLast := rfl
@[simp] theorem State.modWave_locks (s : State) (u : Nat) (f : Wave → Wave) : (s.modWave u f).locks = s.locks := rfl
@[simp] theorem State.modWave_lockMarks (s : State) (u : Nat) (f : Wave → Wave) : (s.modWave u f).lockMarks = s.lockMarks := rfl
@[simp] theorem State.modWave_lockMsgs (s : State) (u : Nat) (f : Wave → Wave) : (s.modWave u f).lockMsgs = s.lockMsgs := rfl
@[simp] theorem State.modWave_lockReplies (s : State) (u : Nat) (f : Wave → Wave) : (s.modWave u f).lockReplies = s.lockReplies := rfl
@[simp] theorem State.modWave_lockRetries (s : State) (u : Nat) (f : Wave → Wave) : (s.modWave u f).lockRetries = s.lockRetries := rfl
@[simp] theorem State.modWave_lockStamps (s : State) (u : Nat) (f : Wave → Wave) : (s.modWave u f).lockStamps = s.lockStamps := rfl
@[simp] theorem State.modWave_lkctl (s : State) (u : Nat) (f : Wave → Wave) : (s.modWave u f).lkctl = s.lkctl := rfl
@[simp] theorem State.modWave_dlrb (s : State) (u : Nat) (f : Wave → Wave) : (s.modWave u f).dlrb = s.dlrb := rfl
@[simp] theorem State.modWave_dlrp (s : State) (u : Nat) (f : Wave → Wave) : (s.modWave u f).dlrp = s.dlrp := rfl
@[simp] theorem State.modWave_dlrc (s : State) (u : Nat) (f : Wave → Wave) : (s.modWave u f).dlrc = s.dlrc := rfl
@[simp] theorem State.modWave_dlCyc (s : State) (u : Nat) (f : Wave → Wave) : (s.modWave u f).dlCyc = s.dlCyc := rfl
@[simp] theorem State.modWave_dlOver (s : State) (u : Nat) (f : Wave → Wave) : (s.modWave u f).dlOver = s.dlOver := rfl
@[simp] theorem State.modWave_scanTick (s : State) (u : Nat) (f : Wave → Wave) : (s.modWave u f).scanTick = s.scanTick := rfl
@[simp] theorem State.modWave_scanCand (s : State) (u : Nat) (f : Wave → Wave) : (s.modWave u f).scanCand = s.scanCand := rfl
@[simp] theorem State.modWave_dlSeen (s : State) (u : Nat) (f : Wave → Wave) : (s.modWave u f).dlSeen = s.dlSeen := rfl
@[simp] theorem State.modWave_copies (s : State) (u : Nat) (f : Wave → Wave) : (s.modWave u f).copies = s.copies := rfl
@[simp] theorem State.modWave_sprReqs (s : State) (u : Nat) (f : Wave → Wave) : (s.modWave u f).sprReqs = s.sprReqs := rfl
@[simp] theorem State.modWave_sprBuf (s : State) (u : Nat) (f : Wave → Wave) : (s.modWave u f).sprBuf = s.sprBuf := rfl
@[simp] theorem State.modWave_sprDone (s : State) (u : Nat) (f : Wave → Wave) : (s.modWave u f).sprDone = s.sprDone := rfl
@[simp] theorem State.modWave_reqErr (s : State) (u : Nat) (f : Wave → Wave) : (s.modWave u f).reqErr = s.reqErr := rfl
@[simp] theorem State.modWave_mcmds (s : State) (u : Nat) (f : Wave → Wave) : (s.modWave u f).mcmds = s.mcmds := rfl
@[simp] theorem State.modWave_drains (s : State) (u : Nat) (f : Wave → Wave) : (s.modWave u f).drains = s.drains := rfl
@[simp] theorem State.modWave_drainCount (s : State) (u : Nat) (f : Wave → Wave) : (s.modWave u f).drainCount = s.drainCount := rfl
@[simp] theorem State.modWave_telctl (s : State) (u : Nat) (f : Wave → Wave) : (s.modWave u f).telctl = s.telctl := rfl
@[simp] theorem State.modWave_telRing (s : State) (u : Nat) (f : Wave → Wave) : (s.modWave u f).telRing = s.telRing := rfl
@[simp] theorem State.modWave_carriedTraps (s : State) (u : Nat) (f : Wave → Wave) : (s.modWave u f).carriedTraps = s.carriedTraps := rfl
@[simp] theorem State.modWave_teams (s : State) (u : Nat) (f : Wave → Wave) : (s.modWave u f).teams = s.teams := rfl
@[simp] theorem State.modWave_queues (s : State) (u : Nat) (f : Wave → Wave) : (s.modWave u f).queues = s.queues := rfl
@[simp] theorem State.modWave_launches (s : State) (u : Nat) (f : Wave → Wave) : (s.modWave u f).launches = s.launches := rfl
@[simp] theorem State.modWave_launchCount (s : State) (u : Nat) (f : Wave → Wave) : (s.modWave u f).launchCount = s.launchCount := rfl
@[simp] theorem State.modWave_mbtb (s : State) (u : Nat) (f : Wave → Wave) : (s.modWave u f).mbtb = s.mbtb := rfl
@[simp] theorem State.modWave_boxes (s : State) (u : Nat) (f : Wave → Wave) : (s.modWave u f).boxes = s.boxes := rfl
@[simp] theorem State.modWave_outbound (s : State) (u : Nat) (f : Wave → Wave) : (s.modWave u f).outbound = s.outbound := rfl
@[simp] theorem State.modWave_inbound (s : State) (u : Nat) (f : Wave → Wave) : (s.modWave u f).inbound = s.inbound := rfl
@[simp] theorem State.modWave_fenceMarks (s : State) (u : Nat) (f : Wave → Wave) : (s.modWave u f).fenceMarks = s.fenceMarks := rfl
@[simp] theorem State.modWave_colls (s : State) (u : Nat) (f : Wave → Wave) : (s.modWave u f).colls = s.colls := rfl
@[simp] theorem State.modWave_collCount (s : State) (u : Nat) (f : Wave → Wave) : (s.modWave u f).collCount = s.collCount := rfl
@[simp] theorem State.modWave_deadDies (s : State) (u : Nat) (f : Wave → Wave) : (s.modWave u f).deadDies = s.deadDies := rfl
@[simp] theorem State.modWave_deadM (s : State) (u : Nat) (f : Wave → Wave) : (s.modWave u f).deadM = s.deadM := rfl
@[simp] theorem State.modWave_lostDevs (s : State) (u : Nat) (f : Wave → Wave) : (s.modWave u f).lostDevs = s.lostDevs := rfl
@[simp] theorem State.modWave_lostCtxs (s : State) (u : Nat) (f : Wave → Wave) : (s.modWave u f).lostCtxs = s.lostCtxs := rfl
@[simp] theorem State.modWave_silos (s : State) (u : Nat) (f : Wave → Wave) : (s.modWave u f).silos = s.silos := rfl
@[simp] theorem State.modWave_probes (s : State) (u : Nat) (f : Wave → Wave) : (s.modWave u f).probes = s.probes := rfl
@[simp] theorem State.modWave_probeTab (s : State) (u : Nat) (f : Wave → Wave) : (s.modWave u f).probeTab = s.probeTab := rfl
@[simp] theorem State.modWave_objClock (s : State) (u : Nat) (f : Wave → Wave) : (s.modWave u f).objClock = s.objClock := rfl
@[simp] theorem State.modWave_homeSeq (s : State) (u : Nat) (f : Wave → Wave) : (s.modWave u f).homeSeq = s.homeSeq := rfl
@[simp] theorem State.modWave_homeLast (s : State) (u : Nat) (f : Wave → Wave) : (s.modWave u f).homeLast = s.homeLast := rfl
@[simp] theorem State.modWave_ckpts (s : State) (u : Nat) (f : Wave → Wave) : (s.modWave u f).ckpts = s.ckpts := rfl
@[simp] theorem State.modWave_perf (s : State) (u : Nat) (f : Wave → Wave) : (s.modWave u f).perf = s.perf := rfl
@[simp] theorem State.modWave_cutReq (s : State) (u : Nat) (f : Wave → Wave) : (s.modWave u f).cutReq = s.cutReq := rfl
@[simp] theorem State.modWave_flight (s : State) (u : Nat) (f : Wave → Wave) : (s.modWave u f).flight = s.flight := rfl
@[simp] theorem State.modWave_markers (s : State) (u : Nat) (f : Wave → Wave) : (s.modWave u f).markers = s.markers := rfl
@[simp] theorem State.modWave_domSent (s : State) (u : Nat) (f : Wave → Wave) : (s.modWave u f).domSent = s.domSent := rfl
@[simp] theorem State.modWave_recOff (s : State) (u : Nat) (f : Wave → Wave) : (s.modWave u f).recOff = s.recOff := rfl
@[simp] theorem State.modWave_samplers (s : State) (u : Nat) (f : Wave → Wave) : (s.modWave u f).samplers = s.samplers := rfl
@[simp] theorem State.modWave_hist (s : State) (u : Nat) (f : Wave → Wave) : (s.modWave u f).hist = s.hist := rfl
@[simp] theorem State.modWave_replays (s : State) (u : Nat) (f : Wave → Wave) : (s.modWave u f).replays = s.replays := rfl
@[simp] theorem State.modWave_heldIn (s : State) (u : Nat) (f : Wave → Wave) : (s.modWave u f).heldIn = s.heldIn := rfl
@[simp] theorem State.modWave_lcs (s : State) (u : Nat) (f : Wave → Wave) : (s.modWave u f).lcs = s.lcs := rfl
@[simp] theorem State.modWave_secst (s : State) (u : Nat) (f : Wave → Wave) : (s.modWave u f).secst = s.secst := rfl
@[simp] theorem State.modWave_secReqs (s : State) (u : Nat) (f : Wave → Wave) : (s.modWave u f).secReqs = s.secReqs := rfl
@[simp] theorem State.modWave_secTicket (s : State) (u : Nat) (f : Wave → Wave) : (s.modWave u f).secTicket = s.secTicket := rfl
@[simp] theorem State.modWave_secDone (s : State) (u : Nat) (f : Wave → Wave) : (s.modWave u f).secDone = s.secDone := rfl
@[simp] theorem State.modWave_nonce (s : State) (u : Nat) (f : Wave → Wave) : (s.modWave u f).nonce = s.nonce := rfl
@[simp] theorem State.modWave_randCount (s : State) (u : Nat) (f : Wave → Wave) : (s.modWave u f).randCount = s.randCount := rfl
@[simp] theorem State.modWave_crypt (s : State) (u : Nat) (f : Wave → Wave) : (s.modWave u f).crypt = s.crypt := rfl
@[simp] theorem State.modWave_mr (s : State) (u : Nat) (f : Wave → Wave) : (s.modWave u f).mr = s.mr := rfl
@[simp] theorem State.modWave_spareMap (s : State) (u : Nat) (f : Wave → Wave) : (s.modWave u f).spareMap = s.spareMap := rfl
@[simp] theorem State.modWave_histTick (s : State) (u : Nat) (f : Wave → Wave) : (s.modWave u f).histTick = s.histTick := rfl
@[simp] theorem State.modWave_worn (s : State) (u : Nat) (f : Wave → Wave) : (s.modWave u f).worn = s.worn := rfl
@[simp] theorem State.modWave_wear (s : State) (u : Nat) (f : Wave → Wave) : (s.modWave u f).wear = s.wear := rfl
@[simp] theorem State.modWave_rowSpares (s : State) (u : Nat) (f : Wave → Wave) : (s.modWave u f).rowSpares = s.rowSpares := rfl
@[simp] theorem State.modWave_pcap (s : State) (u : Nat) (f : Wave → Wave) : (s.modWave u f).pcap = s.pcap := rfl
@[simp] theorem State.modWave_freqCap (s : State) (u : Nat) (f : Wave → Wave) : (s.modWave u f).freqCap = s.freqCap := rfl
@[simp] theorem State.modWave_freqNow (s : State) (u : Nat) (f : Wave → Wave) : (s.modWave u f).freqNow = s.freqNow := rfl
@[simp] theorem State.modWave_freqNext (s : State) (u : Nat) (f : Wave → Wave) : (s.modWave u f).freqNext = s.freqNext := rfl
@[simp] theorem State.modWave_thermCap (s : State) (u : Nat) (f : Wave → Wave) : (s.modWave u f).thermCap = s.thermCap := rfl
@[simp] theorem State.modWave_throttle (s : State) (u : Nat) (f : Wave → Wave) : (s.modWave u f).throttle = s.throttle := rfl
@[simp] theorem State.modWave_hotSince (s : State) (u : Nat) (f : Wave → Wave) : (s.modWave u f).hotSince = s.hotSince := rfl
@[simp] theorem State.modWave_tripped (s : State) (u : Nat) (f : Wave → Wave) : (s.modWave u f).tripped = s.tripped := rfl
@[simp] theorem State.modWave_trips (s : State) (u : Nat) (f : Wave → Wave) : (s.modWave u f).trips = s.trips := rfl
@[simp] theorem State.modWave_wipes (s : State) (u : Nat) (f : Wave → Wave) : (s.modWave u f).wipes = s.wipes := rfl

/-! ## setBlock -/

@[simp] theorem State.setBlock_steps (s : State) (b : Nat) (k : Block) : (s.setBlock b k).steps = s.steps := rfl
@[simp] theorem State.setBlock_ptb (s : State) (b : Nat) (k : Block) : (s.setBlock b k).ptb = s.ptb := rfl
@[simp] theorem State.setBlock_cycle (s : State) (b : Nat) (k : Block) : (s.setBlock b k).cycle = s.cycle := rfl
@[simp] theorem State.setBlock_agenda (s : State) (b : Nat) (k : Block) : (s.setBlock b k).agenda = s.agenda := rfl
@[simp] theorem State.setBlock_arg (s : State) (b : Nat) (k : Block) : (s.setBlock b k).arg = s.arg := rfl
@[simp] theorem State.setBlock_issue (s : State) (b : Nat) (k : Block) : (s.setBlock b k).issue = s.issue := rfl
@[simp] theorem State.setBlock_chain (s : State) (b : Nat) (k : Block) : (s.setBlock b k).chain = s.chain := rfl
@[simp] theorem State.setBlock_stalled (s : State) (b : Nat) (k : Block) : (s.setBlock b k).stalled = s.stalled := rfl
@[simp] theorem State.setBlock_lastCore (s : State) (b : Nat) (k : Block) : (s.setBlock b k).lastCore = s.lastCore := rfl
@[simp] theorem State.setBlock_next (s : State) (b : Nat) (k : Block) : (s.setBlock b k).next = s.next := rfl
@[simp] theorem State.setBlock_waves (s : State) (b : Nat) (k : Block) : (s.setBlock b k).waves = s.waves := rfl
@[simp] theorem State.setBlock_cores (s : State) (b : Nat) (k : Block) : (s.setBlock b k).cores = s.cores := rfl
@[simp] theorem State.setBlock_ctlb (s : State) (b : Nat) (k : Block) : (s.setBlock b k).ctlb = s.ctlb := rfl
@[simp] theorem State.setBlock_ctxs (s : State) (b : Nat) (k : Block) : (s.setBlock b k).ctxs = s.ctxs := rfl
@[simp] theorem State.setBlock_mem (s : State) (b : Nat) (k : Block) : (s.setBlock b k).mem = s.mem := rfl
@[simp] theorem State.setBlock_poison (s : State) (b : Nat) (k : Block) : (s.setBlock b k).poison = s.poison := rfl
@[simp] theorem State.setBlock_l2 (s : State) (b : Nat) (k : Block) : (s.setBlock b k).l2 = s.l2 := rfl
@[simp] theorem State.setBlock_dir (s : State) (b : Nat) (k : Block) : (s.setBlock b k).dir = s.dir := rfl
@[simp] theorem State.setBlock_toHome (s : State) (b : Nat) (k : Block) : (s.setBlock b k).toHome = s.toHome := rfl
@[simp] theorem State.setBlock_toAgent (s : State) (b : Nat) (k : Block) : (s.setBlock b k).toAgent = s.toAgent := rfl
@[simp] theorem State.setBlock_retries (s : State) (b : Nat) (k : Block) : (s.setBlock b k).retries = s.retries := rfl
@[simp] theorem State.setBlock_homeOps (s : State) (b : Nat) (k : Block) : (s.setBlock b k).homeOps = s.homeOps := rfl
@[simp] theorem State.setBlock_hostHad (s : State) (b : Nat) (k : Block) : (s.setBlock b k).hostHad = s.hostHad := rfl
@[simp] theorem State.setBlock_l3 (s : State) (b : Nat) (k : Block) : (s.setBlock b k).l3 = s.l3 := rfl
@[simp] theorem State.setBlock_pers (s : State) (b : Nat) (k : Block) : (s.setBlock b k).pers = s.pers := rfl
@[simp] theorem State.setBlock_accs (s : State) (b : Nat) (k : Block) : (s.setBlock b k).accs = s.accs := rfl
@[simp] theorem State.setBlock_walks (s : State) (b : Nat) (k : Block) : (s.setBlock b k).walks = s.walks := rfl
@[simp] theorem State.setBlock_ptos (s : State) (b : Nat) (k : Block) : (s.setBlock b k).ptos = s.ptos := rfl
@[simp] theorem State.setBlock_collapses (s : State) (b : Nat) (k : Block) : (s.setBlock b k).collapses = s.collapses := rfl
@[simp] theorem State.setBlock_posts (s : State) (b : Nat) (k : Block) : (s.setBlock b k).posts = s.posts := rfl
@[simp] theorem State.setBlock_rrb (s : State) (b : Nat) (k : Block) : (s.setBlock b k).rrb = s.rrb := rfl
@[simp] theorem State.setBlock_domid (s : State) (b : Nat) (k : Block) : (s.setBlock b k).domid = s.domid := rfl
@[simp] theorem State.setBlock_reach (s : State) (b : Nat) (k : Block) : (s.setBlock b k).reach = s.reach := rfl
@[simp] theorem State.setBlock_pred (s : State) (b : Nat) (k : Block) : (s.setBlock b k).pred = s.pred := rfl
@[simp] theorem State.setBlock_nearLast (s : State) (b : Nat) (k : Block) : (s.setBlock b k).nearLast = s.nearLast := rfl
@[simp] theorem State.setBlock_locks (s : State) (b : Nat) (k : Block) : (s.setBlock b k).locks = s.locks := rfl
@[simp] theorem State.setBlock_lockMarks (s : State) (b : Nat) (k : Block) : (s.setBlock b k).lockMarks = s.lockMarks := rfl
@[simp] theorem State.setBlock_lockMsgs (s : State) (b : Nat) (k : Block) : (s.setBlock b k).lockMsgs = s.lockMsgs := rfl
@[simp] theorem State.setBlock_lockReplies (s : State) (b : Nat) (k : Block) : (s.setBlock b k).lockReplies = s.lockReplies := rfl
@[simp] theorem State.setBlock_lockRetries (s : State) (b : Nat) (k : Block) : (s.setBlock b k).lockRetries = s.lockRetries := rfl
@[simp] theorem State.setBlock_lockStamps (s : State) (b : Nat) (k : Block) : (s.setBlock b k).lockStamps = s.lockStamps := rfl
@[simp] theorem State.setBlock_lkctl (s : State) (b : Nat) (k : Block) : (s.setBlock b k).lkctl = s.lkctl := rfl
@[simp] theorem State.setBlock_dlrb (s : State) (b : Nat) (k : Block) : (s.setBlock b k).dlrb = s.dlrb := rfl
@[simp] theorem State.setBlock_dlrp (s : State) (b : Nat) (k : Block) : (s.setBlock b k).dlrp = s.dlrp := rfl
@[simp] theorem State.setBlock_dlrc (s : State) (b : Nat) (k : Block) : (s.setBlock b k).dlrc = s.dlrc := rfl
@[simp] theorem State.setBlock_dlCyc (s : State) (b : Nat) (k : Block) : (s.setBlock b k).dlCyc = s.dlCyc := rfl
@[simp] theorem State.setBlock_dlOver (s : State) (b : Nat) (k : Block) : (s.setBlock b k).dlOver = s.dlOver := rfl
@[simp] theorem State.setBlock_scanTick (s : State) (b : Nat) (k : Block) : (s.setBlock b k).scanTick = s.scanTick := rfl
@[simp] theorem State.setBlock_scanCand (s : State) (b : Nat) (k : Block) : (s.setBlock b k).scanCand = s.scanCand := rfl
@[simp] theorem State.setBlock_dlSeen (s : State) (b : Nat) (k : Block) : (s.setBlock b k).dlSeen = s.dlSeen := rfl
@[simp] theorem State.setBlock_copies (s : State) (b : Nat) (k : Block) : (s.setBlock b k).copies = s.copies := rfl
@[simp] theorem State.setBlock_sprReqs (s : State) (b : Nat) (k : Block) : (s.setBlock b k).sprReqs = s.sprReqs := rfl
@[simp] theorem State.setBlock_sprBuf (s : State) (b : Nat) (k : Block) : (s.setBlock b k).sprBuf = s.sprBuf := rfl
@[simp] theorem State.setBlock_sprDone (s : State) (b : Nat) (k : Block) : (s.setBlock b k).sprDone = s.sprDone := rfl
@[simp] theorem State.setBlock_reqErr (s : State) (b : Nat) (k : Block) : (s.setBlock b k).reqErr = s.reqErr := rfl
@[simp] theorem State.setBlock_mcmds (s : State) (b : Nat) (k : Block) : (s.setBlock b k).mcmds = s.mcmds := rfl
@[simp] theorem State.setBlock_drains (s : State) (b : Nat) (k : Block) : (s.setBlock b k).drains = s.drains := rfl
@[simp] theorem State.setBlock_drainCount (s : State) (b : Nat) (k : Block) : (s.setBlock b k).drainCount = s.drainCount := rfl
@[simp] theorem State.setBlock_telctl (s : State) (b : Nat) (k : Block) : (s.setBlock b k).telctl = s.telctl := rfl
@[simp] theorem State.setBlock_telRing (s : State) (b : Nat) (k : Block) : (s.setBlock b k).telRing = s.telRing := rfl
@[simp] theorem State.setBlock_carriedTraps (s : State) (b : Nat) (k : Block) : (s.setBlock b k).carriedTraps = s.carriedTraps := rfl
@[simp] theorem State.setBlock_teams (s : State) (b : Nat) (k : Block) : (s.setBlock b k).teams = s.teams := rfl
@[simp] theorem State.setBlock_queues (s : State) (b : Nat) (k : Block) : (s.setBlock b k).queues = s.queues := rfl
@[simp] theorem State.setBlock_launches (s : State) (b : Nat) (k : Block) : (s.setBlock b k).launches = s.launches := rfl
@[simp] theorem State.setBlock_launchCount (s : State) (b : Nat) (k : Block) : (s.setBlock b k).launchCount = s.launchCount := rfl
@[simp] theorem State.setBlock_mbtb (s : State) (b : Nat) (k : Block) : (s.setBlock b k).mbtb = s.mbtb := rfl
@[simp] theorem State.setBlock_boxes (s : State) (b : Nat) (k : Block) : (s.setBlock b k).boxes = s.boxes := rfl
@[simp] theorem State.setBlock_outbound (s : State) (b : Nat) (k : Block) : (s.setBlock b k).outbound = s.outbound := rfl
@[simp] theorem State.setBlock_inbound (s : State) (b : Nat) (k : Block) : (s.setBlock b k).inbound = s.inbound := rfl
@[simp] theorem State.setBlock_fenceMarks (s : State) (b : Nat) (k : Block) : (s.setBlock b k).fenceMarks = s.fenceMarks := rfl
@[simp] theorem State.setBlock_colls (s : State) (b : Nat) (k : Block) : (s.setBlock b k).colls = s.colls := rfl
@[simp] theorem State.setBlock_collCount (s : State) (b : Nat) (k : Block) : (s.setBlock b k).collCount = s.collCount := rfl
@[simp] theorem State.setBlock_deadDies (s : State) (b : Nat) (k : Block) : (s.setBlock b k).deadDies = s.deadDies := rfl
@[simp] theorem State.setBlock_deadM (s : State) (b : Nat) (k : Block) : (s.setBlock b k).deadM = s.deadM := rfl
@[simp] theorem State.setBlock_lostDevs (s : State) (b : Nat) (k : Block) : (s.setBlock b k).lostDevs = s.lostDevs := rfl
@[simp] theorem State.setBlock_lostCtxs (s : State) (b : Nat) (k : Block) : (s.setBlock b k).lostCtxs = s.lostCtxs := rfl
@[simp] theorem State.setBlock_silos (s : State) (b : Nat) (k : Block) : (s.setBlock b k).silos = s.silos := rfl
@[simp] theorem State.setBlock_probes (s : State) (b : Nat) (k : Block) : (s.setBlock b k).probes = s.probes := rfl
@[simp] theorem State.setBlock_probeTab (s : State) (b : Nat) (k : Block) : (s.setBlock b k).probeTab = s.probeTab := rfl
@[simp] theorem State.setBlock_objClock (s : State) (b : Nat) (k : Block) : (s.setBlock b k).objClock = s.objClock := rfl
@[simp] theorem State.setBlock_homeSeq (s : State) (b : Nat) (k : Block) : (s.setBlock b k).homeSeq = s.homeSeq := rfl
@[simp] theorem State.setBlock_homeLast (s : State) (b : Nat) (k : Block) : (s.setBlock b k).homeLast = s.homeLast := rfl
@[simp] theorem State.setBlock_ckpts (s : State) (b : Nat) (k : Block) : (s.setBlock b k).ckpts = s.ckpts := rfl
@[simp] theorem State.setBlock_perf (s : State) (b : Nat) (k : Block) : (s.setBlock b k).perf = s.perf := rfl
@[simp] theorem State.setBlock_cutReq (s : State) (b : Nat) (k : Block) : (s.setBlock b k).cutReq = s.cutReq := rfl
@[simp] theorem State.setBlock_flight (s : State) (b : Nat) (k : Block) : (s.setBlock b k).flight = s.flight := rfl
@[simp] theorem State.setBlock_markers (s : State) (b : Nat) (k : Block) : (s.setBlock b k).markers = s.markers := rfl
@[simp] theorem State.setBlock_domSent (s : State) (b : Nat) (k : Block) : (s.setBlock b k).domSent = s.domSent := rfl
@[simp] theorem State.setBlock_recOff (s : State) (b : Nat) (k : Block) : (s.setBlock b k).recOff = s.recOff := rfl
@[simp] theorem State.setBlock_samplers (s : State) (b : Nat) (k : Block) : (s.setBlock b k).samplers = s.samplers := rfl
@[simp] theorem State.setBlock_hist (s : State) (b : Nat) (k : Block) : (s.setBlock b k).hist = s.hist := rfl
@[simp] theorem State.setBlock_replays (s : State) (b : Nat) (k : Block) : (s.setBlock b k).replays = s.replays := rfl
@[simp] theorem State.setBlock_heldIn (s : State) (b : Nat) (k : Block) : (s.setBlock b k).heldIn = s.heldIn := rfl
@[simp] theorem State.setBlock_lcs (s : State) (b : Nat) (k : Block) : (s.setBlock b k).lcs = s.lcs := rfl
@[simp] theorem State.setBlock_secst (s : State) (b : Nat) (k : Block) : (s.setBlock b k).secst = s.secst := rfl
@[simp] theorem State.setBlock_secReqs (s : State) (b : Nat) (k : Block) : (s.setBlock b k).secReqs = s.secReqs := rfl
@[simp] theorem State.setBlock_secTicket (s : State) (b : Nat) (k : Block) : (s.setBlock b k).secTicket = s.secTicket := rfl
@[simp] theorem State.setBlock_secDone (s : State) (b : Nat) (k : Block) : (s.setBlock b k).secDone = s.secDone := rfl
@[simp] theorem State.setBlock_nonce (s : State) (b : Nat) (k : Block) : (s.setBlock b k).nonce = s.nonce := rfl
@[simp] theorem State.setBlock_randCount (s : State) (b : Nat) (k : Block) : (s.setBlock b k).randCount = s.randCount := rfl
@[simp] theorem State.setBlock_crypt (s : State) (b : Nat) (k : Block) : (s.setBlock b k).crypt = s.crypt := rfl
@[simp] theorem State.setBlock_mr (s : State) (b : Nat) (k : Block) : (s.setBlock b k).mr = s.mr := rfl
@[simp] theorem State.setBlock_spareMap (s : State) (b : Nat) (k : Block) : (s.setBlock b k).spareMap = s.spareMap := rfl
@[simp] theorem State.setBlock_histTick (s : State) (b : Nat) (k : Block) : (s.setBlock b k).histTick = s.histTick := rfl
@[simp] theorem State.setBlock_worn (s : State) (b : Nat) (k : Block) : (s.setBlock b k).worn = s.worn := rfl
@[simp] theorem State.setBlock_wear (s : State) (b : Nat) (k : Block) : (s.setBlock b k).wear = s.wear := rfl
@[simp] theorem State.setBlock_rowSpares (s : State) (b : Nat) (k : Block) : (s.setBlock b k).rowSpares = s.rowSpares := rfl
@[simp] theorem State.setBlock_pcap (s : State) (b : Nat) (k : Block) : (s.setBlock b k).pcap = s.pcap := rfl
@[simp] theorem State.setBlock_freqCap (s : State) (b : Nat) (k : Block) : (s.setBlock b k).freqCap = s.freqCap := rfl
@[simp] theorem State.setBlock_freqNow (s : State) (b : Nat) (k : Block) : (s.setBlock b k).freqNow = s.freqNow := rfl
@[simp] theorem State.setBlock_freqNext (s : State) (b : Nat) (k : Block) : (s.setBlock b k).freqNext = s.freqNext := rfl
@[simp] theorem State.setBlock_thermCap (s : State) (b : Nat) (k : Block) : (s.setBlock b k).thermCap = s.thermCap := rfl
@[simp] theorem State.setBlock_throttle (s : State) (b : Nat) (k : Block) : (s.setBlock b k).throttle = s.throttle := rfl
@[simp] theorem State.setBlock_hotSince (s : State) (b : Nat) (k : Block) : (s.setBlock b k).hotSince = s.hotSince := rfl
@[simp] theorem State.setBlock_tripped (s : State) (b : Nat) (k : Block) : (s.setBlock b k).tripped = s.tripped := rfl
@[simp] theorem State.setBlock_trips (s : State) (b : Nat) (k : Block) : (s.setBlock b k).trips = s.trips := rfl
@[simp] theorem State.setBlock_wipes (s : State) (b : Nat) (k : Block) : (s.setBlock b k).wipes = s.wipes := rfl

/-! ## setCore -/

@[simp] theorem State.setCore_steps (s : State) (c : Nat) (k : CoreState) : (s.setCore c k).steps = s.steps := rfl
@[simp] theorem State.setCore_ptb (s : State) (c : Nat) (k : CoreState) : (s.setCore c k).ptb = s.ptb := rfl
@[simp] theorem State.setCore_cycle (s : State) (c : Nat) (k : CoreState) : (s.setCore c k).cycle = s.cycle := rfl
@[simp] theorem State.setCore_agenda (s : State) (c : Nat) (k : CoreState) : (s.setCore c k).agenda = s.agenda := rfl
@[simp] theorem State.setCore_arg (s : State) (c : Nat) (k : CoreState) : (s.setCore c k).arg = s.arg := rfl
@[simp] theorem State.setCore_issue (s : State) (c : Nat) (k : CoreState) : (s.setCore c k).issue = s.issue := rfl
@[simp] theorem State.setCore_chain (s : State) (c : Nat) (k : CoreState) : (s.setCore c k).chain = s.chain := rfl
@[simp] theorem State.setCore_stalled (s : State) (c : Nat) (k : CoreState) : (s.setCore c k).stalled = s.stalled := rfl
@[simp] theorem State.setCore_lastCore (s : State) (c : Nat) (k : CoreState) : (s.setCore c k).lastCore = s.lastCore := rfl
@[simp] theorem State.setCore_next (s : State) (c : Nat) (k : CoreState) : (s.setCore c k).next = s.next := rfl
@[simp] theorem State.setCore_waves (s : State) (c : Nat) (k : CoreState) : (s.setCore c k).waves = s.waves := rfl
@[simp] theorem State.setCore_blocks (s : State) (c : Nat) (k : CoreState) : (s.setCore c k).blocks = s.blocks := rfl
@[simp] theorem State.setCore_ctlb (s : State) (c : Nat) (k : CoreState) : (s.setCore c k).ctlb = s.ctlb := rfl
@[simp] theorem State.setCore_ctxs (s : State) (c : Nat) (k : CoreState) : (s.setCore c k).ctxs = s.ctxs := rfl
@[simp] theorem State.setCore_mem (s : State) (c : Nat) (k : CoreState) : (s.setCore c k).mem = s.mem := rfl
@[simp] theorem State.setCore_poison (s : State) (c : Nat) (k : CoreState) : (s.setCore c k).poison = s.poison := rfl
@[simp] theorem State.setCore_l2 (s : State) (c : Nat) (k : CoreState) : (s.setCore c k).l2 = s.l2 := rfl
@[simp] theorem State.setCore_dir (s : State) (c : Nat) (k : CoreState) : (s.setCore c k).dir = s.dir := rfl
@[simp] theorem State.setCore_toHome (s : State) (c : Nat) (k : CoreState) : (s.setCore c k).toHome = s.toHome := rfl
@[simp] theorem State.setCore_toAgent (s : State) (c : Nat) (k : CoreState) : (s.setCore c k).toAgent = s.toAgent := rfl
@[simp] theorem State.setCore_retries (s : State) (c : Nat) (k : CoreState) : (s.setCore c k).retries = s.retries := rfl
@[simp] theorem State.setCore_homeOps (s : State) (c : Nat) (k : CoreState) : (s.setCore c k).homeOps = s.homeOps := rfl
@[simp] theorem State.setCore_hostHad (s : State) (c : Nat) (k : CoreState) : (s.setCore c k).hostHad = s.hostHad := rfl
@[simp] theorem State.setCore_l3 (s : State) (c : Nat) (k : CoreState) : (s.setCore c k).l3 = s.l3 := rfl
@[simp] theorem State.setCore_pers (s : State) (c : Nat) (k : CoreState) : (s.setCore c k).pers = s.pers := rfl
@[simp] theorem State.setCore_accs (s : State) (c : Nat) (k : CoreState) : (s.setCore c k).accs = s.accs := rfl
@[simp] theorem State.setCore_walks (s : State) (c : Nat) (k : CoreState) : (s.setCore c k).walks = s.walks := rfl
@[simp] theorem State.setCore_ptos (s : State) (c : Nat) (k : CoreState) : (s.setCore c k).ptos = s.ptos := rfl
@[simp] theorem State.setCore_collapses (s : State) (c : Nat) (k : CoreState) : (s.setCore c k).collapses = s.collapses := rfl
@[simp] theorem State.setCore_posts (s : State) (c : Nat) (k : CoreState) : (s.setCore c k).posts = s.posts := rfl
@[simp] theorem State.setCore_rrb (s : State) (c : Nat) (k : CoreState) : (s.setCore c k).rrb = s.rrb := rfl
@[simp] theorem State.setCore_domid (s : State) (c : Nat) (k : CoreState) : (s.setCore c k).domid = s.domid := rfl
@[simp] theorem State.setCore_reach (s : State) (c : Nat) (k : CoreState) : (s.setCore c k).reach = s.reach := rfl
@[simp] theorem State.setCore_pred (s : State) (c : Nat) (k : CoreState) : (s.setCore c k).pred = s.pred := rfl
@[simp] theorem State.setCore_nearLast (s : State) (c : Nat) (k : CoreState) : (s.setCore c k).nearLast = s.nearLast := rfl
@[simp] theorem State.setCore_locks (s : State) (c : Nat) (k : CoreState) : (s.setCore c k).locks = s.locks := rfl
@[simp] theorem State.setCore_lockMarks (s : State) (c : Nat) (k : CoreState) : (s.setCore c k).lockMarks = s.lockMarks := rfl
@[simp] theorem State.setCore_lockMsgs (s : State) (c : Nat) (k : CoreState) : (s.setCore c k).lockMsgs = s.lockMsgs := rfl
@[simp] theorem State.setCore_lockReplies (s : State) (c : Nat) (k : CoreState) : (s.setCore c k).lockReplies = s.lockReplies := rfl
@[simp] theorem State.setCore_lockRetries (s : State) (c : Nat) (k : CoreState) : (s.setCore c k).lockRetries = s.lockRetries := rfl
@[simp] theorem State.setCore_lockStamps (s : State) (c : Nat) (k : CoreState) : (s.setCore c k).lockStamps = s.lockStamps := rfl
@[simp] theorem State.setCore_lkctl (s : State) (c : Nat) (k : CoreState) : (s.setCore c k).lkctl = s.lkctl := rfl
@[simp] theorem State.setCore_dlrb (s : State) (c : Nat) (k : CoreState) : (s.setCore c k).dlrb = s.dlrb := rfl
@[simp] theorem State.setCore_dlrp (s : State) (c : Nat) (k : CoreState) : (s.setCore c k).dlrp = s.dlrp := rfl
@[simp] theorem State.setCore_dlrc (s : State) (c : Nat) (k : CoreState) : (s.setCore c k).dlrc = s.dlrc := rfl
@[simp] theorem State.setCore_dlCyc (s : State) (c : Nat) (k : CoreState) : (s.setCore c k).dlCyc = s.dlCyc := rfl
@[simp] theorem State.setCore_dlOver (s : State) (c : Nat) (k : CoreState) : (s.setCore c k).dlOver = s.dlOver := rfl
@[simp] theorem State.setCore_scanTick (s : State) (c : Nat) (k : CoreState) : (s.setCore c k).scanTick = s.scanTick := rfl
@[simp] theorem State.setCore_scanCand (s : State) (c : Nat) (k : CoreState) : (s.setCore c k).scanCand = s.scanCand := rfl
@[simp] theorem State.setCore_dlSeen (s : State) (c : Nat) (k : CoreState) : (s.setCore c k).dlSeen = s.dlSeen := rfl
@[simp] theorem State.setCore_copies (s : State) (c : Nat) (k : CoreState) : (s.setCore c k).copies = s.copies := rfl
@[simp] theorem State.setCore_sprReqs (s : State) (c : Nat) (k : CoreState) : (s.setCore c k).sprReqs = s.sprReqs := rfl
@[simp] theorem State.setCore_sprBuf (s : State) (c : Nat) (k : CoreState) : (s.setCore c k).sprBuf = s.sprBuf := rfl
@[simp] theorem State.setCore_sprDone (s : State) (c : Nat) (k : CoreState) : (s.setCore c k).sprDone = s.sprDone := rfl
@[simp] theorem State.setCore_reqErr (s : State) (c : Nat) (k : CoreState) : (s.setCore c k).reqErr = s.reqErr := rfl
@[simp] theorem State.setCore_mcmds (s : State) (c : Nat) (k : CoreState) : (s.setCore c k).mcmds = s.mcmds := rfl
@[simp] theorem State.setCore_drains (s : State) (c : Nat) (k : CoreState) : (s.setCore c k).drains = s.drains := rfl
@[simp] theorem State.setCore_drainCount (s : State) (c : Nat) (k : CoreState) : (s.setCore c k).drainCount = s.drainCount := rfl
@[simp] theorem State.setCore_telctl (s : State) (c : Nat) (k : CoreState) : (s.setCore c k).telctl = s.telctl := rfl
@[simp] theorem State.setCore_telRing (s : State) (c : Nat) (k : CoreState) : (s.setCore c k).telRing = s.telRing := rfl
@[simp] theorem State.setCore_carriedTraps (s : State) (c : Nat) (k : CoreState) : (s.setCore c k).carriedTraps = s.carriedTraps := rfl
@[simp] theorem State.setCore_teams (s : State) (c : Nat) (k : CoreState) : (s.setCore c k).teams = s.teams := rfl
@[simp] theorem State.setCore_queues (s : State) (c : Nat) (k : CoreState) : (s.setCore c k).queues = s.queues := rfl
@[simp] theorem State.setCore_launches (s : State) (c : Nat) (k : CoreState) : (s.setCore c k).launches = s.launches := rfl
@[simp] theorem State.setCore_launchCount (s : State) (c : Nat) (k : CoreState) : (s.setCore c k).launchCount = s.launchCount := rfl
@[simp] theorem State.setCore_mbtb (s : State) (c : Nat) (k : CoreState) : (s.setCore c k).mbtb = s.mbtb := rfl
@[simp] theorem State.setCore_boxes (s : State) (c : Nat) (k : CoreState) : (s.setCore c k).boxes = s.boxes := rfl
@[simp] theorem State.setCore_outbound (s : State) (c : Nat) (k : CoreState) : (s.setCore c k).outbound = s.outbound := rfl
@[simp] theorem State.setCore_inbound (s : State) (c : Nat) (k : CoreState) : (s.setCore c k).inbound = s.inbound := rfl
@[simp] theorem State.setCore_fenceMarks (s : State) (c : Nat) (k : CoreState) : (s.setCore c k).fenceMarks = s.fenceMarks := rfl
@[simp] theorem State.setCore_colls (s : State) (c : Nat) (k : CoreState) : (s.setCore c k).colls = s.colls := rfl
@[simp] theorem State.setCore_collCount (s : State) (c : Nat) (k : CoreState) : (s.setCore c k).collCount = s.collCount := rfl
@[simp] theorem State.setCore_deadDies (s : State) (c : Nat) (k : CoreState) : (s.setCore c k).deadDies = s.deadDies := rfl
@[simp] theorem State.setCore_deadM (s : State) (c : Nat) (k : CoreState) : (s.setCore c k).deadM = s.deadM := rfl
@[simp] theorem State.setCore_lostDevs (s : State) (c : Nat) (k : CoreState) : (s.setCore c k).lostDevs = s.lostDevs := rfl
@[simp] theorem State.setCore_lostCtxs (s : State) (c : Nat) (k : CoreState) : (s.setCore c k).lostCtxs = s.lostCtxs := rfl
@[simp] theorem State.setCore_silos (s : State) (c : Nat) (k : CoreState) : (s.setCore c k).silos = s.silos := rfl
@[simp] theorem State.setCore_probes (s : State) (c : Nat) (k : CoreState) : (s.setCore c k).probes = s.probes := rfl
@[simp] theorem State.setCore_probeTab (s : State) (c : Nat) (k : CoreState) : (s.setCore c k).probeTab = s.probeTab := rfl
@[simp] theorem State.setCore_objClock (s : State) (c : Nat) (k : CoreState) : (s.setCore c k).objClock = s.objClock := rfl
@[simp] theorem State.setCore_homeSeq (s : State) (c : Nat) (k : CoreState) : (s.setCore c k).homeSeq = s.homeSeq := rfl
@[simp] theorem State.setCore_homeLast (s : State) (c : Nat) (k : CoreState) : (s.setCore c k).homeLast = s.homeLast := rfl
@[simp] theorem State.setCore_ckpts (s : State) (c : Nat) (k : CoreState) : (s.setCore c k).ckpts = s.ckpts := rfl
@[simp] theorem State.setCore_perf (s : State) (c : Nat) (k : CoreState) : (s.setCore c k).perf = s.perf := rfl
@[simp] theorem State.setCore_cutReq (s : State) (c : Nat) (k : CoreState) : (s.setCore c k).cutReq = s.cutReq := rfl
@[simp] theorem State.setCore_flight (s : State) (c : Nat) (k : CoreState) : (s.setCore c k).flight = s.flight := rfl
@[simp] theorem State.setCore_markers (s : State) (c : Nat) (k : CoreState) : (s.setCore c k).markers = s.markers := rfl
@[simp] theorem State.setCore_domSent (s : State) (c : Nat) (k : CoreState) : (s.setCore c k).domSent = s.domSent := rfl
@[simp] theorem State.setCore_recOff (s : State) (c : Nat) (k : CoreState) : (s.setCore c k).recOff = s.recOff := rfl
@[simp] theorem State.setCore_samplers (s : State) (c : Nat) (k : CoreState) : (s.setCore c k).samplers = s.samplers := rfl
@[simp] theorem State.setCore_hist (s : State) (c : Nat) (k : CoreState) : (s.setCore c k).hist = s.hist := rfl
@[simp] theorem State.setCore_replays (s : State) (c : Nat) (k : CoreState) : (s.setCore c k).replays = s.replays := rfl
@[simp] theorem State.setCore_heldIn (s : State) (c : Nat) (k : CoreState) : (s.setCore c k).heldIn = s.heldIn := rfl
@[simp] theorem State.setCore_lcs (s : State) (c : Nat) (k : CoreState) : (s.setCore c k).lcs = s.lcs := rfl
@[simp] theorem State.setCore_secst (s : State) (c : Nat) (k : CoreState) : (s.setCore c k).secst = s.secst := rfl
@[simp] theorem State.setCore_secReqs (s : State) (c : Nat) (k : CoreState) : (s.setCore c k).secReqs = s.secReqs := rfl
@[simp] theorem State.setCore_secTicket (s : State) (c : Nat) (k : CoreState) : (s.setCore c k).secTicket = s.secTicket := rfl
@[simp] theorem State.setCore_secDone (s : State) (c : Nat) (k : CoreState) : (s.setCore c k).secDone = s.secDone := rfl
@[simp] theorem State.setCore_nonce (s : State) (c : Nat) (k : CoreState) : (s.setCore c k).nonce = s.nonce := rfl
@[simp] theorem State.setCore_randCount (s : State) (c : Nat) (k : CoreState) : (s.setCore c k).randCount = s.randCount := rfl
@[simp] theorem State.setCore_crypt (s : State) (c : Nat) (k : CoreState) : (s.setCore c k).crypt = s.crypt := rfl
@[simp] theorem State.setCore_mr (s : State) (c : Nat) (k : CoreState) : (s.setCore c k).mr = s.mr := rfl
@[simp] theorem State.setCore_spareMap (s : State) (c : Nat) (k : CoreState) : (s.setCore c k).spareMap = s.spareMap := rfl
@[simp] theorem State.setCore_histTick (s : State) (c : Nat) (k : CoreState) : (s.setCore c k).histTick = s.histTick := rfl
@[simp] theorem State.setCore_worn (s : State) (c : Nat) (k : CoreState) : (s.setCore c k).worn = s.worn := rfl
@[simp] theorem State.setCore_wear (s : State) (c : Nat) (k : CoreState) : (s.setCore c k).wear = s.wear := rfl
@[simp] theorem State.setCore_rowSpares (s : State) (c : Nat) (k : CoreState) : (s.setCore c k).rowSpares = s.rowSpares := rfl
@[simp] theorem State.setCore_pcap (s : State) (c : Nat) (k : CoreState) : (s.setCore c k).pcap = s.pcap := rfl
@[simp] theorem State.setCore_freqCap (s : State) (c : Nat) (k : CoreState) : (s.setCore c k).freqCap = s.freqCap := rfl
@[simp] theorem State.setCore_freqNow (s : State) (c : Nat) (k : CoreState) : (s.setCore c k).freqNow = s.freqNow := rfl
@[simp] theorem State.setCore_freqNext (s : State) (c : Nat) (k : CoreState) : (s.setCore c k).freqNext = s.freqNext := rfl
@[simp] theorem State.setCore_thermCap (s : State) (c : Nat) (k : CoreState) : (s.setCore c k).thermCap = s.thermCap := rfl
@[simp] theorem State.setCore_throttle (s : State) (c : Nat) (k : CoreState) : (s.setCore c k).throttle = s.throttle := rfl
@[simp] theorem State.setCore_hotSince (s : State) (c : Nat) (k : CoreState) : (s.setCore c k).hotSince = s.hotSince := rfl
@[simp] theorem State.setCore_tripped (s : State) (c : Nat) (k : CoreState) : (s.setCore c k).tripped = s.tripped := rfl
@[simp] theorem State.setCore_trips (s : State) (c : Nat) (k : CoreState) : (s.setCore c k).trips = s.trips := rfl
@[simp] theorem State.setCore_wipes (s : State) (c : Nat) (k : CoreState) : (s.setCore c k).wipes = s.wipes := rfl

/-! ## setCtx -/

@[simp] theorem State.setCtx_steps (s : State) (c : Nat) (r : CtxRegs) : (s.setCtx c r).steps = s.steps := rfl
@[simp] theorem State.setCtx_ptb (s : State) (c : Nat) (r : CtxRegs) : (s.setCtx c r).ptb = s.ptb := rfl
@[simp] theorem State.setCtx_cycle (s : State) (c : Nat) (r : CtxRegs) : (s.setCtx c r).cycle = s.cycle := rfl
@[simp] theorem State.setCtx_agenda (s : State) (c : Nat) (r : CtxRegs) : (s.setCtx c r).agenda = s.agenda := rfl
@[simp] theorem State.setCtx_arg (s : State) (c : Nat) (r : CtxRegs) : (s.setCtx c r).arg = s.arg := rfl
@[simp] theorem State.setCtx_issue (s : State) (c : Nat) (r : CtxRegs) : (s.setCtx c r).issue = s.issue := rfl
@[simp] theorem State.setCtx_chain (s : State) (c : Nat) (r : CtxRegs) : (s.setCtx c r).chain = s.chain := rfl
@[simp] theorem State.setCtx_stalled (s : State) (c : Nat) (r : CtxRegs) : (s.setCtx c r).stalled = s.stalled := rfl
@[simp] theorem State.setCtx_lastCore (s : State) (c : Nat) (r : CtxRegs) : (s.setCtx c r).lastCore = s.lastCore := rfl
@[simp] theorem State.setCtx_next (s : State) (c : Nat) (r : CtxRegs) : (s.setCtx c r).next = s.next := rfl
@[simp] theorem State.setCtx_waves (s : State) (c : Nat) (r : CtxRegs) : (s.setCtx c r).waves = s.waves := rfl
@[simp] theorem State.setCtx_blocks (s : State) (c : Nat) (r : CtxRegs) : (s.setCtx c r).blocks = s.blocks := rfl
@[simp] theorem State.setCtx_cores (s : State) (c : Nat) (r : CtxRegs) : (s.setCtx c r).cores = s.cores := rfl
@[simp] theorem State.setCtx_ctlb (s : State) (c : Nat) (r : CtxRegs) : (s.setCtx c r).ctlb = s.ctlb := rfl
@[simp] theorem State.setCtx_mem (s : State) (c : Nat) (r : CtxRegs) : (s.setCtx c r).mem = s.mem := rfl
@[simp] theorem State.setCtx_poison (s : State) (c : Nat) (r : CtxRegs) : (s.setCtx c r).poison = s.poison := rfl
@[simp] theorem State.setCtx_l2 (s : State) (c : Nat) (r : CtxRegs) : (s.setCtx c r).l2 = s.l2 := rfl
@[simp] theorem State.setCtx_dir (s : State) (c : Nat) (r : CtxRegs) : (s.setCtx c r).dir = s.dir := rfl
@[simp] theorem State.setCtx_toHome (s : State) (c : Nat) (r : CtxRegs) : (s.setCtx c r).toHome = s.toHome := rfl
@[simp] theorem State.setCtx_toAgent (s : State) (c : Nat) (r : CtxRegs) : (s.setCtx c r).toAgent = s.toAgent := rfl
@[simp] theorem State.setCtx_retries (s : State) (c : Nat) (r : CtxRegs) : (s.setCtx c r).retries = s.retries := rfl
@[simp] theorem State.setCtx_homeOps (s : State) (c : Nat) (r : CtxRegs) : (s.setCtx c r).homeOps = s.homeOps := rfl
@[simp] theorem State.setCtx_hostHad (s : State) (c : Nat) (r : CtxRegs) : (s.setCtx c r).hostHad = s.hostHad := rfl
@[simp] theorem State.setCtx_l3 (s : State) (c : Nat) (r : CtxRegs) : (s.setCtx c r).l3 = s.l3 := rfl
@[simp] theorem State.setCtx_pers (s : State) (c : Nat) (r : CtxRegs) : (s.setCtx c r).pers = s.pers := rfl
@[simp] theorem State.setCtx_accs (s : State) (c : Nat) (r : CtxRegs) : (s.setCtx c r).accs = s.accs := rfl
@[simp] theorem State.setCtx_walks (s : State) (c : Nat) (r : CtxRegs) : (s.setCtx c r).walks = s.walks := rfl
@[simp] theorem State.setCtx_ptos (s : State) (c : Nat) (r : CtxRegs) : (s.setCtx c r).ptos = s.ptos := rfl
@[simp] theorem State.setCtx_collapses (s : State) (c : Nat) (r : CtxRegs) : (s.setCtx c r).collapses = s.collapses := rfl
@[simp] theorem State.setCtx_posts (s : State) (c : Nat) (r : CtxRegs) : (s.setCtx c r).posts = s.posts := rfl
@[simp] theorem State.setCtx_rrb (s : State) (c : Nat) (r : CtxRegs) : (s.setCtx c r).rrb = s.rrb := rfl
@[simp] theorem State.setCtx_domid (s : State) (c : Nat) (r : CtxRegs) : (s.setCtx c r).domid = s.domid := rfl
@[simp] theorem State.setCtx_reach (s : State) (c : Nat) (r : CtxRegs) : (s.setCtx c r).reach = s.reach := rfl
@[simp] theorem State.setCtx_pred (s : State) (c : Nat) (r : CtxRegs) : (s.setCtx c r).pred = s.pred := rfl
@[simp] theorem State.setCtx_nearLast (s : State) (c : Nat) (r : CtxRegs) : (s.setCtx c r).nearLast = s.nearLast := rfl
@[simp] theorem State.setCtx_locks (s : State) (c : Nat) (r : CtxRegs) : (s.setCtx c r).locks = s.locks := rfl
@[simp] theorem State.setCtx_lockMarks (s : State) (c : Nat) (r : CtxRegs) : (s.setCtx c r).lockMarks = s.lockMarks := rfl
@[simp] theorem State.setCtx_lockMsgs (s : State) (c : Nat) (r : CtxRegs) : (s.setCtx c r).lockMsgs = s.lockMsgs := rfl
@[simp] theorem State.setCtx_lockReplies (s : State) (c : Nat) (r : CtxRegs) : (s.setCtx c r).lockReplies = s.lockReplies := rfl
@[simp] theorem State.setCtx_lockRetries (s : State) (c : Nat) (r : CtxRegs) : (s.setCtx c r).lockRetries = s.lockRetries := rfl
@[simp] theorem State.setCtx_lockStamps (s : State) (c : Nat) (r : CtxRegs) : (s.setCtx c r).lockStamps = s.lockStamps := rfl
@[simp] theorem State.setCtx_lkctl (s : State) (c : Nat) (r : CtxRegs) : (s.setCtx c r).lkctl = s.lkctl := rfl
@[simp] theorem State.setCtx_dlrb (s : State) (c : Nat) (r : CtxRegs) : (s.setCtx c r).dlrb = s.dlrb := rfl
@[simp] theorem State.setCtx_dlrp (s : State) (c : Nat) (r : CtxRegs) : (s.setCtx c r).dlrp = s.dlrp := rfl
@[simp] theorem State.setCtx_dlrc (s : State) (c : Nat) (r : CtxRegs) : (s.setCtx c r).dlrc = s.dlrc := rfl
@[simp] theorem State.setCtx_dlCyc (s : State) (c : Nat) (r : CtxRegs) : (s.setCtx c r).dlCyc = s.dlCyc := rfl
@[simp] theorem State.setCtx_dlOver (s : State) (c : Nat) (r : CtxRegs) : (s.setCtx c r).dlOver = s.dlOver := rfl
@[simp] theorem State.setCtx_scanTick (s : State) (c : Nat) (r : CtxRegs) : (s.setCtx c r).scanTick = s.scanTick := rfl
@[simp] theorem State.setCtx_scanCand (s : State) (c : Nat) (r : CtxRegs) : (s.setCtx c r).scanCand = s.scanCand := rfl
@[simp] theorem State.setCtx_dlSeen (s : State) (c : Nat) (r : CtxRegs) : (s.setCtx c r).dlSeen = s.dlSeen := rfl
@[simp] theorem State.setCtx_copies (s : State) (c : Nat) (r : CtxRegs) : (s.setCtx c r).copies = s.copies := rfl
@[simp] theorem State.setCtx_sprReqs (s : State) (c : Nat) (r : CtxRegs) : (s.setCtx c r).sprReqs = s.sprReqs := rfl
@[simp] theorem State.setCtx_sprBuf (s : State) (c : Nat) (r : CtxRegs) : (s.setCtx c r).sprBuf = s.sprBuf := rfl
@[simp] theorem State.setCtx_sprDone (s : State) (c : Nat) (r : CtxRegs) : (s.setCtx c r).sprDone = s.sprDone := rfl
@[simp] theorem State.setCtx_reqErr (s : State) (c : Nat) (r : CtxRegs) : (s.setCtx c r).reqErr = s.reqErr := rfl
@[simp] theorem State.setCtx_mcmds (s : State) (c : Nat) (r : CtxRegs) : (s.setCtx c r).mcmds = s.mcmds := rfl
@[simp] theorem State.setCtx_drains (s : State) (c : Nat) (r : CtxRegs) : (s.setCtx c r).drains = s.drains := rfl
@[simp] theorem State.setCtx_drainCount (s : State) (c : Nat) (r : CtxRegs) : (s.setCtx c r).drainCount = s.drainCount := rfl
@[simp] theorem State.setCtx_telctl (s : State) (c : Nat) (r : CtxRegs) : (s.setCtx c r).telctl = s.telctl := rfl
@[simp] theorem State.setCtx_telRing (s : State) (c : Nat) (r : CtxRegs) : (s.setCtx c r).telRing = s.telRing := rfl
@[simp] theorem State.setCtx_carriedTraps (s : State) (c : Nat) (r : CtxRegs) : (s.setCtx c r).carriedTraps = s.carriedTraps := rfl
@[simp] theorem State.setCtx_teams (s : State) (c : Nat) (r : CtxRegs) : (s.setCtx c r).teams = s.teams := rfl
@[simp] theorem State.setCtx_queues (s : State) (c : Nat) (r : CtxRegs) : (s.setCtx c r).queues = s.queues := rfl
@[simp] theorem State.setCtx_launches (s : State) (c : Nat) (r : CtxRegs) : (s.setCtx c r).launches = s.launches := rfl
@[simp] theorem State.setCtx_launchCount (s : State) (c : Nat) (r : CtxRegs) : (s.setCtx c r).launchCount = s.launchCount := rfl
@[simp] theorem State.setCtx_mbtb (s : State) (c : Nat) (r : CtxRegs) : (s.setCtx c r).mbtb = s.mbtb := rfl
@[simp] theorem State.setCtx_boxes (s : State) (c : Nat) (r : CtxRegs) : (s.setCtx c r).boxes = s.boxes := rfl
@[simp] theorem State.setCtx_outbound (s : State) (c : Nat) (r : CtxRegs) : (s.setCtx c r).outbound = s.outbound := rfl
@[simp] theorem State.setCtx_inbound (s : State) (c : Nat) (r : CtxRegs) : (s.setCtx c r).inbound = s.inbound := rfl
@[simp] theorem State.setCtx_fenceMarks (s : State) (c : Nat) (r : CtxRegs) : (s.setCtx c r).fenceMarks = s.fenceMarks := rfl
@[simp] theorem State.setCtx_colls (s : State) (c : Nat) (r : CtxRegs) : (s.setCtx c r).colls = s.colls := rfl
@[simp] theorem State.setCtx_collCount (s : State) (c : Nat) (r : CtxRegs) : (s.setCtx c r).collCount = s.collCount := rfl
@[simp] theorem State.setCtx_deadDies (s : State) (c : Nat) (r : CtxRegs) : (s.setCtx c r).deadDies = s.deadDies := rfl
@[simp] theorem State.setCtx_deadM (s : State) (c : Nat) (r : CtxRegs) : (s.setCtx c r).deadM = s.deadM := rfl
@[simp] theorem State.setCtx_lostDevs (s : State) (c : Nat) (r : CtxRegs) : (s.setCtx c r).lostDevs = s.lostDevs := rfl
@[simp] theorem State.setCtx_lostCtxs (s : State) (c : Nat) (r : CtxRegs) : (s.setCtx c r).lostCtxs = s.lostCtxs := rfl
@[simp] theorem State.setCtx_silos (s : State) (c : Nat) (r : CtxRegs) : (s.setCtx c r).silos = s.silos := rfl
@[simp] theorem State.setCtx_probes (s : State) (c : Nat) (r : CtxRegs) : (s.setCtx c r).probes = s.probes := rfl
@[simp] theorem State.setCtx_probeTab (s : State) (c : Nat) (r : CtxRegs) : (s.setCtx c r).probeTab = s.probeTab := rfl
@[simp] theorem State.setCtx_objClock (s : State) (c : Nat) (r : CtxRegs) : (s.setCtx c r).objClock = s.objClock := rfl
@[simp] theorem State.setCtx_homeSeq (s : State) (c : Nat) (r : CtxRegs) : (s.setCtx c r).homeSeq = s.homeSeq := rfl
@[simp] theorem State.setCtx_homeLast (s : State) (c : Nat) (r : CtxRegs) : (s.setCtx c r).homeLast = s.homeLast := rfl
@[simp] theorem State.setCtx_ckpts (s : State) (c : Nat) (r : CtxRegs) : (s.setCtx c r).ckpts = s.ckpts := rfl
@[simp] theorem State.setCtx_perf (s : State) (c : Nat) (r : CtxRegs) : (s.setCtx c r).perf = s.perf := rfl
@[simp] theorem State.setCtx_cutReq (s : State) (c : Nat) (r : CtxRegs) : (s.setCtx c r).cutReq = s.cutReq := rfl
@[simp] theorem State.setCtx_flight (s : State) (c : Nat) (r : CtxRegs) : (s.setCtx c r).flight = s.flight := rfl
@[simp] theorem State.setCtx_markers (s : State) (c : Nat) (r : CtxRegs) : (s.setCtx c r).markers = s.markers := rfl
@[simp] theorem State.setCtx_domSent (s : State) (c : Nat) (r : CtxRegs) : (s.setCtx c r).domSent = s.domSent := rfl
@[simp] theorem State.setCtx_recOff (s : State) (c : Nat) (r : CtxRegs) : (s.setCtx c r).recOff = s.recOff := rfl
@[simp] theorem State.setCtx_samplers (s : State) (c : Nat) (r : CtxRegs) : (s.setCtx c r).samplers = s.samplers := rfl
@[simp] theorem State.setCtx_hist (s : State) (c : Nat) (r : CtxRegs) : (s.setCtx c r).hist = s.hist := rfl
@[simp] theorem State.setCtx_replays (s : State) (c : Nat) (r : CtxRegs) : (s.setCtx c r).replays = s.replays := rfl
@[simp] theorem State.setCtx_heldIn (s : State) (c : Nat) (r : CtxRegs) : (s.setCtx c r).heldIn = s.heldIn := rfl
@[simp] theorem State.setCtx_lcs (s : State) (c : Nat) (r : CtxRegs) : (s.setCtx c r).lcs = s.lcs := rfl
@[simp] theorem State.setCtx_secst (s : State) (c : Nat) (r : CtxRegs) : (s.setCtx c r).secst = s.secst := rfl
@[simp] theorem State.setCtx_secReqs (s : State) (c : Nat) (r : CtxRegs) : (s.setCtx c r).secReqs = s.secReqs := rfl
@[simp] theorem State.setCtx_secTicket (s : State) (c : Nat) (r : CtxRegs) : (s.setCtx c r).secTicket = s.secTicket := rfl
@[simp] theorem State.setCtx_secDone (s : State) (c : Nat) (r : CtxRegs) : (s.setCtx c r).secDone = s.secDone := rfl
@[simp] theorem State.setCtx_nonce (s : State) (c : Nat) (r : CtxRegs) : (s.setCtx c r).nonce = s.nonce := rfl
@[simp] theorem State.setCtx_randCount (s : State) (c : Nat) (r : CtxRegs) : (s.setCtx c r).randCount = s.randCount := rfl
@[simp] theorem State.setCtx_crypt (s : State) (c : Nat) (r : CtxRegs) : (s.setCtx c r).crypt = s.crypt := rfl
@[simp] theorem State.setCtx_mr (s : State) (c : Nat) (r : CtxRegs) : (s.setCtx c r).mr = s.mr := rfl
@[simp] theorem State.setCtx_spareMap (s : State) (c : Nat) (r : CtxRegs) : (s.setCtx c r).spareMap = s.spareMap := rfl
@[simp] theorem State.setCtx_histTick (s : State) (c : Nat) (r : CtxRegs) : (s.setCtx c r).histTick = s.histTick := rfl
@[simp] theorem State.setCtx_worn (s : State) (c : Nat) (r : CtxRegs) : (s.setCtx c r).worn = s.worn := rfl
@[simp] theorem State.setCtx_wear (s : State) (c : Nat) (r : CtxRegs) : (s.setCtx c r).wear = s.wear := rfl
@[simp] theorem State.setCtx_rowSpares (s : State) (c : Nat) (r : CtxRegs) : (s.setCtx c r).rowSpares = s.rowSpares := rfl
@[simp] theorem State.setCtx_pcap (s : State) (c : Nat) (r : CtxRegs) : (s.setCtx c r).pcap = s.pcap := rfl
@[simp] theorem State.setCtx_freqCap (s : State) (c : Nat) (r : CtxRegs) : (s.setCtx c r).freqCap = s.freqCap := rfl
@[simp] theorem State.setCtx_freqNow (s : State) (c : Nat) (r : CtxRegs) : (s.setCtx c r).freqNow = s.freqNow := rfl
@[simp] theorem State.setCtx_freqNext (s : State) (c : Nat) (r : CtxRegs) : (s.setCtx c r).freqNext = s.freqNext := rfl
@[simp] theorem State.setCtx_thermCap (s : State) (c : Nat) (r : CtxRegs) : (s.setCtx c r).thermCap = s.thermCap := rfl
@[simp] theorem State.setCtx_throttle (s : State) (c : Nat) (r : CtxRegs) : (s.setCtx c r).throttle = s.throttle := rfl
@[simp] theorem State.setCtx_hotSince (s : State) (c : Nat) (r : CtxRegs) : (s.setCtx c r).hotSince = s.hotSince := rfl
@[simp] theorem State.setCtx_tripped (s : State) (c : Nat) (r : CtxRegs) : (s.setCtx c r).tripped = s.tripped := rfl
@[simp] theorem State.setCtx_trips (s : State) (c : Nat) (r : CtxRegs) : (s.setCtx c r).trips = s.trips := rfl
@[simp] theorem State.setCtx_wipes (s : State) (c : Nat) (r : CtxRegs) : (s.setCtx c r).wipes = s.wipes := rfl

/-! ## soon -/

@[simp] theorem State.soon_steps (s : State) (op : Instr) (arg : EvArg) : (s.soon op arg).steps = s.steps := rfl
@[simp] theorem State.soon_ptb (s : State) (op : Instr) (arg : EvArg) : (s.soon op arg).ptb = s.ptb := rfl
@[simp] theorem State.soon_cycle (s : State) (op : Instr) (arg : EvArg) : (s.soon op arg).cycle = s.cycle := rfl
@[simp] theorem State.soon_arg (s : State) (op : Instr) (arg : EvArg) : (s.soon op arg).arg = s.arg := rfl
@[simp] theorem State.soon_issue (s : State) (op : Instr) (arg : EvArg) : (s.soon op arg).issue = s.issue := rfl
@[simp] theorem State.soon_chain (s : State) (op : Instr) (arg : EvArg) : (s.soon op arg).chain = s.chain := rfl
@[simp] theorem State.soon_stalled (s : State) (op : Instr) (arg : EvArg) : (s.soon op arg).stalled = s.stalled := rfl
@[simp] theorem State.soon_lastCore (s : State) (op : Instr) (arg : EvArg) : (s.soon op arg).lastCore = s.lastCore := rfl
@[simp] theorem State.soon_next (s : State) (op : Instr) (arg : EvArg) : (s.soon op arg).next = s.next := rfl
@[simp] theorem State.soon_waves (s : State) (op : Instr) (arg : EvArg) : (s.soon op arg).waves = s.waves := rfl
@[simp] theorem State.soon_blocks (s : State) (op : Instr) (arg : EvArg) : (s.soon op arg).blocks = s.blocks := rfl
@[simp] theorem State.soon_cores (s : State) (op : Instr) (arg : EvArg) : (s.soon op arg).cores = s.cores := rfl
@[simp] theorem State.soon_ctlb (s : State) (op : Instr) (arg : EvArg) : (s.soon op arg).ctlb = s.ctlb := rfl
@[simp] theorem State.soon_ctxs (s : State) (op : Instr) (arg : EvArg) : (s.soon op arg).ctxs = s.ctxs := rfl
@[simp] theorem State.soon_mem (s : State) (op : Instr) (arg : EvArg) : (s.soon op arg).mem = s.mem := rfl
@[simp] theorem State.soon_poison (s : State) (op : Instr) (arg : EvArg) : (s.soon op arg).poison = s.poison := rfl
@[simp] theorem State.soon_l2 (s : State) (op : Instr) (arg : EvArg) : (s.soon op arg).l2 = s.l2 := rfl
@[simp] theorem State.soon_dir (s : State) (op : Instr) (arg : EvArg) : (s.soon op arg).dir = s.dir := rfl
@[simp] theorem State.soon_toHome (s : State) (op : Instr) (arg : EvArg) : (s.soon op arg).toHome = s.toHome := rfl
@[simp] theorem State.soon_toAgent (s : State) (op : Instr) (arg : EvArg) : (s.soon op arg).toAgent = s.toAgent := rfl
@[simp] theorem State.soon_retries (s : State) (op : Instr) (arg : EvArg) : (s.soon op arg).retries = s.retries := rfl
@[simp] theorem State.soon_homeOps (s : State) (op : Instr) (arg : EvArg) : (s.soon op arg).homeOps = s.homeOps := rfl
@[simp] theorem State.soon_hostHad (s : State) (op : Instr) (arg : EvArg) : (s.soon op arg).hostHad = s.hostHad := rfl
@[simp] theorem State.soon_l3 (s : State) (op : Instr) (arg : EvArg) : (s.soon op arg).l3 = s.l3 := rfl
@[simp] theorem State.soon_pers (s : State) (op : Instr) (arg : EvArg) : (s.soon op arg).pers = s.pers := rfl
@[simp] theorem State.soon_accs (s : State) (op : Instr) (arg : EvArg) : (s.soon op arg).accs = s.accs := rfl
@[simp] theorem State.soon_walks (s : State) (op : Instr) (arg : EvArg) : (s.soon op arg).walks = s.walks := rfl
@[simp] theorem State.soon_ptos (s : State) (op : Instr) (arg : EvArg) : (s.soon op arg).ptos = s.ptos := rfl
@[simp] theorem State.soon_collapses (s : State) (op : Instr) (arg : EvArg) : (s.soon op arg).collapses = s.collapses := rfl
@[simp] theorem State.soon_posts (s : State) (op : Instr) (arg : EvArg) : (s.soon op arg).posts = s.posts := rfl
@[simp] theorem State.soon_rrb (s : State) (op : Instr) (arg : EvArg) : (s.soon op arg).rrb = s.rrb := rfl
@[simp] theorem State.soon_domid (s : State) (op : Instr) (arg : EvArg) : (s.soon op arg).domid = s.domid := rfl
@[simp] theorem State.soon_reach (s : State) (op : Instr) (arg : EvArg) : (s.soon op arg).reach = s.reach := rfl
@[simp] theorem State.soon_pred (s : State) (op : Instr) (arg : EvArg) : (s.soon op arg).pred = s.pred := rfl
@[simp] theorem State.soon_nearLast (s : State) (op : Instr) (arg : EvArg) : (s.soon op arg).nearLast = s.nearLast := rfl
@[simp] theorem State.soon_locks (s : State) (op : Instr) (arg : EvArg) : (s.soon op arg).locks = s.locks := rfl
@[simp] theorem State.soon_lockMarks (s : State) (op : Instr) (arg : EvArg) : (s.soon op arg).lockMarks = s.lockMarks := rfl
@[simp] theorem State.soon_lockMsgs (s : State) (op : Instr) (arg : EvArg) : (s.soon op arg).lockMsgs = s.lockMsgs := rfl
@[simp] theorem State.soon_lockReplies (s : State) (op : Instr) (arg : EvArg) : (s.soon op arg).lockReplies = s.lockReplies := rfl
@[simp] theorem State.soon_lockRetries (s : State) (op : Instr) (arg : EvArg) : (s.soon op arg).lockRetries = s.lockRetries := rfl
@[simp] theorem State.soon_lockStamps (s : State) (op : Instr) (arg : EvArg) : (s.soon op arg).lockStamps = s.lockStamps := rfl
@[simp] theorem State.soon_lkctl (s : State) (op : Instr) (arg : EvArg) : (s.soon op arg).lkctl = s.lkctl := rfl
@[simp] theorem State.soon_dlrb (s : State) (op : Instr) (arg : EvArg) : (s.soon op arg).dlrb = s.dlrb := rfl
@[simp] theorem State.soon_dlrp (s : State) (op : Instr) (arg : EvArg) : (s.soon op arg).dlrp = s.dlrp := rfl
@[simp] theorem State.soon_dlrc (s : State) (op : Instr) (arg : EvArg) : (s.soon op arg).dlrc = s.dlrc := rfl
@[simp] theorem State.soon_dlCyc (s : State) (op : Instr) (arg : EvArg) : (s.soon op arg).dlCyc = s.dlCyc := rfl
@[simp] theorem State.soon_dlOver (s : State) (op : Instr) (arg : EvArg) : (s.soon op arg).dlOver = s.dlOver := rfl
@[simp] theorem State.soon_scanTick (s : State) (op : Instr) (arg : EvArg) : (s.soon op arg).scanTick = s.scanTick := rfl
@[simp] theorem State.soon_scanCand (s : State) (op : Instr) (arg : EvArg) : (s.soon op arg).scanCand = s.scanCand := rfl
@[simp] theorem State.soon_dlSeen (s : State) (op : Instr) (arg : EvArg) : (s.soon op arg).dlSeen = s.dlSeen := rfl
@[simp] theorem State.soon_copies (s : State) (op : Instr) (arg : EvArg) : (s.soon op arg).copies = s.copies := rfl
@[simp] theorem State.soon_sprReqs (s : State) (op : Instr) (arg : EvArg) : (s.soon op arg).sprReqs = s.sprReqs := rfl
@[simp] theorem State.soon_sprBuf (s : State) (op : Instr) (arg : EvArg) : (s.soon op arg).sprBuf = s.sprBuf := rfl
@[simp] theorem State.soon_sprDone (s : State) (op : Instr) (arg : EvArg) : (s.soon op arg).sprDone = s.sprDone := rfl
@[simp] theorem State.soon_reqErr (s : State) (op : Instr) (arg : EvArg) : (s.soon op arg).reqErr = s.reqErr := rfl
@[simp] theorem State.soon_mcmds (s : State) (op : Instr) (arg : EvArg) : (s.soon op arg).mcmds = s.mcmds := rfl
@[simp] theorem State.soon_drains (s : State) (op : Instr) (arg : EvArg) : (s.soon op arg).drains = s.drains := rfl
@[simp] theorem State.soon_drainCount (s : State) (op : Instr) (arg : EvArg) : (s.soon op arg).drainCount = s.drainCount := rfl
@[simp] theorem State.soon_telctl (s : State) (op : Instr) (arg : EvArg) : (s.soon op arg).telctl = s.telctl := rfl
@[simp] theorem State.soon_telRing (s : State) (op : Instr) (arg : EvArg) : (s.soon op arg).telRing = s.telRing := rfl
@[simp] theorem State.soon_carriedTraps (s : State) (op : Instr) (arg : EvArg) : (s.soon op arg).carriedTraps = s.carriedTraps := rfl
@[simp] theorem State.soon_teams (s : State) (op : Instr) (arg : EvArg) : (s.soon op arg).teams = s.teams := rfl
@[simp] theorem State.soon_queues (s : State) (op : Instr) (arg : EvArg) : (s.soon op arg).queues = s.queues := rfl
@[simp] theorem State.soon_launches (s : State) (op : Instr) (arg : EvArg) : (s.soon op arg).launches = s.launches := rfl
@[simp] theorem State.soon_launchCount (s : State) (op : Instr) (arg : EvArg) : (s.soon op arg).launchCount = s.launchCount := rfl
@[simp] theorem State.soon_mbtb (s : State) (op : Instr) (arg : EvArg) : (s.soon op arg).mbtb = s.mbtb := rfl
@[simp] theorem State.soon_boxes (s : State) (op : Instr) (arg : EvArg) : (s.soon op arg).boxes = s.boxes := rfl
@[simp] theorem State.soon_outbound (s : State) (op : Instr) (arg : EvArg) : (s.soon op arg).outbound = s.outbound := rfl
@[simp] theorem State.soon_inbound (s : State) (op : Instr) (arg : EvArg) : (s.soon op arg).inbound = s.inbound := rfl
@[simp] theorem State.soon_fenceMarks (s : State) (op : Instr) (arg : EvArg) : (s.soon op arg).fenceMarks = s.fenceMarks := rfl
@[simp] theorem State.soon_colls (s : State) (op : Instr) (arg : EvArg) : (s.soon op arg).colls = s.colls := rfl
@[simp] theorem State.soon_collCount (s : State) (op : Instr) (arg : EvArg) : (s.soon op arg).collCount = s.collCount := rfl
@[simp] theorem State.soon_deadDies (s : State) (op : Instr) (arg : EvArg) : (s.soon op arg).deadDies = s.deadDies := rfl
@[simp] theorem State.soon_deadM (s : State) (op : Instr) (arg : EvArg) : (s.soon op arg).deadM = s.deadM := rfl
@[simp] theorem State.soon_lostDevs (s : State) (op : Instr) (arg : EvArg) : (s.soon op arg).lostDevs = s.lostDevs := rfl
@[simp] theorem State.soon_lostCtxs (s : State) (op : Instr) (arg : EvArg) : (s.soon op arg).lostCtxs = s.lostCtxs := rfl
@[simp] theorem State.soon_silos (s : State) (op : Instr) (arg : EvArg) : (s.soon op arg).silos = s.silos := rfl
@[simp] theorem State.soon_probes (s : State) (op : Instr) (arg : EvArg) : (s.soon op arg).probes = s.probes := rfl
@[simp] theorem State.soon_probeTab (s : State) (op : Instr) (arg : EvArg) : (s.soon op arg).probeTab = s.probeTab := rfl
@[simp] theorem State.soon_objClock (s : State) (op : Instr) (arg : EvArg) : (s.soon op arg).objClock = s.objClock := rfl
@[simp] theorem State.soon_homeSeq (s : State) (op : Instr) (arg : EvArg) : (s.soon op arg).homeSeq = s.homeSeq := rfl
@[simp] theorem State.soon_homeLast (s : State) (op : Instr) (arg : EvArg) : (s.soon op arg).homeLast = s.homeLast := rfl
@[simp] theorem State.soon_ckpts (s : State) (op : Instr) (arg : EvArg) : (s.soon op arg).ckpts = s.ckpts := rfl
@[simp] theorem State.soon_perf (s : State) (op : Instr) (arg : EvArg) : (s.soon op arg).perf = s.perf := rfl
@[simp] theorem State.soon_cutReq (s : State) (op : Instr) (arg : EvArg) : (s.soon op arg).cutReq = s.cutReq := rfl
@[simp] theorem State.soon_flight (s : State) (op : Instr) (arg : EvArg) : (s.soon op arg).flight = s.flight := rfl
@[simp] theorem State.soon_markers (s : State) (op : Instr) (arg : EvArg) : (s.soon op arg).markers = s.markers := rfl
@[simp] theorem State.soon_domSent (s : State) (op : Instr) (arg : EvArg) : (s.soon op arg).domSent = s.domSent := rfl
@[simp] theorem State.soon_recOff (s : State) (op : Instr) (arg : EvArg) : (s.soon op arg).recOff = s.recOff := rfl
@[simp] theorem State.soon_samplers (s : State) (op : Instr) (arg : EvArg) : (s.soon op arg).samplers = s.samplers := rfl
@[simp] theorem State.soon_hist (s : State) (op : Instr) (arg : EvArg) : (s.soon op arg).hist = s.hist := rfl
@[simp] theorem State.soon_replays (s : State) (op : Instr) (arg : EvArg) : (s.soon op arg).replays = s.replays := rfl
@[simp] theorem State.soon_heldIn (s : State) (op : Instr) (arg : EvArg) : (s.soon op arg).heldIn = s.heldIn := rfl
@[simp] theorem State.soon_lcs (s : State) (op : Instr) (arg : EvArg) : (s.soon op arg).lcs = s.lcs := rfl
@[simp] theorem State.soon_secst (s : State) (op : Instr) (arg : EvArg) : (s.soon op arg).secst = s.secst := rfl
@[simp] theorem State.soon_secReqs (s : State) (op : Instr) (arg : EvArg) : (s.soon op arg).secReqs = s.secReqs := rfl
@[simp] theorem State.soon_secTicket (s : State) (op : Instr) (arg : EvArg) : (s.soon op arg).secTicket = s.secTicket := rfl
@[simp] theorem State.soon_secDone (s : State) (op : Instr) (arg : EvArg) : (s.soon op arg).secDone = s.secDone := rfl
@[simp] theorem State.soon_nonce (s : State) (op : Instr) (arg : EvArg) : (s.soon op arg).nonce = s.nonce := rfl
@[simp] theorem State.soon_randCount (s : State) (op : Instr) (arg : EvArg) : (s.soon op arg).randCount = s.randCount := rfl
@[simp] theorem State.soon_crypt (s : State) (op : Instr) (arg : EvArg) : (s.soon op arg).crypt = s.crypt := rfl
@[simp] theorem State.soon_mr (s : State) (op : Instr) (arg : EvArg) : (s.soon op arg).mr = s.mr := rfl
@[simp] theorem State.soon_spareMap (s : State) (op : Instr) (arg : EvArg) : (s.soon op arg).spareMap = s.spareMap := rfl
@[simp] theorem State.soon_histTick (s : State) (op : Instr) (arg : EvArg) : (s.soon op arg).histTick = s.histTick := rfl
@[simp] theorem State.soon_worn (s : State) (op : Instr) (arg : EvArg) : (s.soon op arg).worn = s.worn := rfl
@[simp] theorem State.soon_wear (s : State) (op : Instr) (arg : EvArg) : (s.soon op arg).wear = s.wear := rfl
@[simp] theorem State.soon_rowSpares (s : State) (op : Instr) (arg : EvArg) : (s.soon op arg).rowSpares = s.rowSpares := rfl
@[simp] theorem State.soon_pcap (s : State) (op : Instr) (arg : EvArg) : (s.soon op arg).pcap = s.pcap := rfl
@[simp] theorem State.soon_freqCap (s : State) (op : Instr) (arg : EvArg) : (s.soon op arg).freqCap = s.freqCap := rfl
@[simp] theorem State.soon_freqNow (s : State) (op : Instr) (arg : EvArg) : (s.soon op arg).freqNow = s.freqNow := rfl
@[simp] theorem State.soon_freqNext (s : State) (op : Instr) (arg : EvArg) : (s.soon op arg).freqNext = s.freqNext := rfl
@[simp] theorem State.soon_thermCap (s : State) (op : Instr) (arg : EvArg) : (s.soon op arg).thermCap = s.thermCap := rfl
@[simp] theorem State.soon_throttle (s : State) (op : Instr) (arg : EvArg) : (s.soon op arg).throttle = s.throttle := rfl
@[simp] theorem State.soon_hotSince (s : State) (op : Instr) (arg : EvArg) : (s.soon op arg).hotSince = s.hotSince := rfl
@[simp] theorem State.soon_tripped (s : State) (op : Instr) (arg : EvArg) : (s.soon op arg).tripped = s.tripped := rfl
@[simp] theorem State.soon_trips (s : State) (op : Instr) (arg : EvArg) : (s.soon op arg).trips = s.trips := rfl
@[simp] theorem State.soon_wipes (s : State) (op : Instr) (arg : EvArg) : (s.soon op arg).wipes = s.wipes := rfl

/-! ## post -/

@[simp] theorem State.post_steps (s : State) (n : Nat) (e : String) (d : Dword) : (s.post n e d).steps = s.steps := rfl
@[simp] theorem State.post_ptb (s : State) (n : Nat) (e : String) (d : Dword) : (s.post n e d).ptb = s.ptb := rfl
@[simp] theorem State.post_cycle (s : State) (n : Nat) (e : String) (d : Dword) : (s.post n e d).cycle = s.cycle := rfl
@[simp] theorem State.post_agenda (s : State) (n : Nat) (e : String) (d : Dword) : (s.post n e d).agenda = s.agenda := rfl
@[simp] theorem State.post_arg (s : State) (n : Nat) (e : String) (d : Dword) : (s.post n e d).arg = s.arg := rfl
@[simp] theorem State.post_issue (s : State) (n : Nat) (e : String) (d : Dword) : (s.post n e d).issue = s.issue := rfl
@[simp] theorem State.post_chain (s : State) (n : Nat) (e : String) (d : Dword) : (s.post n e d).chain = s.chain := rfl
@[simp] theorem State.post_stalled (s : State) (n : Nat) (e : String) (d : Dword) : (s.post n e d).stalled = s.stalled := rfl
@[simp] theorem State.post_lastCore (s : State) (n : Nat) (e : String) (d : Dword) : (s.post n e d).lastCore = s.lastCore := rfl
@[simp] theorem State.post_next (s : State) (n : Nat) (e : String) (d : Dword) : (s.post n e d).next = s.next := rfl
@[simp] theorem State.post_waves (s : State) (n : Nat) (e : String) (d : Dword) : (s.post n e d).waves = s.waves := rfl
@[simp] theorem State.post_blocks (s : State) (n : Nat) (e : String) (d : Dword) : (s.post n e d).blocks = s.blocks := rfl
@[simp] theorem State.post_cores (s : State) (n : Nat) (e : String) (d : Dword) : (s.post n e d).cores = s.cores := rfl
@[simp] theorem State.post_ctlb (s : State) (n : Nat) (e : String) (d : Dword) : (s.post n e d).ctlb = s.ctlb := rfl
@[simp] theorem State.post_ctxs (s : State) (n : Nat) (e : String) (d : Dword) : (s.post n e d).ctxs = s.ctxs := rfl
@[simp] theorem State.post_mem (s : State) (n : Nat) (e : String) (d : Dword) : (s.post n e d).mem = s.mem := rfl
@[simp] theorem State.post_poison (s : State) (n : Nat) (e : String) (d : Dword) : (s.post n e d).poison = s.poison := rfl
@[simp] theorem State.post_l2 (s : State) (n : Nat) (e : String) (d : Dword) : (s.post n e d).l2 = s.l2 := rfl
@[simp] theorem State.post_dir (s : State) (n : Nat) (e : String) (d : Dword) : (s.post n e d).dir = s.dir := rfl
@[simp] theorem State.post_toHome (s : State) (n : Nat) (e : String) (d : Dword) : (s.post n e d).toHome = s.toHome := rfl
@[simp] theorem State.post_toAgent (s : State) (n : Nat) (e : String) (d : Dword) : (s.post n e d).toAgent = s.toAgent := rfl
@[simp] theorem State.post_retries (s : State) (n : Nat) (e : String) (d : Dword) : (s.post n e d).retries = s.retries := rfl
@[simp] theorem State.post_homeOps (s : State) (n : Nat) (e : String) (d : Dword) : (s.post n e d).homeOps = s.homeOps := rfl
@[simp] theorem State.post_hostHad (s : State) (n : Nat) (e : String) (d : Dword) : (s.post n e d).hostHad = s.hostHad := rfl
@[simp] theorem State.post_l3 (s : State) (n : Nat) (e : String) (d : Dword) : (s.post n e d).l3 = s.l3 := rfl
@[simp] theorem State.post_pers (s : State) (n : Nat) (e : String) (d : Dword) : (s.post n e d).pers = s.pers := rfl
@[simp] theorem State.post_accs (s : State) (n : Nat) (e : String) (d : Dword) : (s.post n e d).accs = s.accs := rfl
@[simp] theorem State.post_walks (s : State) (n : Nat) (e : String) (d : Dword) : (s.post n e d).walks = s.walks := rfl
@[simp] theorem State.post_ptos (s : State) (n : Nat) (e : String) (d : Dword) : (s.post n e d).ptos = s.ptos := rfl
@[simp] theorem State.post_collapses (s : State) (n : Nat) (e : String) (d : Dword) : (s.post n e d).collapses = s.collapses := rfl
@[simp] theorem State.post_rrb (s : State) (n : Nat) (e : String) (d : Dword) : (s.post n e d).rrb = s.rrb := rfl
@[simp] theorem State.post_domid (s : State) (n : Nat) (e : String) (d : Dword) : (s.post n e d).domid = s.domid := rfl
@[simp] theorem State.post_reach (s : State) (n : Nat) (e : String) (d : Dword) : (s.post n e d).reach = s.reach := rfl
@[simp] theorem State.post_pred (s : State) (n : Nat) (e : String) (d : Dword) : (s.post n e d).pred = s.pred := rfl
@[simp] theorem State.post_nearLast (s : State) (n : Nat) (e : String) (d : Dword) : (s.post n e d).nearLast = s.nearLast := rfl
@[simp] theorem State.post_locks (s : State) (n : Nat) (e : String) (d : Dword) : (s.post n e d).locks = s.locks := rfl
@[simp] theorem State.post_lockMarks (s : State) (n : Nat) (e : String) (d : Dword) : (s.post n e d).lockMarks = s.lockMarks := rfl
@[simp] theorem State.post_lockMsgs (s : State) (n : Nat) (e : String) (d : Dword) : (s.post n e d).lockMsgs = s.lockMsgs := rfl
@[simp] theorem State.post_lockReplies (s : State) (n : Nat) (e : String) (d : Dword) : (s.post n e d).lockReplies = s.lockReplies := rfl
@[simp] theorem State.post_lockRetries (s : State) (n : Nat) (e : String) (d : Dword) : (s.post n e d).lockRetries = s.lockRetries := rfl
@[simp] theorem State.post_lockStamps (s : State) (n : Nat) (e : String) (d : Dword) : (s.post n e d).lockStamps = s.lockStamps := rfl
@[simp] theorem State.post_lkctl (s : State) (n : Nat) (e : String) (d : Dword) : (s.post n e d).lkctl = s.lkctl := rfl
@[simp] theorem State.post_dlrb (s : State) (n : Nat) (e : String) (d : Dword) : (s.post n e d).dlrb = s.dlrb := rfl
@[simp] theorem State.post_dlrp (s : State) (n : Nat) (e : String) (d : Dword) : (s.post n e d).dlrp = s.dlrp := rfl
@[simp] theorem State.post_dlrc (s : State) (n : Nat) (e : String) (d : Dword) : (s.post n e d).dlrc = s.dlrc := rfl
@[simp] theorem State.post_dlCyc (s : State) (n : Nat) (e : String) (d : Dword) : (s.post n e d).dlCyc = s.dlCyc := rfl
@[simp] theorem State.post_dlOver (s : State) (n : Nat) (e : String) (d : Dword) : (s.post n e d).dlOver = s.dlOver := rfl
@[simp] theorem State.post_scanTick (s : State) (n : Nat) (e : String) (d : Dword) : (s.post n e d).scanTick = s.scanTick := rfl
@[simp] theorem State.post_scanCand (s : State) (n : Nat) (e : String) (d : Dword) : (s.post n e d).scanCand = s.scanCand := rfl
@[simp] theorem State.post_dlSeen (s : State) (n : Nat) (e : String) (d : Dword) : (s.post n e d).dlSeen = s.dlSeen := rfl
@[simp] theorem State.post_copies (s : State) (n : Nat) (e : String) (d : Dword) : (s.post n e d).copies = s.copies := rfl
@[simp] theorem State.post_sprReqs (s : State) (n : Nat) (e : String) (d : Dword) : (s.post n e d).sprReqs = s.sprReqs := rfl
@[simp] theorem State.post_sprBuf (s : State) (n : Nat) (e : String) (d : Dword) : (s.post n e d).sprBuf = s.sprBuf := rfl
@[simp] theorem State.post_sprDone (s : State) (n : Nat) (e : String) (d : Dword) : (s.post n e d).sprDone = s.sprDone := rfl
@[simp] theorem State.post_reqErr (s : State) (n : Nat) (e : String) (d : Dword) : (s.post n e d).reqErr = s.reqErr := rfl
@[simp] theorem State.post_mcmds (s : State) (n : Nat) (e : String) (d : Dword) : (s.post n e d).mcmds = s.mcmds := rfl
@[simp] theorem State.post_drains (s : State) (n : Nat) (e : String) (d : Dword) : (s.post n e d).drains = s.drains := rfl
@[simp] theorem State.post_drainCount (s : State) (n : Nat) (e : String) (d : Dword) : (s.post n e d).drainCount = s.drainCount := rfl
@[simp] theorem State.post_telctl (s : State) (n : Nat) (e : String) (d : Dword) : (s.post n e d).telctl = s.telctl := rfl
@[simp] theorem State.post_telRing (s : State) (n : Nat) (e : String) (d : Dword) : (s.post n e d).telRing = s.telRing := rfl
@[simp] theorem State.post_carriedTraps (s : State) (n : Nat) (e : String) (d : Dword) : (s.post n e d).carriedTraps = s.carriedTraps := rfl
@[simp] theorem State.post_teams (s : State) (n : Nat) (e : String) (d : Dword) : (s.post n e d).teams = s.teams := rfl
@[simp] theorem State.post_queues (s : State) (n : Nat) (e : String) (d : Dword) : (s.post n e d).queues = s.queues := rfl
@[simp] theorem State.post_launches (s : State) (n : Nat) (e : String) (d : Dword) : (s.post n e d).launches = s.launches := rfl
@[simp] theorem State.post_launchCount (s : State) (n : Nat) (e : String) (d : Dword) : (s.post n e d).launchCount = s.launchCount := rfl
@[simp] theorem State.post_mbtb (s : State) (n : Nat) (e : String) (d : Dword) : (s.post n e d).mbtb = s.mbtb := rfl
@[simp] theorem State.post_boxes (s : State) (n : Nat) (e : String) (d : Dword) : (s.post n e d).boxes = s.boxes := rfl
@[simp] theorem State.post_outbound (s : State) (n : Nat) (e : String) (d : Dword) : (s.post n e d).outbound = s.outbound := rfl
@[simp] theorem State.post_inbound (s : State) (n : Nat) (e : String) (d : Dword) : (s.post n e d).inbound = s.inbound := rfl
@[simp] theorem State.post_fenceMarks (s : State) (n : Nat) (e : String) (d : Dword) : (s.post n e d).fenceMarks = s.fenceMarks := rfl
@[simp] theorem State.post_colls (s : State) (n : Nat) (e : String) (d : Dword) : (s.post n e d).colls = s.colls := rfl
@[simp] theorem State.post_collCount (s : State) (n : Nat) (e : String) (d : Dword) : (s.post n e d).collCount = s.collCount := rfl
@[simp] theorem State.post_deadDies (s : State) (n : Nat) (e : String) (d : Dword) : (s.post n e d).deadDies = s.deadDies := rfl
@[simp] theorem State.post_deadM (s : State) (n : Nat) (e : String) (d : Dword) : (s.post n e d).deadM = s.deadM := rfl
@[simp] theorem State.post_lostDevs (s : State) (n : Nat) (e : String) (d : Dword) : (s.post n e d).lostDevs = s.lostDevs := rfl
@[simp] theorem State.post_lostCtxs (s : State) (n : Nat) (e : String) (d : Dword) : (s.post n e d).lostCtxs = s.lostCtxs := rfl
@[simp] theorem State.post_silos (s : State) (n : Nat) (e : String) (d : Dword) : (s.post n e d).silos = s.silos := rfl
@[simp] theorem State.post_probes (s : State) (n : Nat) (e : String) (d : Dword) : (s.post n e d).probes = s.probes := rfl
@[simp] theorem State.post_probeTab (s : State) (n : Nat) (e : String) (d : Dword) : (s.post n e d).probeTab = s.probeTab := rfl
@[simp] theorem State.post_objClock (s : State) (n : Nat) (e : String) (d : Dword) : (s.post n e d).objClock = s.objClock := rfl
@[simp] theorem State.post_homeSeq (s : State) (n : Nat) (e : String) (d : Dword) : (s.post n e d).homeSeq = s.homeSeq := rfl
@[simp] theorem State.post_homeLast (s : State) (n : Nat) (e : String) (d : Dword) : (s.post n e d).homeLast = s.homeLast := rfl
@[simp] theorem State.post_ckpts (s : State) (n : Nat) (e : String) (d : Dword) : (s.post n e d).ckpts = s.ckpts := rfl
@[simp] theorem State.post_perf (s : State) (n : Nat) (e : String) (d : Dword) : (s.post n e d).perf = s.perf := rfl
@[simp] theorem State.post_cutReq (s : State) (n : Nat) (e : String) (d : Dword) : (s.post n e d).cutReq = s.cutReq := rfl
@[simp] theorem State.post_flight (s : State) (n : Nat) (e : String) (d : Dword) : (s.post n e d).flight = s.flight := rfl
@[simp] theorem State.post_markers (s : State) (n : Nat) (e : String) (d : Dword) : (s.post n e d).markers = s.markers := rfl
@[simp] theorem State.post_domSent (s : State) (n : Nat) (e : String) (d : Dword) : (s.post n e d).domSent = s.domSent := rfl
@[simp] theorem State.post_recOff (s : State) (n : Nat) (e : String) (d : Dword) : (s.post n e d).recOff = s.recOff := rfl
@[simp] theorem State.post_samplers (s : State) (n : Nat) (e : String) (d : Dword) : (s.post n e d).samplers = s.samplers := rfl
@[simp] theorem State.post_hist (s : State) (n : Nat) (e : String) (d : Dword) : (s.post n e d).hist = s.hist := rfl
@[simp] theorem State.post_replays (s : State) (n : Nat) (e : String) (d : Dword) : (s.post n e d).replays = s.replays := rfl
@[simp] theorem State.post_heldIn (s : State) (n : Nat) (e : String) (d : Dword) : (s.post n e d).heldIn = s.heldIn := rfl
@[simp] theorem State.post_lcs (s : State) (n : Nat) (e : String) (d : Dword) : (s.post n e d).lcs = s.lcs := rfl
@[simp] theorem State.post_secst (s : State) (n : Nat) (e : String) (d : Dword) : (s.post n e d).secst = s.secst := rfl
@[simp] theorem State.post_secReqs (s : State) (n : Nat) (e : String) (d : Dword) : (s.post n e d).secReqs = s.secReqs := rfl
@[simp] theorem State.post_secTicket (s : State) (n : Nat) (e : String) (d : Dword) : (s.post n e d).secTicket = s.secTicket := rfl
@[simp] theorem State.post_secDone (s : State) (n : Nat) (e : String) (d : Dword) : (s.post n e d).secDone = s.secDone := rfl
@[simp] theorem State.post_nonce (s : State) (n : Nat) (e : String) (d : Dword) : (s.post n e d).nonce = s.nonce := rfl
@[simp] theorem State.post_randCount (s : State) (n : Nat) (e : String) (d : Dword) : (s.post n e d).randCount = s.randCount := rfl
@[simp] theorem State.post_crypt (s : State) (n : Nat) (e : String) (d : Dword) : (s.post n e d).crypt = s.crypt := rfl
@[simp] theorem State.post_mr (s : State) (n : Nat) (e : String) (d : Dword) : (s.post n e d).mr = s.mr := rfl
@[simp] theorem State.post_spareMap (s : State) (n : Nat) (e : String) (d : Dword) : (s.post n e d).spareMap = s.spareMap := rfl
@[simp] theorem State.post_histTick (s : State) (n : Nat) (e : String) (d : Dword) : (s.post n e d).histTick = s.histTick := rfl
@[simp] theorem State.post_worn (s : State) (n : Nat) (e : String) (d : Dword) : (s.post n e d).worn = s.worn := rfl
@[simp] theorem State.post_wear (s : State) (n : Nat) (e : String) (d : Dword) : (s.post n e d).wear = s.wear := rfl
@[simp] theorem State.post_rowSpares (s : State) (n : Nat) (e : String) (d : Dword) : (s.post n e d).rowSpares = s.rowSpares := rfl
@[simp] theorem State.post_pcap (s : State) (n : Nat) (e : String) (d : Dword) : (s.post n e d).pcap = s.pcap := rfl
@[simp] theorem State.post_freqCap (s : State) (n : Nat) (e : String) (d : Dword) : (s.post n e d).freqCap = s.freqCap := rfl
@[simp] theorem State.post_freqNow (s : State) (n : Nat) (e : String) (d : Dword) : (s.post n e d).freqNow = s.freqNow := rfl
@[simp] theorem State.post_freqNext (s : State) (n : Nat) (e : String) (d : Dword) : (s.post n e d).freqNext = s.freqNext := rfl
@[simp] theorem State.post_thermCap (s : State) (n : Nat) (e : String) (d : Dword) : (s.post n e d).thermCap = s.thermCap := rfl
@[simp] theorem State.post_throttle (s : State) (n : Nat) (e : String) (d : Dword) : (s.post n e d).throttle = s.throttle := rfl
@[simp] theorem State.post_hotSince (s : State) (n : Nat) (e : String) (d : Dword) : (s.post n e d).hotSince = s.hotSince := rfl
@[simp] theorem State.post_tripped (s : State) (n : Nat) (e : String) (d : Dword) : (s.post n e d).tripped = s.tripped := rfl
@[simp] theorem State.post_trips (s : State) (n : Nat) (e : String) (d : Dword) : (s.post n e d).trips = s.trips := rfl
@[simp] theorem State.post_wipes (s : State) (n : Nat) (e : String) (d : Dword) : (s.post n e d).wipes = s.wipes := rfl

/-! ## count -/

@[simp] theorem State.count_steps (s : State) (a b c n : Nat) : (s.count a b c n).steps = s.steps := rfl
@[simp] theorem State.count_ptb (s : State) (a b c n : Nat) : (s.count a b c n).ptb = s.ptb := rfl
@[simp] theorem State.count_cycle (s : State) (a b c n : Nat) : (s.count a b c n).cycle = s.cycle := rfl
@[simp] theorem State.count_agenda (s : State) (a b c n : Nat) : (s.count a b c n).agenda = s.agenda := rfl
@[simp] theorem State.count_arg (s : State) (a b c n : Nat) : (s.count a b c n).arg = s.arg := rfl
@[simp] theorem State.count_issue (s : State) (a b c n : Nat) : (s.count a b c n).issue = s.issue := rfl
@[simp] theorem State.count_chain (s : State) (a b c n : Nat) : (s.count a b c n).chain = s.chain := rfl
@[simp] theorem State.count_stalled (s : State) (a b c n : Nat) : (s.count a b c n).stalled = s.stalled := rfl
@[simp] theorem State.count_lastCore (s : State) (a b c n : Nat) : (s.count a b c n).lastCore = s.lastCore := rfl
@[simp] theorem State.count_next (s : State) (a b c n : Nat) : (s.count a b c n).next = s.next := rfl
@[simp] theorem State.count_waves (s : State) (a b c n : Nat) : (s.count a b c n).waves = s.waves := rfl
@[simp] theorem State.count_blocks (s : State) (a b c n : Nat) : (s.count a b c n).blocks = s.blocks := rfl
@[simp] theorem State.count_cores (s : State) (a b c n : Nat) : (s.count a b c n).cores = s.cores := rfl
@[simp] theorem State.count_ctlb (s : State) (a b c n : Nat) : (s.count a b c n).ctlb = s.ctlb := rfl
@[simp] theorem State.count_ctxs (s : State) (a b c n : Nat) : (s.count a b c n).ctxs = s.ctxs := rfl
@[simp] theorem State.count_mem (s : State) (a b c n : Nat) : (s.count a b c n).mem = s.mem := rfl
@[simp] theorem State.count_poison (s : State) (a b c n : Nat) : (s.count a b c n).poison = s.poison := rfl
@[simp] theorem State.count_l2 (s : State) (a b c n : Nat) : (s.count a b c n).l2 = s.l2 := rfl
@[simp] theorem State.count_dir (s : State) (a b c n : Nat) : (s.count a b c n).dir = s.dir := rfl
@[simp] theorem State.count_toHome (s : State) (a b c n : Nat) : (s.count a b c n).toHome = s.toHome := rfl
@[simp] theorem State.count_toAgent (s : State) (a b c n : Nat) : (s.count a b c n).toAgent = s.toAgent := rfl
@[simp] theorem State.count_retries (s : State) (a b c n : Nat) : (s.count a b c n).retries = s.retries := rfl
@[simp] theorem State.count_homeOps (s : State) (a b c n : Nat) : (s.count a b c n).homeOps = s.homeOps := rfl
@[simp] theorem State.count_hostHad (s : State) (a b c n : Nat) : (s.count a b c n).hostHad = s.hostHad := rfl
@[simp] theorem State.count_l3 (s : State) (a b c n : Nat) : (s.count a b c n).l3 = s.l3 := rfl
@[simp] theorem State.count_pers (s : State) (a b c n : Nat) : (s.count a b c n).pers = s.pers := rfl
@[simp] theorem State.count_accs (s : State) (a b c n : Nat) : (s.count a b c n).accs = s.accs := rfl
@[simp] theorem State.count_walks (s : State) (a b c n : Nat) : (s.count a b c n).walks = s.walks := rfl
@[simp] theorem State.count_ptos (s : State) (a b c n : Nat) : (s.count a b c n).ptos = s.ptos := rfl
@[simp] theorem State.count_collapses (s : State) (a b c n : Nat) : (s.count a b c n).collapses = s.collapses := rfl
@[simp] theorem State.count_posts (s : State) (a b c n : Nat) : (s.count a b c n).posts = s.posts := rfl
@[simp] theorem State.count_rrb (s : State) (a b c n : Nat) : (s.count a b c n).rrb = s.rrb := rfl
@[simp] theorem State.count_domid (s : State) (a b c n : Nat) : (s.count a b c n).domid = s.domid := rfl
@[simp] theorem State.count_reach (s : State) (a b c n : Nat) : (s.count a b c n).reach = s.reach := rfl
@[simp] theorem State.count_pred (s : State) (a b c n : Nat) : (s.count a b c n).pred = s.pred := rfl
@[simp] theorem State.count_nearLast (s : State) (a b c n : Nat) : (s.count a b c n).nearLast = s.nearLast := rfl
@[simp] theorem State.count_locks (s : State) (a b c n : Nat) : (s.count a b c n).locks = s.locks := rfl
@[simp] theorem State.count_lockMarks (s : State) (a b c n : Nat) : (s.count a b c n).lockMarks = s.lockMarks := rfl
@[simp] theorem State.count_lockMsgs (s : State) (a b c n : Nat) : (s.count a b c n).lockMsgs = s.lockMsgs := rfl
@[simp] theorem State.count_lockReplies (s : State) (a b c n : Nat) : (s.count a b c n).lockReplies = s.lockReplies := rfl
@[simp] theorem State.count_lockRetries (s : State) (a b c n : Nat) : (s.count a b c n).lockRetries = s.lockRetries := rfl
@[simp] theorem State.count_lockStamps (s : State) (a b c n : Nat) : (s.count a b c n).lockStamps = s.lockStamps := rfl
@[simp] theorem State.count_lkctl (s : State) (a b c n : Nat) : (s.count a b c n).lkctl = s.lkctl := rfl
@[simp] theorem State.count_dlrb (s : State) (a b c n : Nat) : (s.count a b c n).dlrb = s.dlrb := rfl
@[simp] theorem State.count_dlrp (s : State) (a b c n : Nat) : (s.count a b c n).dlrp = s.dlrp := rfl
@[simp] theorem State.count_dlrc (s : State) (a b c n : Nat) : (s.count a b c n).dlrc = s.dlrc := rfl
@[simp] theorem State.count_dlCyc (s : State) (a b c n : Nat) : (s.count a b c n).dlCyc = s.dlCyc := rfl
@[simp] theorem State.count_dlOver (s : State) (a b c n : Nat) : (s.count a b c n).dlOver = s.dlOver := rfl
@[simp] theorem State.count_scanTick (s : State) (a b c n : Nat) : (s.count a b c n).scanTick = s.scanTick := rfl
@[simp] theorem State.count_scanCand (s : State) (a b c n : Nat) : (s.count a b c n).scanCand = s.scanCand := rfl
@[simp] theorem State.count_dlSeen (s : State) (a b c n : Nat) : (s.count a b c n).dlSeen = s.dlSeen := rfl
@[simp] theorem State.count_copies (s : State) (a b c n : Nat) : (s.count a b c n).copies = s.copies := rfl
@[simp] theorem State.count_sprReqs (s : State) (a b c n : Nat) : (s.count a b c n).sprReqs = s.sprReqs := rfl
@[simp] theorem State.count_sprBuf (s : State) (a b c n : Nat) : (s.count a b c n).sprBuf = s.sprBuf := rfl
@[simp] theorem State.count_sprDone (s : State) (a b c n : Nat) : (s.count a b c n).sprDone = s.sprDone := rfl
@[simp] theorem State.count_reqErr (s : State) (a b c n : Nat) : (s.count a b c n).reqErr = s.reqErr := rfl
@[simp] theorem State.count_mcmds (s : State) (a b c n : Nat) : (s.count a b c n).mcmds = s.mcmds := rfl
@[simp] theorem State.count_drains (s : State) (a b c n : Nat) : (s.count a b c n).drains = s.drains := rfl
@[simp] theorem State.count_drainCount (s : State) (a b c n : Nat) : (s.count a b c n).drainCount = s.drainCount := rfl
@[simp] theorem State.count_telctl (s : State) (a b c n : Nat) : (s.count a b c n).telctl = s.telctl := rfl
@[simp] theorem State.count_telRing (s : State) (a b c n : Nat) : (s.count a b c n).telRing = s.telRing := rfl
@[simp] theorem State.count_carriedTraps (s : State) (a b c n : Nat) : (s.count a b c n).carriedTraps = s.carriedTraps := rfl
@[simp] theorem State.count_teams (s : State) (a b c n : Nat) : (s.count a b c n).teams = s.teams := rfl
@[simp] theorem State.count_queues (s : State) (a b c n : Nat) : (s.count a b c n).queues = s.queues := rfl
@[simp] theorem State.count_launches (s : State) (a b c n : Nat) : (s.count a b c n).launches = s.launches := rfl
@[simp] theorem State.count_launchCount (s : State) (a b c n : Nat) : (s.count a b c n).launchCount = s.launchCount := rfl
@[simp] theorem State.count_mbtb (s : State) (a b c n : Nat) : (s.count a b c n).mbtb = s.mbtb := rfl
@[simp] theorem State.count_boxes (s : State) (a b c n : Nat) : (s.count a b c n).boxes = s.boxes := rfl
@[simp] theorem State.count_outbound (s : State) (a b c n : Nat) : (s.count a b c n).outbound = s.outbound := rfl
@[simp] theorem State.count_inbound (s : State) (a b c n : Nat) : (s.count a b c n).inbound = s.inbound := rfl
@[simp] theorem State.count_fenceMarks (s : State) (a b c n : Nat) : (s.count a b c n).fenceMarks = s.fenceMarks := rfl
@[simp] theorem State.count_colls (s : State) (a b c n : Nat) : (s.count a b c n).colls = s.colls := rfl
@[simp] theorem State.count_collCount (s : State) (a b c n : Nat) : (s.count a b c n).collCount = s.collCount := rfl
@[simp] theorem State.count_deadDies (s : State) (a b c n : Nat) : (s.count a b c n).deadDies = s.deadDies := rfl
@[simp] theorem State.count_deadM (s : State) (a b c n : Nat) : (s.count a b c n).deadM = s.deadM := rfl
@[simp] theorem State.count_lostDevs (s : State) (a b c n : Nat) : (s.count a b c n).lostDevs = s.lostDevs := rfl
@[simp] theorem State.count_lostCtxs (s : State) (a b c n : Nat) : (s.count a b c n).lostCtxs = s.lostCtxs := rfl
@[simp] theorem State.count_silos (s : State) (a b c n : Nat) : (s.count a b c n).silos = s.silos := rfl
@[simp] theorem State.count_probes (s : State) (a b c n : Nat) : (s.count a b c n).probes = s.probes := rfl
@[simp] theorem State.count_probeTab (s : State) (a b c n : Nat) : (s.count a b c n).probeTab = s.probeTab := rfl
@[simp] theorem State.count_objClock (s : State) (a b c n : Nat) : (s.count a b c n).objClock = s.objClock := rfl
@[simp] theorem State.count_homeSeq (s : State) (a b c n : Nat) : (s.count a b c n).homeSeq = s.homeSeq := rfl
@[simp] theorem State.count_homeLast (s : State) (a b c n : Nat) : (s.count a b c n).homeLast = s.homeLast := rfl
@[simp] theorem State.count_ckpts (s : State) (a b c n : Nat) : (s.count a b c n).ckpts = s.ckpts := rfl
@[simp] theorem State.count_cutReq (s : State) (a b c n : Nat) : (s.count a b c n).cutReq = s.cutReq := rfl
@[simp] theorem State.count_flight (s : State) (a b c n : Nat) : (s.count a b c n).flight = s.flight := rfl
@[simp] theorem State.count_markers (s : State) (a b c n : Nat) : (s.count a b c n).markers = s.markers := rfl
@[simp] theorem State.count_domSent (s : State) (a b c n : Nat) : (s.count a b c n).domSent = s.domSent := rfl
@[simp] theorem State.count_recOff (s : State) (a b c n : Nat) : (s.count a b c n).recOff = s.recOff := rfl
@[simp] theorem State.count_samplers (s : State) (a b c n : Nat) : (s.count a b c n).samplers = s.samplers := rfl
@[simp] theorem State.count_hist (s : State) (a b c n : Nat) : (s.count a b c n).hist = s.hist := rfl
@[simp] theorem State.count_replays (s : State) (a b c n : Nat) : (s.count a b c n).replays = s.replays := rfl
@[simp] theorem State.count_heldIn (s : State) (a b c n : Nat) : (s.count a b c n).heldIn = s.heldIn := rfl
@[simp] theorem State.count_lcs (s : State) (a b c n : Nat) : (s.count a b c n).lcs = s.lcs := rfl
@[simp] theorem State.count_secst (s : State) (a b c n : Nat) : (s.count a b c n).secst = s.secst := rfl
@[simp] theorem State.count_secReqs (s : State) (a b c n : Nat) : (s.count a b c n).secReqs = s.secReqs := rfl
@[simp] theorem State.count_secTicket (s : State) (a b c n : Nat) : (s.count a b c n).secTicket = s.secTicket := rfl
@[simp] theorem State.count_secDone (s : State) (a b c n : Nat) : (s.count a b c n).secDone = s.secDone := rfl
@[simp] theorem State.count_nonce (s : State) (a b c n : Nat) : (s.count a b c n).nonce = s.nonce := rfl
@[simp] theorem State.count_randCount (s : State) (a b c n : Nat) : (s.count a b c n).randCount = s.randCount := rfl
@[simp] theorem State.count_crypt (s : State) (a b c n : Nat) : (s.count a b c n).crypt = s.crypt := rfl
@[simp] theorem State.count_mr (s : State) (a b c n : Nat) : (s.count a b c n).mr = s.mr := rfl
@[simp] theorem State.count_spareMap (s : State) (a b c n : Nat) : (s.count a b c n).spareMap = s.spareMap := rfl
@[simp] theorem State.count_histTick (s : State) (a b c n : Nat) : (s.count a b c n).histTick = s.histTick := rfl
@[simp] theorem State.count_worn (s : State) (a b c n : Nat) : (s.count a b c n).worn = s.worn := rfl
@[simp] theorem State.count_wear (s : State) (a b c n : Nat) : (s.count a b c n).wear = s.wear := rfl
@[simp] theorem State.count_rowSpares (s : State) (a b c n : Nat) : (s.count a b c n).rowSpares = s.rowSpares := rfl
@[simp] theorem State.count_pcap (s : State) (a b c n : Nat) : (s.count a b c n).pcap = s.pcap := rfl
@[simp] theorem State.count_freqCap (s : State) (a b c n : Nat) : (s.count a b c n).freqCap = s.freqCap := rfl
@[simp] theorem State.count_freqNow (s : State) (a b c n : Nat) : (s.count a b c n).freqNow = s.freqNow := rfl
@[simp] theorem State.count_freqNext (s : State) (a b c n : Nat) : (s.count a b c n).freqNext = s.freqNext := rfl
@[simp] theorem State.count_thermCap (s : State) (a b c n : Nat) : (s.count a b c n).thermCap = s.thermCap := rfl
@[simp] theorem State.count_throttle (s : State) (a b c n : Nat) : (s.count a b c n).throttle = s.throttle := rfl
@[simp] theorem State.count_hotSince (s : State) (a b c n : Nat) : (s.count a b c n).hotSince = s.hotSince := rfl
@[simp] theorem State.count_tripped (s : State) (a b c n : Nat) : (s.count a b c n).tripped = s.tripped := rfl
@[simp] theorem State.count_trips (s : State) (a b c n : Nat) : (s.count a b c n).trips = s.trips := rfl
@[simp] theorem State.count_wipes (s : State) (a b c n : Nat) : (s.count a b c n).wipes = s.wipes := rfl

end Sys2Proof.Machine
end

