-- ==== Sys2Proof/Laws/Registers.lean ====
section
/-! SUPPORT. Waves, threads and registers: a read after a write, and what each write keeps. -/

namespace Sys2Proof.Machine

/-! ## Waves and threads -/

theorem TRef.ext_iff' {x y : TRef} : x = y ↔ x.u = y.u ∧ x.i = y.i := by
  cases x; cases y; simp

theorem State.wave_setWave (s : State) (u v : Nat) (w : Wave) : (s.setWave u w).wave v = if v = u then w else s.wave v := by
  simp [State.wave, State.setWave, fgetD_fput]

@[simp] theorem State.wave_setWave_same (s : State) (u : Nat) (w : Wave) : (s.setWave u w).wave u = w := by
  simp [State.wave_setWave]

theorem Wave.thread_setThread (w : Wave) (i j : Nat) (h : Thread) :
    (w.setThread i h).thread j = if j = i then h else w.thread j := by
  simp [Wave.thread, Wave.setThread, fgetD_fput]

theorem State.wave_setThread (s : State) (x : TRef) (h : Thread) (v : Nat) :
    (s.setThread x h).wave v = if v = x.u then (s.wave x.u).setThread x.i h else s.wave v := by
  simp [State.setThread, State.wave_setWave]

theorem State.thread_setThread (s : State) (x y : TRef) (h : Thread) :
    (s.setThread x h).thread y = if y = x then h else s.thread y := by
  obtain ⟨yu, yi⟩ := y
  obtain ⟨xu, xi⟩ := x
  simp only [State.thread, State.wave_setThread]
  by_cases h1 : yu = xu
  · subst h1
    simp only [if_true, Wave.thread_setThread]
    by_cases h2 : yi = xi
    · subst h2; simp
    · simp [h2]
  · simp [h1]

@[simp] theorem State.thread_setThread_same (s : State) (x : TRef) (h : Thread) : (s.setThread x h).thread x = h := by
  simp [State.thread_setThread]

theorem State.thread_modThread (s : State) (x y : TRef) (f : Thread → Thread) :
    (s.modThread x f).thread y = if y = x then f (s.thread x) else s.thread y := State.thread_setThread ..

@[simp] theorem State.thread_modThread_same (s : State) (x : TRef) (f : Thread → Thread) :
    (s.modThread x f).thread x = f (s.thread x) := by simp [State.thread_modThread]

theorem fput_fput {α : Type} (m : FMap α) (k : Nat) (v w : α) : fput (fput m k v) k w = fput m k w := by
  induction m with
  | nil => simp [fput]
  | cons e r ih =>
    obtain ⟨a, x⟩ := e
    by_cases h1 : k < a
    · simp [fput, h1]
    · by_cases h2 : k = a
      · simp [fput, h2]
      · simp [fput, h1, h2, ih]

theorem State.setThread_setThread (s : State) (x : TRef) (h g : Thread) : (s.setThread x h).setThread x g = s.setThread x g := by
  simp [State.setThread, State.setWave, State.wave, Wave.setThread, fput_fput]

@[simp] theorem State.modThread_modThread (s : State) (x : TRef) (f g : Thread → Thread) :
    (s.modThread x f).modThread x g = s.modThread x (fun th => g (f th)) := by
  show (s.setThread x (f (s.thread x))).setThread x (g ((s.setThread x (f (s.thread x))).thread x)) = _
  rw [State.thread_setThread_same, State.setThread_setThread]; rfl

/-- A state with some threads changed and nothing else. -/
def SameBut (s t : State) : Prop :=
  t = { s with waves := t.waves } ∧ ∀ u, t.wave u = { s.wave u with threads := (t.wave u).threads }

theorem SameBut.refl (s : State) : SameBut s s := ⟨rfl, fun _ => rfl⟩

theorem SameBut.trans {s t r : State} (h1 : SameBut s t) (h2 : SameBut t r) : SameBut s r := by
  refine ⟨?_, fun u => ?_⟩
  · rw [h2.1, h1.1]
  · rw [h2.2 u, h1.2 u]

theorem SameBut.setThread (s : State) (x : TRef) (h : Thread) : SameBut s (s.setThread x h) := by
  refine ⟨rfl, fun u => ?_⟩
  rw [State.wave_setThread]
  split
  next e => subst e; rfl
  next => rfl

theorem SameBut.modThread (s : State) (x : TRef) (f : Thread → Thread) : SameBut s (s.modThread x f) :=
  SameBut.setThread s x _

/-- Threads changed one after another, each by a function of its own. -/
def State.modAll (s : State) (l : List TRef) (F : TRef → Thread → Thread) : State :=
  l.foldl (fun s x => s.modThread x (F x)) s

theorem State.sameBut_modAll (l : List TRef) (s : State) (F : TRef → Thread → Thread) : SameBut s (s.modAll l F) := by
  induction l generalizing s with
  | nil => exact SameBut.refl s
  | cons x l ih => exact (SameBut.modThread s x (F x)).trans (ih _)

theorem State.thread_modAll (l : List TRef) (s : State) (F : TRef → Thread → Thread) (hn : l.Nodup) (y : TRef) :
    (s.modAll l F).thread y = if y ∈ l then F y (s.thread y) else s.thread y := by
  induction l generalizing s with
  | nil => rfl
  | cons x l ih =>
    simp only [List.nodup_cons] at hn
    show ((s.modThread x (F x)).modAll l F).thread y = _
    rw [ih _ hn.2, State.thread_modThread]
    by_cases h : y = x
    · subst h; simp [hn.1]
    · simp [h]

/-! ## Registers -/

/-- Words put in consecutive registers. -/
def putWords (m : FMap Word) (r : Nat) : List Word → FMap Word
  | [] => m
  | x :: xs => putWords (fsetD m r x 0) (r + 1) xs

theorem fgetD_putWords (l : List Word) (m : FMap Word) (r k : Nat) :
    fgetD (putWords m r l) k 0 = if r ≤ k ∧ k < r + l.length then l.getD (k - r) 0 else fgetD m k 0 := by
  induction l generalizing m r with
  | nil =>
    rw [putWords, if_neg]
    simp only [List.length_nil]
    omega
  | cons x l ih =>
    rw [putWords, ih, fgetD_fsetD]
    simp only [List.length_cons]
    by_cases h1 : k = r
    · subst h1
      rw [if_neg (by omega), if_pos rfl, if_pos (by omega), Nat.sub_self]; rfl
    · by_cases h2 : r + 1 ≤ k ∧ k < r + 1 + l.length
      · have h3 : r ≤ k ∧ k < r + (l.length + 1) := by omega
        have h4 : k - r = (k - (r + 1)) + 1 := by omega
        rw [if_pos h2, if_pos h3, h4]
        rfl
      · have h3 : ¬ (r ≤ k ∧ k < r + (l.length + 1)) := by omega
        rw [if_neg h2, if_neg h1, if_neg h3]

theorem State.vreg_eq (s : State) (x : TRef) (r : Nat) : s.vreg x r = fgetD (s.thread x).v r 0 := rfl

/-- A word's result: v registers and latches of its thread. -/
theorem State.result_eq (s : State) (x : TRef) (d : BitVec 8) (w : Bool) (n v : Nat) :
    s.result x d w n v = s.modThread x fun th =>
      { th with v := if w then th.v else putWords th.v d.toNat (toWords v n),
                y := ((toWords v n).foldl (fun y x => x :: y) th.y).take 4 } := by
  have hs : ∀ (l : List Word) (s : State) (r : Nat) (f : Thread → Thread),
      (s.setVs x r l).modThread x f = s.modThread x (fun th => f { th with v := putWords th.v r l }) := by
    intro l
    induction l with
    | nil => intro s r f; rfl
    | cons a l ih =>
      intro s r f
      rw [State.setVs, ih, State.setV, State.modThread_modThread]; rfl
  unfold State.result State.shift
  cases w
  · simp only [Bool.false_eq_true, if_false]; rw [hs]
  · rfl

theorem getD_toWords (v n k : Nat) (h : k < n) : (toWords v n).getD k 0 = BitVec.ofNat 32 (v >>> (32 * k)) := by
  have hu : ∀ n a k, k < n → (upto a n)[k]? = some (a + k) := by
    intro n
    induction n with
    | zero => intro a k h; omega
    | succ n ih =>
      intro a k h
      cases k with
      | zero => rfl
      | succ k =>
        have := ih (a + 1) k (by omega)
        rw [upto, List.getElem?_cons_succ, this]; congr 1; omega
  have := hu n 0 k h
  simp only [Nat.zero_add] at this
  simp only [toWords, List.getD_eq_getElem?_getD, List.getElem?_map, this]; rfl

@[simp] theorem length_toWords (v n : Nat) : (toWords v n).length = n := by simp [toWords]

theorem bit7_set (x : BitVec 7) (p k : Nat) (c : Bool) (hk : k < 7) :
    (if c then x ||| BitVec.ofNat 7 (2 ^ p) else x &&& ~~~(BitVec.ofNat 7 (2 ^ p))).getLsbD k = if k = p then c else x.getLsbD k := by
  have hbit : (BitVec.ofNat 7 (2 ^ p)).getLsbD k = decide (p = k) := by
    simp only [BitVec.getLsbD_ofNat, Nat.testBit_two_pow, hk, decide_true, Bool.true_and]
  cases c
  · simp only [Bool.false_eq_true, if_false, BitVec.getLsbD_and, BitVec.getLsbD_not, hbit, hk, decide_true, Bool.true_and]
    by_cases h : k = p
    · subst h; simp
    · simp [h, Ne.symm h]
  · simp only [if_true, BitVec.getLsbD_or, hbit]
    by_cases h : k = p
    · subst h; simp
    · simp [h, Ne.symm h]

/-- A predicate after one is written (R52, R66). -/
theorem State.preg_setP (s : State) (x y : TRef) (p k : Nat) (c : Bool) :
    (s.setP x p c).preg y k = if y = x ∧ k = p ∧ p < 7 then c else s.preg y k := by
  unfold State.setP
  by_cases hp : p ≥ 7
  · have h1 : ¬ (y = x ∧ k = p ∧ p < 7) := by omega
    simp only [hp, if_true, if_neg h1]
  · simp only [hp, if_false, State.preg, State.thread_modThread]
    by_cases hy : y = x
    · subst hy
      simp only [if_true, true_and]
      by_cases hk : k < 7
      · have h7 : (k == 7) = false := by simp; omega
        rw [h7, bit7_set _ _ _ _ hk]
        by_cases h : k = p
        · subst h; simp [hk]
        · simp [h]
      · have h1 : ¬ (k = p ∧ p < 7) := by omega
        have h2 : ∀ z : BitVec 7, z.getLsbD k = false := fun z => BitVec.getLsbD_of_ge z k (by omega)
        rw [h2, h2, if_neg h1]
    · simp [hy]

end Sys2Proof.Machine
end

