-- ==== Sys2Proof/Laws/Words.lean ====
section
/-! SUPPORT. What the frame that every word shares does (R58 to R65, R88, R89): a word that its bundle runs has the
effect of its entry, and retirement changes no register. -/

namespace Sys2Proof.Machine

/-! ## Only the waves differ -/

theorem OnlyWaves.refl (s : State) : OnlyWaves s s := rfl

theorem OnlyWaves.trans {s t r : State} (h1 : OnlyWaves s t) (h2 : OnlyWaves t r) : OnlyWaves s r := by
  unfold OnlyWaves at *; rw [h2, h1]

theorem SameBut.onlyWaves {s t : State} (h : SameBut s t) : OnlyWaves s t := by
  unfold OnlyWaves; rw [h.1]

theorem OnlyWaves.byteAt {s t : State} (h : OnlyWaves s t) (a : Nat) : t.byteAt a = s.byteAt a := by
  rw [h]; rfl

theorem OnlyWaves.recMode {s t : State} (h : OnlyWaves s t) (c : Nat) : t.recMode c = s.recMode c := by
  rw [h]; rfl

/-- Nothing but threads' positions, latches and walk faults, and the recorder's unit, differs in the waves. -/
def WavesRetire (s t : State) : Prop :=
  OnlyWaves s t ∧ ∀ u, t.wave u = { s.wave u with threads := (t.wave u).threads, recd := (t.wave u).recd }

theorem WavesRetire.refl (s : State) : WavesRetire s s := ⟨OnlyWaves.refl s, fun _ => rfl⟩

theorem WavesRetire.trans {s t r : State} (h1 : WavesRetire s t) (h2 : WavesRetire t r) : WavesRetire s r :=
  ⟨h1.1.trans h2.1, fun u => by rw [h2.2 u, h1.2 u]⟩

theorem SameBut.wavesRetire {s t : State} (h : SameBut s t) : WavesRetire s t := by
  refine ⟨h.onlyWaves, fun u => ?_⟩
  have := h.2 u
  generalize t.wave u = w at *
  rw [this]

/-- A change outside the waves. -/
theorem WavesRetire.ofWaves {s t : State} (h : OnlyWaves s t) (hw : t.waves = s.waves) : WavesRetire s t := by
  refine ⟨h, fun u => ?_⟩
  have : t.wave u = s.wave u := by simp [State.wave, hw]
  rw [this]

/-- No thread differs, nor the chain in progress. -/
def Still (s t : State) : Prop := (∀ x, t.thread x = s.thread x) ∧ t.chain = s.chain

theorem Still.refl (s : State) : Still s s := ⟨fun _ => rfl, rfl⟩

theorem Still.trans {s t r : State} (h1 : Still s t) (h2 : Still t r) : Still s r :=
  ⟨fun x => (h2.1 x).trans (h1.1 x), h2.2.trans h1.2⟩

/-! ## Before the entry -/

/-- The state in which a word's entry acts: its chain opened, its threads advanced, its idle threads' latches shifted. -/
def State.prepared (s : State) (i : Instr) (b : Issue) : State := ((s.openChain i b).advance b).shiftIdle i b

theorem State.openChain_waves (s : State) (i : Instr) (b : Issue) : (s.openChain i b).waves = s.waves := by
  unfold State.openChain; split <;> rfl

theorem State.openChain_only (s : State) (i : Instr) (b : Issue) : OnlyWaves s (s.openChain i b) := by
  unfold State.openChain; split <;> rfl

theorem State.advance_eq (s : State) (b : Issue) :
    s.advance b = s.modAll b.threads fun _ th =>
      { th with pc := b.nextPc, readyAt := s.steps, go := 0, at_ := b.unitPc, step := s.steps } := by
  have h : ∀ (l : List TRef) (r : State), r.steps = s.steps →
      l.foldl (fun s t => s.modThread t fun th => { th with pc := b.nextPc, readyAt := s.steps, go := 0, at_ := b.unitPc, step := s.steps }) r
        = r.modAll l fun _ th => { th with pc := b.nextPc, readyAt := s.steps, go := 0, at_ := b.unitPc, step := s.steps } := by
    intro l
    induction l with
    | nil => intro r _; rfl
    | cons x l ih =>
      intro r hr
      rw [List.foldl_cons, ih _ (by simpa using hr), hr]; rfl
  exact h b.threads s rfl

/-- Idle threads have latches shifted and nothing else. -/
theorem State.shiftIdle_eq (s : State) (i : Instr) (b : Issue) :
    s.shiftIdle i b = s ∨ ∃ Y : TRef → List Word → List Word,
      s.shiftIdle i b = s.modAll (b.threads.filter fun t => !s.active i t) fun x th => { th with y := Y x th.y } := by
  unfold State.shiftIdle
  split
  · exact Or.inl rfl
  · split
    · split
      next f w n _ =>
        exact Or.inr ⟨fun x y => (((upto 0 n).map fun k => s.vreg x (f.toNat + k)).foldl (fun y x => x :: y) y).take 4, rfl⟩
      next => exact Or.inl rfl
    · exact Or.inl rfl

theorem State.active_congr {s t : State} (i : Instr) (x : TRef) (hp : (t.thread x).p = (s.thread x).p) :
    t.active i x = s.active i x := by
  have h : ∀ k, t.preg x k = s.preg x k := fun k => by simp only [State.preg, hp]
  unfold State.active State.halfOn State.guard
  split <;> simp only [h]

/-- A state whose thread has the registers and waves that the word found. -/
structure Prepared (s r : State) (i : Instr) (b : Issue) : Prop where
  only : OnlyWaves s r
  wave : ∀ u, r.wave u = { s.wave u with threads := (r.wave u).threads }
  others : ∀ x, x ∉ b.threads → r.thread x = s.thread x
  mine : ∀ x ∈ b.threads, r.thread x = { s.thread x with
    pc := b.nextPc, readyAt := s.steps, go := 0, at_ := b.unitPc, step := s.steps, y := (r.thread x).y }
  latches : ∀ x ∈ b.threads, s.active i x = true → (r.thread x).y = (s.thread x).y
  chain : r.chain = (s.openChain i b).chain

theorem State.prepared_spec (s : State) (i : Instr) (b : Issue) (hn : b.threads.Nodup) : Prepared s (s.prepared i b) i b := by
  have ho := s.openChain_only i b
  have hw : ∀ u, (s.openChain i b).wave u = s.wave u := fun u => by simp [State.wave, State.openChain_waves]
  have ht : ∀ x, (s.openChain i b).thread x = s.thread x := fun x => by simp [State.thread, hw]
  have hst : (s.openChain i b).steps = s.steps := by rw [ho]
  have ha : Prepared s ((s.openChain i b).advance b) i b := by
    have e := (s.openChain i b).advance_eq b
    have hs := State.sameBut_modAll b.threads (s.openChain i b) fun _ th =>
      { th with pc := b.nextPc, readyAt := (s.openChain i b).steps, go := 0, at_ := b.unitPc, step := (s.openChain i b).steps }
    have h1 := State.thread_modAll b.threads (s.openChain i b) (fun _ th =>
      { th with pc := b.nextPc, readyAt := (s.openChain i b).steps, go := 0, at_ := b.unitPc, step := (s.openChain i b).steps }) hn
    rw [← e] at hs h1
    refine ⟨ho.trans hs.onlyWaves, fun u => ?_, fun x hx => ?_, fun x hx => ?_, fun x hx _ => ?_, by rw [hs.1]⟩
    · have := hs.2 u; rw [hw] at this; exact this
    · rw [h1, if_neg hx, ht]
    · rw [h1, if_pos hx, ht, hst]
    · rw [h1, if_pos hx, ht]
  unfold State.prepared
  generalize (s.openChain i b).advance b = a at *
  rcases a.shiftIdle_eq i b with h | ⟨Y, h⟩
  · rw [h]; exact ha
  · have hs := State.sameBut_modAll (b.threads.filter fun t => !a.active i t) a fun x th => { th with y := Y x th.y }
    have h1 := State.thread_modAll (b.threads.filter fun t => !a.active i t) a (fun x th => { th with y := Y x th.y })
      (hn.sublist List.filter_sublist)
    rw [← h] at hs h1
    refine ⟨ha.only.trans hs.onlyWaves, fun u => ?_, fun x hx => ?_, fun x hx => ?_, fun x hx hact => ?_, by rw [hs.1]; exact ha.chain⟩
    · have e := hs.2 u
      rw [ha.wave u] at e
      exact e
    · rw [h1, if_neg (fun hm => hx (List.mem_filter.1 hm |>.1)), ha.others x hx]
    · rw [h1]
      split
      · rw [ha.mine x hx]
      · exact ha.mine x hx
    · have hp : (a.thread x).p = (s.thread x).p := by rw [ha.mine x hx]
      have : a.active i x = true := by rw [State.active_congr i x hp]; exact hact
      rw [h1, if_neg (by simp [this]), ha.latches x hx hact]

theorem Runs.preHits {s : State} {i : Instr} {b : Issue} (h : Runs s i b) : s.preHits i b (b.threads.filter (s.active i)) = [] := by
  unfold State.preHits
  simp only [h.form, h.place, h.fields, Bool.and_true, Bool.not_true, Bool.false_eq_true, if_false]
  have h1 : (if sproutMay i = true then [] else b.threads.filter fun t => (s.wave t.u).isSprout) = [] := by
    rcases h.sprouts with h2 | h2
    · simp [h2]
    · split
      · rfl
      · exact List.filter_eq_nil_iff.2 fun x hx => by simp [h2 x hx]
  simp only [h1, List.isEmpty_nil, Bool.not_true, Bool.false_eq_true, if_false]
  have h2 : (b.threads.filter (s.active i)).filterMap (s.preHit i) = [] := by
    refine List.filterMap_eq_nil_iff.2 fun x hx => ?_
    have := List.mem_filter.1 hx
    exact h.clean x this.1 this.2
  rw [h2]; rfl

/-! ## After the entry -/

/-- Neither recorded nor replayed, and no register of the wave carries an error. -/
def State.plainWave (s : State) (u : Nat) : Prop :=
  s.recMode (s.wave u).ctx ≠ 1 ∧ s.recMode (s.wave u).ctx ≠ 2 ∧ (s.wave u).errs = []

theorem State.plainWave.congr {s t : State} {u : Nat} (h : s.plainWave u) (ho : WavesRetire s t) : t.plainWave u := by
  unfold State.plainWave at *
  rw [ho.1.recMode, ho.2 u]; exact h

theorem WavesRetire.setRecd (s : State) (u : Nat) (r : RecUnit) : WavesRetire s (s.setWave u { s.wave u with recd := r }) := by
  refine ⟨rfl, fun v => ?_⟩
  rw [State.wave_setWave]; split
  next e => subst e; rfl
  next => rfl

theorem State.thread_setRecd (s : State) (u : Nat) (r : RecUnit) (x : TRef) :
    (s.setWave u { s.wave u with recd := r }).thread x = s.thread x := by
  simp only [State.thread, State.wave_setWave]; split
  next e => rw [e]; rfl
  next => rfl

theorem State.closeChunk_plain (s : State) (u f : Nat) (h : s.plainWave u) :
    WavesRetire s (s.closeChunk u f) ∧ Still s (s.closeChunk u f) := by
  have h1 : s.replaying (s.wave u).ctx = false := by simp [State.replaying, h.2.1]
  have h2 : s.recording (s.wave u).ctx = false := by simp [State.recording, h.1]
  unfold State.closeChunk
  simp only [h1, h2, Bool.false_eq_true, if_false, Bool.not_false, if_true]
  exact ⟨WavesRetire.setRecd .., s.thread_setRecd u _, rfl⟩

theorem State.recRetire_plain (s : State) (u m : Nat) (c : Bool) (h : s.plainWave u) :
    WavesRetire s (s.recRetire u m c) ∧ Still s (s.recRetire u m c) := by
  have h1 : s.replaying (s.wave u).ctx = false := by simp [State.replaying, h.2.1]
  have h2 : s.recording (s.wave u).ctx = false := by simp [State.recording, h.1]
  unfold State.recRetire State.recCommit State.tracking
  simp only [h1, h2, Bool.or_self, Bool.and_false, Bool.false_and, Bool.false_eq_true, if_false, Bool.not_false, if_true]
  split
  · exact ⟨WavesRetire.refl s, Still.refl s⟩
  · exact s.closeChunk_plain u 0 h

/-- A fold of changes that retire. -/
theorem WavesRetire.fold {α : Type} (l : List α) (s : State) (P : State → α → Prop) (f : State → α → State)
    (hf : ∀ s a, P s a → WavesRetire s (f s a) ∧ Still s (f s a))
    (hP : ∀ s t a, P s a → WavesRetire s t → P t a) (h : ∀ a ∈ l, P s a) :
    WavesRetire s (l.foldl f s) ∧ Still s (l.foldl f s) := by
  induction l generalizing s with
  | nil => exact ⟨WavesRetire.refl s, Still.refl s⟩
  | cons a l ih =>
    have h1 := hf s a (h a (List.mem_cons_self ..))
    have h2 := ih (f s a) fun c hc => hP _ _ _ (h c (List.mem_cons_of_mem _ hc)) h1.1
    exact ⟨h1.1.trans h2.1, h1.2.trans h2.2⟩

theorem State.teamsMoved_retire (s : State) (l : List Nat) :
    WavesRetire s (s.teamsMoved l) ∧ Still s (s.teamsMoved l) := by
  unfold State.teamsMoved
  split
  · exact ⟨WavesRetire.refl s, Still.refl s⟩
  · exact ⟨WavesRetire.ofWaves rfl rfl, fun _ => rfl, rfl⟩

theorem State.count_retire (s : State) (a b c n : Nat) : WavesRetire s (s.count a b c n) := WavesRetire.ofWaves rfl rfl
theorem State.soon_retire (s : State) (op : Instr) (a : EvArg) : WavesRetire s (s.soon op a) := WavesRetire.ofWaves rfl rfl

/-- The chain in progress replaced. -/
def State.putChain (s : State) (c : Option Chain) : State := { s with chain := c }
theorem State.chain_retire (s : State) (c : Option Chain) : WavesRetire s (s.putChain c) := WavesRetire.ofWaves rfl rfl
theorem State.putChain_thread (s : State) (c : Option Chain) (x : TRef) : (s.putChain c).thread x = s.thread x := rfl
theorem State.count_thread (s : State) (a b c n : Nat) (x : TRef) : (s.count a b c n).thread x = s.thread x := rfl

/-- The latches and walk faults of threads are over. -/
def clearLatches (_ : TRef) (th : Thread) : Thread := { th with y := [], wfault := [], past := 0 }

/-- The waves that step ask for their record. -/
def State.askSteps (s : State) (b : Issue) : State :=
  (wavesOf b.threads).foldl (fun s u =>
    if (s.wave u).stepping then s.soon .haltEffect { (default : EvArg) with n := u, k := bitsOf (threadsOf b.threads u) } else s) s

/-- The waves of the bundle retire it. -/
def State.retireAll (s : State) (b : Issue) (c : Bool) : State :=
  (wavesOf b.threads).foldl (fun s u => s.recRetire u (bitsOf (threadsOf b.threads u)) c) (s.teamsMoved (wavesOf b.threads))

theorem State.askSteps_retire (s : State) (b : Issue) : WavesRetire s (s.askSteps b) ∧ Still s (s.askSteps b) := by
  refine WavesRetire.fold _ s (fun _ _ => True) _ (fun s a _ => ?_) (fun _ _ _ _ _ => trivial) (fun _ _ => trivial)
  split
  · exact ⟨s.soon_retire _ _, fun _ => rfl, rfl⟩
  · exact ⟨WavesRetire.refl _, Still.refl _⟩

theorem State.retireAll_retire (s : State) (b : Issue) (c : Bool) (h : ∀ u ∈ wavesOf b.threads, s.plainWave u) :
    WavesRetire s (s.retireAll b c) ∧ Still s (s.retireAll b c) := by
  have h1 := s.teamsMoved_retire (wavesOf b.threads)
  have h2 := WavesRetire.fold (wavesOf b.threads) (s.teamsMoved (wavesOf b.threads)) (fun s u => s.plainWave u)
    (fun s u => s.recRetire u (bitsOf (threadsOf b.threads u)) c) (fun s u h => s.recRetire_plain u _ c h)
    (fun s t u h ht => h.congr ht) (fun u hu => (h u hu).congr h1.1)
  exact ⟨h1.1.trans h2.1, h1.2.trans h2.2⟩

theorem State.endUnit_inChain (s : State) (i : Instr) (b : Issue) (hc : chainBit i = true) :
    s.endUnit i b = ((((s.putChain (s.chain.map fun (c : Chain) => { c with pos := b.pos + unitLen i, rest := b.rest })).count
      0 b.core 1 1).count 0 b.core 2 b.threads.length).count 0 b.core (if memPort i then 4 else 3) 1).retireAll b true := by
  simp only [State.endUnit, hc, if_true]; rfl

theorem State.endUnit_last (s : State) (i : Instr) (b : Issue) (hc : chainBit i = false) :
    s.endUnit i b = ((((((s.putChain none).modAll b.threads clearLatches).count 0 b.core 1 1).count 0 b.core 2
      b.threads.length).count 0 b.core (if memPort i then 4 else 3) 1).askSteps b).retireAll b false := by
  simp only [State.endUnit, hc, Bool.false_eq_true, if_false]; rfl

/-- The end of a unit changes threads' latches and walk faults outside a chain, and nothing else of the waves but the
recorder's unit; a chain in progress moves on, and is over at its last word (R59, R61, R62). -/
theorem State.endUnit_spec (s : State) (i : Instr) (b : Issue) (hn : b.threads.Nodup) (hp : ∀ u ∈ wavesOf b.threads, s.plainWave u) :
    WavesRetire s (s.endUnit i b) ∧ (∀ x, (s.endUnit i b).thread x =
      if x ∈ b.threads ∧ chainBit i = false then { s.thread x with y := [], wfault := [], past := 0 } else s.thread x)
      ∧ (s.endUnit i b).chain = if chainBit i then s.chain.map fun (c : Chain) => { c with pos := b.pos + unitLen i, rest := b.rest } else none := by
  cases hc : chainBit i with
  | true =>
    rw [s.endUnit_inChain i b hc]
    have h1 := (((s.chain_retire (s.chain.map (fun (c : Chain) => { c with pos := b.pos + unitLen i, rest := b.rest }))).trans
      (State.count_retire _ 0 b.core 1 1)).trans (State.count_retire _ 0 b.core 2 b.threads.length)).trans
      (State.count_retire _ 0 b.core (if memPort i then 4 else 3) 1)
    have h3 := State.retireAll_retire _ b true fun u hu => (hp u hu).congr h1
    refine ⟨h1.trans h3.1, fun x => ?_, by
      rw [h3.2.2, State.count_chain, State.count_chain, State.count_chain]; rfl⟩
    rw [h3.2.1, State.count_thread, State.count_thread, State.count_thread, State.putChain_thread]
    exact (if_neg (fun h => Bool.noConfusion h.2)).symm
  | false =>
    rw [s.endUnit_last i b hc]
    have h2t := State.thread_modAll b.threads (s.putChain none) clearLatches hn
    have hs := State.sameBut_modAll b.threads (s.putChain none) clearLatches
    have h1 := (s.chain_retire none).trans hs.wavesRetire
    have h0 : (State.modAll (s.putChain none) b.threads clearLatches).chain = none := by rw [hs.1]; rfl
    generalize State.modAll (s.putChain none) b.threads clearLatches = r at *
    have h2 := ((h1.trans (State.count_retire r 0 b.core 1 1)).trans (State.count_retire _ 0 b.core 2 b.threads.length)).trans
      (State.count_retire _ 0 b.core (if memPort i then 4 else 3) 1)
    have h3 := State.askSteps_retire (((r.count 0 b.core 1 1).count 0 b.core 2 b.threads.length).count 0 b.core (if memPort i then 4 else 3) 1) b
    have h4 := State.retireAll_retire _ b false fun u hu => (hp u hu).congr (h2.trans h3.1)
    refine ⟨(h2.trans h3.1).trans h4.1, fun x => ?_, by
      rw [h4.2.2, h3.2.2, State.count_chain, State.count_chain, State.count_chain, h0]; rfl⟩
    rw [h4.2.1, h3.2.1, State.count_thread, State.count_thread, State.count_thread, h2t, State.putChain_thread]
    simp only [and_true, clearLatches]

theorem mem_wavesOf {l : List TRef} {u : Nat} (h : u ∈ wavesOf l) : ∃ x ∈ l, x.u = u := by
  have hd : ∀ (m acc : List Nat), u ∈ m.foldl (fun acc x => if acc.contains x then acc else acc ++ [x]) acc → u ∈ acc ∨ u ∈ m := by
    intro m
    induction m with
    | nil => intro acc h; exact Or.inl h
    | cons a m ih =>
      intro acc h
      rcases ih _ h with h | h
      · dsimp only at h
        split at h
        · exact Or.inl h
        · rcases List.mem_append.1 h with h | h
          · exact Or.inl h
          · exact Or.inr (List.mem_cons.2 (Or.inl (List.mem_singleton.1 h)))
      · exact Or.inr (List.mem_cons_of_mem _ h)
  rcases hd _ _ h with h | h
  · simp at h
  · obtain ⟨x, hx, e⟩ := List.mem_map.1 h
    exact ⟨x, hx, e⟩

theorem wavesOf_mem {l : List TRef} {x : TRef} (h : x ∈ l) : x.u ∈ wavesOf l := by
  have hd : ∀ (m acc : List Nat) (u : Nat), u ∈ acc ∨ u ∈ m → u ∈ m.foldl (fun acc x => if acc.contains x then acc else acc ++ [x]) acc := by
    intro m
    induction m with
    | nil => intro acc u h; exact h.resolve_right (List.not_mem_nil)
    | cons a m ih =>
      intro acc u h
      refine ih _ u ?_
      rcases h with h | h
      · left; dsimp only; split
        · exact h
        · exact List.mem_append_left _ h
      · rcases List.mem_cons.1 h with rfl | h
        · left; dsimp only; split
          next hc => simpa using hc
          next => exact List.mem_append_right _ (List.mem_singleton.2 rfl)
        · exact Or.inr h
  exact hd _ [] _ (Or.inr (List.mem_map_of_mem h))

theorem foldl_id {α β : Type} (f : β → α → β) (l : List α) (s : β) (h : ∀ a ∈ l, f s a = s) : l.foldl f s = s := by
  induction l with
  | nil => rfl
  | cons a l ih =>
    rw [List.foldl_cons, h a (List.mem_cons_self ..)]
    exact ih fun c hc => h c (List.mem_cons_of_mem _ hc)

/-- A word whose entry takes effect: the state is its effect's, retired. -/
theorem Runs.exec_ok {s : State} {i : Instr} {b : Issue} (h : Runs s i b) (body : State → List TRef → Res) {s2 : State}
    (hb : body (s.prepared i b) (b.threads.filter (s.active i)) = .ok s2) (hp : ∀ u ∈ wavesOf b.threads, s2.plainWave u) :
    runWord i body s = .next (s2.endUnit i b) := by
  have hrep : ∀ u ∈ wavesOf b.threads, s2.replaying (s2.wave u).ctx = false := fun u hu => by simp [State.replaying, (hp u hu).2.1]
  simp only [runWord, h.issue]
  congr 1
  unfold wordNext
  simp only [h.preHits, List.isEmpty_nil, Bool.not_true, Bool.false_eq_true, if_false]
  have hb' : body (((s.openChain i b).advance b).shiftIdle i b) (b.threads.filter (s.active i)) = .ok s2 := hb
  rw [hb']
  have hbad : s.badBursts b.threads ++ s.badRegs i b.threads = [] := by
    have h1 : s.badBursts b.threads = [] := List.filterMap_eq_nil_iff.2 fun x hx => by rw [h.whole x hx]; rfl
    have h2 : s.badRegs i b.threads = [] := by
      refine List.map_eq_nil_iff.2 (List.filter_eq_nil_iff.2 fun x hx => ?_)
      rw [h.sound x hx]; exact Bool.false_ne_true
    rw [h1, h2]; rfl
  simp only [hbad, List.isEmpty_nil, Bool.not_true, Bool.and_false, Bool.false_eq_true, if_false]
  have hw : (((wavesOf b.threads).map fun u => (u, (b.threads.filter (s.active i)).filter fun t => t.u == u)).any
      fun e => s2.logWaits i e.1 e.2) = false := by
    refine List.any_eq_false.2 fun e he => ?_
    obtain ⟨u, hu, rfl⟩ := List.mem_map.1 he
    simp [State.logWaits, hrep u hu]
  simp only [hw, Bool.false_eq_true, if_false]
  have hg : (((wavesOf b.threads).map fun u => (u, (b.threads.filter (s.active i)).filter fun t => t.u == u)).foldl
      (fun s e => s.logGives i e.1 e.2) s2) = s2 := by
    refine foldl_id _ _ _ fun e he => ?_
    obtain ⟨u, hu, rfl⟩ := List.mem_map.1 he
    simp [State.logGives, hrep u hu]
  rw [hg]
  congr 1
  refine foldl_id _ _ _ fun u hu => ?_
  obtain ⟨x, hx, rfl⟩ := mem_wavesOf hu
  have hm : x.u ∈ wavesOf b.threads := wavesOf_mem (List.mem_filter.1 hx).1
  rw [(hp _ hm).2.2]; rfl

/-- The entries of a map that a fold writes, each from its own key. -/
theorem fget_foldl_fput {α : Type} (g : Nat → α) (l : List Nat) (m : FMap α) (u : Nat) :
    fget (l.foldl (fun m u => fput m u (g u)) m) u = if u ∈ l then some (g u) else fget m u := by
  induction l generalizing m with
  | nil => simp
  | cons a l ih =>
    rw [List.foldl_cons, ih]
    by_cases h : u ∈ l
    · simp [h]
    · by_cases e : u = a
      · subst e; simp [h]
      · simp [h, e, fget_fput_other m (g a) e]

/-- The chain that a word of a chain opens, where none is in progress. -/
def openedChain (s : State) (b : Issue) : Chain :=
  { core := b.core, block := b.block, threads := b.threads, start := b.chainPc, stop := b.skipPc, pos := b.pos,
    saved := (wavesOf b.threads).foldl (fun m u => fput m u (s.wave u)) [], flags := [], rest := b.rest, gang := b.gang }

theorem State.openChain_chain (s : State) (i : Instr) (b : Issue) :
    (s.openChain i b).chain = if chainBit i && s.chain.isNone then some (openedChain s b) else s.chain := by
  unfold State.openChain; split <;> rfl

/-- While a word of a chain goes on, the chain holds the bundle's waves as they were before its first word (R61). -/
theorem State.openChain_holds (s : State) (i : Instr) (b : Issue) (hc : chainBit i = true) :
    ∃ c, ((s.openChain i b).chain.map fun (c : Chain) => { c with pos := b.pos + unitLen i, rest := b.rest }) = some c
      ∧ (∀ k, s.chain = some k → c.saved = k.saved) ∧ (s.chain = none → ∀ x ∈ b.threads, fget c.saved x.u = some (s.wave x.u)) := by
  rw [State.openChain_chain, hc]
  cases s.chain with
  | some k => exact ⟨_, rfl, fun _ e => by cases e; rfl, fun e => nomatch e⟩
  | none =>
    exact ⟨_, rfl, fun _ e => (nomatch e), fun _ x hx => (fget_foldl_fput s.wave (wavesOf b.threads) [] x.u).trans (if_pos (wavesOf_mem hx))⟩

/-! ## From the entry's effect to the completion -/

/-- What an entry of registers does to the state that it finds: registers, states and ready times of the bundle's
threads, registers of waves, and the recorder's units. -/
structure Effect (b : Issue) (r t : State) : Prop where
  only : OnlyWaves r t
  wave : ∀ u, t.wave u = { r.wave u with
    threads := (t.wave u).threads, s := (t.wave u).s, m := (t.wave u).m, fpsw := (t.wave u).fpsw, recd := (t.wave u).recd }
  others : ∀ x, x ∉ b.threads → t.thread x = r.thread x
  mine : ∀ x ∈ b.threads, t.thread x = { r.thread x with
    pc := (t.thread x).pc, st := (t.thread x).st, readyAt := (t.thread x).readyAt,
    v := (t.thread x).v, p := (t.thread x).p, y := (t.thread x).y, draw := (t.thread x).draw, slept := (t.thread x).slept }
  chain : t.chain = r.chain

theorem Prepared.plainWave {s r : State} {i : Instr} {b : Issue} (h : Prepared s r i b) (u : Nat) (hp : s.plainWave u) : r.plainWave u := by
  unfold State.plainWave at *
  rw [h.only.recMode, h.wave u]; exact hp

theorem Effect.plainWave {r t : State} {b : Issue} (h : Effect b r t) (u : Nat) (hp : r.plainWave u) : t.plainWave u := by
  unfold State.plainWave at *
  rw [h.only.recMode, h.wave u]; exact hp

theorem Runs.plainWave {s : State} {i : Instr} {b : Issue} (h : Runs s i b) : ∀ u ∈ wavesOf b.threads, s.plainWave u := by
  intro u hu
  obtain ⟨x, hx, rfl⟩ := mem_wavesOf hu
  exact ⟨(h.plain x hx).1, (h.plain x hx).2, h.sound x hx⟩

/-- A word whose entry has an effect on registers completes: the frame, and registers, states and PCs are those of the
effect. -/
theorem Runs.complete {s : State} {i : Instr} {b : Issue} (h : Runs s i b) (body : State → List TRef → Res) (t : State)
    (hx : exec i s = runWord i body s) (hb : body (s.prepared i b) (b.threads.filter (s.active i)) = .ok t)
    (he : Effect b (s.prepared i b) t) :
    exec i s = .next (t.endUnit i b) ∧ After i b s (t.endUnit i b) (fun x => (t.thread x).pc)
      ∧ (∀ x, ((t.endUnit i b).thread x).draw = (t.thread x).draw ∧ ((t.endUnit i b).thread x).st = (t.thread x).st
        ∧ ((t.endUnit i b).thread x).readyAt = (t.thread x).readyAt ∧ ((t.endUnit i b).thread x).slept = (t.thread x).slept)
      ∧ RegsAre (t.endUnit i b) t.vreg t.preg t.sreg t.mreg t.fpswOf := by
  have hq := s.prepared_spec i b h.nodup
  have hpt : ∀ u ∈ wavesOf b.threads, t.plainWave u := fun u hu => he.plainWave u (hq.plainWave u (h.plainWave u hu))
  have hu := t.endUnit_spec i b h.nodup hpt
  have ho : OnlyWaves s (t.endUnit i b) := (hq.only.trans he.only).trans hu.1.1
  have hw : ∀ u, (t.endUnit i b).wave u = { s.wave u with
      threads := ((t.endUnit i b).wave u).threads, s := (t.wave u).s, m := (t.wave u).m, fpsw := (t.wave u).fpsw,
      recd := ((t.endUnit i b).wave u).recd } := by
    intro u
    have e1 := hu.1.2 u
    have e2 := he.wave u
    have e3 := hq.wave u
    rw [e3] at e2
    rw [e2] at e1
    exact e1
  have hth : ∀ x, (t.endUnit i b).thread x = if x ∈ b.threads ∧ chainBit i = false then { t.thread x with y := [], wfault := [], past := 0 }
      else t.thread x := hu.2.1
  have hws : ∀ u, ((t.endUnit i b).wave u).s = (t.wave u).s := fun u => (congrArg Wave.s (hw u)).trans rfl
  have hwm : ∀ u, ((t.endUnit i b).wave u).m = (t.wave u).m := fun u => (congrArg Wave.m (hw u)).trans rfl
  have hwf : ∀ u, ((t.endUnit i b).wave u).fpsw = (t.wave u).fpsw := fun u => (congrArg Wave.fpsw (hw u)).trans rfl
  have hwp : ∀ u, ((t.endUnit i b).wave u).sprout = (t.wave u).sprout := fun u => (congrArg Wave.sprout (hu.1.2 u)).trans rfl
  refine ⟨hx.trans (h.exec_ok body hb hpt), ⟨ho, ho.byteAt, fun u => ?_, fun x hn => ?_, fun x hm => ?_, fun hc x hm => ?_, fun hc => ?_, fun hc => ?_⟩,
    fun x => ?_, ⟨fun x r => ?_, fun x k => ?_, fun u r => ?_, fun u k => ?_, fun u => ?_⟩⟩
  · have e := hw u
    rw [hws, hwm, hwf]
    exact e
  · rw [hth, if_neg (fun e => hn e.1), he.others x hn, hq.others x hn]
  · have e1 := he.mine x hm
    have e2 := hq.mine x hm
    rw [hth]
    rw [e2] at e1
    split
    · rw [e1]
    · have ew : (t.thread x).wfault = (s.thread x).wfault := by rw [e1]
      have ep : (t.thread x).past = (s.thread x).past := by rw [e1]
      rw [ew, ep]; exact e1
  · rw [hth, if_pos ⟨hm, hc⟩]
  · rw [hu.2.2, hc]; rfl
  · rw [hu.2.2, if_pos hc, he.chain, hq.chain]
    exact s.openChain_holds i b hc
  · rw [hth]; split <;> exact ⟨rfl, rfl, rfl, rfl⟩
  · simp only [State.vreg, hth]; split <;> rfl
  · simp only [State.preg, hth]; split <;> rfl
  · simp only [State.sreg, hws, hwp, Wave.isSprout]; rfl
  · simp only [State.mreg, hwm, hwp, Wave.isSprout]; rfl
  · simp only [State.fpswOf, hwf]

end Sys2Proof.Machine
end

