-- ==== Sys2Proof/Laws/Results.lean ====
section
/-! SUPPORT. Words that give each active thread a result or predicates from its own sources (R52, R123): one lemma per
shape. -/

namespace Sys2Proof.Machine

/-! ## What a thread's sources read -/

/-- A thread and its wave hold the same registers in both states, and nothing outside the waves differs but what no
source reads. -/
structure SeesSame (s r : State) (x : TRef) : Prop where
  only : OnlyWaves s r
  wave : r.wave x.u = { s.wave x.u with threads := (r.wave x.u).threads }
  v : (r.thread x).v = (s.thread x).v
  p : (r.thread x).p = (s.thread x).p
  y : (r.thread x).y = (s.thread x).y
  draw : (r.thread x).draw = (s.thread x).draw

/-- A function of a thread's own registers. -/
def ReadsOwn {α : Type} (g : State → TRef → α) : Prop := ∀ s r x, SeesSame s r x → g r x = g s x

theorem SeesSame.regs {s r : State} {x : TRef} (h : SeesSame s r x) :
    (r.wave x.u).s = (s.wave x.u).s ∧ (r.wave x.u).m = (s.wave x.u).m ∧ (r.wave x.u).sprout = (s.wave x.u).sprout
      ∧ (r.wave x.u).lane = (s.wave x.u).lane :=
  ⟨(congrArg Wave.s h.wave).trans rfl, (congrArg Wave.m h.wave).trans rfl, (congrArg Wave.sprout h.wave).trans rfl,
    (congrArg Wave.lane h.wave).trans rfl⟩

theorem SeesSame.srcWord {s r : State} {x : TRef} (h : SeesSame s r x) (imx : Option Word) (f : BitVec 8) (u : Bool) (k : Nat) :
    r.srcWord x imx f u k = s.srcWord x imx f u k := by
  simp only [State.srcWord, State.sreg, State.vreg, State.latch, State.laneid, h.v, h.y, h.regs.1, h.regs.2.2.1, h.regs.2.2.2,
    Wave.isSprout]
  rfl

theorem SeesSame.srcNat {s r : State} {x : TRef} (h : SeesSame s r x) (hd : Hdr) (f : BitVec 8) (u : Bool) (n : Nat) :
    r.srcNat x hd f u n = s.srcNat x hd f u n := by
  simp only [State.srcNat, State.src, State.src64, h.srcWord]

theorem SeesSame.preg {s r : State} {x : TRef} (h : SeesSame s r x) (k : Nat) : r.preg x k = s.preg x k := by
  simp only [State.preg, h.p]

theorem Prepared.sees {s r : State} {i : Instr} {b : Issue} (h : Prepared s r i b) (x : TRef) (hx : x ∈ s.actives i b) : SeesSame s r x := by
  have hm := List.mem_filter.1 hx
  have e := h.mine x hm.1
  have hl := h.latches x hm.1 hm.2
  exact ⟨h.only, h.wave x.u, by rw [e], by rw [e], hl, by rw [e]⟩

theorem SameBut.sees {r s : State} {x : TRef} (h : SameBut r s) (e : s.thread x = r.thread x) : SeesSame r s x :=
  ⟨h.onlyWaves, h.2 x.u, by rw [e], by rw [e], by rw [e], by rw [e]⟩

theorem SeesSame.trans {s r q : State} {x : TRef} (h1 : SeesSame s r x) (h2 : SeesSame r q x) : SeesSame s q x :=
  ⟨h1.only.trans h2.only, by rw [h2.wave, h1.wave], h2.v.trans h1.v, h2.p.trans h1.p, h2.y.trans h1.y, h2.draw.trans h1.draw⟩

/-! ## One thread after another -/

/-- An effect of each thread on itself alone is the effect of all. -/
theorem perThread_modAll (l : List TRef) (hn : l.Nodup) (r : State) (f : State → TRef → Except Hit State) (F : TRef → Thread → Thread)
    (hf : ∀ s x, x ∈ l → SameBut r s → s.thread x = r.thread x → f s x = .ok (s.modThread x (F x))) :
    perThread l r f = .ok (r.modAll l F) := by
  have key : ∀ (m : List TRef) (s : State), m.Nodup → (∀ x ∈ m, x ∈ l ∧ s.thread x = r.thread x) → SameBut r s →
      m.foldl (fun (a : State × List Hit) t => match f a.1 t with
        | .ok s' => (s', a.2)
        | .error h => (a.1, a.2 ++ [h])) (s, []) = (s.modAll m F, []) := by
    intro m
    induction m with
    | nil => intro s _ _ _; rfl
    | cons x m ih =>
      intro s hm hs hb
      have hx := hs x (List.mem_cons_self ..)
      simp only [List.nodup_cons] at hm
      rw [List.foldl_cons, hf s x hx.1 hb hx.2]
      refine ih _ hm.2 (fun y hy => ?_) (hb.trans (SameBut.modThread s x (F x)))
      have hy' := hs y (List.mem_cons_of_mem _ hy)
      refine ⟨hy'.1, ?_⟩
      rw [State.thread_modThread, if_neg (fun e : y = x => hm.1 (e ▸ hy)), hy'.2]
  exact congrArg (fun q : State × List Hit => if q.2.isEmpty then Res.ok q.1 else .trap (firstHits q.2) [])
    (key l r hn (fun x hx => ⟨hx, rfl⟩) (SameBut.refl r))

/-- A change of registers of the active threads. -/
theorem Effect.modAll (s : State) (i : Instr) (b : Issue) (hn : b.threads.Nodup) (r : State) (F : TRef → Thread → Thread)
    (hF : ∀ x th, F x th = { th with v := (F x th).v, p := (F x th).p, y := (F x th).y, draw := (F x th).draw }) :
    Effect b r (r.modAll (s.actives i b) F) := by
  have hs := State.sameBut_modAll (s.actives i b) r F
  have ht := State.thread_modAll (s.actives i b) r F (hn.sublist List.filter_sublist)
  refine ⟨hs.onlyWaves, fun u => ?_, fun x hx => ?_, fun x _ => ?_, by rw [hs.1]⟩
  · have e := hs.2 u
    generalize (r.modAll (s.actives i b) F).wave u = w at *
    rw [e]
  · rw [ht, if_neg (fun e : x ∈ s.actives i b => hx (List.mem_filter.1 e).1)]
  · rw [ht]; split
    · have e := hF x (r.thread x)
      rw [e]
    · rfl

/-- A word that changes registers of its active threads, each from its own. -/
theorem Runs.completeThreads {s : State} {i : Instr} {b : Issue} (h : Runs s i b) (body : State → List TRef → Res)
    (F : TRef → Thread → Thread) (f : State → TRef → Except Hit State) (hx : exec i s = runWord i body s)
    (hbody : ∀ r l, body r l = perThread l r f)
    (hF : ∀ x th, F x th = { th with v := (F x th).v, p := (F x th).p, y := (F x th).y, draw := (F x th).draw })
    (hf : ∀ r x, x ∈ s.actives i b → SeesSame s r x → f r x = .ok (r.modThread x (F x))) :
    Completes i b s
      (fun x k => if x ∈ s.actives i b then fgetD (F x ((s.prepared i b).thread x)).v k 0 else s.vreg x k)
      (fun x k => if x ∈ s.actives i b then k == 7 || (F x ((s.prepared i b).thread x)).p.getLsbD k else s.preg x k)
      s.sreg s.mreg s.fpswOf
    ∨ ∃ x ∈ s.actives i b, (F x ((s.prepared i b).thread x)).draw ≠ (s.thread x).draw := by
  by_cases hd : ∃ x ∈ s.actives i b, (F x ((s.prepared i b).thread x)).draw ≠ (s.thread x).draw
  · exact Or.inr hd
  left
  have hq := s.prepared_spec i b h.nodup
  have hna : (s.actives i b).Nodup := h.nodup.sublist List.filter_sublist
  have hb : body (s.prepared i b) (b.threads.filter (s.active i)) = .ok ((s.prepared i b).modAll (s.actives i b) F) := by
    rw [hbody]
    exact perThread_modAll (s.actives i b) hna _ f F fun r x hxm hsb he => hf r x hxm ((hq.sees x hxm).trans (hsb.sees he))
  have hc := h.complete body _ hx hb (Effect.modAll s i b h.nodup _ F hF)
  have ht := State.thread_modAll (s.actives i b) (s.prepared i b) F hna
  have hs := State.sameBut_modAll (s.actives i b) (s.prepared i b) F
  have hpv : ∀ x, ((s.prepared i b).thread x).v = (s.thread x).v := fun x => by
    by_cases hm : x ∈ b.threads
    · rw [hq.mine x hm]
    · rw [hq.others x hm]
  have hpp : ∀ x, ((s.prepared i b).thread x).p = (s.thread x).p := fun x => by
    by_cases hm : x ∈ b.threads
    · rw [hq.mine x hm]
    · rw [hq.others x hm]
  have hpd : ∀ x, ((s.prepared i b).thread x).draw = (s.thread x).draw := fun x => by
    by_cases hm : x ∈ b.threads
    · rw [hq.mine x hm]
    · rw [hq.others x hm]
  have hw : ∀ u, ((s.prepared i b).modAll (s.actives i b) F).wave u
      = { s.wave u with threads := (((s.prepared i b).modAll (s.actives i b) F).wave u).threads } := fun u => by
    have e := hs.2 u
    rw [hq.wave u] at e
    exact e
  have hws : ∀ u, (((s.prepared i b).modAll (s.actives i b) F).wave u).s = (s.wave u).s := fun u => (congrArg Wave.s (hw u)).trans rfl
  have hwm : ∀ u, (((s.prepared i b).modAll (s.actives i b) F).wave u).m = (s.wave u).m := fun u => (congrArg Wave.m (hw u)).trans rfl
  have hwf : ∀ u, (((s.prepared i b).modAll (s.actives i b) F).wave u).fpsw = (s.wave u).fpsw := fun u => (congrArg Wave.fpsw (hw u)).trans rfl
  have hwp : ∀ u, (((s.prepared i b).modAll (s.actives i b) F).wave u).sprout = (s.wave u).sprout := fun u => (congrArg Wave.sprout (hw u)).trans rfl
  have hww : ∀ u, (((s.prepared i b).modAll (s.actives i b) F).wave u).width = (s.wave u).width := fun u => (congrArg Wave.width (hw u)).trans rfl
  generalize (s.prepared i b).modAll (s.actives i b) F = t at *
  have hpc : ∀ x ∈ b.threads, (t.thread x).pc = b.nextPc ∧ (t.thread x).st = (s.thread x).st ∧ (t.thread x).readyAt = s.steps
      ∧ (t.thread x).slept = (s.thread x).slept := by
    intro x hm
    have e := hq.mine x hm
    rw [ht]
    split
    · rw [hF, e]; exact ⟨rfl, rfl, rfl, rfl⟩
    · rw [e]; exact ⟨rfl, rfl, rfl, rfl⟩
  refine ⟨_, hc.1, ⟨hc.2.1.rest, hc.2.1.bytes, hc.2.1.wave, hc.2.1.others, fun x hm => ?_, hc.2.1.latches, hc.2.1.ended, hc.2.1.held⟩, fun x hm => ?_, fun x => ?_, ⟨fun x k => ?_, fun x k => ?_, fun u k => ?_, fun u k => ?_, fun u => ?_⟩⟩
  · have e := hc.2.1.mine x hm
    rw [(hpc x hm).1] at e
    exact e
  · rw [(hc.2.2.1 x).2.1, (hc.2.2.1 x).2.2.1, (hc.2.2.1 x).2.2.2]; exact (hpc x hm).2
  · rw [(hc.2.2.1 x).1, ht]
    split
    next hm => exact Classical.byContradiction fun e => hd ⟨x, hm, e⟩
    next => exact hpd x
  · rw [hc.2.2.2.v, State.vreg, ht]; split
    · rfl
    · rw [hpv]; rfl
  · rw [hc.2.2.2.p, State.preg, ht]; split
    · rfl
    · rw [hpp]; rfl
  · rw [hc.2.2.2.q]; simp only [State.sreg, hws, hwp, Wave.isSprout]; rfl
  · rw [hc.2.2.2.m]; simp only [State.mreg, hwm, hwp, Wave.isSprout]; rfl
  · rw [hc.2.2.2.f]; simp only [State.fpswOf, hwf]

/-- A word that gives each active thread a result. -/
theorem Runs.givesV {s : State} {i : Instr} {b : Issue} (h : Runs s i b) (d : BitVec 8) (w : Bool) (n : Nat)
    (g : State → TRef → Nat) (hx : ∀ r, exec i r = runWord i (eachResult d w n g) r) (hg : ReadsOwn g) :
    GivesV i b s d w n (g s) := by
  have hk := h.completeThreads (eachResult d w n g)
    (fun x th => { th with v := if w then th.v else putWords th.v d.toNat (toWords (g s x) n),
                           y := ((toWords (g s x) n).foldl (fun y x => x :: y) th.y).take 4 })
    (fun s t => .ok (s.result t d w n (g s t))) (hx s) (fun r l => rfl) (fun x th => rfl)
    (fun r x hm hs => by simp only [State.result_eq, hg s r x hs])
  have hq := s.prepared_spec i b h.nodup
  rcases hk with hk | ⟨x, hm, hne⟩
  · have e1 : (fun x k => if x ∈ s.actives i b then
          fgetD (if w then ((s.prepared i b).thread x).v
            else putWords ((s.prepared i b).thread x).v d.toNat (toWords (g s x) n)) k 0 else s.vreg x k)
        = s.vGiven i b d w n (g s) := by
      funext x k
      unfold State.vGiven
      by_cases hm : x ∈ s.actives i b
      · have hv : ((s.prepared i b).thread x).v = (s.thread x).v := (hq.sees x hm).v
        simp only [hm, if_true, true_and, hv]
        cases w
        · simp only [Bool.false_eq_true, if_false, true_and, fgetD_putWords, length_toWords]
          split
          next hr => exact getD_toWords _ _ _ (by omega)
          next => rfl
        · simp [State.vreg]
      · simp [hm]
    have e2 : (fun x k => if x ∈ s.actives i b then k == 7 || ((s.prepared i b).thread x).p.getLsbD k else s.preg x k) = s.preg := by
      funext x k
      by_cases hm : x ∈ s.actives i b
      · simp only [hm, if_true, (hq.sees x hm).p]; rfl
      · simp [hm]
    unfold GivesV
    rw [← e1, ← e2]; exact hk
  · exact absurd (hq.sees x hm).draw hne

end Sys2Proof.Machine
end

