-- ==== Sys2Proof/Tests/Probe.lean ====
section
/-! SUPPORT. A small state for tests, the bundle of one thread that runs a word in it, and checks by which a test shows
that a statement's hypotheses are met. -/

namespace Sys2Proof.Tests

open Sys2Proof Sys2Proof.Machine

/-! ## A state in which one thread runs one word -/

/-- Thread 0 of wave 1. -/
def t0 : TRef := ⟨1, 0⟩

/-- The state after reset with one wave of eight lanes on core 0, one live thread in it, and 64 KiB of device memory mapped. -/
def probe : State := State.reset.withFetchWord 64 0

/-- The issue of a word, outside a chain, by thread 0. -/
def issueFor (i : Instr) : Issue := issueOf 0 1 [t0] 0 (unitLen i) 0 (8 * unitLen i) false 0 [] []

/-- Thread 1 of wave 1. -/
def t1 : TRef := ⟨1, 1⟩

/-- The issue of a word, outside a chain, by threads 0 and 1. -/
def issueForTwo (i : Instr) : Issue := issueOf 0 1 [t0, t1] 0 (unitLen i) 0 (8 * unitLen i) false 0 [] []

/-- The state in which thread 0 issues a word. -/
def issuing (s : State) (i : Instr) : State := { s with issue := some (issueFor i) }

/-- The header of a word without prefix, outside a chain, whose guard is true. -/
def hp : Hdr := { pfx := none, imx := none, chain := false, neg := false, pred := 7 }

/-- Registers of thread 0. -/
def setRegs (s : State) (l : List (Nat × Word)) : State := l.foldl (fun s e => s.setV t0 e.1 e.2) s
/-- Uniform registers of wave 1. -/
def setUnis (s : State) (l : List (Nat × Word)) : State := l.foldl (fun s e => s.setS 1 e.1 e.2) s

/-! ## Checks -/

/-- Nothing is recorded or replayed. -/
def unloggedB (s : State) : Bool :=
  s.ctxs.all (fun e => decide (s.recMode e.1 ≠ 1) && decide (s.recMode e.1 ≠ 2)) && s.replays.isEmpty && s.probeTab.isEmpty

theorem fget_not_listed {α : Type} : ∀ (m : FMap α) (k : Nat), (∀ e ∈ m, e.1 ≠ k) → fget m k = none := by
  intro m
  induction m with
  | nil => intro _ _; rfl
  | cons e m ih =>
    intro k h
    have h1 : e.1 ≠ k := h e (List.mem_cons_self ..)
    simp only [fget, h1, if_false]
    exact ih k fun x hx => h x (List.mem_cons_of_mem _ hx)

theorem fgetD_not_listed {α : Type} : ∀ (m : FMap α) (k : Nat) (d : α), (∀ e ∈ m, e.1 ≠ k) → fgetD m k d = d := by
  intro m k d h
  simp [fgetD, fget_not_listed m k h]

theorem unlogged_of {s : State} (h : unloggedB s = true) : Unlogged s := by
  simp only [unloggedB, Bool.and_eq_true, List.all_eq_true, decide_eq_true_eq, List.isEmpty_iff] at h
  obtain ⟨⟨hc, hr⟩, hp⟩ := h
  refine ⟨fun c => ?_, hr, hp⟩
  by_cases hm : ∃ e ∈ s.ctxs, e.1 = c
  · obtain ⟨e, he, rfl⟩ := hm
    exact hc e he
  · have : s.ctx c = CtxRegs.reset := fgetD_not_listed _ _ _ fun e he h2 => hm ⟨e, he, h2⟩
    have hz : s.recMode c = 0 := by
      unfold State.recMode
      rw [this]
      rfl
    rw [hz]
    decide

/-- A bundle runs a word with its entry's effect. -/
def mayRunB (s : State) (i : Instr) (b : Issue) : Bool :=
  decide (s.issue = some b) && legalForm i && chainOk i b.pos && legalEntry i
    && (sproutMay i || b.threads.all fun x => !(s.wave x.u).isSprout)
    && b.threads.all (fun x => !s.active i x || (s.preHit i x).isNone) && decide b.threads.Nodup
    && b.threads.all (fun x => (fget (s.wave x.u).threads x.i).isSome && (s.thread x).burst.isNone
      && (s.wave x.u).errs.isEmpty)

theorem mayRun_of {s : State} {i : Instr} {b : Issue} (h : mayRunB s i b = true) : MayRun s i b := by
  simp only [mayRunB, Bool.and_eq_true, Bool.or_eq_true, List.all_eq_true, decide_eq_true_eq, Bool.not_eq_true',
    Option.isNone_iff_eq_none, List.isEmpty_iff] at h
  obtain ⟨⟨⟨⟨⟨⟨⟨h1, h2⟩, h3⟩, h4⟩, h5⟩, h6⟩, h7⟩, h8⟩ := h
  refine ⟨h1, h2, h3, h4, h5, fun x hx ha => ?_, h7, fun x hx => (h8 x hx).1.1, fun x hx => (h8 x hx).1.2, fun x hx => (h8 x hx).2⟩
  rcases h6 x hx with h | h
  · rw [ha] at h; cases h
  · exact h

/-- The same, with no context recorded or replayed. -/
def runsB (s : State) (i : Instr) (b : Issue) : Bool :=
  mayRunB s i b && b.threads.all fun x =>
    decide (s.recMode (s.wave x.u).ctx ≠ 1) && decide (s.recMode (s.wave x.u).ctx ≠ 2) && (fget s.replays (s.wave x.u).ctx).isNone

theorem runs_of {s : State} {i : Instr} {b : Issue} (h : runsB s i b = true) : Runs s i b := by
  simp only [runsB, Bool.and_eq_true, List.all_eq_true, decide_eq_true_eq, Option.isNone_iff_eq_none] at h
  exact ⟨mayRun_of h.1, fun x hx => (h.2 x hx).1, fun x hx => (h.2 x hx).2⟩

/-- Every word of a list runs in the state. -/
def allRun (s : State) (l : List Instr) : Bool := l.all fun i => runsB (issuing s i) i (issueFor i)

theorem runs_of_allRun {s : State} {l : List Instr} (h : allRun s l = true) : ∀ i ∈ l, Runs (issuing s i) i (issueFor i) :=
  fun i hi => runs_of (List.all_eq_true.mp h i hi)

/-- The active threads are of one wave, and ready. -/
def oneWaveB (s : State) (i : Instr) (b : Issue) (u : Nat) : Bool :=
  (s.actives i b).all (fun x => x.u == u && decide ((s.thread x).st = .ready)) && s.hasActive i b u

theorem oneWave_of {s : State} {i : Instr} {b : Issue} {u : Nat} (h : oneWaveB s i b u = true) : OneWave s i b u := by
  simp only [oneWaveB, Bool.and_eq_true, List.all_eq_true, decide_eq_true_eq, beq_iff_eq] at h
  exact ⟨fun x hx => h.1 x hx, h.2⟩

/-- A wave can pin the pages of a range, all in a window. -/
def pinnableB (s : State) (u : Nat) (g : Rng) : Bool :=
  let w := s.wave u
  g.space != 0 || g.pages.all fun page => (s.ctx w.ctx).inWindow page
    && (match s.windowTrans w.ctx page (if g.write then .write else .read) w.high with
        | .ok _ _ => true
        | _ => false)

theorem pinnable_of {s : State} {u : Nat} {g : Rng} (h : pinnableB s u g = true) : Pinnable s u g := by
  simp only [pinnableB, Bool.or_eq_true, List.all_eq_true, Bool.and_eq_true, bne_iff_ne] at h
  rcases h with h | h
  · exact .inl h
  · refine .inr fun page hp => ?_
    have h2 := (h page hp).2
    cases hw : s.windowTrans (s.wave u).ctx page (if g.write then .write else .read) (s.wave u).high with
    | ok pa k => exact ⟨pa, k, by simp only [State.translateNow, (h page hp).1, if_true, hw]⟩
    | fault code => rw [hw] at h2; cases h2
    | miss => rw [hw] at h2; cases h2

/-- A lane's access fits, with nothing under way. -/
def laneFitsB (s : State) (m : MemOp) (x : TRef) : Bool :=
  let ea := (s.memLane m x).ea
  let p := s.memPlace m x ea
  (m.space != 0 || decide (ea < 2 ^ 56)) && (p.2 == 0 || ea % p.2 == 0) && (p.2 != 0 || decide (p.1 % 64 + m.n ≤ 64)) && s.accs.isEmpty

theorem laneFits_of {s : State} {m : MemOp} {x : TRef} (h : laneFitsB s m x = true) : LaneFits s m x := by
  simp only [laneFitsB, Bool.and_eq_true, Bool.or_eq_true, bne_iff_ne, beq_iff_eq, decide_eq_true_eq, List.isEmpty_iff] at h
  obtain ⟨⟨⟨h1, h2⟩, h3⟩, h4⟩ := h
  refine ⟨fun hs => ?_, fun hp => ?_, fun hp => ?_, fun a ha => ?_, fun a ha => ?_, fun a ha => ?_⟩
  · exact h1.resolve_left fun h => h hs
  · exact h2.resolve_left hp
  · exact h3.resolve_left fun h => h hp
  · rw [h4] at ha; cases ha
  · rw [h4] at ha; cases ha
  · rw [h4] at ha; cases ha

/-- A lane's address translates to a sector of this device. -/
def translatesB (s : State) (m : MemOp) (x : TRef) (pa cls : Nat) : Bool :=
  let ea := (s.memPlace m x (s.memLane m x).ea).1
  decide ((s.laneTrans false x ea (if m.writes then .write else .read)).1 = .ok pa cls)
    && (!m.isRmw || match (s.laneTrans false x ea .read).1 with
        | .ok _ _ => true
        | _ => false)
    && pa % 64 == ea % 64 && decide ((s.target pa).1 = .hbm) && !s.lostHome pa && (!m.writes || (cls != 2 && !s.collapsing pa))

theorem translates_of {s : State} {m : MemOp} {x : TRef} {pa cls : Nat} (h : translatesB s m x pa cls = true) : Translates s m x pa cls := by
  simp only [translatesB, Bool.and_eq_true, Bool.or_eq_true, Bool.not_eq_true', decide_eq_true_eq, beq_iff_eq, bne_iff_ne] at h
  obtain ⟨⟨⟨⟨⟨h1, h2⟩, h3⟩, h4⟩, h5⟩, h6⟩ := h
  refine ⟨h1, fun hr => ?_, h3, h4, h5, fun hw => ?_⟩
  · have h7 := h2.resolve_left (by simp [hr])
    cases ht : (s.laneTrans false x (s.memPlace m x (s.memLane m x).ea).1 .read).1 with
    | ok q c => exact ⟨q, c, rfl⟩
    | fault code => rw [ht] at h7; cases h7
    | miss => rw [ht] at h7; cases h7
  · exact h6.resolve_left (by simp [hw])

/-- A die below 4 holds the sector's newest data alone. -/
def heldAtB (s : State) (d core pa : Nat) (c : L2Copy) : Bool :=
  decide (d < 4) && decide (s.l2copy d (sectorOf pa) = some c) && (decide (c.st = .e) || decide (c.st = .m))
    && decide (s.latest (sectorOf pa) = c.data) && !c.poison
    && s.l2.all (fun e => e.1 == l2Key d (sectorOf pa) || decide (e.1 % 2 ^ 52 ≠ sectorOf pa % 2 ^ 52)) && (fget (s.core core).l1 (sectorOf pa)).isNone

theorem heldAt_of {s : State} {d core pa : Nat} {c : L2Copy} (h : heldAtB s d core pa c = true) : HeldAt s d core pa c := by
  simp only [heldAtB, Bool.and_eq_true, Bool.or_eq_true, List.all_eq_true, decide_eq_true_eq, Bool.not_eq_true', beq_iff_eq,
    Option.isNone_iff_eq_none] at h
  obtain ⟨⟨⟨⟨⟨⟨h1, h2⟩, h3⟩, h4⟩, h5⟩, h6⟩, h7⟩ := h
  refine ⟨h1, h2, h3, h4, h5, fun e he => ?_, h7⟩
  have hn : s.l2copy e (sectorOf pa) = none := by
    unfold State.l2copy
    refine fget_not_listed _ _ fun x hx hk => he ?_
    have := h6 x hx
    simp only [l2Key] at this hk
    rcases this with h | h <;> omega
  unfold State.l2st
  rw [hn]
  rfl

end Sys2Proof.Tests
end

