-- ==== Sys2Proof/Tests/Slice0.lean ====
section
/-! SUPPORT. Tests of the encodings: ill-formed terms that each check of well-formedness refuses, and words written
out in the manual that decode to the instruction they stand for, of every family of the opcode table. -/

namespace Sys2Proof.Tests

open Sys2Proof Sys2Proof.Machine

/-- Fields of an IADD with the given D, A and B. -/
def addOf (d a b : BitVec 8) : FmtF :=
  { d := d, a := a, b := b, c := 0, w := false, ua := false, ub := false, uc := false, mod := 0 }

/-- A half of a paired word, always guarded. -/
def half (op6 : BitVec 6) (d s : BitVec 8) (imm6 : BitVec 6) : PHalf := { p := 7, op6 := op6, d := d, s := s, imm6 := imm6 }

/-- A word of format S. -/
def bodyOf (b : BitVec 48) : FmtS := { body := b }

/-- A PFX word that overrides nothing. -/
def noPfx : Pfx := { ovo := false, ord := 0, scope := 0, ovs := false, space := 0, ovp := false, pol := 0, ovx := false, off32 := 0 }

/-- Fields of a b32 load v8, [v2.64 + off]. -/
def loadOf (d ar : BitVec 8) (off : BitVec 18) : FmtM := { d := d, ar := ar, b := 244, w := false, ua := false, sz := 4, off := off }

/-! ## Well-formed words, and one ill-formed term for each check -/

theorem test_wf_iadd : WellFormed (.iadd hp (addOf 4 4 9)) := by unfold WellFormed; decide
theorem test_wf_prefixed_load : WellFormed (.ld { hp with pfx := some { noPfx with ovx := true, off32 := 0x80000000 } } (loadOf 8 2 0)) := by
  unfold WellFormed; decide

/-- R50: the source field values 246 to 254 are reserved. -/
theorem test_ill_source_reserved : ¬ WellFormed (.iadd hp (addOf 4 246 9)) := by unfold WellFormed; decide
/-- R54: a source field of 255 wants an IMX word. -/
theorem test_ill_source_imx_missing : ¬ WellFormed (.iadd hp (addOf 4 4 255)) := by unfold WellFormed; decide
/-- R51: a uniform source names s0 to s63. -/
theorem test_ill_source_uniform : ¬ WellFormed (.iadd hp { addOf 4 64 9 with ua := true }) := by unfold WellFormed; decide
/-- R50: a 64-bit source names an even register (TYPE 2, i64). -/
theorem test_ill_source_odd : ¬ WellFormed (.iadd hp { addOf 4 5 8 with mod := 0x100 }) := by unfold WellFormed; decide
/-- R52: D names v0 to v239, -/
theorem test_ill_destination : ¬ WellFormed (.iadd hp (addOf 240 4 9)) := by unfold WellFormed; decide
/-- and an even register for a 64-bit result. -/
theorem test_ill_destination_odd : ¬ WellFormed (.iadd hp { addOf 5 4 8 with mod := 0x100 }) := by unfold WellFormed; decide
/-- R53: an unused field is 0. -/
theorem test_ill_unused_field : ¬ WellFormed (.iadd hp { addOf 4 4 9 with c := 1 }) := by unfold WellFormed; decide
/-- R44: TYPE codes 22 to 31 are reserved, and an unused modifier is 0. -/
theorem test_ill_type_reserved : ¬ WellFormed (.iadd hp { addOf 4 4 9 with mod := 0xB00 }) := by unfold WellFormed; decide
theorem test_ill_modifier_unused : ¬ WellFormed (.iadd hp { addOf 4 4 9 with mod := 0x010 }) := by unfold WellFormed; decide
/-- R52: bits 7 and 6 of a predicate destination are 0, and W is 0. -/
theorem test_ill_predicate_pair : ¬ WellFormed (.icmp hp (addOf 0x40 4 9)) := by unfold WellFormed; decide
theorem test_ill_write_suppress : ¬ WellFormed (.icmp hp { addOf 0x11 4 9 with w := true }) := by unfold WellFormed; decide
/-- R109: mask numbers 12 to 15 are reserved, and bits [43:0] are 0. -/
theorem test_ill_mask_number : ¬ WellFormed (.join hp (bodyOf 0xC00000000000)) := by unfold WellFormed; decide
theorem test_ill_mask_body : ¬ WellFormed (.join hp (bodyOf 0x200000000001)) := by unfold WellFormed; decide
/-- R47: a branch without link has LD 244. -/
theorem test_ill_link : ¬ WellFormed (.bra hp { ld := 4, a := 0, rel := 0 }) := by unfold WellFormed; decide
/-- R46: AR names an even v register. -/
theorem test_ill_address_register : ¬ WellFormed (.ld hp (loadOf 8 3 0)) := by unfold WellFormed; decide
/-- R46: SZ codes 7 to 15 are reserved. -/
theorem test_ill_size : ¬ WellFormed (.ld hp { loadOf 8 2 0 with sz := 7 }) := by unfold WellFormed; decide
/-- R48: an unused field of format X is 0, and an address pair is even. -/
theorem test_ill_engine_field : ¬ WellFormed (.lock hp { u0 := 4, u1 := 6, u2 := 0, u3 := 0, u4 := 0, u5 := 0, xmod := 7 }) := by
  unfold WellFormed; decide
theorem test_ill_engine_pair : ¬ WellFormed (.lock hp { u0 := 5, u1 := 0, u2 := 0, u3 := 0, u4 := 0, u5 := 0, xmod := 7 }) := by
  unfold WellFormed; decide
/-- R49: undefined bits of a format-S word are 0. -/
theorem test_ill_body : ¬ WellFormed (.nop hp (bodyOf 1)) := by unfold WellFormed; decide
/-- R54: an IMX word that nothing consumes, and one before a format-I word whose IMM24 is not 0. -/
theorem test_ill_imx_unused : ¬ WellFormed (.iadd { hp with imx := some 5 } (addOf 4 4 9)) := by unfold WellFormed; decide
theorem test_ill_imx_and_immediate :
    ¬ WellFormed (.movi { hp with imx := some 5 } { d := 3, a := 0, w := false, ua := false, mod := 0, imm := 1 }) := by
  unfold WellFormed; decide
/-- R56: PFX before an instruction that takes none, an acquire on a store, a reserved policy. -/
theorem test_ill_prefix : ¬ WellFormed (.iadd { hp with pfx := some noPfx } (addOf 4 4 9)) := by unfold WellFormed; decide
theorem test_ill_prefix_order : ¬ WellFormed (.st { hp with pfx := some { noPfx with ovo := true, ord := 1 } } (loadOf 8 2 0)) := by
  unfold WellFormed; decide
theorem test_ill_prefix_policy : ¬ WellFormed (.ld { hp with pfx := some { noPfx with ovp := true, pol := 6 } } (loadOf 8 2 0)) := by
  unfold WellFormed; decide
/-- R55: an offset beside OFF32; a group not overridden that is not 0. -/
theorem test_ill_prefix_offset : ¬ WellFormed (.ld { hp with pfx := some { noPfx with ovx := true, off32 := 8 } } (loadOf 8 2 4)) := by
  unfold WellFormed; decide
theorem test_ill_prefix_group : ¬ WellFormed (.ld { hp with pfx := some { noPfx with scope := 4 } } (loadOf 8 2 0)) := by
  unfold WellFormed; decide
/-- R40: op6 0x15 to 0x3F are reserved, a shift is by at most 31, a register form has imm6 0, a NOP half is 0. -/
theorem test_ill_half_reserved : ¬ WellFormed (.pairedWord false (half 0x15 4 5 0) (half 0 0 0 0)) := by unfold WellFormed; decide
theorem test_ill_half_shift : ¬ WellFormed (.pairedWord false (half 0x0B 4 5 32) (half 0 0 0 0)) := by unfold WellFormed; decide
theorem test_ill_half_immediate : ¬ WellFormed (.pairedWord false (half 0x03 4 5 1) (half 0 0 0 0)) := by unfold WellFormed; decide
theorem test_ill_half_nop : ¬ WellFormed (.pairedWord false (half 0x03 4 5 0) (half 0 1 0 0)) := by unfold WellFormed; decide
/-- R41: destinations of one bank, and three reads of one bank. -/
theorem test_ill_bank_destinations : ¬ WellFormed (.pairedWord false (half 0x02 4 5 1) (half 0x02 8 6 1)) := by unfold WellFormed; decide
theorem test_ill_bank_reads : ¬ WellFormed (.pairedWord false (half 0x03 4 8 0) (half 0x02 5 12 1)) := by unfold WellFormed; decide
/-- R58: a chain bit on a load, and a chain bit on an eighth word. -/
theorem test_ill_chain : chainOk (.ld { hp with chain := true } (loadOf 8 2 0)) 0 = false := by decide
theorem test_ill_chain_length : chainOk (.iadd { hp with chain := true } (addOf 4 4 9)) 7 = false := by decide

/-! ## Words that the manual writes out -/

/-- The word decodes to the instruction, which is well-formed. -/
def reads (w : Nat) (i : Instr) : Bool := decide (decodeTableWord 64 w = some i) && legalWord i

/-- Control (R103, R109). -/
theorem test_word_nop : reads 0x1C00000000000000 (.nop hp (bodyOf 0)) = true := by decide
theorem test_word_waitm : reads 0x1C0D200000000000 (.waitm hp (bodyOf 0x200000000000)) = true := by decide
/-- Integer: a link of a chain of carries (R133) and an address (R136). -/
theorem test_word_iaddc : reads 0x5C461E0A141F0400 (.iaddc { hp with chain := true }
    { d := 30, a := 10, b := 20, c := 0x1F, w := false, ua := false, ub := false, uc := false, mod := 0x400 }) = true := by decide
theorem test_word_lea : reads 0x1C4E080205064580 (.lea hp
    { d := 8, a := 2, b := 5, c := 6, w := false, ua := true, ub := false, uc := false, mod := 0x580 }) = true := by decide
/-- Floating point (R201, R206, R221). -/
theorem test_word_ffma : reads 0x1CC3280204060480 (.ffma hp { addOf 40 2 4 with c := 6, mod := 0x480 }) = true := by decide
theorem test_word_fcmp : reads 0x1CC63D0804002620 (.fcmp hp { addOf 0x3D 8 4 with ub := true, mod := 0x620 }) = true := by decide
theorem test_word_qenc : reads 0x1D03280800F40900 (.qenc hp { addOf 40 8 0 with c := 244, mod := 0x900 }) = true := by decide
/-- Exchanges (R117, R119): SHFL after its IMX word, and a fold by bits. -/
theorem test_word_rdx : reads 0x1D44030200020000 (.rdx hp { addOf 3 2 0 with c := 2 }) = true := by decide
theorem test_word_shfl : decodeTableWord 128 0x1D420A0BFF0F04301F81000000000001
    = some (.shfl { hp with imx := some 1 } { addOf 10 11 255 with c := 15, mod := 0x430 }) := by decide
/-- Memory (R46, R55, R241): a guarded load, an access after its PFX, a maintenance word, two fences. -/
theorem test_word_ld : reads 0x15800806F4080000 (.ld { hp with pred := 5 } { loadOf 8 6 0 with sz := 2 }) = true := by decide
theorem test_word_acquire_atom : decodeUnit [0x1F80B00000000000, 0x1DC0140215040040]
    = .ok (.atomAdd { hp with pfx := some { noPfx with ovo := true, ord := 1, scope := 4 } }
        { d := 20, ar := 2, b := 21, w := false, ua := false, sz := 1, off := 0x40 }, 2) := by decide
theorem test_word_cctl : reads 0x118B0102F4000000 (.cctlEv2 { hp with pred := 4 } { loadOf 1 2 0 with sz := 0 }) = true := by decide
theorem test_word_fence_rel : reads 0x1D8CA00000000000 (.fence hp (bodyOf 0xA00000000000)) = true := by decide
/-- Atomics and locks (R289): a reduction of the scratchpad, a lock with a timeout, its query. -/
theorem test_word_red_scr : decodeUnit [0x1F80024000000000, 0x1DD0001011040000]
    = .ok (.redAdd { hp with pfx := some { noPfx with ovs := true, space := 1 } }
        { d := 0, ar := 16, b := 17, w := false, ua := false, sz := 1, off := 0 }, 2) := by decide
theorem test_word_lockt : reads 0x1DE1106000000007
    (.lockt hp { u0 := 4, u1 := 6, u2 := 0, u3 := 0, u4 := 0, u5 := 0, xmod := 7 }) = true := by decide
theorem test_word_lkqry : reads 0x1DE410A000000000
    (.lkqry hp { u0 := 4, u1 := 10, u2 := 0, u3 := 0, u4 := 0, u5 := 0, xmod := 0 }) = true := by decide
/-- Sprouts and barrier objects (R315, R349). -/
theorem test_word_spend : reads 0x1E07000000000000 (.spend hp (bodyOf 0)) = true := by decide
theorem test_word_bara : reads 0x1E4A30D000000200
    (.bara hp { u0 := 12, u1 := 13, u2 := 0, u3 := 0, u4 := 0, u5 := 0, xmod := 0x200 }) = true := by decide
theorem test_word_barw : reads 0x1E4C30D000000001
    (.barw hp { u0 := 12, u1 := 13, u2 := 0, u3 := 0, u4 := 0, u5 := 0, xmod := 1 }) = true := by decide
/-- Matrix. -/
theorem test_word_mdrain : reads 0x1E8871E822000000
    (.mdrain hp { u0 := 28, u1 := 30, u2 := 32, u3 := 34, u4 := 0, u5 := 0, xmod := 0 }) = true := by decide
/-- Teams and messages. -/
theorem test_word_tbar : reads 0x1EC0000000000100
    (.tbar hp { u0 := 0, u1 := 0, u2 := 0, u3 := 0, u4 := 0, u5 := 0, xmod := 0x100 }) = true := by decide
theorem test_word_msgs : reads 0x1EC7100000000282
    (.msgs hp { u0 := 4, u1 := 0, u2 := 0, u3 := 0, u4 := 0, u5 := 0, xmod := 0x282 }) = true := by decide
/-- Supervisor, security and recording. -/
theorem test_word_csave : reads 0x1F0550004C000000 (.csave hp (bodyOf 0x50004C000000)) = true := by decide
theorem test_word_fresume : reads 0x1F08100000000000 (.fresume hp (bodyOf 0x100000000000)) = true := by decide
theorem test_word_secwait : reads 0x1F0E30D000000001 (.secwait hp (bodyOf 0x30D000000001)) = true := by decide
theorem test_word_ckptreq : reads 0x1F42220000000000 (.ckptreq hp (bodyOf 0x220000000000)) = true := by decide

/-- Opcodes that the map leaves unassigned (R63) are refused: 0x00F, 0x096, 0x3C0. -/
theorem test_word_unassigned : [0x1C0F000000000000, 0x1C96000000000000, 0x1FC0000000000000].all
    (fun w => decide (decodeTableWord 64 w = none)) = true := by decide

end Sys2Proof.Tests
end

