-- ==== Sys2Proof/Tests/WitnessAlu.lean ====
section
/-! SUPPORT. Witnesses for the statements about classes 0 to 5: for each word a state and operands that meet the
statement's hypotheses. -/

-- One theorem after another: each is evaluated by the kernel, and theorems that wait for one another in parallel each
-- hold a thread and its stack.
set_option Elab.async false

namespace Sys2Proof.Tests

open Sys2Proof Sys2Proof.Machine

/-- Format F with D 1, A 2 and B 3. -/
def fF (m : BitVec 12) : FmtF := { d := 1, a := 2, b := 3, c := 0, w := false, ua := false, ub := false, uc := false, mod := m }
/-- Format I with D 1 and A 2. -/
def fI (m : BitVec 6) (x : BitVec 24) : FmtI := { d := 1, a := 2, w := false, ua := false, mod := m, imm := x }
/-- Format S. -/
def fS (n : Nat) : FmtS := { body := BitVec.ofNat 48 n }
/-- Format J. -/
def fJ (ld a : BitVec 8) (rel : BitVec 32) : FmtJ := { ld := ld, a := a, rel := rel }

theorem witness_integer_and_carry : ∀ i ∈ [Instr.iadd hp (fF 0), .isub hp (fF 0), .imul hp (fF 0), .imin hp (fF 0), .imax hp (fF 0),
    .iabs hp { fF 0 with b := 0 }, .imad hp { fF 0 with c := 4 }, .imulh hp (fF 0), .imadw hp { fF 0 with c := 4, d := 6 },
    .iaddc hp { fF 0x400 with c := 0x7F }, .isubb hp { fF 0x400 with c := 0x10 }],
    Runs (issuing probe i) i (issueFor i) := runs_of_allRun (by decide +kernel)

/-- The header of a word of a chain that goes on. -/
def hc : Hdr := { hp with chain := true }

theorem witness_latches : (∀ i ∈ [Instr.iadd hc (fF 0), .imadw hc { fF 0 with c := 4, d := 6 }, .pairedWord true ⟨7, 0x0B, 5, 3, 2⟩ ⟨7, 2, 6, 8, 0⟩],
    Runs (issuing probe i) i (issueFor i)) ∧ chainBit (.iadd hc (fF 0)) = true ∧ probe.chain = none :=
  ⟨runs_of_allRun (by decide +kernel), rfl, rfl⟩

theorem witness_division : ∀ i ∈ [Instr.idiv hp { fF 0 with c := 7 }, .irem hp { fF 0 with c := 3 }],
    Runs (issuing probe i) i (issueFor i) ∧ WellFormed i := by
  intro i hi
  have r := runs_of_allRun (s := probe) (l := [Instr.idiv hp { fF 0 with c := 7 }, .irem hp { fF 0 with c := 3 }]) (by decide +kernel) i hi
  refine ⟨r, ?_⟩
  show legalWord i = true
  simp [legalWord, r.form, r.fields]

theorem witness_moves_and_logic : ∀ i ∈ [Instr.mov hp { fF 0x400 with b := 0 }, .movi hp { fI 0 5 with a := 0 },
    .movi { hp with imx := some 7 } { fI 0 0 with a := 0 }, .iaddi hp (fI 0 5), .andi hp (fI 0 5), .ori hp (fI 0 5), .xori hp (fI 0 5),
    .and hp (fF 0x400), .or hp (fF 0x400), .xor hp (fF 0x400), .andn hp (fF 0x400), .isel hp { fF 0x400 with c := 7 }],
    Runs (issuing probe i) i (issueFor i) := runs_of_allRun (by decide +kernel)

/-- LEA in both widths. -/
def leas : List Instr := [.lea hp { fF 0x40 with c := 4 }, .lea hp { fF 0 with c := 5, d := 6 }]

theorem witness_lea : (∀ i ∈ leas, Runs (issuing probe i) i (issueFor i)) ∧ ({ fF 0x40 with c := 4 } : FmtF).mod.getLsbD 6 = true
    ∧ ({ fF 0 with c := 5, d := 6 } : FmtF).mod.getLsbD 6 = false := ⟨runs_of_allRun (by decide +kernel), by decide, by decide⟩

theorem witness_shifts_and_fields : ∀ i ∈ [Instr.shl hp (fF 0x400), .shr hp (fF 0x400), .sha hp (fF 0x400), .rot hp (fF 0x400),
    .bfe hp (fF 0), .bfi hp { fF 0x400 with c := 4 }, .popc hp { fF 0x400 with b := 0 }, .clz hp { fF 0x400 with b := 0 },
    .brev hp { fF 0x400 with b := 0 }], Runs (issuing probe i) i (issueFor i) := runs_of_allRun (by decide +kernel)

/-- No flag is enabled in the small state, so none that is raised stops a word. -/
theorem witness_no_flag_enabled : ∀ (i : Instr) (u n : Nat), n &&& (issuing probe i).enOf u = 0 := by
  intro i u n
  by_cases h : u = 1
  · subst h
    have : (issuing probe i).enOf 1 = 0 := by
      show probe.enOf 1 = 0
      decide +kernel
    rw [this, Nat.and_zero]
  · have hw : (issuing probe i).wave u = default := by
      show fgetD probe.waves u default = default
      refine fgetD_not_listed _ _ _ fun e he => ?_
      have : probe.waves = [(1, placedWave)] := rfl
      rw [this] at he
      rw [List.mem_singleton.mp he]
      exact fun h1 => h h1.symm
    have : (issuing probe i).enOf u = 0 := by
      unfold State.enOf
      rw [hw]
      rfl
    rw [this, Nat.and_zero]

theorem witness_compares : ∀ i ∈ [Instr.icmp hp { fF 0 with d := 0x3F }, .icmpi hp { fI 0 5 with d := 0x3F }, .fcmp hp { fF 0 with d := 0x3F },
    .dcmp hp { fF 0 with d := 0x3F, b := 4 }, .hcmp2 hp { fF 0 with d := 0x3F }],
    Runs (issuing probe i) i (issueFor i) := runs_of_allRun (by decide +kernel)

theorem witness_float_arithmetic : ∀ i ∈ [Instr.fadd hp (fF 0), .fsub hp (fF 0), .fmul hp (fF 0), .ffma hp { fF 0 with c := 4 }, .fmin hp (fF 0),
    .fmax hp (fF 0), .fclamp hp { fF 0 with c := 4 }, .frnd hp { fF 0 with b := 0 }, .ffrac hp { fF 0 with b := 0 }, .frcp hp { fF 0 with b := 0 },
    .frsq hp { fF 0 with b := 0 }, .fsqrt hp { fF 0 with b := 0 }, .fdiv hp (fF 0), .fexp2 hp { fF 0 with b := 0 },
    .flog2 hp { fF 0 with b := 0 }, .fsin hp { fF 0 with b := 0 }, .fcos hp { fF 0 with b := 0 }, .ftanh hp { fF 0 with b := 0 },
    .hadd2 hp (fF 0), .hmul2 hp (fF 0), .hfma2 hp { fF 0 with c := 4 }, .hmin2 hp (fF 0), .hmax2 hp (fF 0),
    .dadd hp { fF 0 with b := 4, d := 6 }, .dmul hp { fF 0 with b := 4, d := 6 }, .dfma hp { fF 0 with b := 4, d := 6, c := 8 }],
    Runs (issuing probe i) i (issueFor i) := runs_of_allRun (by decide +kernel)

/-! ### What codes denote -/

theorem witness_denotes : f32.Denotes 0x3F800000 1 ∧ f32.Denotes 0x3F000000 ((0 : Int) + 1 / 2) ∧ f32.Denotes 0x40000000 (2 ^ (1 : Int))
    ∧ f32.Denotes 0x40000000 ((2 : Int) : ℚ) ∧ f32.Denotes 0x80000000 0 ∧ (ffmt 12).Denotes 0xBC00 (-1) := by
  refine ⟨⟨by decide, false, 2 ^ 23, -23, by decide, ?_⟩, ⟨by decide, false, 2 ^ 23, -24, by decide, ?_⟩, ⟨by decide, false, 2 ^ 23, -22, by decide, ?_⟩,
    ⟨by decide, false, 2 ^ 23, -22, by decide, ?_⟩, ⟨by decide, true, 0, -149, by decide, ?_⟩, ⟨by decide, true, 2 ^ 10, -10, by decide, ?_⟩⟩ <;>
    norm_num [signedQ]

/-- An infinity, a signalling NaN, a zero, and codes on the two sides of the negative numbers. -/
theorem witness_special_codes : 0x7F800000 % 2 ^ 31 = (2 ^ 8 - 1) * 2 ^ 23 ∧ (2 ^ 8 - 1) * 2 ^ 23 < 0xFF800001 % 2 ^ 31
    ∧ (0xFF800001 : Nat).testBit 22 = false ∧ 0x80000000 % 2 ^ 31 = 0 ∧ 0x80000000 < 0x80000001 ∧ 0xFF800000 ≤ 0xFF800000
    ∧ 0x7F7FFFFF % 2 ^ 31 < 0x7F800000 ∧ (ffmt 15).nan = 1 ∧ 0xFF % 2 ^ 7 = 2 ^ 7 - 1 := by decide

/-- An integer source of CVT: -1 as i8; and the codes of 3/32 in q4 and of -1 in tn2. -/
theorem witness_integer_codes : (-1 : Int) ≡ ((0xFF : Nat) : Int) [ZMOD 2 ^ tyBits 6] ∧ -2 ^ (tyBits 6 - 1) ≤ (-1 : Int) ∧ (-1 : Int) ≤ 2 ^ (tyBits 6 - 1) - 1
    ∧ (1 ≤ 8 ∧ [0, 3, 6, 9, 13, 17, 23, 32].getD (1 % 8) 0 = 3) ∧ 3 < 2 ^ tyBits 21 := by
  refine ⟨?_, ?_, ?_, ?_, ?_⟩ <;> decide

theorem witness_conversions_and_packing : ∀ i ∈ [Instr.fsel hp { fF 0 with c := 7 }, .fclass hp { fF 0 with b := 0 }, .prmt hp { fF 0 with c := 4 },
    .pack2 hp (fF 0x200), .pack2 hp { fF 0x300 with c := 4 }, .unpk2 hp { fF 0x200 with b := 0, d := 6 }, .qdec hp { fF 0x900 with b := 0, d := 8 },
    .bsclDec hp { fF 0x010 with b := 0 }, .cvt hp { fF 0 with b := 10 }, .cvtp hp (fF 0x600), .cvtx hp { fF 0x600 with b := 0, d := 6 },
    .qenc hp { fF 0x900 with a := 8, b := 0, d := 6, c := 244 }, .bsclEnc hp { fF 0x900 with b := 0 }],
    Runs (issuing probe i) i (issueFor i) := runs_of_allRun (by decide +kernel)

theorem witness_status_word : ∀ i ∈ [Instr.fclassRdsw hp { fF 0x010 with a := 0, b := 0 }, .fclassClrsw hp { fF 0x020 with d := 0, b := 0 },
    .fclassWren hp { fF 0x030 with d := 0, b := 0 }], Runs (issuing probe i) i (issueFor i) := runs_of_allRun (by decide +kernel)

theorem witness_paired : ∀ i ∈ [Instr.pairedWord false ⟨7, 0x0B, 5, 3, 2⟩ ⟨7, 2, 6, 8, 0⟩], Runs (issuing probe i) i (issueFor i) :=
  runs_of_allRun (by decide +kernel)

/-- The highest address in v2 and v3, from which one word on is address 0. -/
def topAddress : State := setRegs probe [(2, 0xFFFFFFF8), (3, 0x00FFFFFF)]

theorem witness_branches : (∀ i ∈ [Instr.bra hp (fJ 244 0 3), .brx hp (fJ 244 2 1), .call hp (fJ 4 0 3), .callx hp (fJ 4 2 1), .ret hp (fJ 244 2 0)],
    Runs (issuing topAddress i) i (issueFor i)) ∧ (topAddress.vreg t0 3 ++ topAddress.vreg t0 2).toNat = 2 ^ 56 - 8
    ∧ (((2 ^ 56 - 8 : Int) + 8 * (1#32).toInt) % 2 ^ 56).toNat % 8 = 0 ∧ (((2 ^ 56 - 8 : Int) + 8 * (0#32).toInt) % 2 ^ 56).toNat % 8 = 0 :=
  ⟨runs_of_allRun (by decide +kernel), by decide +kernel, by decide, by decide⟩

/-- A register that is not canonical, and one that is no multiple of 8. -/
theorem witness_bad_branches : ∀ i ∈ [Instr.brx hp (fJ 244 2 1), .callx hp (fJ 4 2 1), .ret hp (fJ 244 2 0)],
    (∀ e ∈ [((3 : Nat), (0x01000000 : Word)), (2, 4)], mayRunB (issuing (setRegs probe [e]) i) i (issueFor i) = true
      ∧ (issuing (setRegs probe [e]) i).actives i (issueFor i) = [t0])
    ∧ 2 ^ 56 ≤ ((setRegs probe [(3, 0x01000000)]).vreg t0 3 ++ (setRegs probe [(3, 0x01000000)]).vreg t0 2).toNat
    ∧ ((setRegs probe [(2, 4)]).vreg t0 3 ++ (setRegs probe [(2, 4)]).vreg t0 2).toNat = 4 := by decide +kernel

theorem witness_nop_yield_sleep_waitm : ∀ i ∈ [Instr.nop hp (fS 0), .yield hp (fS 0), .sleep hp { fI 0 9 with d := 0 }, .waitm hp (fS (2 * 2 ^ 44))],
    Runs (issuing probe i) i (issueFor i) := runs_of_allRun (by decide +kernel)

theorem witness_exit : Runs (issuing probe (.exit hp (fS 0))) (.exit hp (fS 0)) (issueFor (.exit hp (fS 0)))
    ∧ (∀ c, (issuing probe (.exit hp (fS 0))).recMode c = 0 ∨ (issuing probe (.exit hp (fS 0))).recMode c = 3)
    ∧ ∀ x ∈ (issueFor (.exit hp (fS 0))).threads, ((issuing probe (.exit hp (fS 0))).thread x).st = .ready := by
  refine ⟨runs_of (by decide +kernel), fun c => .inl ?_, by decide +kernel⟩
  show probe.recMode c = 0
  by_cases h : c = 0
  · subst h; decide +kernel
  · have hc : probe.ctx c = CtxRegs.reset := by
      refine fgetD_not_listed _ _ _ fun e he => ?_
      have : probe.ctxs.map Prod.fst = [0] := by decide +kernel
      have hm := List.mem_map_of_mem (f := Prod.fst) he
      rw [this] at hm
      rw [List.mem_singleton.mp hm]
      exact fun h1 => h h1.symm
    unfold State.recMode
    rw [hc]
    rfl

theorem witness_masks : ∀ i ∈ [Instr.join hp (fS (2 ^ 44)), .leave hp (fS (2 ^ 44)), .msetNone hp { fI 0 0 with a := 0 },
    .msetLive hp { fI 1 0 with a := 0 }, .msetHere hp { fI 2 0 with a := 0 }, .msetImm hp { fI 3 5 with a := 0 },
    .msetSreg hp { fI 4 0 with ua := true }, .mand hp (fF 0), .mor hp (fF 0), .mxor hp (fF 0), .mandn hp (fF 0), .mmov hp { fF 0 with b := 0 },
    .mmov hp { fF 0x10 with b := 0, ua := true }, .mmov hp { fF 0x20 with b := 0, d := 4 }, .mmov hp { fF 0x30 with b := 0, d := 4 },
    .mpopc hp { fF 0 with b := 0 }, .mpopc hp { fF 0x10 with b := 0 }, .movs hp { fF 0x400 with b := 0 }],
    Runs (issuing probe i) i (issueFor i) := runs_of_allRun (by decide +kernel)

/-- Exchanges among all live threads. -/
def exchanges : List Instr := [.ballot hp { fF 0 with a := 1, b := 0, d := 4, c := 15 }, .ballot hp { fF 8 with a := 1, b := 0, d := 4, c := 15 },
  .vote hp { fF 0 with a := 1, b := 0, d := 0x3F, c := 15 }, .shfl hp { fF 0x400 with c := 15 }, .bcast hp { fF 0x400 with c := 15, ub := true },
  .bcast hp { fF 0x408 with c := 15, ub := true }, .matchLanes hp { fF 0x400 with b := 0, c := 15, d := 4 }, .rdx hp { fF 0 with b := 0, c := 15 },
  .scan hp { fF 0 with b := 0, c := 15 }, .scan hp { fF 8 with b := 0, c := 15 }, .rdx hp { fF 0x500 with b := 0, c := 15 }]

theorem witness_exchanges : (∀ i ∈ exchanges, Runs (issuing probe i) i (issueFor i))
    ∧ ∀ i ∈ exchanges, ∀ x ∈ (issuing probe i).actives i (issueFor i), ((issuing probe i).participants x.u 15).contains x.i = true :=
  ⟨runs_of_allRun (by decide +kernel), by decide +kernel⟩

end Sys2Proof.Tests
end

