-- ==== Sys2Proof/Tests/WitnessMem.lean ====
section
/-! SUPPORT. Witnesses for the statements about memory: loads, stores and atomics of a sector that is held and of one
that is not, scratchpads, prefetches, cache control, fences and MWAIT. -/

-- One theorem after another: each is evaluated by the kernel, and theorems that wait for one another in parallel each
-- hold a thread and its stack.
set_option Elab.async false

namespace Sys2Proof.Tests

open Sys2Proof Sys2Proof.Machine

/-- Format M with D 4, its address in v2 and v3, and B the zero source. -/
def fM (sz : BitVec 4) : FmtM := { d := 4, ar := 2, b := 244, w := false, ua := false, sz := sz, off := 0 }
/-- The same with the operand in v6. -/
def fA (sz : BitVec 4) : FmtM := { d := 4, ar := 2, b := 6, w := false, ua := false, sz := sz, off := 0 }
/-- The same without a destination. -/
def fR (sz : BitVec 4) : FmtM := { fA sz with d := 0 }

/-- Every load, store and atomic of global memory. -/
def globalWords : List Instr := [.ld hp (fM 4), .st hp (fM 4), .ldw hp (fM 4), .stw hp (fM 4), .ldu hp { fM 0 with ua := true },
  .stu hp { fM 0 with ua := true }, .cctlZero hp { fM 0 with d := 3 }, .atomAdd hp (fA 1), .atomAnd hp (fA 1), .atomOr hp (fA 1),
  .atomXor hp (fA 1), .atomMin hp (fA 0), .atomMax hp (fA 1), .atomXchg hp (fA 1), .atomIncw hp (fA 1), .atomAddb hp (fA 1),
  .atomFadd hp (fA 4), .atomFmin hp (fA 4), .atomFmax hp (fA 4), .acas hp (fA 3), .acas2 hp { fA 6 with d := 8, b := 12 },
  .redAdd hp (fR 1), .redAnd hp (fR 1), .redOr hp (fR 1), .redXor hp (fR 1), .redMin hp (fR 1), .redMax hp (fR 1), .redIncw hp (fR 1),
  .redFadd hp (fR 4), .redFmin hp (fR 4), .redFmax hp (fR 4)]

/-- The small state with an address in v2 and in s2, and die 0 holding its sector. -/
def holding (ea : Nat) (c : L2Copy) : State :=
  let s := setUnis (setRegs probe [(2, BitVec.ofNat 32 ea)]) [(2, BitVec.ofNat 32 ea)]
  { s with l2 := [(l2Key 0 (sectorOf ea), c)] }

/-- A clean copy of zeros, and a dirty one. -/
def cleanCopy : L2Copy := { st := .e, data := 0, dirty := false, poison := false, early := false }
def dirtyCopy : L2Copy := { st := .m, data := 0x1234, dirty := false, poison := false, early := false }

/-- A word's access at `ea` fits and translates, and its sector is held. -/
def heldB (ea : Nat) (c : L2Copy) (i : Instr) : Bool :=
  let s := issuing (holding ea c) i
  match memOp i with
  | some m => m.space == 0 && runsB s i (issueFor i) && decide (s.actives i (issueFor i) = [t0])
      && laneFitsB s m t0 && translatesB s m t0 ea 1 && heldAtB s 0 0 ea c
  | none => false

/-- What the check says. -/
structure Held (s : State) (i : Instr) (ea : Nat) (c : L2Copy) (m : MemOp) : Prop where
  op : memOp i = some m
  space : m.space = 0
  runs : Runs s i (issueFor i)
  alone : s.actives i (issueFor i) = [t0]
  fits : LaneFits s m t0
  pa : Translates s m t0 ea 1
  held : HeldAt s 0 0 ea c

theorem held_of {ea : Nat} {c : L2Copy} {i : Instr} (h : heldB ea c i = true) : ∃ m, Held (issuing (holding ea c) i) i ea c m := by
  unfold heldB at h
  cases hm : memOp i with
  | none => rw [hm] at h; cases h
  | some m =>
    rw [hm] at h
    simp only [Bool.and_eq_true, beq_iff_eq, decide_eq_true_eq] at h
    obtain ⟨⟨⟨⟨⟨h1, h2⟩, h3⟩, h4⟩, h5⟩, h6⟩ := h
    exact ⟨m, hm, h1, runs_of h2, h3, laneFits_of h4, translates_of h5, heldAt_of h6⟩

theorem held_of_all {ea : Nat} {c : L2Copy} {l : List Instr} (h : l.all (heldB ea c) = true) :
    ∀ i ∈ l, ∃ m, Held (issuing (holding ea c) i) i ea c m := fun i hi => held_of (List.all_eq_true.mp h i hi)

theorem witness_held_clean : ∀ i ∈ globalWords, ∃ m, Held (issuing (holding 0 cleanCopy) i) i 0 cleanCopy m := held_of_all (by decide +kernel)

/-- The last sector that the window maps. -/
theorem witness_held_dirty : ∀ i ∈ globalWords, ∃ m, Held (issuing (holding 0xFFC0 dirtyCopy) i) i 0xFFC0 dirtyCopy m :=
  held_of_all (by decide +kernel)

theorem witness_global_words_are_plain : ∀ i ∈ globalWords, plainMem i = true := by decide +kernel

/-- Threads 0 and 1 with addresses of their own in v2, and die 0 holding both sectors. -/
def holdingTwo (c : L2Copy) : State :=
  let th := fun (ea : Word) => { placedThread with v := [(2, ea), (6, 5)] }
  { probe with waves := [(1, { placedWave with threads := [(0, th 0x40), (1, th 0x838)] })], l2 := [(l2Key 0 1, c), (l2Key 0 0x20, c)] }

/-- Their accesses fit and translate, each to a sector of its own that die 0 holds. -/
def heldTwoB (c : L2Copy) (i : Instr) : Bool :=
  let s := { holdingTwo c with issue := some (issueForTwo i) }
  match memOp i with
  | some m => m.space == 0 && m.group.isNone && !m.once && plainMem i && runsB s i (issueForTwo i) && decide (s.actives i (issueForTwo i) = [t0, t1])
      && [(t0, 0x40), (t1, 0x838)].all (fun e => laneFitsB s m e.1 && translatesB s m e.1 e.2 1 && heldAtB s 0 0 e.2 c)
      && decide (sectorOf 0x40 ≠ sectorOf 0x838)
  | none => false

theorem witness_held_two : ∀ c ∈ [cleanCopy, dirtyCopy], ∀ i ∈ [Instr.ld hp (fM 4), .st hp (fM 4), .atomAdd hp (fA 1), .atomAddb hp (fA 1),
    .acas hp (fA 3), .redAdd hp (fR 1)], heldTwoB c i = true := by decide +kernel

/-! ## Misses -/

/-- The small state with an address in v2 and s2, and no copy of its sector anywhere. -/
def missing (ea : Nat) : State := setUnis (setRegs probe [(2, BitVec.ofNat 32 ea)]) [(2, BitVec.ofNat 32 ea)]

/-- A word's access at `ea` fits and translates, and nobody holds its sector. -/
def missB (ea : Nat) (i : Instr) : Bool :=
  let s := issuing (missing ea) i
  match memOp i with
  | some m => m.space == 0 && !m.isRmw && plainMem i && runsB s i (issueFor i) && decide (s.actives i (issueFor i) = [t0])
      && laneFitsB s m t0 && translatesB s m t0 ea 1 && decide (s.polOf 0 m.h ≠ 4) && (s.l2copy 0 (sectorOf ea)).isNone
      && (fget (s.core 0).l1 (sectorOf ea)).isNone
  | none => false

theorem witness_misses : ∀ i ∈ [Instr.ld hp (fM 4), .st hp (fM 4), .ldw hp (fM 4), .stw hp (fM 4), .ldu hp { fM 0 with ua := true }],
    missB 0xFFC0 i = true := by decide +kernel

/-- An atomic to a sector that no die holds; under class `cls` it goes near, or with its predictor at 2 and more, far. -/
def missRmwB (far : Bool) (i : Instr) : Bool :=
  let s := { issuing (missing 0xFFC0) i with pred := if far then [(predKey 0 (sectorOf 0xFFC0), 2)] else [] }
  match memOp i with
  | some m => m.space == 0 && m.isRmw && plainMem i && runsB s i (issueFor i) && decide (s.actives i (issueFor i) = [t0])
      && laneFitsB s m t0 && translatesB s m t0 0xFFC0 1 && (s.l2copy 0 (sectorOf 0xFFC0)).isNone && (fget (s.core 0).l1 (sectorOf 0xFFC0)).isNone
      && (s.l2.filter fun e => e.1 / 2 ^ 52 == 0).length == 0
  | none => false

theorem witness_rmw_misses : ∀ far ∈ [true, false], ∀ i ∈ [Instr.atomAdd hp (fA 1), .atomAddb hp (fA 1), .acas hp (fA 3), .redAdd hp (fR 1)],
    missRmwB far i = true := by decide +kernel

/-- The predictor's entry of the sector holds 2, whatever slice and index the die gives it. -/
theorem witness_far : fgetD [(predKey 0 (sectorOf 0xFFC0), 2)] (predKey 0 (sectorOf 0xFFC0)) 0 = 2 ∧ fgetD ([] : FMap Nat) (predKey 0 (sectorOf 0xFFC0)) 0 = 0 := by
  simp [fgetD, fget]

/-! ## Scratchpads -/

/-- The header that sends an atomic to the block's own scratchpad. -/
def hScr : Hdr := { hp with pfx := some { ovo := false, ord := 0, scope := 0, ovs := true, space := 1, ovp := false, pol := 0, ovx := false, off32 := 0 } }

/-- A word's access of block 1's scratchpad at `ea` is in bounds. -/
def scratchB (ea : Nat) (i : Instr) : Bool :=
  let s := issuing (missing ea) i
  match memOp i with
  | some m => m.space != 0 && plainMem i && runsB s i (issueFor i) && decide (s.actives i (issueFor i) = [t0]) && laneFitsB s m t0
      && decide (s.scrLane m t0 (s.memPlace m t0 (s.memLane m t0).ea).1 = .scr 1 ea) && !s.scrBad 1 ea m.n
  | none => false

theorem witness_scratchpads : ∀ i ∈ [Instr.lds hp (fM 4), .sts hp (fM 4), .ldc hp (fM 4), .stc hp (fM 4), .atomAdd hScr (fA 1), .redAdd hScr (fR 1)],
    scratchB 0 i = true ∧ scratchB 65532 i = true := by decide +kernel

/-- The first byte past a scratchpad of 65,536 bytes is out of bounds. -/
theorem witness_scratchpad_edge : ∃ m, memOp (.lds hp (fM 4)) = some m ∧ m.space = 1
    ∧ 65532 + m.n ≤ (probe.block 1).scratch ∧ ¬ 65536 + m.n ≤ (probe.block 1).scratch := ⟨_, rfl, by decide, by decide +kernel, by decide +kernel⟩

/-! ## Prefetches and cache control -/

theorem witness_prefetch : ∀ i ∈ [Instr.pref hp { fM 0 with d := 0 }, .pref hp { fM 0 with d := 1 }],
    ∃ m, Held (issuing (holding 0 cleanCopy) i) i 0 cleanCopy m := held_of_all (by decide +kernel)

/-- An address outside every window, with no page table: code 8. -/
def unmapped : State := setRegs probe [(2, 0x20000)]

theorem witness_prefetch_dropped : ∃ m, memOp (.pref hp (fM 0)) = some m ∧ m.space = 0
    ∧ Runs (issuing unmapped (.pref hp { fM 0 with d := 0 })) (.pref hp { fM 0 with d := 0 }) (issueFor (.pref hp { fM 0 with d := 0 }))
    ∧ (unmapped.laneTrans false t0 0x20000 .read).1 = .fault 8 := ⟨_, rfl, by decide, runs_of (by decide +kernel), by decide +kernel⟩

/-- A copy in a state. -/
def copyIn (st : CSt) : L2Copy := { st := st, data := 7, dirty := false, poison := false, early := false }

/-- A cache-control word's address fits and translates. -/
def controlB (c : L2Copy) (i : Instr) : Bool :=
  let s := issuing (holding 0 c) i
  match memOp i with
  | some m => m.space == 0 && runsB s i (issueFor i) && decide (s.actives i (issueFor i) = [t0]) && laneFitsB s m t0 && translatesB s m t0 0 1
      && decide (s.l2copy 0 0 = some c)
  | none => false

theorem witness_cache_control : ∀ st ∈ [CSt.s, .e, .m, .o], ∀ i ∈ [Instr.cctlInv1 hp { fM 0 with d := 0 }, .cctlEv2 hp { fM 0 with d := 1 },
    .cctlUnp3 hp { fM 0 with d := 2 }], controlB (copyIn st) i = true := by decide +kernel

/-! ## Fences and MWAIT -/

/-- FENCE.acqrel at device scope. -/
def fence : Instr := .fence hp (fS (0 * 2 ^ 46 + 4 * 2 ^ 43))

/-- A store of the thread that is not yet performed. -/
def pendingStore : Access :=
  { (default : Access) with id := 0, t := t0, who := [0], core := 0, kind := .store, pa := 0, va := 0, n := 4, st := .atL2 }

theorem witness_fence : Runs (issuing probe fence) fence (issueFor fence) ∧ (issuing probe fence).accs = []
    ∧ Runs (issuing { probe with accs := [pendingStore] } fence) fence (issueFor fence) ∧ probe.chain = none
    ∧ t0 ∈ (issuing { probe with accs := [pendingStore] } fence).actives fence (issueFor fence)
    ∧ pendingStore.isOf t0 = true ∧ pendingStore.performedAt 4 = false :=
  ⟨runs_of (by decide +kernel), rfl, runs_of (by decide +kernel), rfl, by decide +kernel, rfl, by decide +kernel⟩

/-- FENCE.acqrel at device scope, which orders the thread's accesses below number 3. -/
def aFence : Fence := { kind := 0, scope := 4, before := 3, past := 0 }

/-- A load of the thread stands behind a fence that waits for the store. -/
def fencedLoad : State :=
  let s := { probe with mem := Memory.setList probe.mem 0 (leBytes ((encode (.ld hp (fM 4))).getD 0 0).toNat 8), accs := [pendingStore], next := 5 }
  s.modThread t0 fun th => { th with fences := [aFence] }

theorem witness_fence_holds_back : fencedLoad.active (.ld hp (fM 4)) t0 = true ∧ (fencedLoad.chainAt t0).last = some (.ld hp (fM 4)) ∧ (memOp (.ld hp (fM 4))).isSome = true ∧ memPort (.ld hp (fM 4)) = true
    ∧ aFence ∈ (fencedLoad.thread t0).fences ∧ pendingStore ∈ fencedLoad.accs ∧ pendingStore.isOf t0 = true ∧ pendingStore.performedAt 4 = false
    ∧ fencedLoad.canIssue t0 = false ∧ ({ fencedLoad with accs := [] } : State).canIssue t0 = true
    ∧ ((({ fencedLoad with accs := [] } : State).settleFences t0).thread t0).fences = [] := by decide +kernel

/-- MWAIT of one word. -/
def mwait : Instr := .mwait hp { fA 4 with d := 8, b := 9 }

theorem witness_mwait : ∃ m, Held (issuing (holding 0 cleanCopy) mwait) mwait 0 cleanCopy m := held_of (by decide +kernel)

/-- MWAIT of a word of the block's scratchpad, its last. -/
def mwaitScr : Instr := .mwait hp { fA 12 with d := 8, b := 9 }

theorem witness_mwait_scratchpad : ∃ m, memOp mwaitScr = some m ∧ m.space ≠ 0 ∧ Runs (issuing (missing 65532) mwaitScr) mwaitScr (issueFor mwaitScr)
    ∧ (issuing (missing 65532) mwaitScr).actives mwaitScr (issueFor mwaitScr) = [t0] ∧ LaneFits (issuing (missing 65532) mwaitScr) m t0
    ∧ (missing 65532).scrLane m t0 65532 = .scr 1 65532 ∧ (missing 65532).scrBad 1 65532 m.n = false :=
  ⟨_, rfl, by decide +kernel, runs_of (by decide +kernel), by decide +kernel, laneFits_of (by decide +kernel), by decide +kernel, by decide +kernel⟩

/-- An access that has been performed. -/
def returned (kind : AccKind) (dest : Dest) (pf : Option Nat) : Access :=
  { (default : Access) with id := 0, t := t0, core := 0, kind := kind, pa := 0, va := 0, n := 4, dest := dest, pf := pf, st := .done 7 false }

/-- The small state with one access under way, asked about. -/
def returning (a : Access) : State := { probe with accs := [a], arg := argN 0 }

theorem witness_returned_data : ∀ a ∈ [returned (.load true) (.vreg 5 1) none, returned (.load false) (.sreg 4 1) none,
    returned (.rmw .add 1) (.vreg 0 1) (some 6), returned .store .none none], Unlogged (returning a)
    ∧ (returning a).accs.find? (fun c => c.id == (returning a).arg.n) = some a ∧ a.st = .done 7 false ∧ (∀ first, a.kind ≠ .mwait first)
    ∧ ∀ p, a.pf = some p → p < 7 := by
  intro a ha
  refine ⟨unlogged_of ?_, ?_⟩
  · revert a
    decide +kernel
  · simp only [List.mem_cons, List.mem_nil_iff, or_false] at ha
    rcases ha with rfl | rfl | rfl | rfl <;> refine ⟨rfl, rfl, (fun f h => by cases h), fun p h => by simp_all [returned] <;> omega⟩

/-- A thread that waits at MWAIT, its read back. -/
def mwaiting (first : Bool) (b : BitVec 128) : State :=
  (returning { returned (.mwait first) (.vreg 8 1) none with data := b }).setThread t0 { placedThread with st := .waiting (.mwait 0) }

theorem witness_mwait_ends : ∀ first b, (first, b) ∈ [(true, (7 : BitVec 128)), (true, 6), (false, 7)] →
    Unlogged (mwaiting first b) ∧ ((mwaiting first b).thread t0).st = .waiting (.mwait 0)
    ∧ (mwaiting first b).accs.find? (fun c => c.id == (mwaiting first b).arg.n) = some { returned (.mwait first) (.vreg 8 1) none with data := b } := by
  intro first b h
  refine ⟨unlogged_of ?_, ?_, rfl⟩
  · simp only [List.mem_cons, Prod.mk.injEq, List.mem_nil_iff, or_false] at h
    rcases h with ⟨rfl, rfl⟩ | ⟨rfl, rfl⟩ | ⟨rfl, rfl⟩ <;> decide +kernel
  · simp only [List.mem_cons, Prod.mk.injEq, List.mem_nil_iff, or_false] at h
    rcases h with ⟨rfl, rfl⟩ | ⟨rfl, rfl⟩ | ⟨rfl, rfl⟩ <;> decide +kernel

end Sys2Proof.Tests
end

