-- ==== Sys2Proof/Tests/WitnessEvents.lean ====
section
/-! SUPPORT. Witnesses for the statements about waits, page walks, homes, the dies' L2 and line locks: for each clause a
state that meets its hypotheses, and what the event leaves there. -/

-- One theorem after another: each is evaluated by the kernel, and theorems that wait for one another in parallel each
-- hold a thread and its stack.
set_option Elab.async false

namespace Sys2Proof.Tests

open Sys2Proof Sys2Proof.Machine

/-- The state that an instruction or event leaves meets a test. -/
def after (i : Instr) (s : State) (p : State → Bool) : Bool :=
  match exec i s with
  | .next t => p t
  | _ => false

/-- The small state with operands of an event. -/
def asked (s : State) (a : EvArg) : State := { s with arg := a }
/-- Operands: a thread. -/
def argT (t : TRef) : EvArg := { (default : EvArg) with t := t }
/-- Operands: a sector and an agent. -/
def argXA (x : Nat) (a : Agent) : EvArg := { (default : EvArg) with n := x, a := a }

/-- Thread 0 in a state. -/
def inState (s : State) (st : TState) : State := s.setThread t0 { placedThread with st := st }

/-! ## Waits -/

theorem witness_sleep_wakes :
    let s := fun d => asked { inState probe (.waiting (.sleep d)) with ptb := 5 } (argT t0)
    ((s 5).thread t0).st = .waiting (.sleep 5) ∧ 5 ≤ (s 5).ptb ∧ after .sleepWake (s 5) (fun t => (t.thread t0).st == .ready) = true
      ∧ ¬ 6 ≤ (s 6).ptb ∧ after .sleepWake (s 6) (fun t => (t.thread t0).st == .waiting (.sleep 6)) = true := by decide +kernel

theorem witness_record_retry :
    let s := asked { inState probe (.waiting (.record 5)) with ptb := 5 } (argT t0)
    (s.thread t0).st = .waiting (.record 5) ∧ after .trapRecordRetry s (fun t => (t.thread t0).st == .ready) = true := by decide +kernel

/-- Lanes 0 and 1 wait at mask 2, which names both; or lane 1 still sleeps. -/
def twoLanes (other : TState) : State :=
  let w := { placedWave with threads := [(0, { placedThread with st := .waiting (.waitm 2) }), (1, { placedThread with st := other })], m := [(2, 3)] }
  asked { probe with waves := [(1, w)] } (argN 1)

theorem witness_waitm_release :
    ((twoLanes (.waiting (.waitm 2))).thread t0).st = .waiting (.waitm 2) ∧ ((twoLanes (.waiting (.sleep 9))).thread ⟨1, 1⟩).st = .waiting (.sleep 9)
      ∧ ((twoLanes (.waiting (.sleep 9))).mreg 1 2).getLsbD 1 = true
      ∧ after .waitmRelease (twoLanes (.waiting (.waitm 2))) (fun t => (t.thread t0).st == .ready && (t.thread ⟨1, 1⟩).st == .ready) = true
      ∧ after .waitmRelease (twoLanes (.waiting (.sleep 9))) (fun t => (t.thread t0).st == .waiting (.waitm 2)) = true := by decide +kernel

/-- A thread that watches sector 0, which its die holds clean. -/
def watching (d : Nat) (fired : Bool) : State :=
  let a : Access := { (default : Access) with id := 3, t := t0, core := 0, kind := .mwait true, pa := 0, va := 0, n := 4, dest := .vreg 8 1,
                                              fired := fired, st := .watching true d }
  asked { inState (holding 0 cleanCopy) (.waiting (.mwait 3)) with accs := [a], ptb := 7 } (argN 3)

/-- The location has been read again. -/
def readAgain (t : State) : Bool := t.accs.any fun a => a.kind == .mwait false && a.st == .done 0 false

theorem witness_mwait_reads_again : ((watching 9 true).target 0).1 = .hbm ∧ (watching 9 true).lostHome 0 = false
    ∧ ((watching 9 true).ctx 0).inWindow 0 = true ∧ (watching 9 true).windowTrans 0 0 .read ((watching 9 true).wave 1).high = .ok 0 1
    ∧ (watching 9 true).l2copy (dieOf 0) (sectorOf 0) = some cleanCopy
    ∧ after .mwaitMonitorFire (watching 9 true) readAgain = true ∧ after .mwaitTimeout (watching 7 false) readAgain = true
    ∧ after .mwaitTimeout (watching 8 false) (fun t => !readAgain t) = true ∧ after .mwaitMonitorFire (watching 8 false) (fun t => !readAgain t) = true := by
  decide +kernel

theorem witness_monitor_fired : ∃ a ∈ (watching 9 true).accs, (watching 9 true).monitorFired a = true ∧ ∃ b ∈ (watching 7 false).accs, (watching 7 false).monitorFired b = false := by
  decide +kernel

theorem witness_mwait_translates : (watching 9 true).translateNow 0 0 0 .read ((watching 9 true).wave 1).high false = (.ok 0 1, watching 9 true) := by
  simp only [State.translateNow, witness_mwait_reads_again.2.2.1, witness_mwait_reads_again.2.2.2.1, if_true]

theorem witness_mwait_reads_again_unlogged : Unlogged (watching 9 true) ∧ Unlogged (watching 7 false) :=
  ⟨unlogged_of (by decide +kernel), unlogged_of (by decide +kernel)⟩

theorem witness_promotion : (asked probe (argT t0)).canIssue t0 = true
    ∧ after .starvationPromotion (asked probe (argT t0)) (fun t => (t.core 0).table.any fun e => e.promoted && e.pc == 0) = true := by decide +kernel

/-- A machine check of v8, pending before a word that reads it, with a handler at 0x100. -/
def checked : State :=
  let a : Async := { cause := .mchk, info := 1, dest := .vreg 8 1, acc := 9, pc := 0, pa := 0x40 }
  let s := { probe with mem := Memory.setList (Memory.setList probe.mem 0 (leBytes 0x1C43040809000000 8)) 0x10D0 (leBytes (2 ^ 62 + 0x100) 8) }
  let s := (setRegs s [(8, 5)]).modThread t0 fun th => { th with async := [a] }
  asked { s with ctxs := fput s.ctxs 0 { s.ctx 0 with tvb := 0x1001 },
                 accs := [{ (default : Access) with id := 9, t := t0, dest := .vreg 8 1, n := 4, st := .failed }] } (argT t0)

theorem witness_deferred_machine_check : Unlogged checked ∧ (checked.thread t0).st = .ready ∧ checked.chain = none ∧ checked.hashHeld 1 = false
    ∧ (checked.asyncDue t0 (checked.chainAt t0)).map Async.cause = some .mchk ∧ (checked.asyncDue t0 (checked.chainAt t0)).map Async.order = some 0
    ∧ checked.modeOf t0 .mchk false = .inThread 0x100
    ∧ after .deferredMchk checked (fun t => (t.thread t0).pc == 0x100 && (t.thread t0).tcause == 13 && t.vreg t0 8 == 0 && t.accs.isEmpty) = true :=
  ⟨unlogged_of (by decide +kernel), by decide +kernel, rfl, by decide +kernel, by decide +kernel, by decide +kernel, by decide +kernel, by decide +kernel⟩

/-! ## Walks -/

/-- A page table of four levels whose leaf for the page 0x20000 stands at 0x50010. -/
def paged (leaf : Nat) : State :=
  let m := [(0x20000, 0x30001), (0x30000, 0x40001), (0x40000, 0x50001), (0x50010, leaf)].foldl
    (fun m (e : Nat × Nat) => Memory.setList m e.1 (leBytes e.2 8)) probe.mem
  { probe with mem := m, ctxs := fput probe.ctxs 0 { probe.ctx 0 with ptroot := 0x20001 } }

/-- A walk of thread 0 for that page. -/
def theWalk (ptos : Bool) : Walk := { id := 4, core := 0, ctx := 0, va := 0x20000, write := false, high := false, ptos := ptos, who := [t0] }

/-- Thread 0 waits for it. -/
def walking (leaf : Nat) (ptos : Bool) : State := asked { inState (paged leaf) (.waiting .walk) with walks := [theWalk ptos] } (argN 4)

/-- A leaf of an S page at 0x60000, one of a P page that core 1 owns, and one of an R page. -/
def sLeaf : Nat := 0x6003F + 2 ^ 52
def pLeaf : Nat := 0x6003F + 2 ^ 54 + 1 * 2 ^ 55
def rLeaf : Nat := 0x6003F + 2 * 2 ^ 52

theorem witness_walks_end : (walking 0 false).walk 0 0x20000 = .fault 1 ∧ (walking sLeaf false).walk 0 0x20000 = .leaf 0x50010 sLeaf 16
    ∧ leafForeign sLeaf 0 = false ∧ (walking pLeaf false).walk 0 0x20000 = .leaf 0x50010 pLeaf 16 ∧ leafForeign pLeaf 0 = true
    ∧ (walking sLeaf false).inPtoS 0 0x20000 = false ∧ (walking sLeaf false).walkActive (theWalk false) = true ∧ ((walking sLeaf false).target 0x50010).1 = .hbm ∧ pLeaf < 2 ^ 64
    ∧ ((walking sLeaf false).thread t0).st = .waiting .walk
    ∧ after .pageWalkComplete (walking 0 false) (fun t => fget (t.thread t0).wfault 2 == some 1) = true
    ∧ after .pageWalkComplete (walking sLeaf false) (fun t => (t.thread t0).st == .ready && (t.core 0).tlb.length == 1 && t.peek 0x50010 8 == leafUpdate sLeaf 0 false) = true
    ∧ after .pageWalkComplete (walking pLeaf false) (fun t => t.ptos.length == 1 && t.walks.all fun w => w.ptos) = true := by decide +kernel

/-- The transition of that page from core 1. -/
def turning : State := { walking pLeaf true with ptos := [{ ctx := 0, va := 0x20000, log := 16, owner := 1, pte := 0x50010, frame := 0x60000 }] }

theorem witness_transition : turning.walks.find? (fun w => w.id == turning.arg.n && w.ptos) = some (theWalk true)
    ∧ turning.ptos.length = 1 ∧ after .pToSTransition turning (fun t => t.ptos.isEmpty && t.walks.all fun w => !w.ptos) = true := by decide +kernel

/-- An R page, whose replicas lie in regions 0 to 3. -/
def replicated : State := { paged rLeaf with rrb := [(0, 0x100001), (1, 0x200001), (2, 0x300001), (3, 0x400001)] }

/-- The collapse of that page. -/
def theCollapse (inv : Bool) : Collapse := { ctx := 0, va := 0x20000, pte := 0x50010, running := true, slot := 6, before := 0, inv := inv }

/-- The engine runs it, and die 0 shares a sector of the replica in region 1. -/
def collapsing (inv : Bool) : State :=
  asked { replicated with collapses := [theCollapse inv], dir := [(0x9800, { (default : DirEntry) with st := .s, sh := [.l2 0] })] } (argNk 0 0x20000)

set_option maxRecDepth 100000 in
theorem witness_collapse : (∀ inv ∈ [false, true], (collapsing inv).replicaReads (theCollapse inv) = false ∧ (collapsing inv).replicaSectors 6 = [0x9800]
      ∧ (collapsing inv).accs = [] ∧ (collapsing inv).homeOps = []
      ∧ (collapsing inv).collapses.find? (fun k => k.ctx == (collapsing inv).arg.n && k.va == pageBase (collapsing inv).arg.k 16 && k.running) = some (theCollapse inv))
    ∧ after .collapse (collapsing false) (fun t => t.homeOps.map HomeReq.x == [0x9800] && t.collapses.map Collapse.inv == [true]) = true
    ∧ after .collapse (collapsing true) (fun t => t.collapses.isEmpty) = true := by
  decide +kernel

/-- A write that waits for a collapse. -/
def collapseWrite : Access := { (default : Access) with id := 5, t := t0, core := 0, kind := .store, pa := 0x60000, va := 0x20000, cls := 2, n := 4, st := .collapse }

theorem witness_collapse_retry : replicated.walk 0 0x20000 = .leaf 0x50010 rLeaf 16 ∧ pteCls rLeaf = 2 ∧ (replicated.target 0x50010).1 = .hbm
    ∧ pageBase 0x20000 16 = 0x20000
    ∧ after .collapseRetry (asked { replicated with accs := [collapseWrite] } (argN 5)) (fun t => t.collapses.length == 1 && pteCls (t.peek 0x50010 8) == 1) = true
    ∧ after .collapseRetry (asked { replicated with accs := [collapseWrite], collapses := List.replicate 8 { theCollapse false with pte := 0x50020 } } (argN 5))
        (fun t => t.collapses.length == 9 && pteCls (t.peek 0x50010 8) == 2) = true := by
  decide +kernel

/-! ## Homes -/

/-- A message about sector 3. -/
def msg (k : MsgKind) (a : Agent) (d : SectorData) (dirty flag : Bool) : Msg :=
  { kind := k, agent := a, x := 3, data := d, dirty := dirty, flag := flag, poison := false, ts := 0, sent := 0 }

/-- An entry of sector 3. -/
def entry (st : DSt) (own : Option Agent) (sh acks : List Agent) (fwd : Option Agent) (task : DirTask) (back : DSt) : DirEntry :=
  { st := st, own := own, sh := sh, acks := acks, fwd := fwd, task := task, back := back, queue := [], data := 9, dirty := false, bad := false, ts := 0 }

/-- A stable entry. -/
def stable (st : DSt) (own : Option Agent) (sh : List Agent) : DirEntry := entry st own sh [] none .none st

/-- A message waits for sector 3's home, which has this entry. -/
def atHome (e : DirEntry) (m : Msg) : State := asked { probe with dir := [(3, e)], toHome := [m] } (argXA 3 m.agent)

/-- The hypotheses common to the requests. -/
def homeB (e : DirEntry) (m : Msg) : Bool :=
  let s := atHome e m
  unloggedB s && decide (s.nextToHome m.kind m.agent 3 = some m) && decide (s.dirOf 3 = e) && !s.hostSector 3

/-- The message that a home sends, and the entry's state after. -/
def sends (k : MsgKind) (a : Agent) (st : DSt) (t : State) : Bool :=
  (t.toAgent.map fun m => (m.kind, m.agent)) == [(k, a)] && (t.dirOf 3).st == st

theorem witness_home_requests :
    let req := fun k => msg k (.l2 0) 0 false false
    let ok := fun (ev : Instr) (e : DirEntry) (m : Msg) (p : State → Bool) => homeB e m && after ev (atHome e m) p
    ok .rds (stable .i none []) (req .rdS) (sends .dataE (.l2 0) .e) = true
      ∧ ok .rds (stable .s none [.l2 1]) (req .rdS) (sends .dataS (.l2 0) .s) = true
      ∧ ok .rds (stable .e (some (.l2 1)) []) (req .rdS) (sends .fwdS (.l2 1) .hFwd) = true
      ∧ ok .rdxRequest (stable .i none []) (req .rdX) (sends .dataE (.l2 0) .e) = true
      ∧ ok .rdxRequest (stable .s none [.l2 1]) (req .rdX) (sends .inv (.l2 1) .hInv) = true
      ∧ ok .rdxRequest (stable .e (some (.l2 1)) []) (req .rdX) (sends .fwdX (.l2 1) .hFwd) = true
      ∧ ok .upg (stable .s none [.l2 0]) (req .upg) (sends .cmp (.l2 0) .e) = true
      ∧ ok .upg (stable .s none [.l2 0, .l2 3]) (req .upg) (sends .inv (.l2 3) .hInv) = true
      ∧ ok .wbd (stable .e (some (.l2 0)) []) (msg .wbD (.l2 0) 77 true false) (fun t => sends .wbAck (.l2 0) .i t && t.homeSector 3 == 77) = true
      ∧ ok .evc (stable .e (some (.l2 0)) []) (msg .evC (.l2 0) 0 false false) (sends .wbAck (.l2 0) .i) = true
      ∧ ok .evc (stable .s none [.l2 0]) (msg .evC (.l2 0) 0 false false) (sends .wbAck (.l2 0) .s) = true := by decide +kernel

theorem witness_home_requests_unlogged (e : DirEntry) (m : Msg) (h : homeB e m = true) : Unlogged (atHome e m) := by
  simp only [homeB, Bool.and_eq_true] at h
  exact unlogged_of h.1.1.1

theorem witness_home_answers :
    let ok := fun (ev : Instr) (e : DirEntry) (m : Msg) (p : State → Bool) => homeB e m && after ev (atHome e m) p
    ok .invack (entry .hInv none [.l2 0, .l2 1] [.l2 1] none (.serve .upg (.l2 0)) .s) (msg .invAck (.l2 1) 0 false false) (sends .cmp (.l2 0) .e) = true
      ∧ ok .invack (entry .hInv none [] [.l2 1, .l2 2] none (.serve .upg (.l2 0)) .s) (msg .invAck (.l2 1) 0 false false)
          (fun t => (t.dirOf 3).acks == [.l2 2] && t.toAgent.isEmpty) = true
      ∧ ok .fwddata (entry .hFwd (some (.l2 1)) [] [] (some (.l2 1)) (.serve .rdS (.l2 0)) .e) (msg .fwdData (.l2 1) 8 true false) (sends .dataS (.l2 0) .o) = true
      ∧ ok .fwddata (entry .hFwd (some (.l2 1)) [] [] (some (.l2 1)) (.serve .rdS (.l2 0)) .e) (msg .fwdData (.l2 1) 8 false false) (sends .dataS (.l2 0) .s) = true
      ∧ ok .fwddata (entry .hFwd (some (.l2 1)) [] [] (some (.l2 1)) (.serve .rdX (.l2 0)) .e) (msg .fwdData (.l2 1) 8 true true)
          (fun t => sends .dataE (.l2 0) .e t && t.homeSector 3 == 8) = true := by decide +kernel

/-- A scrub that reads the sector from its owner. -/
def peeking : State :=
  let m := msg .peekData (.l2 1) 8 false false
  { atHome (entry .hOp (some (.l2 1)) [] [] (some (.l2 1)) (.homeOp 6) .e) m with homeOps := [{ n := 6, x := 3, pa := 192, op := .scrub }] }

theorem witness_peek_data : unloggedB peeking = true ∧ (peeking.nextToHome .peekData (.l2 1) 3).isSome = true
    ∧ after .peekdata peeking (fun t => t.homeOps.isEmpty && (t.dirOf 3).st == .e) = true := by decide +kernel

/-- A die's copy of sector 3, and a message of its home for it. -/
def atDie (c : CSt) (m : Msg) : State := asked { probe with l2 := [(l2Key 0 3, copyIn c)], toAgent := [m] } (argXA 3 (.l2 0))

/-- What the die's copy and its answer are. -/
def dieHas (st : Option CSt) (k : Option MsgKind) (t : State) : Bool :=
  (t.l2copy 0 3).map L2Copy.st == st && t.toHome.map Msg.kind == k.toList

theorem witness_die_messages :
    let ok := fun (ev : Instr) (c : CSt) (m : Msg) (p : State → Bool) =>
      let s := atDie c m
      unloggedB s && s.arg.e.isNone && decide (s.nextToAgent m.kind (.l2 0) 3 = some m) && decide (s.l2copy 0 3 = some (copyIn c)) && s.accs.isEmpty
        && (fget s.nearLast (l2Key 0 3)).isNone && after ev s p
    let m := fun k => msg k (.l2 0) 8 false false
    ok .datas .isD (m .dataS) (dieHas (some .s) none) = true ∧ ok .datae .isD (m .dataE) (dieHas (some .e) none) = true
      ∧ ok .datae .isD (msg .dataE (.l2 0) 8 true false) (dieHas (some .m) none) = true
      ∧ ok .datae .imD (m .dataE) (dieHas (some .m) none) = true ∧ ok .cmp .smA (m .cmp) (dieHas (some .m) none) = true
      ∧ ok .cmp .omA (m .cmp) (dieHas (some .m) none) = true
      ∧ ok .invMsg .s (m .inv) (dieHas none (some .invAck)) = true ∧ ok .invMsg .smA (m .inv) (dieHas (some .imD) (some .invAck)) = true
      ∧ ok .invMsg .omA (m .inv) (dieHas (some .imD) (some .invAck)) = true
      ∧ ok .fwds .m (m .fwdS) (dieHas (some .o) (some .fwdData)) = true ∧ ok .fwds .e (m .fwdS) (dieHas (some .s) (some .fwdData)) = true
      ∧ ok .fwdx .m (m .fwdX) (dieHas none (some .fwdData)) = true ∧ ok .fwdx .o (m .fwdX) (dieHas none (some .fwdData)) = true
      ∧ ok .recallMsg .e (m .recallMsg) (dieHas none (some .fwdData)) = true ∧ ok .recallMsg .s (m .recallMsg) (dieHas none (some .invAck)) = true
      ∧ ok .peek .m (m .peek) (dieHas (some .m) (some .peekData)) = true ∧ ok .wback .miA (m .wbAck) (dieHas none none) = true := by decide +kernel

theorem witness_home_queue :
    let m := msg .rdS (.l2 0) 0 false false
    let busy := entry .hFwd (some (.l2 1)) [] [] (some (.l2 1)) (.serve .rdS (.l2 2)) .e
    let s1 := asked { probe with dir := [(3, busy)], retries := [m] } (argXA 3 (.l2 0))
    let s2 := asked { probe with dir := [(3, { stable .s none [.l2 1] with queue := [{ msg := m }] })] } (argN 3)
    let s3 := asked { probe with dir := [(3, { busy with queue := [{ msg := m }] })] } (argN 3)
    let s4 := asked { probe with dir := [(3, stable .s none [.l2 1])], homeOps := [{ n := 6, x := 3, pa := 192, op := .scrub }] } (argN 6)
    let s5 := asked { probe with dir := [(3, entry .hRd none [] [] none (.host .rdS (.l2 0)) .i)] } (argN 3)
    let s6 := asked { probe with dir := [(3, entry .hInv none [] [.host] none (.serve .rdX (.l2 0)) .s)], toAgent := [msg .inv .host 0 false false],
                                 ptb := 20000 } (argN 3)
    [s1, s2, s3, s4, s5, s6].all unloggedB = true ∧ (s1.dirOf 3).st.stable = false ∧ s1.sliceQueued 3 < 256
      ∧ after .retryResend s1 (fun t => t.retries.isEmpty && (t.dirOf 3).queue.length == 1) = true
      ∧ after .sectorQueueNext s2 (fun t => sends .dataS (.l2 0) .s t && (t.dirOf 3).queue.isEmpty) = true
      ∧ after .sectorQueueNext s3 (fun t => (t.dirOf 3).queue.length == 1) = true
      ∧ after .homeSideOperation s4 (fun t => t.homeOps.isEmpty && (t.dirOf 3).st == .s) = true
      ∧ after .proxyHomeHostResponse s5 (sends .dataE (.l2 0) .e) = true
      ∧ s6.hostAsked 3 [.inv, .fwdS, .fwdX, .recallMsg, .peek] = some (msg .inv .host 0 false false)
      ∧ after .hostcoh { s6 with ptb := 19999 } (fun t => t.posts.isEmpty && t.toAgent.length == 1) = true
      ∧ after .hostcoh s6 (fun t => sends .dataE (.l2 0) .e t && t.posts.map Post.event == ["HOSTCOH"]) = true := by decide +kernel

/-- An atomic whose old value 7 comes back, or a RED, at the home of sector 3, which nobody holds. -/
def farAtomic (dest : Dest) : State :=
  let a : Access := { (default : Access) with id := 5, t := t0, core := 0, kind := .rmw .add 1, pa := 192, va := 192, n := 4, data := 2, dest := dest, st := .atHome }
  asked { probe with accs := [a], homeOps := [{ n := 6, x := 3, pa := 192, op := .access 5 }], mem := Memory.setList probe.mem 192 [7] } (argN 6)

theorem witness_home_atomic : ∀ d ∈ [Dest.vreg 8 1, .none], ((farAtomic d).target 192).1 = .hbm ∧ (farAtomic d).poison = []
    ∧ ((farAtomic d).dirOf 3).st = .i ∧ ((farAtomic d).dirOf 3).sh = [] ∧ ((farAtomic d).dirOf 3).queue = []
    ∧ after .homeSideOperation (farAtomic d) (fun t => t.homeOps.isEmpty && t.byteAt 192 == 9 && t.byteAt 196 == 0
        && (if d == .none then t.accs.isEmpty else t.accs.all fun c => c.st == .done 7 false)) = true := by decide +kernel

/-! ## Line locks -/

/-- A lock word with its address in s2 and s3, PS p1. -/
def fLk (u1 : BitVec 6) : FmtX := { u0 := 2, u1 := u1, u2 := 0, u3 := 0, u4 := 0, u5 := 0, xmod := 1 }
/-- UNLOCK and LKQRY. -/
def fUn (u1 : BitVec 6) : FmtX := { u0 := 2, u1 := u1, u2 := 0, u3 := 0, u4 := 0, u5 := 0, xmod := 0 }

/-- Wave 1 holds the locks of these sectors. -/
def lockHeld (held : List Nat) : State := { missing 0xFFC0 with waves := [(1, { (missing 0xFFC0).wave 1 with held := held })] }

/-- A lock word's hypotheses. -/
def lockB (held : List Nat) (i : Instr) : Bool :=
  let s := issuing (lockHeld held) i
  runsB s i (issueFor i) && oneWaveB s i (issueFor i) 1 && decide ((s.laneTrans false t0 0xFFC0 .read).1 = .ok 0xFFC0 1)
    && decide ((s.laneTrans false t0 0xFFC0 .write).1 = .ok 0xFFC0 1) && decide ((s.target 0xFFC0).1 = .hbm) && !s.lostHome 0xFFC0
    && decide ((s.sreg 1 3 ++ s.sreg 1 2).toNat = 0xFFC0) && (s.wave 1).lockWait.isNone && (s.wave 1).lockers.isEmpty && !s.lostHome (64 * sectorOf 0xFFC0)

theorem witness_lock_words :
    (∀ i ∈ [Instr.lock hp (fLk 0), .lockt hp (fLk 6), .trylk hp (fLk 0), .lkqry hp (fUn 6)], lockB [] i = true)
      ∧ ∀ i ∈ [Instr.lock hp (fLk 0), .lockt hp (fLk 6), .trylk hp (fLk 0), .unlock hp (fUn 0), .lkqry hp (fUn 6)], lockB [0x3FF] i = true := by
  decide +kernel

/-- A waiter. -/
def waiter (u : Nat) (passed : Bool) : LockWaiter := { u := u, req := 40 + u, tick := 0, order := u, deadline := none, passed := passed }
/-- A lock's record. -/
def lockRec (h : Option Nat) (q : List LockWaiter) (g : Option Nat) : LockRec := { holder := h, queue := q, grace := g, aband := false }
/-- A message of wave 1 to sector 3's lock unit, whose records are these. -/
def lockMsg (k : LockKind) (l : FMap LockRec) : State :=
  asked { probe with locks := l, lockMsgs := [{ n := 2, u := 1, x := 3, kind := k, req := 41, after := 0, scope := 0, past := 0 }], ptb := 60000 } (argN 2)
/-- Wave 4's place, saved or not. -/
def withWave4 (saved : Bool) (s : State) : State := { s with waves := s.waves ++ [(4, { placedWave with saved := saved })] }

theorem witness_lock_units :
    let acq := LockKind.acquire none none
    let holder := fun (t : State) => (t.lockOf 3).holder
    (LockRec.free (lockRec none [] none)) = true ∧ (lockMsg acq []).lockCount 0 < 4096 ∧ (withWave4 false (lockMsg .release [])).absent 4 = false
      ∧ (withWave4 true (lockMsg .release [])).absent 4 = true
      ∧ after .lockAcquireArrival (lockMsg acq []) (fun t => holder t == some 1 && t.homeOps.length == 1) = true
      ∧ after .lockAcquireArrival (lockMsg acq [(3, lockRec (some 7) [] none)]) (fun t => (t.lockOf 3).queue.map LockWaiter.u == [1]) = true
      ∧ after .lockAcquireArrival (lockMsg (.acquire (some 60000) none) [(3, lockRec (some 7) [] none)]) (fun t => t.lockReplies.map LockReply.status == [1]) = true
      ∧ after .lockTryArrival (lockMsg .try_ []) (fun t => holder t == some 1) = true
      ∧ after .lockTryArrival (lockMsg .try_ [(3, lockRec (some 7) [] none)]) (fun t => t.lockReplies.map LockReply.status == [1]) = true
      ∧ after .lockReleaseArrival (lockMsg .release [(3, lockRec (some 1) [] none)]) (fun t => t.locks.isEmpty) = true
      ∧ after .lockReleaseArrival (withWave4 false (lockMsg .release [(3, lockRec (some 1) [waiter 4 false] none)])) (fun t => holder t == some 4) = true
      ∧ after .lockReleaseArrival (withWave4 true (lockMsg .release [(3, lockRec (some 1) [waiter 4 false] none)]))
          (fun t => holder t == none && (t.lockOf 3).grace == some 60000) = true
      ∧ after .lockReleaseArrival (lockMsg .release [(3, lockRec (some 1) [{ waiter 4 false with deadline := some 59999 }] none)])
          (fun t => t.locks.isEmpty && t.lockReplies.map LockReply.status == [1]) = true
      ∧ after .lockAbandonArrival (lockMsg .abandon [(3, lockRec (some 1) [] none)]) (fun t => t.locks.isEmpty && t.lockMarks == [3]) = true
      ∧ after .lockAbandonArrival (withWave4 false (lockMsg .abandon [(3, lockRec (some 1) [waiter 4 false] none)])) (fun t => holder t == some 4) = true := by
  decide +kernel

/-- An acquire that was answered FULL. -/
def lockRetry : LockRetry := { u := 1, x := 3, req := 41, stamp := (0, 0), deadline := some 60000, next := 60000 }
/-- The records of a lock unit, about sector 3. -/
def lockUnit (l : FMap LockRec) : State := asked { probe with locks := l, ptb := 60000 } (argN 3)
/-- Wave 1 waits for the reply to its LOCK. -/
def replied (status : Nat) : State :=
  let s := inState probe (.waiting .lock)
  asked { s with waves := [(1, { s.wave 1 with lockers := [{ i := 0, pc := (s.thread t0).at_, ps := 1, x := 3, op := 0x1E0, scope := 0, req := 41, n := 0, late := false }] })], lockReplies := [{ n := 2, u := 1, x := 3, status := status, req := 41, again := none }] } (argN 2)
/-- Waves 1 and 4 each hold the lock that the other waits for. -/
def deadlocked : State :=
  let s := withWave4 false { probe with waves := [(1, { placedWave with held := [3] })] }
  { s with waves := [(1, { placedWave with held := [3] }), (4, { placedWave with held := [5] })], ptb := 70000, lkctl := 7,
           locks := [(3, lockRec (some 1) [waiter 4 false] none), (5, lockRec (some 4) [waiter 1 false] none)] }

/-- Wave 9's place, saved. -/
def withSaved9 (s : State) : State := { s with waves := s.waves ++ [(9, { placedWave with saved := true })] }

theorem witness_lock_replies :
    let holder := fun (t : State) => (t.lockOf 3).holder
    (withWave4 false (lockUnit [])).absent 4 = false
      ∧ after .lockHeadReturn (withWave4 false (lockUnit [(3, lockRec none [waiter 4 false] none)])) (fun t => holder t == some 4) = true
      ∧ after .lockGraceExpiry (withSaved9 (withWave4 false (lockUnit [(3, lockRec none [waiter 9 false, waiter 4 false] (some 10000))])))
          (fun t => holder t == some 4 && (t.lockOf 3).queue.map LockWaiter.passed == [true]) = true
      ∧ after .lockDeadlineExpiry (asked { probe with lockRetries := [lockRetry], ptb := 60000 } (argN 1)) (fun t => t.lockReplies.map LockReply.status == [1]) = true
      ∧ after .lockFullRetry (asked { probe with lockRetries := [{ lockRetry with deadline := none }], ptb := 60000 } (argN 1)) (fun t => t.lockMsgs.length == 1) = true
      ∧ after .lockFullRetry (asked { probe with lockRetries := [lockRetry], ptb := 60000 } (argN 1)) (fun t => t.lockReplies.map LockReply.status == [1]) = true
      ∧ unloggedB (replied 0) = true ∧ after .lockReply (replied 0) (fun t => (t.wave 1).held == [3] && (t.thread t0).st == .ready && t.preg t0 1) = true
      ∧ after .lockReply (replied 4) (fun t => (t.wave 1).held.isEmpty && (t.wave 1).lkstat == 4) = true
      ∧ deadlocked.lkctl.getLsbD 0 = true ∧ after .deadlockScan deadlocked (fun t => t.scanCand.length == 1) = true
      ∧ after .deadlockScan deadlocked (fun t => after .deadlockConfirm { t with ptb := t.ptb + 4096 } fun r =>
          r.lockReplies.map LockReply.status == [3] && r.posts.map Post.event == ["DEADLOCK"]) = true := by decide +kernel

end Sys2Proof.Tests
end

