-- ==== Sys2Proof/Tests/WitnessCopies.lean ====
section
/-! SUPPORT. Witnesses for the statements about copies, batches and barrier objects. -/

-- One theorem after another: each is evaluated by the kernel, and theorems that wait for one another in parallel each
-- hold a thread and its stack.
set_option Elab.async false

namespace Sys2Proof.Tests

open Sys2Proof Sys2Proof.Machine

/-- The instruction of a word. -/
def wordOf (w : Nat) : Instr := (decodeTableWord 64 w).getD default

/-- Format X. -/
def fX (u0 u1 u2 u3 u4 u5 : BitVec 6) (m : BitVec 12) : FmtX := { u0 := u0, u1 := u1, u2 := u2, u3 := u3, u4 := u4, u5 := u5, xmod := m }

/-- A word runs for wave 1, and what it leaves meets a test. -/
def ranB (s : State) (i : Instr) (p : State → Bool) : Bool :=
  let s := issuing s i
  runsB s i (issueFor i) && oneWaveB s i (issueFor i) 1 && after i s p

/-! ## Copies -/

/-- Registers of the copies below: sources at 0x100 and 0x200 (s2, s4), destinations at 0x1000 (s6), 32 bytes (s8), two rows of 16
bytes (s9), pitches (s10, s11), an MMA word (s12, s13), a stamp at 0x2000 of 5 (s14 to s16), a barrier object at 0x3000 (s18). -/
def copier : State :=
  setUnis probe [(2, 0x100), (6, 0x1000), (8, 32), (9, 0x10000), (10, 64), (11, 16), (14, 0x2000), (16, 5), (18, 0x3000),
    (12, 0x14580054), (13, 0x1E824126), (20, 0x4000), (24, 0x5000)]

/-- A copy's hypotheses, and that it is accepted. -/
def copyB (i : Instr) (f : FmtX) (kind : Nat) : Bool :=
  let s := issuing copier i
  let r := s.copyRegs 1 i
  let p := copyPlan f kind r
  (firstEng (s.copyChecks f kind 1 r p)).isNone && ([p.src, p.dst] ++ p.stamp.toList).all (pinnableB s 1)
    && (s.actives i (issueFor i)).all (fun x => s.allDone x 6) && decide (s.entriesUsed 0 < 64)
    && (cpMembers f).all (fun m => (s.block 1).slot m != 0) && p.shape.rows * p.shape.len / 16 != 0
    && ranB copier i fun t => t.copies.length == 1 && t.copies.all fun c => c.left == [(0, p.shape.rows * p.shape.len / 16)] && c.bar == p.bar

/-- Scratchpad from global with a stamp and a barrier object; global from scratchpad; two rows; two receivers; a carried MMAT. -/
theorem witness_copies : copyB (.copy hp (fX 6 2 8 0 14 18 0x4C0)) (fX 6 2 8 0 14 18 0x4C0) 0 = true
    ∧ copyB (.copy hp (fX 2 6 8 0 0 0 0x100)) (fX 2 6 8 0 0 0 0x100) 0 = true
    ∧ copyB (.copy2 hp (fX 6 2 9 10 0 0 0x400)) (fX 6 2 9 10 0 0 0x400) 1 = true
    ∧ copyB (.copym hp (fX 6 2 8 0 0 0 0x004)) (fX 6 2 8 0 0 0 0x004) 2 = true := by decide +kernel

theorem witness_copyx : copyB (.copyx hp (fX 6 2 8 12 0 0 0x400)) (fX 6 2 8 12 0 0 0x400) 3 = true
    ∧ (carriedWord ((issuing copier (.copyx hp (fX 6 2 8 12 0 0 0x400))).copyRegs 1 (.copyx hp (fX 6 2 8 12 0 0 0x400))) (fX 6 2 8 12 0 0 0x400)).isSome = true := by decide +kernel

/-- The block's own scratchpad, as a place that a copy writes. -/
def ownScr : ScrDst := { block := 1, core := 0, member := 0, gen := 0, grans := [] }

/-- A copy of one unit from scratchpad or memory at 0x100 to 0x1000, in the block's own scratchpad or memory. -/
def oneUnit (ssp dsp : Nat) (bar : Option Nat) : Copy :=
  let c := { (default : Copy) with id := 3, u := 1, block := 1, batch := 2, dsp := dsp, ssp := ssp, src := 0x100, dst := 0x1000, rowUnits := 1 }
  { c with srcPins := [(0, 0)], dstPins := [(0, 0)], srcBlock := 1, targets := [ownScr], stampTo := [ownScr], left := [(0, 1)], bar := bar }

/-- The agents' state in which it is the only one; its source holds 7, and a barrier object at 0x2000 awaits 16 bytes. -/
def copying (c : Copy) : State :=
  let s := { probe with mem := Memory.setList probe.mem 0x100 (leBytes 7 16), copies := [c] }
  let s := s.setBlock 1 { s.block 1 with scr := Memory.setList (Memory.setList (s.block 1).scr 0x100 (leBytes 7 16)) 0x2000 (leBytes (16 + 2 ^ 80 + 2 ^ 64) 16) }
  asked s { (default : EvArg) with n := 3, k := 0, m := 1 }

theorem witness_copy_units :
    (copying (oneUnit 1 1 none)).scrDst 1 = ownScr ∧ ownScr.block = 1
      ∧ (copying (oneUnit 1 1 none)).blockLive 1 = true ∧ ((copying (oneUnit 1 1 none)).block 1).saved = false ∧ (copying (oneUnit 1 1 none)).scrBad 1 0x100 16 = false
      ∧ after .copyUnitPerformed (copying (oneUnit 1 1 none)) (fun t => t.scrRead 1 0x1000 16 == 7 && t.copies.all fun c => c.left.isEmpty) = true
      ∧ after .copyUnitPerformed (copying (oneUnit 1 1 (some 0x2000)))
          (fun t => t.scrRead 1 0x1000 16 == 7 && bits (t.scrRead 1 0x2000 16) 55 0 == 16 && t.copies.all fun c => c.owed == 1) = true
      ∧ after .copyUnitPerformed (copying { oneUnit 1 1 (some 0x2000) with left := [(0, 2)] })
          (fun t => bits (t.scrRead 1 0x2000 16) 127 96 == 1 && bits (t.scrRead 1 0x2000 16) 55 0 == 0) = true := by decide +kernel

theorem witness_copy_units_of_memory : (copying (oneUnit 0 0 none)).deadM = [] ∧ ((copying (oneUnit 0 0 none)).target 0x1000).1 = .hbm
    ∧ ((copying (oneUnit 0 0 none)).target 0x100).1 = .hbm ∧ (copying (oneUnit 0 0 none)).poisoned (sectorOf 0x100) = false
    ∧ pinned [(0, 0)] 0x1000 = 0x1000 ∧ Unlogged (copying (oneUnit 0 0 none))
    ∧ after .copyUnitPerformed (copying (oneUnit 0 0 none)) (fun t => leNat ((upto 0 16).map fun j => t.byteAt (0x1000 + j)) == 7) = true :=
  ⟨rfl, by decide +kernel, by decide +kernel, by decide +kernel, by decide, unlogged_of (by decide +kernel), by decide +kernel⟩

/-- The same copy with no unit left, without and with a stamp. -/
def landed (err : Bool) (stamp : Option (Nat × Dword)) : Copy := { oneUnit 1 1 none with left := [], err := err, stamp := stamp }

theorem witness_copies_end : (landed true none).ready = true ∧ (landed true none).multicast = false ∧ (fget (copying (landed true none)).waves 1).isSome = true
    ∧ after .copyComplete (copying (landed true none)) (fun t => t.copies.isEmpty && (t.wave 1).batchErr == 4) = true
    ∧ after .copyComplete (copying { landed true none with bar := some 0x2000, owed := 1 })
        (fun t => bits (t.scrRead 1 0x2000 16) 127 96 == 1 && bits (t.scrRead 1 0x2000 16) 57 56 == 2) = true
    ∧ (let s := copying (landed false none)
       after .copyComplete { s with waves := [(1, { placedWave with sealed := true })] } (fun t => (t.wave 1).batch == 1 && !(t.wave 1).sealed) = true)
    ∧ after .copyComplete (copying (landed false (some (0x2000, 5)))) (fun t => t.scrRead 1 0x2000 8 == 5 && (t.wave 1).batchErr == 0) = true := by decide +kernel

/-- The first word of a matrix descriptor: 8-bit integers in the block's own scratchpad. -/
def desc8 (base : Word) : Word := 0x32000000 + base

/-- A copy whose data has landed and that carries an MMA of two such matrices, rows 64 bytes apart. -/
def carrying (base : Word) : State :=
  let k : Carried := { unit := .mma hp (fX 16 18 0 0 0 0 0x080), landed := false, regs := [(16, desc8 0), (17, 4), (18, desc8 base), (19, 4)] }
  copying { oneUnit 1 1 none with left := [], carried := some k }

/-- The hypotheses of the hand-over, and the cause that the command's checks meet. -/
def handB (base : Word) (hit : Option Cause) : Bool :=
  let s := carrying base
  s.copies.all fun c => match c.carried with
    | some k => s.carriedFree c k && (productIndex k.unit).isSome && (s.wave 1).live.all (fun i => s.allDone ⟨1, i⟩ 6)
        && decide ((s.queued 0).length < 16) && (s.matWaiters 0).isEmpty && s.chain.isNone && unloggedB s
        && (match matFields k.unit with
            | some f => (firstEng (s.matChecks k.unit f 1 k.regs)).map EngHit.cause == hit
            | none => false)
    | none => false

theorem witness_handover : handB 0x1000 none = true ∧ handB 0x1008 (some .align) = true
    ∧ after .copyxHandover (carrying 0x1000) (fun t => t.mcmds.length == 1 && t.copies.length == 1) = true
    ∧ after .copyxHandover (carrying 0x1008) (fun t => t.mcmds.isEmpty && (t.wave 1).merr && t.carriedTraps.length == 1) = true := by decide +kernel

/-- A trap of a carried command waits for wave 1. -/
def trapWaits (st : TState) : State :=
  asked { inState probe st with carriedTraps := [(3, 1, { (default : Async) with cause := .align })] } (argN 3)

theorem witness_carried_trap : ((trapWaits .ready).wave 1).live = [0] ∧ fsorted ((trapWaits .ready).wave 1).threads = true
    ∧ (trapWaits .ready).atMemWord 1 = false ∧ after .carriedCommandTrap (trapWaits .ready) (fun t => t.carriedTraps.length == 1) = true
    ∧ (let s := { trapWaits .ready with mem := Memory.setList probe.mem 0 (leBytes 0x1D8CA00000000000 8) }
       s.atMemWord 1 = true ∧ after .carriedCommandTrap s (fun t => t.carriedTraps.isEmpty && (t.thread t0).async.length == 1) = true) := by decide +kernel

/-! ## Batches and slots -/

/-- Format S of BSEAL, BWAIT and BQRY. -/
def fB (d bn ps : Nat) : FmtS := fS (d * 2 ^ 40 + bn * 2 ^ 36 + ps * 2 ^ 32)

theorem witness_batches : ranB probe (.bseal hp (fB 8 0 0)) (fun t => t.vreg t0 8 == 0 && (t.wave 1).batch == 1) = true
    ∧ ranB probe (.bseal hp (fB 244 0 0)) (fun t => (t.wave 1).batch == 1) = true
    ∧ (let s := { probe with copies := [{ oneUnit 1 1 none with batch := 1 }] }
       ranB s (.bseal hp (fB 8 0 0)) (fun t => (t.wave 1).sealed && (t.thread t0).sealed == some (0, 0)) = true ∧ s.chain = none)
    ∧ (let s := inState { probe with waves := [(1, { placedWave with batch := 1 })] } .ready
       let s := s.modThread t0 fun th => { th with sealed := some (0, 0) }
       ranB s (.bseal hp (fB 8 0 0)) (fun t => t.vreg t0 8 == 0 && (t.wave 1).batch == 1 && (t.thread t0).sealed == none) = true)
    ∧ ranB probe (.bwait hp (fB 0 0 1)) (fun t => t.preg t0 1 && (t.wave 1).batch == 1) = true
    ∧ (let s := { probe with copies := [oneUnit 1 1 none] }
       ranB s (.bwait hp (fB 0 2 1)) State.stalled = true)
    ∧ (let s := { probe with copies := [{ oneUnit 1 1 none with batch := 0 }] }
       ranB s (.bwait hp (fB 0 0 1)) (fun t => (t.wave 1).batch == 1 && (t.thread t0).sealed == some (0, 0)) = true)
    ∧ ranB probe (.bwait hp (fB 0 2 1)) (fun t => t.preg t0 1) = true
    ∧ ranB { probe with waves := [(1, { placedWave with batchErr := 4 })] } (.bwait hp (fB 0 2 1)) (fun t => !t.preg t0 1) = true
    ∧ ranB { probe with waves := [(1, { placedWave with batchErr := 4 })] } (.bqry hp (fB 8 0 0)) (fun t => t.vreg t0 8 == 0x4FFFE) = true
    ∧ ranB probe (.slotq hp (fX 8 0 0 0 0 0 0)) (fun t => t.sreg 1 8 == 0x8888) = true
    ∧ probe.memberBlock 1 0 = some 1
    ∧ ranB (probe.takeSlots 1 [0]) (.slotret hp (fX 0 0 0 0 0 0 0x040)) (fun t => (t.block 1).slot 0 == 8) = true := by decide +kernel

/-! ## Barrier objects -/

/-- A barrier object at the last place of the scratchpad, at phase 5, with one arrival expected, `p` bytes pending and none or one arrived. -/
def barred (p a : Nat) : State :=
  let s := setUnis probe [(2, 65520), (4, 5), (5, 1), (6, 16)]
  s.setBlock 1 { s.block 1 with scr := Memory.setList (s.block 1).scr 65520 (leBytes (5 * 2 ^ 96 + 2 ^ 80 + a * 2 ^ 64 + p) 16) }

theorem witness_barrier_words : probe.scrPlace 1 1 65520 = some (1, 65520) ∧ 65520 + 16 ≤ (probe.block 1).scratch ∧ probe.blockLive 1 = true
    ∧ ranB (barred 0 0) (.bari hp (fX 2 5 0 0 0 0 0)) (fun t => t.scrRead 1 65520 16 == 2 ^ 80) = true
    ∧ ranB (barred 0 0) (.barx hp (fX 2 6 0 0 0 0 0)) (fun t => bits (t.scrRead 1 65520 16) 55 0 == 16) = true
    ∧ ranB (barred 0 0) (.bara hp (fX 2 8 0 0 0 0 0x200)) (fun t => t.sreg 1 8 == 5 && bits (t.scrRead 1 65520 16) 127 96 == 6) = true
    ∧ ranB (barred 16 0) (.bara hp (fX 2 0 0 0 0 0 0x400)) (fun t => bits (t.scrRead 1 65520 16) 79 64 == 1) = true
    ∧ ranB (barred 0 0) (.barw hp (fX 2 5 0 0 0 0 1)) (fun t => t.preg t0 1) = true
    ∧ ranB (barred 0 0) (.barw hp (fX 2 4 0 0 0 0 1)) State.stalled = true
    ∧ ranB (barred 0 0) (.bart hp (fX 2 4 0 0 0 0 1)) (fun t => !t.preg t0 1) = true := by decide +kernel

theorem witness_barrier_phase : barTest (2 ^ 80 + 2 ^ 64) = 2 ^ 96 + 2 ^ 80 ∧ barTest (2 ^ 80 + 2 ^ 64 + 16) = 2 ^ 80 + 2 ^ 64 + 16
    ∧ barTest (2 ^ 80 + 2 ^ 64 + 2 ^ 56) = 2 ^ 96 + 2 ^ 80 + 2 ^ 57 ∧ barTest (0xFFFFFFFF * 2 ^ 96 + 2 ^ 80 + 2 ^ 64) = 2 ^ 80 := by decide +kernel

end Sys2Proof.Tests
end

