-- ==== Sys2Proof/Tests/WitnessMatrix.lean ====
section
/-! SUPPORT. Witnesses for the statements about the matrix engine. -/

-- One theorem after another: each is evaluated by the kernel, and theorems that wait for one another in parallel each
-- hold a thread and its stack.
set_option Elab.async false

namespace Sys2Proof.Tests

open Sys2Proof Sys2Proof.Machine

/-- A wave of 64 lanes with registers for the commands below: 8-bit matrices at 0 and 0x1000 (s16, s18), 4-bit ones there
(s44, s46), scales at 0x3000 (s20),
an f32 vector at 0x4000 (s22), masks (s24), a register destination at v100 (s28), rows at 0x8000 with pitch 256 (s30, s31), device mask (s32), a
global address 0x4000 (s34), staging at 0x6000 and 0x7000 (s36, s38), its pitches (s40, s41), one step (s42). -/
def engine : State :=
  let s := { probe with waves := [(1, { placedWave with width := 64 })] }
  setUnis s [(16, desc8 0), (17, 4), (18, desc8 0x1000), (19, 4), (20, 0x02003000), (21, 1), (22, 0x52004000), (28, 0x50000064), (30, 0x8000), (31, 256),
    (32, 1), (34, 0x4000), (36, desc8 0x6000), (37, 0x00400004), (38, desc8 0x8000), (39, 0x00400004), (40, 64), (41, 64), (42, 1),
    (44, 0xA2000000), (45, 4), (46, 0xA2001000), (47, 4)]

/-- A command's hypotheses, and that it joins the queue. -/
def joinsB (i : Instr) (f : FmtX) : Bool :=
  let s := issuing engine i
  let r := s.namedRegs 1 i
  (firstEng (s.matChecks i f 1 r)).isNone && (matRngs i r).all (pinnableB s 0) && (s.actives i (issueFor i)).all (fun x => s.allDone x 6)
    && !s.matFull 0 i && !s.matYields 1 0 && ranB engine i fun t => t.mcmds.map MCmd.unit == [i]

theorem witness_matrix_commands : joinsB (.mma hp (fX 16 18 0 0 0 0 0x080)) (fX 16 18 0 0 0 0 0x080) = true
    ∧ joinsB (.mmat hp (fX 16 18 24 0 0 0 0x080)) (fX 16 18 24 0 0 0 0x080) = true
    ∧ joinsB (.mzero hp (fX 0 0 0 0 0 0 0xF80)) (fX 0 0 0 0 0 0 0xF80) = true
    ∧ joinsB (.mlda hp (fX 30 31 0 0 0 0 0x020)) (fX 30 31 0 0 0 0 0x020) = true
    ∧ joinsB (.msta hp (fX 30 31 0 0 0 0 0x020)) (fX 30 31 0 0 0 0 0x020) = true
    ∧ joinsB (.mcvt hp (fX 28 0 0 0 0 0 0)) (fX 28 0 0 0 0 0 0) = true
    ∧ joinsB (.mepi hp (fX 0 0 0 0 0 0 0x010)) (fX 0 0 0 0 0 0 0x010) = true
    ∧ joinsB (.mdrain hp (fX 32 8 34 31 0 0 0)) (fX 32 8 34 31 0 0 0) = true := by decide +kernel

theorem witness_matrix_commands_scaled : joinsB (.mmas hp (fX 44 46 20 20 22 22 0x030)) (fX 44 46 20 20 22 22 0x030) = true
    ∧ joinsB (.mmat hp (fX 44 46 24 20 20 0 0x084)) (fX 44 46 24 20 20 0 0x084) = true
    ∧ joinsB (.mseq hp (fX 34 34 36 38 40 42 0)) (fX 34 34 36 38 40 42 0) = true := by decide +kernel

/-! ## Status and fence -/

/-- A command of wave 1 in core 0's queue. -/
def queued (i : Instr) (regs : FMap Word) : MCmd := { (default : MCmd) with id := 2, u := 1, block := 1, unit := i, who := [0], regs := regs }

/-- Core 0's queue holds only it. -/
def inQueue (i : Instr) (regs : FMap Word) : State := asked { engine with mcmds := [queued i regs] } (argN 0)

/-- MZERO of tile 1. -/
def zero1 : Instr := .mzero hp (fX 0 0 0 0 0 0 0x080)

theorem witness_matrix_status : ranB (inQueue zero1 []) (.mstat hp (fX 8 0 0 0 0 0 0)) (fun t => t.sreg 1 8 == 0x0F01) = true
    ∧ ranB engine (.mfence hp (fX 0 0 0 0 0 0 1)) (fun t => t.preg t0 1 && !(t.wave 1).merr) = true
    ∧ ranB { engine with waves := [(1, { placedWave with merr := true })] } (.mfence hp (fX 0 0 0 0 0 0 1)) (fun t => !t.preg t0 1 && !(t.wave 1).merr) = true
    ∧ ranB (inQueue zero1 []) (.mfence hp (fX 0 0 0 0 0 0 1)) State.stalled = true ∧ (inQueue zero1 []).chain = none := by decide +kernel

/-! ## Execution -/

/-- The command at the head, and its block. -/
theorem witness_head : ∀ i ∈ [Instr.mma hp (fX 16 18 0 0 0 0 0x080), .mmas hp (fX 44 46 20 20 22 22 0x030), .mmat hp (fX 16 18 24 0 0 0 0x080), zero1,
    .mlda hp (fX 30 31 0 0 0 0 0x020), .msta hp (fX 30 31 0 0 0 0 0x020), .mcvt hp (fX 28 0 0 0 0 0 0), .mepi hp (fX 0 0 0 0 0 0 0x010),
    .mdrain hp (fX 32 8 34 31 0 0 0)], (inQueue i []).headCmd (inQueue i []).arg.n = some (queued i []) ∧ (inQueue i []).blockLive 1 = true := by
  decide +kernel

/-- Element 5 of tile 0 carries an uncorrectable error. -/
def hurtHead (i : Instr) : State :=
  let s := inQueue i (engine.namedRegs 1 i)
  { s with blocks := [(1, { s.block 1 with tileBad := [5] })] }

theorem witness_hurt_tile : ∀ i ∈ [Instr.mma hp (fX 16 18 0 0 0 0 0), .msta hp (fX 30 31 0 0 0 0 0), .mcvt hp (fX 28 0 0 0 0 0 0), .mepi hp (fX 0 0 0 0 0 0 0x010),
    .mdrain hp (fX 32 8 34 31 0 0 0)], tileReads i = true ∧ isMseq i = false ∧ 5 / 4096 ∈ (queued i (engine.namedRegs 1 i)).tiles.map Prod.snd
      ∧ (hurtHead i).headCmd (hurtHead i).arg.n = some (queued i (engine.namedRegs 1 i)) ∧ (hurtHead i).blockLive 1 = true ∧ (fget (hurtHead i).waves 1).isSome = true := by
  decide +kernel

theorem witness_rows : matRngs (.mlda hp (fX 30 31 0 0 0 0 0x020)) [(30, 0x8000), (31, 256)] = [⟨1, 0x8000, 256, 64, 256, false⟩]
    ∧ matRngs (.msta hp (fX 30 31 0 0 0 0 0x020)) [(30, 0x8000), (31, 256)] = [⟨1, 0x8000, 256, 64, 256, true⟩]
    ∧ (engine.block 1).scrPoison = [] ∧ mBit (fX 30 31 0 0 0 0 0x020) 4 = false ∧ mBit (fX 0 0 0 0 0 0 0x010) 3 = false
    ∧ (descAt (.mcvt hp (fX 28 0 0 0 0 0 0)) [(28, 0x50000064), (29, 0)] 0).map (fun e => e.2.kind) = some 0
    ∧ (fget engine.waves 1).isSome = true ∧ (engine.thread t0).st ≠ .exited := by decide +kernel

/-- One group of eight products: 1 to 8 by 1, or ones. -/
def ones (g : Nat) : ProdIn :=
  let l := (List.range 8).map fun k => FVal.num false (k + 1) 0
  { group := g, a := l, b := l.map fun _ => FVal.num false 1 0, sa := [], sb := [], xa := engOne, xb := engOne }

/-- R357: the sum of 1 to 8 over 2^24 - 1, over -36, and over 1.0. -/
theorem witness_product_elements : (∀ g, (ones g).a.length = 8 * 1 ∧ (ones g).b.length = 8 * 1)
    ∧ (∀ v ∈ (ones 2).a ++ (ones 2).b, ∃ g m, v = FVal.num g m 0)
    ∧ ((ones 2).elem 0xFFFFFFDC).1 = 0 ∧ ((ones 4).elem 0x3F800000).1 = 0x42140000 ∧ ((ones 0).elem 0x3F800000).1 = 0x42140000
    ∧ ((ones 5).elem 0x3FF0000000000000).1 = 0x4042800000000000 := by
  refine ⟨fun g => ⟨rfl, rfl⟩, fun v hv => ?_, by decide +kernel, by decide +kernel, by decide +kernel, by decide +kernel⟩
  simp only [ones, List.range, List.range.loop, List.map, List.cons_append, List.nil_append, List.mem_cons, List.mem_nil_iff, or_false] at hv
  rcases hv with rfl | rfl | rfl | rfl | rfl | rfl | rfl | rfl | rfl | rfl | rfl | rfl | rfl | rfl | rfl | rfl <;> exact ⟨_, _, rfl⟩

/-! ## MSEQ and MDRAIN -/

/-- MSEQ of one step at the head, its first staging place empty. -/
def sequencing (pst : Nat) : State :=
  let i : Instr := .mseq hp (fX 34 34 36 38 40 42 0)
  let s := inQueue i (engine.namedRegs 1 i)
  { s with ctxs := fput s.ctxs 0 { s.ctx 0 with pst := pst } }

theorem witness_mseq : (sequencing 0).headCmd 0 = (sequencing 0).mcmds.head? ∧ (sequencing 0).deadM = []
    ∧ (sequencing 0).mcmds.all (fun m => (descAt m.unit m.regs 2).isSome && (descAt m.unit m.regs 3).isSome && !(sequencing 0).cmdHeld m
        && (sequencing 1).cmdHeld m && (regOf m.regs 42).toNat == 1) = true := by decide +kernel

/-- A reduction of this device alone, into rows of 256 bytes at 0x4000. -/
def draining : State :=
  let d : Drain := { (default : Drain) with id := 5, u := 1, mask := 1, tile := [(0, 7), (4095, 9)], dst := 0x4000, pitch := 256, pins := [(0, 0)] }
  asked { engine with drains := [d] } (argN 5)

theorem witness_drain : draining.lostCtxs = [] ∧ (3 ∈ maskDevs 9 ∧ draining.reaches 3 = false) ∧ draining.drains.all (fun d => maskDevs d.mask == [draining.devid] && fgetD d.pins (d.dst / 65536) 0 == 0
      && decide (d.dst % 65536 + 63 * d.pitch + 256 ≤ 65536)) = true ∧ 0 + 65536 ≤ Config.hbmBytes ∧ draining.deadM = []
    ∧ Unlogged draining := ⟨by decide +kernel, by decide +kernel, by decide +kernel, by decide +kernel, by decide +kernel, unlogged_of (by decide +kernel)⟩

end Sys2Proof.Tests
end

