-- ==== Sys2Proof/Tests/WitnessTraps.lean ====
section
/-! SUPPORT. Witnesses for the statements about messages, events, collectives, traps, special registers, state saving and
the operand log. -/

-- One theorem after another: each is evaluated by the kernel, and theorems that wait for one another in parallel each
-- hold a thread and its stack.
set_option Elab.async false

namespace Sys2Proof.Tests

open Sys2Proof Sys2Proof.Machine

/-! ## Messages and events -/

/-- Mailbox 255 of context 0 is a ring of two slots at 0xB000, or not valid; sources wait in it. s2 names it on this device, s3 alone; event 255 in
s3 too, 5 in s4. -/
def boxed (valid : Bool) (srcs : List Nat) : State :=
  let e := if valid then 2 ^ 63 + 2 ^ 53 + 0xB000 else 0
  let s := setUnis probe [(2, 0xFF00), (3, 255), (4, 5)]
  { s with mbtb := 0xA000, mem := Memory.setList (Memory.setList s.mem 0xA7F8 (leBytes e 8)) 0xB000 (leBytes 9 4), boxes := [(255, { (default : Box) with srcs := srcs })] }

theorem witness_messages : msgTarget 0xFF00 = some (0, 255) ∧ (boxed true [7]).outbound.length < 4096 ∧ (boxed true [7]).ownsBox 0 255 = true
    ∧ ranB (setRegs (boxed true []) [(31, 7)]) (.msgs hp (fX 2 0 0 0 0 0 0x181)) (fun t => t.preg t0 1 && t.outbound.map (fun m => m.data.toNat) == [7 * 2 ^ 480]) = true
    ∧ ranB (boxed true [7]) (.msgr hp (fX 3 0 0 0 0 0 0x141)) (fun t => t.preg t0 1 && t.vreg t0 16 == 9 && t.vreg t0 32 == 7 && (t.box 255).head == 1) = true
    ∧ ranB (boxed true []) (.msgr hp (fX 3 0 0 0 0 0 0x101)) (fun t => !t.preg t0 1) = true
    ∧ ranB (boxed true [7]) (.msgq hp (fX 3 8 0 0 0 0 0)) (fun t => t.sreg 1 8 == 0x10FFF) = true
    ∧ ranB (boxed false [7]) (.msgq hp (fX 3 8 0 0 0 0 0)) (fun t => t.sreg 1 8 == 0) = true
    ∧ ranB (boxed true []) (.evsig hp (fX 3 4 0 0 0 0 0)) (fun t => t.evCounter 0 255 == 5) = true
    ∧ ranB ((boxed true []).setEvCounter 0 255 5) (.evwait hp (fX 3 4 0 0 0 0 0)) (fun t => !t.stalled) = true
    ∧ ranB ((boxed true []).setEvCounter 0 255 4) (.evwait hp (fX 3 4 0 0 0 0 0)) State.stalled = true := by decide +kernel

/-- A message of this device for box 255. -/
def message (dev : Nat) : OutMsg := { (default : OutMsg) with id := 3, src := 0, dev := dev, box := 255, data := 6, retry := 0 }

/-- The outbound queue holds 4,096 messages. -/
theorem witness_outbound_full : (let s := { boxed true [] with outbound := List.replicate 4096 (message 1) }
    ranB s (.msgs hp (fX 2 0 0 0 0 0 0x181)) fun t => !t.preg t0 1 && t.outbound.length == 4096) = true := by decide +kernel

theorem witness_delivery :
    let s := fun valid srcs dev => asked { boxed valid srcs with outbound := [message dev], ptb := 10, reach := [1] } (argN 3)
    unloggedB (s true [] 0) = true ∧ (s true [] 0).devid = 0
      ∧ after .messageDelivery (s true [] 0) (fun t => t.outbound.isEmpty && (t.box 255).srcs == [0] && t.byteAt 0xB000 == 6) = true
      ∧ after .messageDelivery (s true [7, 7] 0) (fun t => t.outbound.map OutMsg.retry == [1010]) = true
      ∧ after .messageDelivery (s false [] 0) (fun t => t.outbound.isEmpty && (t.ctx 0).msgerr == 1) = true
      ∧ after .messageDelivery (s true [] 1) (fun t => t.outbound.isEmpty) = true
      ∧ after .mailboxFullRetry (s true [] 0) (fun t => (t.box 255).srcs == [0]) = true
      ∧ after .mailboxFullRetry (asked { s true [] 0 with outbound := [{ message 0 with retry := 11 }] } (argN 3)) (fun t => t.outbound.length == 1) = true
      ∧ after .eventCounterHostWrite (asked probe { argNk 63 255 with v := 9 }) (fun t => t.evCounter 63 255 == 9) = true := by decide +kernel

/-! ## Collectives -/

/-- A copy of four f32 elements of this device alone, from 0x1000 to 0x2000: s2 the mask, s4 the tag, s6 and s8 the addresses, s10 the count,
s11 and s12 handle 0 and 7. -/
def collector (colls : List CollOp) (held : FMap Nat) : State :=
  setUnis { probe with colls := colls, waves := [(1, { placedWave with colls := held })], mem := Memory.setList probe.mem 0x1000 (leBytes 7 4) }
    [(2, 1), (4, 3), (6, 0x1000), (8, 0x2000), (10, 4), (12, 7)]

/-- The collective. -/
def coll (done err : Bool) : CollOp :=
  let c := { (default : CollOp) with id := 3, u := 1, block := 1, mask := 1, tag := 3, ty := 10, n := 4, src := 0x1000, dst := 0x2000 }
  { c with srcPins := [(0, 0)], dstPins := [(0, 0)], done := done, err := err }

theorem witness_collectives :
    let i : Instr := .coll hp (fX 2 4 6 8 10 20 0x050)
    let s := issuing (collector [] []) i
    let p := collPlan (fX 2 4 6 8 10 20 0x050) (s.namedRegs 1 i)
    (firstEng (s.collHits (fX 2 4 6 8 10 20 0x050) p)).isNone = true ∧ (collRanges (fX 2 4 6 8 10 20 0x050) p s.devid).all (pinnableB s 1) = true
      ∧ (s.wave 1).freeColl = some 0 ∧ ranB (collector [] []) i (fun t => t.colls.length == 1 && t.sreg 1 20 == 0) = true
      ∧ ranB (collector [] []) (.collw hp (fX 12 0 0 0 0 0 1)) (fun t => t.preg t0 1) = true
      ∧ ranB (collector [coll true true] [(7, 3)]) (.collw hp (fX 12 0 0 0 0 0 1)) (fun t => !t.preg t0 1 && t.colls.isEmpty) = true
      ∧ ranB (collector [coll false false] [(7, 3)]) (.collw hp (fX 12 0 0 0 0 0 1)) State.stalled = true := by decide +kernel

theorem witness_collectives_end :
    let s := fun k => asked (collector [coll false false] [(7, 3)]) (argNk 3 k)
    unloggedB (s 0) = true ∧ maskDevs (coll false false).mask = [(s 0).devid] ∧ (s 0).deadM = [] ∧ (s 0).lostCtxs = []
      ∧ (coll false false).ctx = ((s 0).wave 1).ctx ∧ (s 0).poisoned (sectorOf 0x1000) = false
      ∧ after .collectiveComplete (s 0) (fun t => t.byteAt 0x2000 == 7 && t.colls.all fun c => c.done && !c.err) = true
      ∧ after .collectiveComplete (s 1) (fun t => t.colls.all fun c => c.done && c.err) = true
      ∧ after .rankLost (asked { collector [] [] with reach := [1, 2] } (argN 1)) (fun t => t.lostDevs == [1] && t.reach == [2]) = true
      ∧ after .rankLost (asked { collector [] [] with reach := [1, 2] } (argNk 1 1)) (fun t => t.lostDevs.isEmpty && t.reach == [1, 2] && t.lostCtxs == [(1, 0)]) = true := by
  decide +kernel

/-! ## Traps -/

/-- A wave of level H. -/
def highWave : Wave := { placedWave with high := true }

/-- The DEBUG vector's mode: a handler at 0x200, the fault queue at 0xC000, killing; the wave is of level H. -/
def vectored (mode : Nat) : State :=
  let m := Memory.setList probe.mem 0x10A0 (leBytes (mode * 2 ^ 62 + 0x200) 8)
  { probe with mem := m, waves := [(1, highWave)], ctxs := fput probe.ctxs 0 { probe.ctx 0 with tvb := 0x1001, tctl := 1, hwl := 0x100000, fqb := [(0, 0xC001)] } }

/-- A trap's hypotheses, and what it leaves. -/
def trapB (mode : Nat) (i : Instr) (m : Mode) (p : State → Bool) : Bool :=
  let s := issuing (vectored mode) i
  unloggedB s && s.chain.isNone && decide (s.actives i (issueFor i) = [t0]) && s.modeOf t0 .debug false == m && runsB s i (issueFor i) && after i s p

theorem witness_debug : ∀ i ∈ [Instr.brk hp (fS 0xFFFF), .trap hp (fS 0xFFFF)],
    trapB 1 i (.inThread 0x200) (fun t => (t.thread t0).pc == 0x200 && (t.thread t0).tcause == 10 && (t.thread t0).skip == 8) = true
      ∧ trapB 0 i .queue (fun t => (t.thread t0).st == .trapped && t.peek 0xC000 8 == 1 && t.peek 0xC048 8 == 10 * 2 ^ 56) = true
      ∧ trapB 2 i .kill (fun t => (t.thread t0).st == .trapped && t.posts.map Post.event == ["TRAPKILL"]) = true := by decide +kernel

theorem witness_fault_queue_room : (vectored 0).fqRoom 0 0 1 = true ∧ (vectored 0).allDone t0 4 = true
    ∧ 0xC000 + 64 + 64 * (64 * 2 ^ bits ((vectored 0).fqb 0 0) 11 8) ≤ Config.hbmBytes := by decide +kernel

/-- Thread 0 in its handler; thread 0 of wave 4, of tag 7, trapped, with 0x300 and 0x308 to return to; its handle in s2, the mask of it in s4. -/
def handler : State :=
  let th := { placedThread with st := .trapped, tpc := 0x300, skip := 0x308 }
  let own := { placedThread with inh := true, tpc := 0x400, skip := 0x408 }
  let s := { vectored 1 with waves := [(1, { highWave with threads := [(0, own), (1, placedThread)] }), (4, { placedWave with tag := 7, threads := [(0, th)] })] }
  setUnis s [(2, 7), (4, 1)]

/-- A return of its own thread, or of wave 4's. -/
def ret (op : Nat) (other : Bool) : FmtS := fS (op * 2 ^ 46 + if other then 2 ^ 45 + 2 * 2 ^ 39 + 4 * 2 ^ 33 else 0)

theorem witness_returns : handler.handleOf 1 2 = some 4 ∧ unloggedB handler = true ∧ (handler.wave 4).saved = false
    ∧ ranB handler (.tretRetry hp (ret 0 false)) (fun t => (t.thread t0).pc == 0x400 && !(t.thread t0).inh) = true
    ∧ ranB handler (.tretSkip hp (ret 1 false)) (fun t => (t.thread t0).pc == 0x408) = true
    ∧ ranB handler (.tretEnd hp (ret 2 false)) (fun t => (t.thread t0).st == .exited) = true
    ∧ ranB handler (.tretRetry hp (ret 0 true)) (fun t => (t.thread ⟨4, 0⟩).pc == 0x300 && (t.thread ⟨4, 0⟩).st == .ready) = true
    ∧ ranB handler (.tretSkip hp (ret 1 true)) (fun t => (t.thread ⟨4, 0⟩).pc == 0x308) = true
    ∧ ranB handler (.tretEnd hp (ret 2 true)) (fun t => (t.thread ⟨4, 0⟩).st == .exited) = true := by decide +kernel

/-- Context 0 is saved, wave 4 in the image at 0x4000: its thread 0 stands trapped there, with 0x300 and 0x308 to return to. -/
def pictured : State :=
  let w := { handler.wave 4 with saved := true, image := some 0x4000 }
  let th := leBytes (4 * 2 ^ 72 + 0x300 * 2 ^ 320 + 0x308 * 2 ^ 384) 64
  { handler with waves := fput handler.waves 4 w, ctxs := fput handler.ctxs 0 { handler.ctx 0 with pst := 2 }, mem := Memory.setList handler.mem 0x4400 th }

theorem witness_returns_in_images : pictured.handleOf 1 2 = some 4 ∧ pictured.inImage 4 = true ∧ (pictured.wave 4).image = some 0x4000
    ∧ (fget (pictured.wave 4).threads 0).isSome = true ∧ (pictured.sreg64 1 4).getLsbD 0 = true ∧ bits (pictured.engRead (0x4000 + 0x400 + 64 * 0) 64).1 75 72 = 4
    ∧ (∀ i ∈ [Instr.tretRetry hp (ret 0 true), .tretSkip hp (ret 1 true)], let s := issuing pictured i
        runsB s i (issueFor i) = true ∧ oneWaveB s i (issueFor i) 1 = true ∧ (s.actives i (issueFor i)).all (fun y => s.allDone y 4) = true) := by decide +kernel

/-- Thread 0 in its pre-emption handler, or another. -/
def preempted (pst : Nat) : State :=
  let s := vectored 1
  { s with waves := [(1, { highWave with threads := [(0, { placedThread with inh := true, inhPre := true })] })], ctxs := fput s.ctxs 0 { s.ctx 0 with pst := pst } }

theorem witness_pdone : ranB (vectored 1) (.pdone hp (fS 0)) (fun t => (t.thread t0).st == .ready) = true ∧ (vectored 1).pdoneActs t0 = false
    ∧ (preempted 1).pdoneActs t0 = true ∧ ((preempted 1).wave 1).stop = 0
    ∧ ranB (preempted 1) (.pdone hp (fS 0)) (fun t => (t.thread t0).st == .waiting .gather && (t.wave 1).stop == 3) = true := by decide +kernel

/-- SRD of the tick counter into v8 and of the core into s8; SWR of each writable register from v2. -/
theorem witness_special : ranB { vectored 1 with ptb := 2 ^ 32 + 5 } (.srd hp (fS (8 * 2 ^ 40 + 0x11 * 2 ^ 32))) (fun t => t.vreg t0 8 == 5 && t.vreg t0 9 == 1) = true
    ∧ ranB (vectored 1) (.srd hp (fS (8 * 2 ^ 40 + 0x0B * 2 ^ 32 + 2 ^ 31))) (fun t => t.sreg 1 8 == 0) = true
    ∧ (∀ n ∈ [0x28, 0x29, 0x2A, 0x2B], ranB (setRegs (vectored 1) [(2, 6)]) (.swr hp (fS (n * 2 ^ 32 + 2 * 2 ^ 24))) (fun t => !t.stalled) = true)
    ∧ ranB (setRegs (vectored 1) [(2, 6)]) (.swr hp (fS (0x2A * 2 ^ 32 + 2 * 2 ^ 24))) (fun t => (t.thread t0).tinfo == 6) = true
    ∧ ranB (setRegs (vectored 1) [(2, 1)]) (.swr hp (fS (0x31 * 2 ^ 32 + 2 * 2 ^ 24))) (fun t => t.agenda.length == 1) = true := by decide +kernel

/-! ## Saved state -/

/-- CSAVE and CREST of v2 and v3, at the address in s6. -/
def fSave : FmtS := fS (6 * 2 ^ 42 + 2 * 2 ^ 34 + 2 ^ 26)
/-- Of wave 4's image, whose handle is in s2. -/
def fImage : FmtS := fS (6 * 2 ^ 42 + 2 * 2 ^ 36 + 2 ^ 25)

/-- Die 0 holds the sectors at 0xFE00 and 0xFF00, and s6 names the first. -/
def saver : State := setUnis { vectored 1 with l2 := [(l2Key 0 (sectorOf 0xFE00), cleanCopy), (l2Key 0 (sectorOf 0xFF00), cleanCopy)] } [(6, 0xFE00)]

theorem witness_save_registers : (∀ i ∈ [Instr.csave hp fSave, .crest hp fSave], ranB saver i (fun t => !t.stalled) = true)
    ∧ csN fSave = 2 ∧ fSave.body.getLsbD 25 = false ∧ (∀ pa ∈ [0xFE00, 0xFF00], (saver.laneTrans false t0 pa .write).1 = .ok pa 1
      ∧ (saver.laneTrans false t0 pa .read).1 = .ok pa 1 ∧ (saver.target pa).1 = .hbm ∧ saver.lostHome pa = false ∧ heldAtB saver 0 0 pa cleanCopy = true
      ∧ saver.collapsing pa = false) ∧ sectorOf 0xFE00 ≠ sectorOf 0xFF00 ∧ (saver.wave 1).log = [] ∧ saver.accs = [] := by decide +kernel

/-- The image at 0x10000 fits the window. -/
theorem witness_images : let s := setUnis handler [(6, 0x10000)]
    ∀ i ∈ [Instr.csave hp fImage, .crest hp fImage], runsB (issuing s i) i (issueFor i) = true ∧ oneWaveB (issuing s i) i (issueFor i) 1 = true
      ∧ s.handleOf 1 2 = some 4 ∧ (s.wave 4).saved = false ∧ (s.wave 4).stopped = true ∧ (s.wave 4).isSprout = false ∧ pinnableB s 1 (imageRange 0x10000 true) = true
      ∧ pinnableB s 1 (imageRange 0x10000 false) = true ∧ s.deadM = [] ∧ (∀ j ∈ [0, 82943], (s.target ((s.ctx 0).windowPa (0x10000 + j))).1 = .hbm) := by
  decide +kernel

/-! ## The operand log -/

/-- Entry 3 of a store of 7 to 0xFFC0 by thread 0 of a wave. -/
def logged (st : LogState) : LogEntry :=
  let l : LogLane := { (default : LogLane) with i := 0, ea := 0xFFC0, data := 7 }
  { (default : LogEntry) with st := st, unit := .st hp (fM 4), pc := 0x500, next := 0x508, lanes := [l], low := 0xFFC0, code := 1, cause := .memfault }

/-- Thread 0 reads and serves wave 4's entries; wave 1 has one of its own. -/
def logs (st : LogState) : State :=
  let s := { handler with l2 := [(l2Key 0 (sectorOf 0xFFC0), cleanCopy)] }
  { s with waves := [(1, { s.wave 1 with log := [(3, logged st)] }), (4, { s.wave 4 with log := [(3, logged .wait)] })], arg := argNk 1 3 }

theorem witness_log_words : ranB (logs .wait) (.oplr hp (fS (16 * 2 ^ 42 + 3 * 2 ^ 33))) (fun t => t.sreg 1 16 == 0x500 && t.sreg 1 18 == 0xFFC0) = true
    ∧ ranB (logs .wait) (.oplr hp (fS (16 * 2 ^ 42 + 2 * 2 ^ 36 + 2 ^ 35))) (fun t => t.sreg 1 22 == 0) = true
    ∧ (∀ y, y = t0 → (logs .wait).allDone y 4 = true) ∧ ((fget ((logs .wait).wave 4).log 3).map LogEntry.st) = some .wait ∧ ((logs .wait).wave 4).saved = false
    ∧ ranB (logs .wait) (.fresume hp (fS (2 * 2 ^ 42 + 3 * 2 ^ 40))) (fun t => (fget (t.wave 4).log 3).map LogEntry.st == some .ready) = true
    ∧ ranB (logs .wait) (.fresume hp (fS (2 * 2 ^ 42 + 3 * 2 ^ 40 + 2 ^ 39 + 2 * 2 ^ 35)))
        (fun t => (fget (t.wave 4).log 3).map (fun e => (e.st, e.det)) == some (.failed, 2)) = true := by
  refine ⟨by decide +kernel, by decide +kernel, fun y h => by subst h; decide +kernel, by decide +kernel, by decide +kernel, by decide +kernel⟩

theorem witness_log_events : ((logs .ready).wave 1).nextReady = some (3, logged .ready) ∧ (logs .ready).mayReissue 1 3 (logged .ready) = true
    ∧ ((memOp (.st hp (fM 4))).map fun m => (m.group.isNone, m.cctl.isNone, m.hint, m.align, m.n)) = some (true, true, false, 0, 4)
    ∧ ((logs .ready).ctx 0).inWindow 0xFFC0 = true ∧ (logs .ready).windowTrans 0 0xFFC0 .write ((logs .ready).wave 1).high = .ok 0xFFC0 1
    ∧ heldAtB (logs .ready) 0 0 0xFFC0 cleanCopy = true ∧ (logs .ready).accs = [] ∧ unloggedB (logs .ready) = true
    ∧ after .operandLogReissue (logs .ready) (fun t => (t.wave 1).log.isEmpty && t.byteAt 0xFFC0 == 7) = true := by decide +kernel

/-- A failed entry of a load into v8, and MEMFAULT's handler at 0x200. -/
def failing : State :=
  let s := { vectored 1 with mem := Memory.setList probe.mem 0x1030 (leBytes (2 ^ 62 + 0x200) 8) }
  let e := { logged .failed with unit := .ld hp { fM 4 with d := 8 } }
  setRegs { s with waves := [(1, { highWave with log := [(3, e)] })], arg := argNk 1 3 } [(8, 5)]

theorem witness_log_failed : failing.mayFail 1 ((fget (failing.wave 1).log 3).getD default) = true ∧ (failing.thread t0).st = .ready
    ∧ failing.modeOf t0 .memfault false = .inThread 0x200 ∧ loggedDest (.ld hp { fM 4 with d := 8 }) = (.vreg 8 1, [])
    ∧ skipsLogs (.ld hp { fM 4 with d := 8 }) = false ∧ loggedDest (.st hp (fM 4)) = (.none, [])
    ∧ after .oplogFailedDelivery failing (fun t => (t.thread t0).pc == 0x200 && (t.thread t0).tcause == 3 && (t.thread t0).taddr == 0xFFC0 && t.vreg t0 8 == 0) = true := by
  decide +kernel

end Sys2Proof.Tests
end

