-- ==== Sys2Proof/Tests/WitnessSystem.lean ====
section
/-! SUPPORT. Witnesses for the statements about translations, HALT, services, observation, accesses from outside, kills, losses and
pre-emption. -/

-- One theorem after another: each is evaluated by the kernel, and theorems that wait for one another in parallel each
-- hold a thread and its stack.
set_option Elab.async false

namespace Sys2Proof.Tests

open Sys2Proof Sys2Proof.Machine

/-! ## Translations and HALT -/

/-- Thread 0 at level H beside wave 4, whose handle is in s2; two translations of context 0 in core 0's TLB, of the pages 0x20000 and 0x30000; one page from
0x20000 on in s8 to s10. -/
def translated : State :=
  let e := fun (va : Nat) => ({ (default : TlbEntry) with ctx := 0, va := va, log := 16 } : TlbEntry)
  let s := { handler with cores := [(0, { handler.core 0 with tlb := [e 0x20000, e 0x30000] })], next := 9 }
  setUnis s [(8, 0x20000), (10, 1)]

/-- TLBINV of a range and of everything, and TLBSYNC. -/
def invOne : Instr := .tlbinv hp (fS (12 * 2 ^ 42 + 8 * 2 ^ 36 + 10 * 2 ^ 30))
def invAll : Instr := .tlbinv hp (fS (12 * 2 ^ 42 + 2 ^ 29))

theorem witness_tlb : translated.samplers = [] ∧ unloggedB translated = true
    ∧ ranB translated invOne (fun t => (t.core 0).tlb.map TlbEntry.va == [0x30000] && (t.wave 1).invs.length == 1) = true
    ∧ ranB translated invAll (fun t => (t.core 0).tlb.isEmpty) = true
    ∧ ranB translated (.tlbsync hp (fS 0)) (fun t => !t.stalled) = true
    ∧ (let old := { pendingStore with va := 0x20000 }
       let s := { translated with accs := [old], waves := fput translated.waves 1 { translated.wave 1 with invs := [(0, 0x20000, 0x30000, 9)] } }
       ranB s (.tlbsync hp (fS 0)) State.stalled = true) := by decide +kernel

theorem witness_halt_words : translated.handleOf 1 2 = some 4 ∧ (translated.wave 4).isSprout = false
    ∧ ranB translated (.haltHalt hp (fS (2 * 2 ^ 42))) (fun t => (t.wave 4).haltReq) = true
    ∧ ranB { translated with waves := fput translated.waves 4 { translated.wave 4 with halted := true } } (.haltRel hp (fS (2 * 2 ^ 42 + 2 ^ 40)))
        (fun t => !(t.wave 4).halted) = true
    ∧ ranB { translated with waves := fput translated.waves 4 { translated.wave 4 with halted := true } } (.haltStep hp (fS (2 * 2 ^ 42 + 2 * 2 ^ 40)))
        (fun t => (t.wave 4).stepping) = true := by decide +kernel

/-- Wave 1 is asked to halt, or steps; the bundle's mask is the event's operand. -/
def halting (req stepping queue : Bool) (k : Nat) : State :=
  let s := vectored 0
  let c := if queue then s.ctx 0 else { s.ctx 0 with fqb := [] }
  asked { s with waves := [(1, { placedWave with haltReq := req, stepping := stepping, halted := stepping })], ctxs := fput s.ctxs 0 c } (argNk 1 k)

/-- A saved wave is halted in its image. -/
theorem witness_halt_in_image : pictured.handleOf 1 2 = some 4 ∧ (pictured.wave 4).isSprout = false ∧ pictured.inImage 4 = true
    ∧ (pictured.wave 4).image = some 0x4000 ∧ unloggedB pictured = true ∧ (translated.wave 4).saved = false ∧ (translated.wave 4).image = none
    ∧ (let i : Instr := .haltHalt hp (fS (2 * 2 ^ 42))
       runsB (issuing pictured i) i (issueFor i) = true ∧ oneWaveB (issuing pictured i) i (issueFor i) 1 = true) := by decide +kernel

theorem witness_halt_effect : ((halting true false true 0).wave 1).retired = false ∧ ((halting true false true 0).wave 1).recd.late = 0
    ∧ ((halting false true true 1).wave 1).recd.late = 0 ∧ ((halting true false true 0).wave 1).stepped = 0
    ∧ after .haltEffect (halting true false true 0) (fun t => (t.wave 1).halted && !(t.wave 1).haltReq) = true
    ∧ (halting false true false 1).fqb 0 0 % 2 = 0 ∧ (halting false true true 1).fqb 0 0 % 2 = 1 ∧ (halting false true true 1).fqRoom 0 0 1 = true
    ∧ after .haltEffect (halting false true false 1) (fun t => (t.wave 1).halted && !(t.wave 1).stepping) = true
    ∧ after .haltEffect (halting false true true 1) (fun t => !(t.wave 1).stepping && t.peek 0xC000 8 == 1 && t.peek 0xC050 4 == 3 * 2 ^ 16) = true := by decide +kernel

/-! ## Services -/

/-- The block of a NONCE request stands at 0x1000 (s2), its answer goes to 0x2000; s4 names ticket 1, which is over with status 3, or ticket 2, which
waits. -/
def server (ticket : Word) : State :=
  let s := vectored 1
  let s := { s with mem := Memory.setList (Memory.setList (Memory.setList s.mem 0x1000 (leBytes 3 8)) 0x1018 (leBytes 0x2000 8)) 0x1020 (leBytes 32 8) }
  let s := { s with secDone := [{ ticket := 1, attest := true, status := 3 }], secReqs := [{ (default : SecReq) with ticket := 2, cmd := 3 }], secTicket := 3 }
  setUnis s [(2, 0x1000), (4, ticket)]

theorem witness_service_words : secBad ((server 1).peek 0x1000 64) = false ∧ (server 1).deadM = [] ∧ pinnableB (server 1) 0 ⟨0, 0x1000, 0, 1, 64, false⟩ = true
    ∧ pinnableB (server 1) 0 ⟨0, 0x2000, 0, 1, 32, true⟩ = true ∧ pinnableB (server 1) 0 ⟨0, 0x1000, 0, 1, 17184, true⟩ = true ∧ pinnableB (server 1) 0 ⟨0, 0x1040, 0, 1, 64, false⟩ = true
    ∧ ranB (server 1) (.idrd hp (fS (8 * 2 ^ 42 + 5))) (fun t => !t.stalled) = true
    ∧ ranB (server 1) (.seccall hp (fS (2 * 2 ^ 42 + 8 * 2 ^ 36))) (fun t => t.sreg 1 8 == 3 && t.secReqs.length == 2 && t.secTicket == 4) = true
    ∧ ranB (server 1) (.attest hp (fS (2 * 2 ^ 42 + 8 * 2 ^ 36))) (fun t => t.sreg 1 8 == 3 && (t.secReqs.map SecReq.attest) == [false, true]) = true
    ∧ ranB (server 1) (.secwait hp (fS (4 * 2 ^ 42 + 8 * 2 ^ 36 + 1))) (fun t => t.sreg 1 8 == 3 && !t.preg t0 1) = true
    ∧ ranB (server 9) (.secwait hp (fS (4 * 2 ^ 42 + 8 * 2 ^ 36 + 1))) (fun t => t.sreg 1 8 == 6) = true
    ∧ ranB (server 2) (.secwait hp (fS (4 * 2 ^ 42 + 8 * 2 ^ 36 + 1))) State.stalled = true := by decide +kernel

/-- A request at the head with its payload `p` at 0x1000 and its answer's place at 0x2000. -/
def served (attest : Bool) (cmd plen rlen p : Nat) : State :=
  let r := { (default : SecReq) with ticket := 1, attest := attest, cmd := cmd, paddr := 0x1000, plen := plen, raddr := 0x2000, rlen := rlen }
  { probe with mem := Memory.setList probe.mem 0x1000 (leBytes p 16), secReqs := [{ r with ppins := [(0, 0)], rpins := [(0, 0)] }] }

/-- The state and the head that a service statement speaks of. -/
def servedB (s : State) : Bool := unloggedB s && s.deadM.isEmpty && s.secReqs.all fun r => !r.bad && (List.range 40).all fun j => pinned r.rpins (0x2000 + j) == 0x2000 + j

theorem witness_services : [served false 3 0 32 0, served false 6 16 0 5, served false 6 16 0 4, served false 4 8 0 1, served false 4 8 0 0,
      served false 4 8 0 64, served false 5 16 0 (2 ^ 36), served false 5 16 0 (2 ^ 18 - 1), served true 0 0 0 0].all servedB = true
    ∧ (after .nonce (served false 3 0 32 0) fun t => t.secReqs.isEmpty) = true
    ∧ (after .mrext (served false 6 16 0 4) fun t => t.secDone.map SecDone.status == [1]) = true
    ∧ (after .keygen (served false 4 8 0 1) fun t => t.crypt.drawn == [1] && t.crypt.key 1 == 64) = true
    ∧ (after .keygen (served false 4 8 0 64) fun t => t.crypt.drawn.isEmpty) = true
    ∧ (after .keygen { served false 4 8 0 1 with lcs := 4 } fun t => t.secDone.map SecDone.status == [5]) = true
    ∧ (after .keymap (served false 5 16 0 (2 ^ 18 - 1)) fun t => t.secDone.map SecDone.status == [0] && t.crypt.frames.isEmpty) = true
    ∧ (served true 0 0 0 0).secReqs.all (fun r => r.attest) = true ∧ (List.range 8).all (fun m => (State.mrOf { probe with mr := [] } m).length == 48) = true := by
  decide +kernel

/-- A certificate chain of at most 32 bytes has room in such an answer. -/
theorem witness_cert : (served false 7 0 32 0).secReqs.all (fun r => r.cmd == 7 && r.plen == 0 && r.rlen == 32) = true
    ∧ (Config.certChain.length ≤ 32 → ∀ j, j < Config.certChain.length → pinned [(0, 0)] (0x2000 + j) = 0x2000 + j) := by
  refine ⟨by decide +kernel, fun h j hj => ?_⟩
  have hq : (0x2000 + j) / 65536 = 0 := by omega
  have hm : (0x2000 + j) % 65536 = 0x2000 + j := by omega
  unfold pinned
  rw [hq, hm]
  show fgetD [(0, 0)] 0 0 + (0x2000 + j) = 0x2000 + j
  have : fgetD ([(0, 0)] : FMap Nat) 0 0 = 0 := by decide
  omega

/-- Where its signature holds, a token's checks pass; whatever the signature, one of another layout fails. -/
theorem witness_tokens : (∀ l : List Byte, tokenLaid l = true → tokenSigned l = true → slice l 8 0x28 = (upto 0 4).flatMap (fun j => leBytes (probe.idItem j) 8) →
      leNat (slice l 0x50 0x51) = 2 → leNat (slice l 0x51 0x52) = 3 → leNat (slice l 0x28 0x48) = 9 →
      State.tokenStatus { probe with lcs := 2, nonce := some 9 } 1 l = 0)
    ∧ State.tokenStatus probe 1 [] = 1 := by
  refine ⟨fun l h1 h2 h3 h4 h5 h6 => ?_, by decide +kernel⟩
  have h3' : slice l 8 0x28 = (upto 0 4).flatMap fun j => leBytes (State.idItem { probe with lcs := 2, nonce := some 9 } j) 8 := h3
  simp only [State.tokenStatus, h1, h2, h4, h5, h6, ← h3', bne_self_eq_false]
  decide

/-! ## Observation -/

/-- Silo and context of the recording; RECMARK's value in s2, PERFRD's counter 0 of the core in s4, HISTRD's bin 63 of histogram 0 in s5. -/
def observed : State :=
  let s := setUnis (vectored 1) [(2, 7), (4, 0), (5, 63)]
  { s with hist := [(63, 5)], telRing := [9], ptb := 2000 }

theorem witness_observation : ranB observed (.recmark hp (fS (2 * 2 ^ 42 + 3))) (fun t => !t.stalled) = true
    ∧ ranB observed (.recst hp (fS (8 * 2 ^ 42))) (fun t => t.sreg 1 9 == 0) = true
    ∧ ranB observed (.ckptreq hp (fS (8 * 2 ^ 42))) (fun t => t.sreg 1 8 == 0xFFFFFFFF) = true
    ∧ ranB observed (.perfrd hp (fS (8 * 2 ^ 42 + 4 * 2 ^ 36))) (fun t => t.sreg 1 8 == 0) = true ∧ counterOk 0 = true
    ∧ ranB observed (.histrd hp (fS (8 * 2 ^ 42 + 5 * 2 ^ 36))) (fun t => t.sreg 1 8 == 5) = true
    ∧ ranB observed (.telrd hp (fS (8 * 2 ^ 42 + 1))) (fun t => t.sreg 1 8 == 9 && t.preg t0 1 && t.telRing.isEmpty) = true
    ∧ ranB { observed with telRing := [] } (.telrd hp (fS (8 * 2 ^ 42 + 1))) (fun t => t.sreg 1 8 == 0 && !t.preg t0 1) = true
    ∧ ranB observed (.sampstop hp (fS 0)) (fun t => t.samplers.isEmpty) = true := by decide +kernel

/-- The context is recorded. -/
def recorded : State := { observed with ctxs := fput observed.ctxs 0 { observed.ctx 0 with rctl := 1 } }

theorem witness_ckptreq : let i : Instr := .ckptreq hp (fS (8 * 2 ^ 42))
    mayRunB (issuing recorded i) i (issueFor i) = true ∧ oneWaveB (issuing recorded i) i (issueFor i) 1 = true ∧ recorded.recMode 0 = 1
      ∧ recorded.replays = [] ∧ (∀ x ∈ (issueFor i).threads, x.u = 1)
      ∧ after i (issuing recorded i) (fun t => t.sreg 1 8 == 1 && t.cutReq == [0] && (t.thread t0).st == .waiting (.service 0)) = true := by decide +kernel

/-- The context is in a domain of which this device is not the coordinator. -/
def domained : State := { recorded with ctxs := fput recorded.ctxs 0 { recorded.ctx 0 with rctl := 0x41 } }

theorem witness_recording_words :
    (let i : Instr := .recmark hp (fS (2 * 2 ^ 42 + 3))
     mayRunB (issuing recorded i) i (issueFor i) = true ∧ oneWaveB (issuing recorded i) i (issueFor i) 1 = true ∧ recorded.accs = []
      ∧ (recorded.silo 0 0).recs = [] ∧ (recorded.wave 1).recd.pend = []
      ∧ after i (issuing recorded i) (fun t => (t.silo 0 0).recs.length == 3 && (t.silo 0 0).recs.head? == some (BitVec.ofNat 128 (11 + 3 * 2 ^ 32 + 7 * 2 ^ 64))
          && (t.wave 1).recd.chunk == 1) = true)
    ∧ (let i : Instr := .ckptreq hp (fS (8 * 2 ^ 42 + 2 ^ 41))
       mayRunB (issuing domained i) i (issueFor i) = true ∧ oneWaveB (issuing domained i) i (issueFor i) 1 = true ∧ domained.recMode 0 = 1 ∧ domained.replays = []
        ∧ (domained.ctx 0).rctl.getLsbD 6 = true ∧ (domained.ctx 0).rctl.getLsbD 7 = false
        ∧ after i (issuing domained i) (fun t => t.domSent.map (fun m => (m.ctx, m.cut, m.dev)) == [(0, none, none)] && t.cutReq == [] && t.sreg 1 8 == 1
            && (t.thread t0).st == .waiting (.service 0)) = true) := by decide +kernel

/-- SAMPARM's block at 0x3000: a ring of 4 KiB at 0x4000, one counter, every 1,000 ticks. -/
def arming : State :=
  { observed with mem := Memory.setList (Memory.setList observed.mem 0x3000 (leBytes 0x4000 8)) 0x3008 (leBytes (1000 * 2 ^ 32 + 2 ^ 8) 8),
                  waves := (setUnis observed [(2, 0x3000)]).waves }

/-- A sampler with a row at hand. -/
def sampler : Sampler := { (default : Sampler) with ring := 0x4000, pins := [(0, 0)], ids := [0], int := 1000, last := 1000 }

theorem witness_samplers : armBad ((List.range 4).foldl (fun v j => v + arming.peek (0x3000 + 64 * j) 64 * 2 ^ (512 * j)) 0) = false
    ∧ pinnableB arming 1 ⟨0, 0x3000, 0, 1, 256, false⟩ = true ∧ pinnableB arming 1 ⟨0, 0x4000, 0, 1, 4096, true⟩ = true
    ∧ fget arming.samplers 0 = none ∧ ranB arming (.samparm hp (fS (2 * 2 ^ 42))) (fun t => t.samplers.map (fun e => e.2.int) == [1000]) = true
    ∧ ranB { observed with samplers := [(0, sampler)] } (.sampstop hp (fS 0)) (fun t => t.samplers.isEmpty && t.peek 0x4010 8 == 4) = true
    ∧ 0 < sampler.rows ∧ sampler.rowBytes = 64 ∧ sampler.ringBytes = 4096 ∧ sampler.last + sampler.int ≤ observed.ptb
    ∧ after .samplerRow (asked { observed with samplers := [(0, sampler)] } (argN 0)) (fun t => t.peek 0x4000 8 == 1 && t.peek 0x4040 8 == 2000) = true
    ∧ after .samplerRow (asked { observed with samplers := [(0, sampler)], mem := Memory.setList observed.mem 0x4000 (leBytes 63 8) } (argN 0))
        (fun t => t.peek 0x4000 8 == 63 && t.peek 0x4018 8 == 1) = true := by decide +kernel

/-! ## Accesses from outside, kills and losses -/

/-- A marker after the accesses below 4, at which thread 0 waits. -/
def aMark : FenceMark := { threads := [(t0, none)], locks := [], upto := 4, since := 0 }

/-- A store, or a load, that is on its way to device 1. -/
def remote (kind : AccKind) : Access := { (default : Access) with id := 3, t := t0, kind := kind, pa := 2 ^ 51 + 2 ^ 45, n := 4, st := .remote }

/-- The operands of an access from outside: an address, device 1, bytes and an atomic's number. -/
def outside (at_ : Nat) (bytes : List Byte) (v : BitVec 64) : State := asked probe { argN at_ with m := 1, bytes := bytes, v := v }

theorem witness_outside : (remote .store).isRead = false ∧ (remote (.load true)).isRead = true
    ∧ after .fenceMarkerAnswer (asked { probe with accs := [remote .store] } (argN 3)) (fun t => t.accs.isEmpty) = true
    ∧ after .fenceMarkerAnswer (asked { probe with accs := [remote .store] } (argN 2)) (fun t => t.accs.length == 1) = true
    ∧ after .fabto (asked { probe with accs := [remote .store], fenceMarks := [aMark], ptb := 100000 } (argN 3))
        (fun t => t.posts.map Post.event == ["FABTO"] && (t.thread t0).past == 4 && t.fenceMarks.isEmpty && t.accs.length == 1) = true
    ∧ after .fabto (asked { probe with accs := [remote .store], fenceMarks := [aMark], ptb := 99999 } (argN 3)) (fun t => t.posts.isEmpty && t.accs.length == 1) = true
    ∧ after .fabricErrorPath (asked { probe with accs := [remote (.load true)] } (argN 3)) (fun t => t.accs.map Access.st == [.poisoned false true]) = true
    ∧ after .fabricErrorPath (asked { probe with accs := [remote .store] } (argN 3)) (fun t => t.posts.map Post.datum == [1] && t.accs.map Access.st == [.poisoned true true]) = true
    ∧ after .fabricErrorPath (asked { probe with outbound := [message 1] } (argN 3)) (fun t => t.outbound.isEmpty && (t.ctx 0).msgerr == 1) = true
    ∧ after .apertureAccessArrival (outside 0x1004 [] 0) (fun t => t.homeOps.length == 1) = true
    ∧ after .apertureAccessArrival (outside 0x103F [1] 0) (fun t => t.homeOps.map HomeReq.pa == [0x103F]) = true
    ∧ after .apertureAccessArrival (outside 0x1004 [1, 0, 0, 0] 33) (fun t => t.homeOps.length == 1) = true
    ∧ after .apertureAccessArrival (outside (2 ^ 44) [] 0) (fun t => t.homeOps.isEmpty) = true
    ∧ after .hostCxlMemRead (outside 0x1004 [] 0) (fun t => t.homeOps.length == 1) = true
    ∧ after .hostCxlMemWrite (outside 0x103E [1, 2] 0) (fun t => t.homeOps.length == 1) = true := by decide +kernel

/-- Wave 4 of block 2 belongs to context 1, and to core 40. -/
def twoContexts : State :=
  { probe with waves := [(1, placedWave), (4, { placedWave with ctx := 1, block := 2, core := 40 })],
               blocks := [(1, placedBlock), (2, { placedBlock with ctx := 1, core := 40 })] }

theorem witness_kills : unloggedB twoContexts = true
    ∧ after .ctxctlKill (asked twoContexts (argN 0)) (fun t => t.waves.map Prod.fst == [4] && (t.ctx 0).ctxctl == 4) = true
    ∧ after .dieLost (asked twoContexts (argNk 2 0x80)) (fun t => t.waves.map Prod.fst == [1] && t.deadDies == [1] && t.deadM == [7]) = true := by decide +kernel

/-! ## Pre-emption -/

/-- Wave 1's thread stands ready; PREEMPT's handler is at 0x300 or missing, the save area has this size, and PST is this. -/
def context (handler : Bool) (size pst : Nat) : State :=
  let m := if handler then Memory.setList probe.mem 0x10B0 (leBytes (2 ^ 62 + 0x300) 8) else probe.mem
  let c := { probe.ctx 0 with tvb := 0x1001, psa := BitVec.ofNat 64 (0x20000 + size), pst := pst }
  asked { probe with mem := m, ctxs := fput probe.ctxs 0 c, ptb := 200000 } (argN 0)

theorem witness_pre : unloggedB (context true 16 0) = true ∧ (context true 16 0).imageUnits 0 = 12 ∧ (context true 16 0).unitsOf 0 = [1]
    ∧ ((context true 16 0).wave 1).live = [0] ∧ (context true 16 0).savedWhole 1 = false ∧ (context false 16 0).savedWhole 1 = true
    ∧ after .pctlPre (context true 16 0) (fun t => (t.ctx 0).pst == 1 && (t.thread t0).async == [preemptAsync 0]) = true
    ∧ after .pctlPre (context false 12 0) (fun t => (t.wave 1).stop == 5) = true
    ∧ after .pctlPre (context true 11 0) (fun t => (t.ctx 0).pst == 4) = true
    ∧ after .pctlPre (context true 16 2) (fun t => (t.ctx 0).pst == 2) = true := by decide +kernel

/-- PREEMPT is pending for the thread. -/
def pending (handler : Bool) : State :=
  { (context handler 16 1).modThread t0 fun th => { th with async := [preemptAsync 0] } with arg := argT t0 }

theorem witness_preempt : (pending true).noHandler 1 = false ∧ (pending false).noHandler 1 = true ∧ (pending true).chain = none
    ∧ (pending true).asyncDue t0 ((pending true).chainAt t0) = some (preemptAsync 0) ∧ (pending true).modeOf t0 .preempt false = .inThread 0x300
    ∧ after .preempt (pending true) (fun t => (t.thread t0).pc == 0x300 && (t.thread t0).inhPre && (t.thread t0).tcause == 11) = true
    ∧ after .preempt (pending false) (fun t => (t.wave 1).stop == 5) = true
    ∧ after .forcedSave (context true 16 1) (fun t => (t.wave 1).stop == 4) = true
    ∧ after .forcedSave { context true 16 1 with ptb := 99999 } (fun t => (t.wave 1).stop == 0) = true := by decide +kernel

/-- The wave has stopped whole. -/
def stopped : State := { context true 16 1 with waves := [(1, { placedWave with stop := 4 })] }

/-- The context is saved, and resuming. -/
def resuming (saved : Bool) : State :=
  let s := context true 16 3
  let w := { placedWave with stop := 4, saved := saved }
  { s with waves := [(1, w)], blocks := [(1, { placedBlock with acc := 4, saved := saved, part := 0x000000A004041008 })], cores := [(5, { s.core 5 with part := 0x000000A004041008 })],
           arg := argNk 0 5 }

set_option maxRecDepth 100000 in
theorem witness_save_and_resume : stopped.mayBeSaved 0 = true ∧ (context true 16 1).mayBeSaved 0 = false ∧ fsorted stopped.waves = true
    ∧ after .pctlRes (context true 16 2) (fun t => (t.ctx 0).pst == 3) = true
    ∧ after .presumed (resuming false) (fun t => (t.ctx 0).pst == 0 && t.posts.map Post.event == ["PRESUMED"]) = true := by decide +kernel

set_option maxRecDepth 100000 in
theorem witness_blocks_return : (resuming true).blocksOf 0 = [1] ∧ ((resuming true).block 1).saved = true ∧ (resuming true).isCl4 1 = false
    ∧ (resuming true).fitsBack 1 5 = true
    ∧ after .presumed (resuming true) (fun t => (t.ctx 0).pst == 0 && (t.block 1).core == 5 && (t.wave 1).core == 5 && !(t.wave 1).saved) = true := by decide +kernel

/-- The wave stands in the image at 0x4000, with 9 in s2 and 6 in v2 of thread 0. -/
def imaged : State :=
  let s := resuming true
  { s with waves := [(1, { s.wave 1 with image := some 0x4000 })], mem := Memory.setList (Memory.setList s.mem 0x4208 (leBytes 9 4)) 0x9600 (leBytes 6 4) }

set_option maxRecDepth 100000 in
theorem witness_images_return : imaged.blocksOf 0 = [1] ∧ imaged.fitsBack 1 5 = true ∧ (imaged.wave 1).image = some 0x4000
    ∧ after .presumed imaged (fun t => (t.ctx 0).pst == 0 && t.sreg 1 2 == 9 && t.vreg t0 2 == 6) = true := by decide +kernel

end Sys2Proof.Tests
end

