-- ==== Sys2Proof/Tests/WitnessWork.lean ====
section
/-! SUPPORT. Witnesses for the statements about sprouts, teams, launches and blocks. -/

-- One theorem after another: each is evaluated by the kernel, and theorems that wait for one another in parallel each
-- hold a thread and its stack.
set_option Elab.async false

namespace Sys2Proof.Tests

open Sys2Proof Sys2Proof.Machine

/-! ## Sprout requests -/

/-- Sources at 0x1000 (s2), 128 bytes (s6) or two rows of two bursts (s7), pitch 128 (s8), handler 0x200 (s10), barrier object at 0x2000
(s12), SPRX's block from s16 on: handler 0x200, object; thread 0's address 0x1000 in v2 and v3. -/
def sprouter : State :=
  setRegs (setUnis probe [(2, 0x1000), (6, 128), (7, 0x00010001), (8, 128), (10, 0x200), (12, 0x2000), (16, 0x200), (18, 0x2000)]) [(2, 0x1000)]

/-- A request's hypotheses, and that it is accepted with these bursts. -/
def requestB (i : Instr) (plan : State → Option SpPlan) (total out : Nat) : Bool :=
  let s := issuing sprouter i
  match plan s with
  | some p => (firstEng (s.sprChecks 1 p)).isNone && (p.src ++ p.stampRng).all (pinnableB s 0) && (s.actives i (issueFor i)).all (fun x => s.allDone x 6)
      && decide ((s.sprReqs.filter fun r => r.core == 0).length < 32) && total != 0
      && ranB sprouter i fun t => t.sprReqs.map SprReq.total == [total] && t.sreg 1 out == 0 && (t.block 1).nextReq == 1
  | none => false

/-- SPRX of thread 0. -/
def sprx : FmtM := { d := 16, ar := 2, b := 244, w := false, ua := false, sz := 4, off := 0 }

theorem witness_sprout_requests :
    (let f := fX 2 6 10 0 12 20 0x400
     requestB (.sprd hp f) (fun s => some (planSprd f 0 (s.sprRegs 1 (.sprd hp f)))) 2 20 = true)
      ∧ (let f := fX 2 7 10 8 0 20 0
         requestB (.sprd2 hp f) (fun s => some (planSprd f 1 (s.sprRegs 1 (.sprd2 hp f)))) 4 20 = true)
      ∧ requestB (.sprx hp sprx) (fun s =>
          some (planSprx sprx ⟨1, [(t0, s.memLane (memBase hp sprx 0 64 .store) t0)], s.sprRegs 1 (.sprx hp sprx), [], 0, 8⟩)) 1 19 = true := by
  decide +kernel

/-- Request 0 of block 1, of two bursts, with these yet to be read, born and ended. -/
def request (left : List (Nat × Nat)) (born ended : Nat) : SprReq :=
  let r := { (default : SprReq) with id := 5, u := 1, block := 1, n := 0, pc := 0x200, src := 0x1000, rowBursts := 2, pins := [(0, 0)], regs := [(0, 9)] }
  { r with total := 2, left := left, born := born, ended := ended }

theorem witness_sprout_control : ranB probe (.spctx hp (fX 8 0 0 0 0 0 0)) (fun t => fgetD (t.wave 1).spctx 7 0 == t.sreg 1 15) = true
    ∧ ranB probe (.spwait hp (fX 8 0 0 0 0 0 1)) (fun t => t.preg t0 1) = true
    ∧ ranB { probe with sprReqs := [request [] 2 1] } (.spwait hp (fX 8 0 0 0 0 0 1)) State.stalled = true
    ∧ ranB { probe with sprDone := [{ block := 1, n := 0, err := true, cancelled := false, born := 2 }] } (.spqry hp (fX 8 9 0 0 0 0 0))
        (fun t => t.sreg 1 9 == 0x40000002) = true
    ∧ ranB { probe with sprReqs := [request [] 2 1] } (.spqry hp (fX 8 9 0 0 0 0 0)) (fun t => t.sreg 1 9 == 0x80000002) = true
    ∧ ranB probe (.spcan hp (fX 8 9 0 0 0 0 8)) (fun t => t.sreg 1 9 == 0) = true
    ∧ ranB { probe with sprReqs := [request [(1, 2)] 1 0] } (.spcan hp (fX 8 9 0 0 0 0 8)) (fun t => t.sreg 1 9 == 1 && t.sprReqs.all SprReq.cancelled) = true := by
  decide +kernel

/-- A sprout thread as wave 4. -/
def sproutWave (ended : Bool) : Wave :=
  { placedWave with width := 1, sprout := some { (default : SproutInfo) with req := 0, ended := ended } }

theorem witness_spend :
    let s := { probe with waves := [(1, sproutWave false)] }
    runsB (issuing s (.spend hp (fS 0))) (.spend hp (fS 0)) (issueFor (.spend hp (fS 0))) = true ∧ (s.thread t0).st = .ready
      ∧ after (.spend hp (fS 0)) (issuing s (.spend hp (fS 0))) (fun t => (t.thread t0).st == .exited) = true := by decide +kernel

/-- A burst of it arrives: there is a frame, or none and room in the buffer. -/
def arriving (frames : Nat) (part : Dword) : State :=
  let s := asked { probe with sprReqs := [request [(1, 2)] 1 0], mem := Memory.setList probe.mem 0x1040 (leBytes 7 4) } (argNk 5 1)
  let s := s.setBlock 1 { s.block 1 with sprouts := frames }
  { s with cores := [(0, { s.core 0 with part := part })], next := 9 }

theorem witness_bursts : unloggedB (arriving 16 0) = true ∧ unloggedB (arriving 0 0x02000000) = true ∧ (arriving 16 0).birthsStop 0 = false
    ∧ (arriving 16 0).sproutsOf 1 < ((arriving 16 0).block 1).sprouts ∧ ((arriving 16 0).engRead (pinned [(0, 0)] 0x1040) 64).2 = false
    ∧ fget (arriving 16 0).waves 9 = none ∧ 0 < (arriving 0 0x02000000).sprBufSize 0
    ∧ after .burstArrival (arriving 16 0) (fun t => (t.wave 9).isSprout && t.vreg ⟨9, 0⟩ 0 == 7 && t.sreg 9 0 == 9 && (t.thread ⟨9, 0⟩).pc == 0x200) = true
    ∧ after .burstArrival (arriving 0 0x02000000) (fun t => t.sprBuf.map Burst.ordinal == [1] && t.waves.length == 1) = true := by decide +kernel

theorem witness_sprout_end :
    let s := fun (born : Nat) => asked { probe with waves := [(1, placedWave), (4, sproutWave true)], sprReqs := [request [] born 1] } (argN 4)
    unloggedB (s 2) = true ∧ ((s 2).wave 4).saved = false ∧ ((s 2).wave 4).log = [] ∧ (s 2).accs = []
      ∧ after .sproutEnd (s 2) (fun t => (fget t.waves 4).isNone && t.sprReqs.isEmpty && t.sprDone.length == 1) = true
      ∧ after .sproutEnd (s 3) (fun t => (fget t.waves 4).isNone && t.sprReqs.map SprReq.ended == [2]) = true := by decide +kernel

/-! ## Teams -/

/-- Team `n` of block 1, of these waves, at phase 5. -/
def team (members arrived : List Nat) (period : Nat) (since : Option Nat) : Team :=
  { core := 0, block := 1, members := members, ph := 5, arrived := arrived, wdPeriod := period, wdSince := since, wdWait := since }

/-- Block 1's team 2, and its team of all waves, whose state is this; wave 4 waits at the first. -/
def teamed (t : Team) : State :=
  let w := { placedWave with threads := [(0, { placedThread with st := .waiting (.team 34 5) })] }
  setUnis { probe with waves := [(1, placedWave), (4, w)], teams := [(34, t), (48, t)] } [(8, 5), (9, 4), (10, 0x00004040)]

theorem witness_team_words :
    let two := teamed (team [1, 4] [] 0 none)
    let last := teamed (team [1, 4] [4] 0 none)
    let alone := teamed (team [1] [] 0 none)
    ranB two (.tbar hp (fX 0 0 0 0 0 0 0x100)) (fun t => (t.thread t0).st == .waiting (.team 34 5) && (fget t.teams 34).map Team.arrived == some [1]) = true
      ∧ ranB last (.tbar hp (fX 0 0 0 0 0 0 0x100)) (fun t => (t.thread t0).st == .ready && (t.thread ⟨4, 0⟩).st == .ready
          && (fget t.teams 34).map Team.ph == some 6) = true
      ∧ ranB two (.tarr hp (fX 20 0 0 0 0 0 0x100)) (fun t => t.sreg 1 20 == 5 && (t.thread t0).st == .ready) = true
      ∧ ranB two (.twait hp (fX 8 0 0 0 0 0 0x100)) (fun t => (t.thread t0).st == .waiting (.team 34 5)) = true
      ∧ ranB two (.twait hp (fX 9 0 0 0 0 0 0x100)) (fun t => (t.thread t0).st == .ready) = true
      ∧ ranB last (.tqry hp (fX 20 9 0 0 0 0 0x140)) (fun t => t.sreg 1 20 == 0x00050420 && (fget t.teams 34).map Team.wdPeriod == some 4) = true
      ∧ ranB two (.reshape hp (fX 20 10 0 0 0 0 0)) (fun t => (t.wave 1).reshape == some (20, 0x4040) && (t.thread t0).st == .waiting (.team 48 5)) = true
      ∧ ranB alone (.reshape hp (fX 20 10 0 0 0 0 0)) (fun t => (t.block 1).acc == 1 && (t.block 1).scratch == 16384) = true
      ∧ ranB { alone with copies := [oneUnit 1 1 none] } (.reshape hp (fX 20 10 0 0 0 0 0)) (fun t => t.sreg 1 20 == 2) = true
      ∧ (alone.wave 1).reshape = none ∧ alone.isCl4 1 = false ∧ alone.blockBusy 1 = false ∧ (alone.reshapePart 1 0x4040).isSome = true := by decide +kernel

/-- Wave 1 waits at team 34, whose watchdog's state is this. -/
def watched (period : Nat) (since : Option Nat) : State :=
  let s := inState probe (.waiting (.team 34 5))
  asked { s with teams := [(34, team [1] [1] period since)], ptb := 100, waves := [(1, { s.wave 1 with tbar := [(34, 5)] })] } (argN 34)

theorem witness_watchdog : ((watched 50 (some 50)).thread t0).st = .waiting (.team 34 5) ∧ ((watched 50 (some 50)).wave 1).live = [0]
    ∧ after .teamWatchdogCheck (watched 50 (some 50)) (fun t => (t.thread t0).st == .ready && (t.thread t0).async.map Async.cause == [.watchdog]
        && (fget t.teams 34).map Team.wdPeriod == some 0 && (fget t.teams 34).map Team.arrived == some []) = true
    ∧ after .teamWatchdogCheck (watched 50 none) (fun t => (fget t.teams 34).map Team.wdSince == some (some 100)) = true
    ∧ after .teamWatchdogCheck (watched 0 none) (fun t => (t.thread t0).st == .waiting (.team 34 5)) = true := by decide +kernel

/-! ## Launches -/

/-- A record of one block of one wave of width 8, kernel at 0x100. -/
def record : Nat :=
  0x100 + 0x000000A004041008 * 2 ^ 64 + 0x0100000100010001 * 2 ^ 192 + 0x40000000 * 2 ^ 256

/-- Queue 3 of context 0 with this control word, its ring of two slots at 0x8000, its completion ring of one entry at 0x9000; the record stands
at 0x1000 and in slot 0. -/
def queueing (ctl : Dword) (tail : Nat) (r : Nat) : State :=
  let q : Queue := { (default : Queue) with base := 0x8000, ctl := ctl, tail := tail, cb := 0x9000 }
  let s := setUnis probe [(2, 0x1000), (4, 3)]
  let s := { s with mem := Memory.setList (Memory.setList s.mem 0x1000 (leBytes r 256)) 0x8000 (leBytes r 256), queues := [(3, q)] }
  { s with ctxs := fput s.ctxs 0 { s.ctx 0 with ctxctl := 1 }, next := 20, deadDies := [] }

/-- A launch of it. -/
def launch (ready : Bool) (left : List (Nat × Nat × Nat)) : Launch :=
  { (default : Launch) with id := 6, q := 3, ticket := 3 * 2 ^ 48, record := record, deps := if ready then [] else [2], ready := ready, left := left }

theorem witness_launch :
    let s := queueing 0x3001 0 record
    (s.ctx 0).inWindow 0 = true ∧ s.windowTrans 0 0 .read (s.wave 1).high = .ok 0 1 ∧ (s.queue 3).devq = true ∧ (s.queue 3).en = true
      ∧ (s.queue 3).ctx = 0 ∧ (s.queue 3).waiting < (s.queue 3).slots ∧ s.deadM = []
      ∧ ranB s (.launch hp (fX 20 2 4 0 0 0 0)) (fun t => (t.queue 3).tail == 1 && t.sreg 1 21 == 0x30000) = true := by decide +kernel

theorem witness_lwait :
    let s := setUnis (queueing 0x3001 0 record) [(20, 0), (21, 0x30000)]
    let done := fun n => { s with queues := fput s.queues 3 { s.queue 3 with done := [(3 * 2 ^ 48, n)] } }
    s.ticketOf (3 * 2 ^ 48) = .unknown ∧ (done 1).ticketOf (3 * 2 ^ 48) = .done 1 ∧ { s with launches := [launch true []] }.ticketOf (3 * 2 ^ 48) = .waiting
      ∧ ranB s (.lwait hp (fX 20 22 0 0 0 0 9)) (fun t => t.preg t0 1 && t.sreg 1 22 == 0) = true
      ∧ ranB (done 1) (.lwait hp (fX 20 22 0 0 0 0 9)) (fun t => !t.preg t0 1 && t.sreg 1 22 == 1) = true
      ∧ ranB { s with launches := [launch true []] } (.lwait hp (fX 20 22 0 0 0 0 9)) State.stalled = true := by decide +kernel

theorem witness_fetch :
    let s := asked (queueing 0x1001 1 record) (argNk 3 1)
    let b := asked (queueing 0x1001 1 (record + 1)) (argNk 3 1)
    unloggedB s = true ∧ s.mayFetch 3 = true ∧ recRefusal record (s.levelH 0) = none ∧ (∀ x ∈ recRanges record, x.2.2 ∉ s.deadDies)
      ∧ recRefusal (record + 1) (b.levelH 0) = some 1 ∧ (b.queue 3).done = []
      ∧ after .queueFetch s (fun t => t.launches.map Launch.record == [record] && (t.queue 3).head == 1) = true
      ∧ after .queueFetch b (fun t => (t.queue 3).done == [(3 * 2 ^ 48, 1)]) = true
      ∧ after .qtailDoorbell (asked s (argNk 3 2)) (fun t => (t.queue 3).tail == 2) = true
      ∧ after .qtailDoorbell (asked s (argNk 3 3)) (fun t => (t.queue 3).tail == 1) = true
      ∧ after .qtailDoorbell (asked (queueing 0x2001 0 record) (argNk 3 1)) (fun t => (t.queue 3).tail == 0) = true := by decide +kernel

theorem witness_dispatch :
    let s := asked { queueing 0x1001 1 record with launches := [launch true [(0, 1, 0)]], waves := [], blocks := [] } (argNk 6 5)
    unloggedB s = true ∧ recCl4 record = false ∧ (launch true [(0, 1, 0)]).firstOn (dieOf (5 % 160)) = some 0 ∧ s.mayPlace (launch true [(0, 1, 0)]) 5 = true
      ∧ after .blockDispatch s (fun t => (t.block 20).core == 5 && (t.wave 21).width == 8 && (t.thread ⟨21, 7⟩).pc == 0x100) = true
      ∧ after .launchReady (asked { s with launches := [launch false []] } (argN 6)) (fun t => t.launches.all Launch.ready) = true := by decide +kernel

theorem witness_ends :
    let s := asked { queueing 0x1001 1 record with waves := [] } (argN 1)
    let ended := s.setBlock 1 { s.block 1 with ended := true }
    let l := asked { s with blocks := [], launches := [launch true []] } (argN 6)
    ended.blockOver 1 = true ∧ ended.isCl4 1 = false ∧ s.blockOver 1 = false ∧ l.launchOver (launch true []) = true ∧ l.recMode 0 ≠ 2 ∧ (l.queue 3).done = []
      ∧ after .blockSlotFree ended (fun t => t.blocks.isEmpty) = true ∧ after .blockSlotFree s (fun t => t.blocks.length == 1) = true
      ∧ after .launchComplete l (fun t => t.launches.isEmpty && (t.queue 3).pend.length == 1 && t.posts.isEmpty) = true := by decide +kernel

theorem witness_completion :
    let s := asked (queueing 0x1001 1 record) (argN 3)
    let p := fun cp => { s with queues := fput s.queues 3 { s.queue 3 with pend := [7], cp := cp } }
    (p 0).deadM = [] ∧ ((p 0).queue 3).compSlots = 1 ∧ after .completionEntryWrite (p 0) (fun t => (t.queue 3).pend.isEmpty && t.byteAt 0x9000 == 7 && t.posts.map Post.event == ["LAUNCH"]) = true
      ∧ after .completionEntryWrite (p 1) (fun t => (t.queue 3).pend.length == 1) = true := by decide +kernel

end Sys2Proof.Tests
end

