-- ==== Sys2Proof/Tests/WitnessRecord.lean ====
section
/-! SUPPORT. Witnesses for the statements about recording, replay, the package's services, the step and the causes that come before
a word's own. -/

-- One theorem after another: each is evaluated by the kernel, and theorems that wait for one another in parallel each
-- hold a thread and its stack.
set_option Elab.async false

namespace Sys2Proof.Tests

open Sys2Proof Sys2Proof.Machine

/-! ## Recording -/

/-- Two valid entries of a silo table, each a ring of 16,384 segments from 0x10000 on, in a sector that a die holds. -/
def siloSector : L2Copy := { dirtyCopy with data := BitVec.ofNat 512 ((2 ^ 63 + 0x10001) * (1 + 2 ^ 256)) }

/-- Context 0's silo table at 0x5000 has a valid ring for each silo, and its checkpoint store `store` units. -/
def siloed (store : Nat) : State :=
  asked { probe with l2 := (upto 0x140 21).map fun x => (x, siloSector),
                     ctxs := [(0, { CtxRegs.reset with hwb := 15, hwl := 0x10000, silot := 0x5001, cksb := BitVec.ofNat 64 store })], ptb := 100000 } (argN 0)

/-- The context is being recorded, and its first cut is asked for. -/
def started : State :=
  { siloed 1 with ctxs := [(0, { (siloed 1).ctx 0 with rctl := 1 })], cutReq := [0], waves := [], blocks := [] }

/-- The recording after its first cut, with wave 1. -/
def recordingWave : State :=
  { siloed 1 with ctxs := [(0, { (siloed 1).ctx 0 with rctl := 1 })], ckpts := [(0, { (default : Ckpt) with segs := (upto 0 41).map fun k => (k, 0), tick := 100000 })],
                  silos := [(40, { (default : Silo) with recs := [cutRecord 0 100000], opened := 100000 })] }
/-- The same without a wave. -/
def recordingNow : State := { recordingWave with waves := [], blocks := [] }

theorem witness_mode : (siloed 1).recMode 0 = 0 ∧ (siloed 1).mayRecord 0 = true ∧ (siloed 0).mayRecord 0 = false
    ∧ after .rctlModeRecord (siloed 0) (fun t => t.posts.map Post.event == ["RECFAIL"] && t.recMode 0 == 0) = true
    ∧ after .rctlModeRecord (siloed 1) (fun t => t.recMode 0 == 1 && t.cutReq == [0]) = true := by decide +kernel

theorem witness_first_cut : started.recMode 0 = 1 ∧ started.cutReady 0 = true ∧ started.recOff = [] ∧ started.ckpts = [] ∧ started.waves = []
    ∧ after .cut started (fun t => t.ckCur 0 == 0 && (t.silo 0 40).recs == [cutRecord 0 100000] && t.cutReq == []) = true := by decide +kernel

theorem witness_end_of_recording : recordingNow.recMode 0 = 1 ∧ recordingNow.cutReady 0 = true
    ∧ after .clockForcedCheckpoint recordingNow (fun t => t.cutReq == [0]) = true
    ∧ after .rctlModeOff recordingNow (fun t => t.recOff == [0] && t.cutReq == [0]) = true
    ∧ after .cut { recordingNow with recOff := [0], silos := [] } (fun t => t.recMode 0 == 0 && t.recOff.isEmpty) = true := by decide +kernel

theorem witness_cuts : recordingWave.cutReady 0 = true ∧ recordingWave.recOff = [] ∧ (fget recordingWave.ckpts 0).isSome = true ∧ recordingWave.ckCur 0 = 0
    ∧ { recordingWave with accs := [pendingStore] }.cutReady 0 = false
    ∧ after .cut { recordingWave with accs := [pendingStore] } (fun t => t.cutReq == [0]) = true
    ∧ after .cut { recordingWave with silos := [], waves := [(1, { placedWave with recd := { placedWave.recd with clock := 7, rsig := 1 } })] }
        (fun t => t.ckCur 0 == 1 && (t.wave 1).recd.clock == 0 && (t.wave 1).recd.rsig == 0 && (t.silo 0 0).recs == [cutRecord 1 100000]) = true := by decide +kernel

set_option maxRecDepth 100000 in
theorem witness_undo_and_segments : (recordingNow.target 0x10000).1 = .hbm
    ∧ after .undoCopy { recordingNow with arg := argNk 0 0x10000 } (fun t => (fget t.ckpts 0).any fun k => (fget k.undo 0x10000).isSome) = true
    ∧ (let o := recordingNow.silo 0 40
       o.held = false ∧ o.opened + 100000 ≤ 200000 ∧ o.wseg - o.rseg ≠ siloCap (recordingNow.siloEntry 0 40) ∧ (segment o.recs o.wseg 0 200000).length = 4096)
    ∧ after .segmentCloseTimeout { recordingNow with arg := argNk 0 40, ptb := 200000 } (fun t => (t.silo 0 40).wseg == 1 && t.peek 0x10000 4 == 0x5345474B) = true := by
  decide +kernel

theorem witness_markers :
    let s := { recordingNow with ctxs := fput recordingNow.ctxs 0 { recordingNow.ctx 0 with rctl := 0x41 } }
    let at_ := fun (m : Nat) => { s with arg := { argNk 0 5 with m := m } }
    (s.ctx 0).rctl.getLsbD 6 = true ∧ s.ckCur 0 < 1 ∧ 0 ≤ s.ckCur 0 ∧ s.markers = [] ∧ s.probes = []
      ∧ after .domainCutMarker (at_ 1) (fun t => t.cutReq == [0] && t.markers == [4101]) = true
      ∧ after .domainCutMarker (at_ 0) (fun t => t.markers == [5]) = true := by decide +kernel

/-- A probe of sector 9 by another core's store; wave 1's unit has read it, reads it in a bundle that has not retired, or does not. -/
def probed (old new : Bool) : State :=
  let sig := fun (on : Bool) => if on then (BitVec.allOnes 512 : BitVec 512) else 0
  let w := { placedWave with recd := { placedWave.recd with rsig := sig old, newR := sig new } }
  { recordingWave with waves := [(1, w)], probes := [{ x := 9, core := 0, ctx := 0, write := true }] }

theorem witness_conflict_probe :
    (∀ b, (probed b b).recMode 0 = 1 ∧ fsorted (probed b b).waves = true ∧ (probed b b).issuing 1 = false ∧ ((probed b b).wave 1).retired = false)
      ∧ ((probed true false).wave 1).recd.hitOld (recXMem 576) true = true ∧ ((probed false true).wave 1).recd.hitOld (recXMem 576) true = false
      ∧ ((probed false true).wave 1).recd.hitNew (recXMem 576) true = true ∧ ((probed false false).wave 1).recd.conflicts (recXMem 576) true = false
      ∧ after .conflictProbe (probed true false) (fun t => (t.wave 1).recd.chunk == 1 && (t.wave 1).recd.rsig == 0 && t.probes.isEmpty) = true
      ∧ after .conflictProbe (probed false true) (fun t => (t.wave 1).recd.chunk == 0 && (t.wave 1).recd.close == flgConf) = true
      ∧ after .conflictProbe (probed false false) (fun t => (t.wave 1).recd.chunk == 0 && t.probes.isEmpty) = true := by decide +kernel

/-- The recording of a context of a domain, with device 1. -/
def inDomain : State :=
  { recordingNow with silos := [], cutReq := [0], reach := [0, 1], ctxs := fput recordingNow.ctxs 0 { recordingNow.ctx 0 with rctl := 0x41 } }

theorem witness_cut_in_domain : inDomain.cutReady 0 = true ∧ inDomain.recOff = [] ∧ (inDomain.ctx 0).rctl.getLsbD 6 = true ∧ inDomain.recMode 0 = 1
    ∧ inDomain.devid = 0 ∧ after .cut inDomain (fun t => t.domSent.map (fun m => (m.ctx, m.dev, m.cut)) == [(0, some 1, some 1)]) = true := by decide +kernel

/-! ## Replay -/

/-- A block with its partition of the core. -/
def shapedBlock : Block := { placedBlock with acc := 4, part := 0x000000A004041008 }

/-- A recording of wave 1 that has ended has left checkpoint 0. -/
def replayable : State :=
  { siloed 1 with ckpts := [(0, { (default : Ckpt) with waves := [(1, placedWave)], blocks := [(1, shapedBlock)], segs := (upto 0 41).map fun k => (k, 0) })] }

theorem witness_go : (fget replayable.ckpts 0).isSome = true ∧ replayable.recMode 0 = 0 ∧ replayable.rpState 0 = 0 ∧ replayable.ckOldest 0 = 0
    ∧ bits (replayable.ctx 0).rpctl.toNat 31 0 = 0 ∧ replayable.locks = []
    ∧ replayable.waves.all (fun e => replayable.blocks.any fun b => b.1 == e.2.block) = true ∧ replayable.blocks.all (fun e => e.2.ctx == 0) = true
    ∧ (fget replayable.ckpts 0).any (fun k => fsorted k.waves && k.waves.length == 1) = true
    ∧ (let g := replayable.setRpState 0 1
       let gone := ((g.setCtx 0 { g.ctx 0 with rpFrom := 0 }).dropAll 0).setMode 0 0
       (gone.rollBack 0 0).roomToRestore ((fget replayable.ckpts 0).getD default)) = true
    ∧ after .rpctlGo replayable (fun t => t.recMode 0 == 2 && t.rpState 0 == 2 && (t.wave 1).core == 0) = true
    ∧ after .rpctlGo (siloed 1) (fun t => t.posts.map Post.event == ["RPFAIL"]) = true := by decide +kernel

/-- A replay of interval 0 up to `last`, with these chunks of wave 1's unit. -/
def replay (last : Nat) (chunks : List LogChunk) : State :=
  let p : Replay := { (default : Replay) with last := last, chunks := if chunks.isEmpty then [] else [(0, chunks)] }
  let c := { (siloed 1).ctx 0 with rctl := 2, rpctl := BitVec.ofNat 64 (2 * 2 ^ 36), bp := [(5, 2 ^ 63)] }
  asked { siloed 1 with replays := [(0, p)], ctxs := fput (siloed 1).ctxs 0 c } (argN 0)

/-- A chunk of one bundle of thread 0. -/
def chunk : LogChunk := { (default : LogChunk) with masks := [1] }

theorem witness_replay : (replay 0 []).recMode 0 = 2 ∧ (replay 0 []).intervalOver 0 ((fget (replay 0 []).replays 0).getD default) = true
    ∧ (replay 0 [chunk]).intervalOver 0 ((fget (replay 0 [chunk]).replays 0).getD default) = false ∧ (replay 0 [chunk]).movedBlock 0 = none
    ∧ after .rpend (replay 0 []) (fun t => t.rpState 0 == 3 && (t.wave 1).halted && t.posts.map Post.event == ["RPEND"]) = true
    ∧ after .rpctlStop (replay 0 []) (fun t => t.recMode 0 == 0 && t.replays.isEmpty && t.blocks.isEmpty) = true
    ∧ ((replay 0 []).wave 1).live = [0] ∧ ((replay 0 []).thread t0).async = []
    ∧ after .replay { replay 0 [] with arg := argNk 1 4 } (fun t => t.rpState 0 == 4 && (t.thread t0).async.map Async.info == [4]
        && t.posts.map Post.event == ["RPDIV"]) = true := by decide +kernel

theorem witness_next_interval : (replay 1 []).intervalOver 0 ((fget (replay 1 []).replays 0).getD default) = true
    ∧ after .rpend (replay 1 []) (fun t => (fget t.replays 0).map Replay.interval == some 1) = true := by decide +kernel

theorem witness_breakpoint : (replay 0 [chunk]).breakHere 1 = some 2 ∧ (replay 0 [chunk]).loggedBundle 1 = some [t0]
    ∧ (replay 0 []).loggedBundle 1 = none
    ∧ after .replayBreakpoint { replay 0 [chunk] with arg := argN 1 } (fun t => (t.wave 1).halted && (fget t.replays 0).map Replay.passed == some [6]) = true := by
  decide +kernel

/-! ## The package -/

/-- A lane that has retrained 15 times within a day. -/
def wornLane : State := asked { probe with wear := [(5 * 8 + 2, List.replicate 15 (1, 1))], ptb := 1000 } (argNk 0 5)

theorem witness_package :
    after .lifetimeHistogramUpdate (asked probe { argNk 4 3 with m := 4097, v := 9 }) (fun t => t.worn == [(0, 57)] && fgetD t.hist (256 * 4 + 3) 0 == 4097) = true
      ∧ after .lifetimeHistogramUpdate (asked probe { argNk 4 11 with m := 4097, v := 15 }) (fun t => t.worn == [(3, 127)]) = true
      ∧ (let a := (asked probe { argNk 5 7 with m := 4097 }).arg
         a.n = 5 ∧ a.k < 8 ∧ 4097 ≤ a.m)
      ∧ probe.lostHome 64 = false ∧ after .lifetimeHistogramUpdate (asked probe { argNk 6 0 with m := 5, v := 1 }) (fun t => t.poison == [1]) = true
      ∧ (probe.pendV t0 true).contains 3 = false ∧ after .lifetimeHistogramUpdate (asked probe { argNk 6 0 with m := 0, v := 3, t := t0 })
          (fun t => (t.wave 1).errs == [{ kind := 0, i := 0, reg := 3 }]) = true
      ∧ after .lifetimeHistogramUpdate (asked probe { argNk 8 3 with m := 2 }) (fun t => fgetD t.hist (256 * 8 + 3) 0 == 2) = true
      ∧ after .lifetimeHistogramUpdate (asked { probe with ptb := 1000000000 } (argN 0)) (fun t => t.histTick == 1000000000) = true
      ∧ after .lifetimeHistogramUpdate (asked { probe with ptb := 999999999 } (argN 0)) (fun t => t.histTick == 0) = true
      ∧ after .laneRetrain wornLane (fun t => t.worn == [(2, 5)] && fgetD t.hist (256 * 7) 0 == 1) = true
      ∧ after .patrolScrub (asked probe { argNk 9 0 with m := 1 }) (fun t => t.poison == [9] && t.posts.map Post.datum == [576]) = true
      ∧ after .frequencyChange { probe with freqNow := 3000, freqNext := some 2900 } (fun t => t.freqNow == 2900 && t.freqNext.isNone) = true
      ∧ after .frequencyChange { probe with freqNow := 3000, freqNext := some 2900, toHome := [default] } (fun t => t.freqNow == 3000 && t.freqNext == some 2900) = true
      ∧ after .thermalTrip { probe with freqNow := 600, hotSince := some 5, ptb := 1000005 } (fun t => t.tripped && (t.readReg 0x10100).isNone) = true
      ∧ after .thermalTrip { probe with freqNow := 600, hotSince := some 5, ptb := 1000004 } (fun t => !t.tripped) = true
      ∧ after .thermalTrip { probe with freqNow := 700, hotSince := some 5, ptb := 1000005 } (fun t => !t.tripped) = true := by decide +kernel

/-- The frequency's cap lies below a core frequency and all above it, or the next step keeps the limits. -/
theorem witness_frequency : (∀ now f, now ∈ [600, 700] → now ≤ f → State.withinLimits { probe with freqCap := 500, freqNow := now } f = false)
    ∧ (Config.power 0 800 ≤ 2400000 → Config.hottest 0 800 < 80 →
        State.withinLimits { probe with steps := 0, freqCap := 3000, pcap := 2400000, throttle := 80, freqNow := 700 } 800 = true) := by
  refine ⟨fun now f hn hf => ?_, fun h1 h2 => ?_⟩
  · have hlt : ¬ f ≤ 500 := by
      simp only [List.mem_cons, List.not_mem_nil, or_false] at hn
      omega
    simp only [State.withinLimits, hlt, decide_false, Bool.false_and]
  · have hp : (2400000 : Dword).toNat = 2400000 := by decide
    simp only [State.withinLimits, hp, h1, h2, decide_true, Bool.and_true, decide_eq_true_eq]
    omega

/-- A write of the host to a register. -/
def writes (n : Nat) : State := asked probe { argN n with v := 0xFFFFFFFFFFFFFFFF }

/-- Every register field of R415 that the statement names, in the first and the last context, and an event counter. -/
theorem witness_registers : probe.secst.getLsbD 25 = false ∧ (∀ e ∈ [(0x000, 0x00FFFFFFFFFF000F), (0x008, 0x00FFFFFFFFFF0000), (0x010, 0x000FFFFFFFFF0000),
      (0x018, 0x000FFFFFFFFE0001), (0x030, 0xFFFFFFFF), (0x038, 1), (0x060, 0x00FFFFFFFFFFFF01), (0x068, 0x000FFFFFFFFFFFFF), (0x0A8, 0x000FFFFFFFFFF001)],
      ∀ c ∈ [0, 63], after .registerWrite (writes (0x20000 + 0x1000 * c + e.1)) (fun t => t.readCtx c e.1 == BitVec.ofNat 64 e.2) = true)
    ∧ after .registerWrite (asked probe { argN 0x200C0 with v := 0xABCD }) (fun t => (t.readCtx 0 0x0C0).toNat % 2 ^ 32 == 0xABCD) = true
    ∧ after .registerWrite (writes 0x20404) (fun t => t.evCounter 0 1 == 0xFFFFFFFF) = true := by decide +kernel

/-! ## The step -/

/-- A state whose first bundle is thread 0's, at IADD. -/
def stepping : State := State.reset.withFetchWord 64 0x1C43040409000000

theorem witness_step : stepping.down = false ∧ stepping.chain = none ∧ stepping.agenda = [] ∧ stepping.steps % 2 = 0
    ∧ stepping.allCandidates = [(0, false, [t0])] ∧ stepping.freqNext = none ∧ stepping.fetchUnit 0 0 (stepping.wave 1).high 0 [] = .unit (.iadd hp { fF 0 with d := 4, a := 4, b := 9 }) 1
    ∧ chainBit (.iadd hp { fF 0 with d := 4, a := 4, b := 9 }) = false
    ∧ (match step stepping with
       | .next t => (t.thread t0).pc == 8 && Memory.wf t.mem && !t.stalled
       | _ => false) = true ∧ Memory.wf stepping.mem = true := by decide +kernel

/-- A well-formed word, with its bytes at 0; a chain in progress and an agent's step at hand. -/
theorem witness_fetched_word : WellFormedWord (.iadd hp { fF 0 with d := 4, a := 4, b := 9 }) ∧ encode (.iadd hp { fF 0 with d := 4, a := 4, b := 9 }) = [0x1C43040409000000]
    ∧ stepping.translate 0 0 0 .fetch (false) [] = .ok 0 1 ∧ (stepping.target 0).1 = .hbm ∧ stepping.lostHome 0 = false
    ∧ stepping.poisoned (sectorOf 0) = false ∧ stepping.peek 0 8 = 0x1C43040409000000
    ∧ (let c : Chain := { (default : Chain) with core := 0, block := 1, threads := [t0], start := 0, stop := 16, pos := 1, saved := [],
                                                 flags := [], rest := [(8, some (.nop hp (fS 0)), 1)] }
       (match step { stepping with chain := some c } with
        | .next t => (t.thread t0).pc == 16
        | _ => false) = true)
    ∧ (match step { stepping with agenda := [{ op := .ctxctlKill, arg := argN 0 }] } with
       | .next t => t.waves.isEmpty
       | _ => false) = true := by
  refine ⟨⟨?_, by decide⟩, by decide +kernel, by decide +kernel, by decide +kernel, by decide +kernel, by decide +kernel, by decide +kernel,
    by decide +kernel, by decide +kernel⟩
  show legalWord _ = true
  decide +kernel

/-! ## Causes that come first -/

/-- What the bundle that issues a word meets. -/
def metB (s : State) (i : Instr) (p : State → Bool) : Bool :=
  isWord i && decide ((issuing s i).issue = some (issueFor i)) && after i (issuing s i) p

/-- Thread 0 with an address that is not canonical, or not aligned to a multiple of 64 or within a sector. -/
def bad (lo hi : Word) : State := setRegs probe [(2, lo), (3, hi)]

theorem witness_causes : (match exec (.nop hp (fS 0)) { probe with issue := none } with
      | .fault .noBundle => true
      | _ => false) = true
    ∧ metB probe (.nop { hp with imx := some 1 } (fS 0)) (fun t => (t.thread t0).tcause == 1) = true
    ∧ metB probe (.iadd hp (fF 0xFFF)) (fun t => (t.thread t0).tcause == 1 && !legalEntry (.iadd hp (fF 0xFFF))) = true
    ∧ metB { probe with waves := [(1, sproutWave false)] } (.spwait hp (fX 8 0 0 0 0 0 1))
        (fun t => (t.thread t0).tinfo.toNat % 256 == 48 && !sproutMay (.spwait hp (fX 8 0 0 0 0 0 1))) = true
    ∧ metB probe (.tlbsync hp (fS 0)) (fun t => (t.thread t0).tcause == 2) = true
    ∧ metB (bad 0 0x01000000) (.ld hp (fM 4)) (fun t => (t.thread t0).tcause == 3 && (t.thread t0).tinfo.toNat % 16 == 5) = true
    ∧ metB (bad 62 0) (.ld hp (fM 4)) (fun t => (t.thread t0).tcause == 4 && (t.thread t0).taddr == 62) = true
    ∧ metB (bad 2 0) (.atomAdd hp (fA 1)) (fun t => (t.thread t0).tcause == 4 && (t.thread t0).taddr == 2) = true := by decide +kernel

/-- Under the three modes the thread reports a cause; in a chain the wave from before it is kept. -/
theorem witness_reports : (hit t0 0 .debug 0).t = t0 ∧ (hit t0 0 .debug 0).cause ≠ .math
    ∧ (∀ e ∈ [(0, Mode.queue), (1, .inThread 0x200), (2, .kill)], unloggedB (vectored e.1) = true ∧ (vectored e.1).chain = none
        ∧ (fget ((vectored e.1).wave 1).threads 0).isSome = true ∧ (vectored e.1).modeOf t0 .debug false = e.2)
    ∧ (vectored 0).allDone t0 4 = true ∧ (vectored 0).fqRoom 0 0 1 = true
    ∧ (let w := (setRegs (vectored 1) [(4, 9)]).wave 1
       let s := { vectored 1 with chain := some { (default : Chain) with threads := [t0], saved := [(1, w)] } }
       unloggedB s = true ∧ (fget w.threads 0).isSome = true
        ∧ ({ s with waves := fput s.waves 1 w, chain := none } : State).modeOf t0 .debug false = .inThread 0x200
        ∧ (s.unitTrap (.nop hp (fS 0)) (issueFor (.nop hp (fS 0))) [hit t0 0 .debug 0] [] false).vreg t0 4 = 9) := by decide +kernel

/-- A word of thread 0 that meets this cause. -/
def causeB (s : State) (i : Instr) (code : Nat) : Bool :=
  let b := issueFor i
  legalForm i && chainOk i b.pos && legalEntry i && (issuing s i).active i t0 && after i (issuing s i) fun t => (t.thread t0).tcause == BitVec.ofNat 32 code

/-- The wave has one v register; the block has no tile. -/
def small : State := { probe with waves := [(1, { placedWave with regs := 1 })], blocks := [(1, { placedBlock with acc := 0 })] }

/-- The vector of MATH stands at 0x200, and every flag is enabled. -/
def strict : State :=
  let s := vectored 1
  { s with mem := Memory.setList s.mem 0x1080 (leBytes (2 ^ 62 + 0x200) 8), waves := [(1, { highWave with fpsw := 0x1F00 })] }

theorem witness_registers_tiles_latches_and_flags :
    causeB small (.iadd hp (fF 0)) 5 = true
    ∧ (let i : Instr := .iadd hp { fF 0 with a := 240 }
       causeB probe i 6 = true ∧ (usesOf i).all (fun u => u.vnames.all fun r => decide (r < 240)) = true ∧ (probe.thread t0).y = [])
    ∧ (let i : Instr := .mzero hp (fX 0 0 0 0 0 0 0x080)
       mayRunB (issuing small i) i (issueFor i) = true ∧ (issuing small i).actives i (issueFor i) = [t0] ∧ (small.block 1).acc ≤ mAcc (fX 0 0 0 0 0 0 0x080)
        ∧ causeB small i 5 = true)
    ∧ (∀ e ∈ [(Instr.fadd hp (fF 0), opAdd, 0xFF800000), (.fmul hp (fF 0), opMul, 0), (.fsub hp (fF 0), opSub, 0x7F800000)],
       let s := issuing (setRegs strict [(2, 0x7F800000), (3, e.2.2)]) e.1
       mayRunB s e.1 (issueFor e.1) = true ∧ unloggedB s = true ∧ (s.fpElem hp (fF 0) e.2.1 10 32 1 t0 0).2 &&& s.enOf 1 ≠ 0
        ∧ s.modeOf t0 .math false = .inThread 0x200 ∧ tyOf (fF 0).mod ≠ 9
        ∧ after e.1 s (fun t => (t.thread t0).pc == 0x200 && (t.thread t0).tcause == 8 && t.fpswOf 1 == 0x1F00 + BitVec.ofNat 32 fIV) = true) := by decide +kernel

end Sys2Proof.Tests
end

section
/-! SUPPORT. Words whose threads raise flags, and words of waves (R197): how such a word completes. -/

namespace Sys2Proof.Machine

/-! ## From an effect on registers and flags to the completion -/

/-- What an entry of registers does to the state that it finds, where it may raise flags: registers of the bundle's
threads and of waves, FPSW, and the flags that the chain in progress holds (R196, R197). -/
structure RegEffect (b : Issue) (r t : State) : Prop where
  only : OnlyWaves r t
  wave : ∀ u, t.wave u = { r.wave u with
    threads := (t.wave u).threads, s := (t.wave u).s, m := (t.wave u).m, fpsw := (t.wave u).fpsw }
  others : ∀ x, x ∉ b.threads → t.thread x = r.thread x
  mine : ∀ x ∈ b.threads, t.thread x = { r.thread x with
    v := (t.thread x).v, p := (t.thread x).p, y := (t.thread x).y, draw := (t.thread x).draw }
  chain : ∃ F : Chain → FMap Word, t.chain = r.chain.map fun c => { c with flags := F c }

theorem RegEffect.trans {b : Issue} {r t q : State} (h1 : RegEffect b r t) (h2 : RegEffect b t q) : RegEffect b r q := by
  obtain ⟨F, hF⟩ := h1.chain
  obtain ⟨G, hG⟩ := h2.chain
  refine ⟨h1.only.trans h2.only, fun u => ?_, fun x hx => (h2.others x hx).trans (h1.others x hx), fun x hx => ?_,
    ⟨fun c => G { c with flags := F c }, ?_⟩⟩
  · have e := h2.wave u
    rw [h1.wave u] at e
    exact e
  · have e := h2.mine x hx
    rw [h1.mine x hx] at e
    exact e
  · rw [hG, hF, Option.map_map]; rfl

theorem RegEffect.plainWave {b : Issue} {r t : State} (h : RegEffect b r t) (u : Nat) (hp : r.plainWave u) : t.plainWave u := by
  unfold State.plainWave at *
  rw [h.only.recMode, h.wave u]; exact hp

/-- The chain of a word that goes on holds the bundle's waves as before its first word, whatever flags it has gathered (R61). -/
theorem RegEffect.holds {s t : State} {i : Instr} {b : Issue} (he : RegEffect b (s.prepared i b) t)
    (hq : Prepared s (s.prepared i b) i b) (hc : chainBit i = true) :
    ∃ c, (t.chain.map fun (c : Chain) => { c with pos := b.pos + unitLen i, rest := b.rest }) = some c
      ∧ (∀ k, s.chain = some k → c.saved = k.saved) ∧ (s.chain = none → ∀ x ∈ b.threads, fget c.saved x.u = some (s.wave x.u)) := by
  obtain ⟨c, hm, h1, h2⟩ := s.openChain_holds i b hc
  obtain ⟨F, hF⟩ := he.chain
  obtain ⟨k, hk, rfl⟩ := Option.map_eq_some_iff.1 hm
  rw [hF, hq.chain, hk]
  exact ⟨_, rfl, h1, h2⟩

theorem State.sreg_congr {s t : State} {u : Nat} (hs : (t.wave u).s = (s.wave u).s) (hp : (t.wave u).sprout = (s.wave u).sprout)
    (r : Nat) : t.sreg u r = s.sreg u r := by
  simp only [State.sreg, Wave.isSprout, hs, hp]; rfl

theorem State.mreg_congr {s t : State} {u : Nat} (hm : (t.wave u).m = (s.wave u).m) (hp : (t.wave u).sprout = (s.wave u).sprout)
    (k : Nat) : t.mreg u k = s.mreg u k := by
  simp only [State.mreg, Wave.isSprout, hm, hp]; rfl

/-- The end of the unit keeps every register. -/
theorem State.endUnit_regs (t : State) (i : Instr) (b : Issue) (hn : b.threads.Nodup) (hp : ∀ u ∈ wavesOf b.threads, t.plainWave u) :
    RegsAre (t.endUnit i b) t.vreg t.preg t.sreg t.mreg t.fpswOf := by
  obtain ⟨hw, hth, -⟩ := t.endUnit_spec i b hn hp
  have hs : ∀ u, ((t.endUnit i b).wave u).s = (t.wave u).s := fun u => (congrArg Wave.s (hw.2 u)).trans rfl
  have hm : ∀ u, ((t.endUnit i b).wave u).m = (t.wave u).m := fun u => (congrArg Wave.m (hw.2 u)).trans rfl
  have hf : ∀ u, ((t.endUnit i b).wave u).fpsw = (t.wave u).fpsw := fun u => (congrArg Wave.fpsw (hw.2 u)).trans rfl
  have ht : ∀ u, ((t.endUnit i b).wave u).sprout = (t.wave u).sprout := fun u => (congrArg Wave.sprout (hw.2 u)).trans rfl
  refine ⟨fun x r => ?_, fun x k => ?_, fun u r => ?_, fun u k => ?_, fun u => ?_⟩
  · simp only [State.vreg, hth]; split <;> rfl
  · simp only [State.preg, hth]; split <;> rfl
  · exact State.sreg_congr (hs u) (ht u) r
  · exact State.mreg_congr (hm u) (ht u) k
  · simp only [State.fpswOf, hf]

/-- The frame of a word whose entry has an effect on registers and flags. -/
theorem RegEffect.after {s t : State} {i : Instr} {b : Issue} (he : RegEffect b (s.prepared i b) t)
    (hq : Prepared s (s.prepared i b) i b) (hn : b.threads.Nodup) (hp : ∀ u ∈ wavesOf b.threads, t.plainWave u) :
    After i b s (t.endUnit i b) (fun _ => b.nextPc) := by
  obtain ⟨hw, hth, hch⟩ := t.endUnit_spec i b hn hp
  have ho : OnlyWaves s (t.endUnit i b) := (hq.only.trans he.only).trans hw.1
  have hmine : ∀ x ∈ b.threads, t.thread x = { s.thread x with
      pc := b.nextPc, readyAt := s.steps, go := 0, at_ := b.unitPc, step := s.steps,
      v := (t.thread x).v, p := (t.thread x).p, y := (t.thread x).y, draw := (t.thread x).draw } := fun x hx => by
    have e := he.mine x hx
    rw [hq.mine x hx] at e
    exact e
  refine ⟨ho, ho.byteAt, fun u => ?_, fun x hx => ?_, fun x hx => ?_, fun hc x hx => ?_, fun hc => ?_, fun hc => ?_⟩
  · have e := hw.2 u
    rw [he.wave u, hq.wave u] at e
    generalize (t.endUnit i b).wave u = w at *
    rw [e]
  · rw [hth, if_neg (fun e => hx e.1), he.others x hx, hq.others x hx]
  · have e := hmine x hx
    rw [hth]
    generalize t.thread x = th at *
    split <;> rw [e]
  · rw [hth, if_pos ⟨hx, hc⟩]
  · rw [hch, hc]; rfl
  · rw [hch, if_pos hc]
    exact he.holds hq hc

theorem RegsAre.trans {t q : State} {v p r m f} (h1 : RegsAre q t.vreg t.preg t.sreg t.mreg t.fpswOf) (h2 : RegsAre t v p r m f) :
    RegsAre q v p r m f :=
  ⟨fun x k => (h1.v x k).trans (h2.v x k), fun x k => (h1.p x k).trans (h2.p x k), fun u k => (h1.q u k).trans (h2.q u k),
    fun u k => (h1.m u k).trans (h2.m u k), fun u => (h1.f u).trans (h2.f u)⟩

/-- A word whose entry has an effect on registers and flags completes with the registers of the effect. -/
theorem Runs.completeReg {s : State} {i : Instr} {b : Issue} (h : Runs s i b) (body : State → List TRef → Res) (t : State)
    (hx : exec i s = runWord i body s) (hb : body (s.prepared i b) (s.actives i b) = .ok t)
    (he : RegEffect b (s.prepared i b) t) {v p q m f} (hr : RegsAre t v p q m f) :
    ∃ t', exec i s = .next t' ∧ After i b s t' (fun _ => b.nextPc) ∧ GoesOn b s t'
      ∧ (∀ x, (t'.thread x).draw = (t.thread x).draw) ∧ RegsAre t' v p q m f := by
  have hq := s.prepared_spec i b h.nodup
  have hpt : ∀ u ∈ wavesOf b.threads, t.plainWave u := fun u hu => he.plainWave u (hq.plainWave u (h.plainWave u hu))
  have hth := (t.endUnit_spec i b h.nodup hpt).2.1
  refine ⟨t.endUnit i b, hx.trans (h.exec_ok body hb hpt), he.after hq h.nodup hpt, fun x hm => ?_, fun x => ?_,
    (t.endUnit_regs i b h.nodup hpt).trans hr⟩
  · have e := he.mine x hm
    rw [hq.mine x hm] at e
    rw [hth]
    generalize t.thread x = th at *
    split <;> rw [e] <;> exact ⟨rfl, rfl, rfl⟩
  · rw [hth]; split <;> rfl

end Sys2Proof.Machine
end
section
/-! SUPPORT. The flags that threads raise (R196, R197), and effects of threads one after another. -/

namespace Sys2Proof.Machine

/-! ## Flags ORed into FPSW -/

theorem State.wave_raise (s : State) (u n v : Nat) : (s.raise u n).wave v =
    if v = u then { s.wave v with fpsw := (s.wave v).fpsw ||| BitVec.ofNat 32 (n % 32) } else s.wave v := by
  unfold State.raise
  by_cases hn : n = 0
  · simp [hn]
  · rw [if_neg (by simpa using hn)]
    refine (s.wave_setWave u v _).trans ?_
    split
    next e => subst e; rfl
    next => rfl

theorem State.raise_only (s : State) (u n : Nat) : OnlyWaves s (s.raise u n) := by
  unfold State.raise; split <;> rfl

theorem State.raise_chain (s : State) (u n : Nat) :
    ∃ F : Chain → FMap Word, (s.raise u n).chain = s.chain.map fun c => { c with flags := F c } := by
  unfold State.raise
  split
  · exact ⟨Chain.flags, by cases s.chain <;> rfl⟩
  · exact ⟨_, rfl⟩

theorem State.thread_raise (s : State) (u n : Nat) (x : TRef) : (s.raise u n).thread x = s.thread x := by
  simp only [State.thread, State.wave_raise]; split <;> rfl

theorem RegEffect.refl (b : Issue) (s : State) : RegEffect b s s :=
  ⟨OnlyWaves.refl s, fun _ => rfl, fun _ _ => rfl, fun _ _ => rfl, Chain.flags, by cases s.chain <;> rfl⟩

theorem RegEffect.raise (b : Issue) (s : State) (u n : Nat) : RegEffect b s (s.raise u n) :=
  ⟨s.raise_only u n, fun v => by rw [State.wave_raise]; split <;> rfl, fun x _ => s.thread_raise u n x,
    fun x _ => by rw [State.thread_raise], s.raise_chain u n⟩

/-- The flags of each wave in a map are raised. -/
def State.raiseAll (s : State) (m : FMap Nat) : State := m.foldl (fun s e => s.raise e.1 e.2) s

theorem RegEffect.raiseAll (b : Issue) (m : FMap Nat) (s : State) : RegEffect b s (s.raiseAll m) := by
  induction m generalizing s with
  | nil => exact RegEffect.refl b s
  | cons e m ih => exact (RegEffect.raise b s e.1 e.2).trans (ih _)

theorem State.thread_raiseAll (s : State) (m : FMap Nat) (x : TRef) : (s.raiseAll m).thread x = s.thread x := by
  induction m generalizing s with
  | nil => rfl
  | cons e m ih => exact (ih _).trans (s.thread_raise e.1 e.2 x)

/-- A key below all of a sorted map is not in it. -/
theorem fgetD_below {α : Type} (m : FMap α) (k : Nat) (d : α) (h : ∀ e ∈ m, k < e.1) : fgetD m k d = d := by
  induction m with
  | nil => rfl
  | cons e m ih =>
    have h1 : e.1 ≠ k := Nat.ne_of_gt (h e (List.mem_cons_self ..))
    have h2 := ih fun c hc => h c (List.mem_cons_of_mem _ hc)
    simp only [fgetD, fget, if_neg h1] at *
    exact h2

theorem State.wave_raiseAll (s : State) (m : FMap Nat) (hm : fsorted m = true) (v : Nat) : (s.raiseAll m).wave v =
    { s.wave v with fpsw := (s.wave v).fpsw ||| BitVec.ofNat 32 (fgetD m v 0 % 32) } := by
  induction m generalizing s with
  | nil => simp [State.raiseAll, fgetD, fget]
  | cons e m ih =>
    obtain ⟨a, n⟩ := e
    obtain ⟨hlt, hs⟩ := (fsorted_cons a n m).1 hm
    show ((s.raise a n).raiseAll m).wave v = _
    rw [ih _ hs, State.wave_raise]
    by_cases hv : v = a
    · subst hv
      have e1 : fgetD m v 0 = 0 := fgetD_below m v 0 hlt
      have e2 : fgetD ((v, n) :: m) v 0 = n := by simp [fgetD, fget]
      simp [e1, e2]
    · simp [hv, fgetD, fget, Ne.symm hv]

/-- Raising flags changes FPSW and no other register. -/
theorem State.raiseAll_regs (s : State) (m : FMap Nat) (hm : fsorted m = true) :
    RegsAre (s.raiseAll m) s.vreg s.preg s.sreg s.mreg fun u => s.fpswOf u ||| BitVec.ofNat 32 (fgetD m u 0 % 32) := by
  have hw := s.wave_raiseAll m hm
  have hth := s.thread_raiseAll m
  refine ⟨fun x r => ?_, fun x k => ?_, fun u r => ?_, fun u k => ?_, fun u => ?_⟩
  · rw [State.vreg, hth]; rfl
  · rw [State.preg, hth]; rfl
  · exact State.sreg_congr (by rw [hw]) (by rw [hw]) r
  · exact State.mreg_congr (by rw [hw]) (by rw [hw]) k
  · rw [hw]; rfl

/-- What threads raise, gathered by wave. -/
def flagMap (l : List (TRef × Nat)) : FMap Nat := l.foldl (fun m x => fput m x.1.u (fgetD m x.1.u 0 ||| x.2)) []

theorem fsorted_flagMap (l : List (TRef × Nat)) : fsorted (flagMap l) = true := by
  have h : ∀ (l : List (TRef × Nat)) (m : FMap Nat), fsorted m = true →
      fsorted (l.foldl (fun m x => fput m x.1.u (fgetD m x.1.u 0 ||| x.2)) m) = true := by
    intro l
    induction l with
    | nil => exact fun _ h => h
    | cons x l ih => exact fun m h => ih _ (fsorted_fput m _ _ h)
  exact h l [] rfl

theorem fgetD_flagMap (l : List TRef) (fl : TRef → Nat) (u : Nat) :
    fgetD (flagMap (l.map fun x => (x, fl x))) u 0 = (l.filter fun x => x.u == u).foldl (fun m x => m ||| fl x) 0 := by
  have h : ∀ (l : List TRef) (m : FMap Nat),
      fgetD ((l.map fun x => (x, fl x)).foldl (fun m x => fput m x.1.u (fgetD m x.1.u 0 ||| x.2)) m) u 0
        = (l.filter fun x => x.u == u).foldl (fun m x => m ||| fl x) (fgetD m u 0) := by
    intro l
    induction l with
    | nil => exact fun _ => rfl
    | cons x l ih =>
      intro m
      rw [List.map_cons, List.foldl_cons, ih, fgetD_fput]
      by_cases hx : x.u = u
      · simp [hx]
      · simp [hx, Ne.symm hx]
  exact h l []

/-- The flags of a wave do not depend on the order of the threads that raise them. -/
theorem State.flagsOf_perm (s : State) (i : Instr) (b : Issue) (fl : TRef → Nat) {l : List TRef} (hl : l.Perm (s.actives i b)) (u : Nat) :
    (l.filter fun x => x.u == u).foldl (fun m x => m ||| fl x) 0 = s.flagsOf i b fl u :=
  (hl.filter _).foldl_eq' (fun x _ y _ m => by rw [Nat.or_assoc, Nat.or_comm (fl x), Nat.or_assoc]) 0

/-! ## The outcome of a word that raises flags -/

/-- The outcome of a word that has come from `s` to `t` and raises these flags: with an enabled one among them a MATH (R197). -/
def raising (s t : State) (l : List (TRef × Nat)) : Res :=
  let on := l.filter fun x => x.2 &&& s.enOf x.1.u != 0
  if on.isEmpty then .ok (t.raiseAll (flagMap l))
  else .trap (on.map fun x => hit x.1 rankMath .math (on.foldl (fun d y => d ||| (y.2 &&& s.enOf y.1.u)) 0)) (flagMap l)

theorem raising_ok (s t : State) (l : List (TRef × Nat)) (h : ∀ x ∈ l, x.2 &&& s.enOf x.1.u = 0) :
    raising s t l = .ok (t.raiseAll (flagMap l)) := by
  have : l.filter (fun x => x.2 &&& s.enOf x.1.u != 0) = [] := List.filter_eq_nil_iff.2 fun x hx => by simp [h x hx]
  simp only [raising, this]; rfl

/-- The MATH enables in force are those of the state before the word. -/
theorem State.enOf_prepared {s : State} {i : Instr} {b : Issue} (hq : Prepared s (s.prepared i b) i b) (u : Nat) (hu : u ∈ wavesOf b.threads) :
    (s.prepared i b).enOf u = s.enOf u := by
  have hw : ((s.prepared i b).wave u).en = (s.wave u).en := by rw [hq.wave u]; rfl
  obtain ⟨x, hx, rfl⟩ := mem_wavesOf hu
  unfold State.enOf
  rw [hq.chain, State.openChain_chain]
  cases hc : s.chain with
  | some c =>
    have : (fgetD c.saved x.u ((s.prepared i b).wave x.u)).en = (fgetD c.saved x.u (s.wave x.u)).en := by
      simp only [fgetD]; cases fget c.saved x.u <;> simp [hw]
    simpa using this
  | none =>
    cases chainBit i with
    | false => simpa using hw
    | true =>
      have : fget (openedChain s b).saved x.u = some (s.wave x.u) :=
        (fget_foldl_fput s.wave (wavesOf b.threads) [] x.u).trans (if_pos hu)
      simp [fgetD, this]

/-- A word that raises flags completes where none of them is enabled: the registers of its effect, and the flags in FPSW. -/
theorem Runs.completeRaising {s : State} {i : Instr} {b : Issue} (h : Runs s i b) (body : State → List TRef → Res)
    (hx : exec i s = runWord i body s) {fl : TRef → Nat} (hfl : ∀ x ∈ s.actives i b, fl x &&& s.enOf x.u = 0)
    {l : List TRef} (hl : l.Perm (s.actives i b)) {t : State}
    (hb : body (s.prepared i b) (s.actives i b) = raising (s.prepared i b) t (l.map fun x => (x, fl x)))
    (he : RegEffect b (s.prepared i b) t) {v p q m} (hr : RegsAre t v p q m s.fpswOf) :
    ∃ t', exec i s = .next t' ∧ After i b s t' (fun _ => b.nextPc) ∧ GoesOn b s t'
      ∧ (∀ x, (t'.thread x).draw = (t.thread x).draw)
      ∧ RegsAre t' v p q m fun u => s.fpswOf u ||| BitVec.ofNat 32 (s.flagsOf i b fl u % 32) := by
  have hq := s.prepared_spec i b h.nodup
  have hon : ∀ e ∈ l.map (fun x => (x, fl x)), e.2 &&& (s.prepared i b).enOf e.1.u = 0 := fun e he => by
    obtain ⟨x, hxl, rfl⟩ := List.mem_map.1 he
    have hxa := hl.mem_iff.1 hxl
    rw [State.enOf_prepared hq x.u (wavesOf_mem (List.mem_filter.1 hxa).1)]
    exact hfl x hxa
  rw [raising_ok _ _ _ hon] at hb
  have hk := t.raiseAll_regs (flagMap (l.map fun x => (x, fl x))) (fsorted_flagMap _)
  simp only [fgetD_flagMap, s.flagsOf_perm i b fl hl] at hk
  obtain ⟨t', h1, h2, h3, h4, h5⟩ := h.completeReg body _ hx hb (he.trans (RegEffect.raiseAll b _ t))
    ⟨fun x r => (hk.v x r).trans (hr.v x r), fun x k => (hk.p x k).trans (hr.p x k), fun u r => (hk.q u r).trans (hr.q u r),
      fun u k => (hk.m u k).trans (hr.m u k), fun u => (hk.f u).trans (congrArg (· ||| _) (hr.f u))⟩
  exact ⟨t', h1, h2, h3, fun x => (h4 x).trans (by rw [State.thread_raiseAll]), h5⟩

end Sys2Proof.Machine
end
section
/-! SUPPORT. Words whose threads act one after another, each on registers of its own, and may raise flags. -/

namespace Sys2Proof.Machine

/-! ## Threads that have acted -/

/-- From `s` to `t` these threads have changed, each by a function of its own, and nothing else. -/
structure Acted (l : List TRef) (F : TRef → Thread → Thread) (s t : State) : Prop where
  same : SameBut s t
  thread : ∀ y, t.thread y = if y ∈ l then F y (s.thread y) else s.thread y

theorem Acted.refl (F : TRef → Thread → Thread) (s : State) : Acted [] F s s := ⟨SameBut.refl s, fun _ => rfl⟩

/-- A thread acts after the same thread. -/
theorem Acted.comp {x : TRef} {F G : TRef → Thread → Thread} {s t q : State} (h1 : Acted [x] F s t) (h2 : Acted [x] G t q) :
    Acted [x] (fun y th => G y (F y th)) s q := by
  refine ⟨h1.same.trans h2.same, fun y => ?_⟩
  rw [h2.thread, h1.thread]; split <;> rfl

/-- Threads act after other threads. -/
theorem Acted.append {l m : List TRef} {F : TRef → Thread → Thread} {s t q : State} (h1 : Acted l F s t) (h2 : Acted m F t q)
    (hd : ∀ x ∈ l, x ∉ m) : Acted (l ++ m) F s q := by
  refine ⟨h1.same.trans h2.same, fun y => ?_⟩
  rw [h2.thread, h1.thread]
  by_cases hl : y ∈ l
  · simp [hl, hd y hl]
  · simp [hl]

theorem Acted.congr {l m : List TRef} {F G : TRef → Thread → Thread} {s t : State} (h : Acted l F s t) (hm : ∀ x, x ∈ l ↔ x ∈ m)
    (hF : ∀ x ∈ l, F x (s.thread x) = G x (s.thread x)) : Acted m G s t := by
  refine ⟨h.same, fun y => ?_⟩
  rw [h.thread, if_congr (hm y) rfl rfl]
  split
  next hy => exact hF y ((hm y).2 hy)
  next => rfl

/-- What an entry does to a thread is done to its registers and its draw counter. -/
def RegsOnly (F : TRef → Thread → Thread) : Prop :=
  ∀ x th, F x th = { th with v := (F x th).v, p := (F x th).p, y := (F x th).y, draw := (F x th).draw }

theorem Acted.regEffect {l : List TRef} {F : TRef → Thread → Thread} {s t : State} (h : Acted l F s t) (b : Issue)
    (hl : ∀ x ∈ l, x ∈ b.threads) (hF : RegsOnly F) : RegEffect b s t := by
  refine ⟨h.same.onlyWaves, fun u => ?_, fun x hx => ?_, fun x _ => ?_, Chain.flags, ?_⟩
  · have e := h.same.2 u
    generalize t.wave u = w at *
    rw [e]
  · rw [h.thread, if_neg (fun e => hx (hl x e))]
  · rw [h.thread]
    split
    · exact hF x (s.thread x)
    · rfl
  · rw [h.same.1]; cases s.chain <;> rfl

theorem SameBut.regs {s t : State} (h : SameBut s t) :
    (∀ u r, t.sreg u r = s.sreg u r) ∧ (∀ u k, t.mreg u k = s.mreg u k) ∧ ∀ u, t.fpswOf u = s.fpswOf u := by
  have hs : ∀ u, (t.wave u).sprout = (s.wave u).sprout := fun u => (congrArg Wave.sprout (h.2 u)).trans rfl
  exact ⟨fun u => State.sreg_congr ((congrArg Wave.s (h.2 u)).trans rfl) (hs u),
    fun u => State.mreg_congr ((congrArg Wave.m (h.2 u)).trans rfl) (hs u), fun u => (congrArg Wave.fpsw (h.2 u)).trans rfl⟩

/-- The state in which an entry acts has the registers that the word found. -/
theorem Prepared.regs {s r : State} {i : Instr} {b : Issue} (h : Prepared s r i b) : RegsAre r s.vreg s.preg s.sreg s.mreg s.fpswOf := by
  have hv : ∀ x, (r.thread x).v = (s.thread x).v ∧ (r.thread x).p = (s.thread x).p := fun x => by
    by_cases hm : x ∈ b.threads
    · rw [h.mine x hm]; exact ⟨rfl, rfl⟩
    · rw [h.others x hm]; exact ⟨rfl, rfl⟩
  have hs : ∀ u, (r.wave u).sprout = (s.wave u).sprout := fun u => (congrArg Wave.sprout (h.wave u)).trans rfl
  refine ⟨fun x k => ?_, fun x k => ?_, fun u => State.sreg_congr ((congrArg Wave.s (h.wave u)).trans rfl) (hs u),
    fun u => State.mreg_congr ((congrArg Wave.m (h.wave u)).trans rfl) (hs u), fun u => (congrArg Wave.fpsw (h.wave u)).trans rfl⟩
  · simp only [State.vreg, hv]
  · simp only [State.preg, hv]

theorem Prepared.draw {s r : State} {i : Instr} {b : Issue} (h : Prepared s r i b) (x : TRef) : (r.thread x).draw = (s.thread x).draw := by
  by_cases hm : x ∈ b.threads
  · rw [h.mine x hm]
  · rw [h.others x hm]

/-! ## Units of an entry one after another -/

/-- The effects of the units of an entry, threads or groups of threads, one after another, and each thread with the flags of its unit. -/
def gather {α : Type} (refs : α → List TRef) (f : State → α → State × Nat) (us : List α) (r : State) : State × List (TRef × Nat) :=
  us.foldl (fun a e => ((f a.1 e).1, a.2 ++ (refs e).map fun x => (x, (f a.1 e).2))) (r, [])

/-- What holds before the first unit and is kept by each holds after the last. -/
theorem gather_induct {α : Type} (refs : α → List TRef) (f : State → α → State × Nat) (us : List α) (r : State) (fl : TRef → Nat)
    (P : List α → State → Prop) (h0 : P [] r)
    (hs : ∀ done e rest s, us = done ++ e :: rest → P done s → P (done ++ [e]) (f s e).1 ∧ ∀ x ∈ refs e, (f s e).2 = fl x) :
    P us (gather refs f us r).1 ∧ (gather refs f us r).2 = (us.flatMap refs).map fun x => (x, fl x) := by
  have key : ∀ (rest done : List α) (a : State × List (TRef × Nat)), us = done ++ rest → P done a.1 →
      a.2 = (done.flatMap refs).map (fun x => (x, fl x)) →
      let q := rest.foldl (fun a e => ((f a.1 e).1, a.2 ++ (refs e).map fun x => (x, (f a.1 e).2))) a
      P us q.1 ∧ q.2 = (us.flatMap refs).map fun x => (x, fl x) := by
    intro rest
    induction rest with
    | nil =>
      intro done a hu hP ha
      rw [List.append_nil] at hu
      subst hu
      exact ⟨hP, ha⟩
    | cons e rest ih =>
      intro done a hu hP ha
      obtain ⟨h1, h2⟩ := hs done e rest a.1 hu hP
      refine ih (done ++ [e]) _ (by rw [hu, List.append_assoc]; rfl) h1 ?_
      have h3 : (refs e).map (fun x => (x, (f a.1 e).2)) = (refs e).map fun x => (x, fl x) :=
        List.map_congr_left fun x hx => by rw [h2 x hx]
      simp [ha, h3]
  exact key us [] (r, []) rfl h0 rfl

/-- Units that act each on threads of its own. -/
theorem gather_acted {α : Type} (refs : α → List TRef) (f : State → α → State × Nat) (us : List α) (r : State) (fl : TRef → Nat)
    (F : TRef → Thread → Thread) (hn : (us.flatMap refs).Nodup)
    (hf : ∀ s, ∀ e ∈ us, SameBut r s → (∀ x ∈ refs e, s.thread x = r.thread x) →
      Acted (refs e) F s (f s e).1 ∧ ∀ x ∈ refs e, (f s e).2 = fl x) :
    Acted (us.flatMap refs) F r (gather refs f us r).1 ∧ (gather refs f us r).2 = (us.flatMap refs).map fun x => (x, fl x) := by
  refine gather_induct refs f us r fl (fun done s => Acted (done.flatMap refs) F r s) (Acted.refl F r) fun done e rest s hu hP => ?_
  have hd : ∀ x ∈ done.flatMap refs, x ∉ refs e := fun x hx he => by
    rw [hu, List.flatMap_append, List.flatMap_cons] at hn
    exact (List.nodup_append.1 hn).2.2 x hx x (List.mem_append_left _ he) rfl
  obtain ⟨h1, h2⟩ := hf s e (by simp [hu]) hP.same fun x hx => by rw [hP.thread, if_neg (fun hm => hd x hm hx)]
  refine ⟨?_, h2⟩
  have : (done ++ [e]).flatMap refs = done.flatMap refs ++ refs e := by simp
  rw [this]
  exact hP.append h1 hd

/-- A map of zeros reads 0. -/
theorem fgetD_all (m : FMap Nat) (k : Nat) (h : ∀ e ∈ m, e.2 = 0) : fgetD m k 0 = 0 := by
  induction m with
  | nil => rfl
  | cons e m ih =>
    have h1 := h e (List.mem_cons_self ..)
    have h2 := ih fun c hc => h c (List.mem_cons_of_mem _ hc)
    simp only [fgetD, fget] at *
    split
    · exact h1
    · exact h2

/-- Threads that raise no flag leave the state as it is. -/
theorem raising_none (s t : State) (l : List TRef) : raising s t (l.map fun x => (x, 0)) = .ok t := by
  have h0 : ∀ (l : List TRef) (m : FMap Nat), (∀ e ∈ m, e.2 = 0) →
      ∀ e ∈ (l.map fun x => (x, 0)).foldl (fun m x => fput m x.1.u (fgetD m x.1.u 0 ||| x.2)) m, e.2 = 0 := by
    intro l
    induction l with
    | nil => exact fun _ h => h
    | cons x l ih =>
      intro m hm
      have hg : fgetD m x.u 0 = 0 := fgetD_all m x.u hm
      refine ih _ fun e he => ?_
      rcases mem_fput m x.u _ he with rfl | he
      · show fgetD m x.u 0 ||| 0 = 0
        rw [hg, Nat.zero_or]
      · exact hm e he
  rw [raising_ok s t _ fun x hx => ?_]
  · refine congrArg Res.ok (foldl_id _ _ _ fun e he => ?_)
    rw [h0 l [] (fun _ h => nomatch h) e he]; rfl
  · obtain ⟨y, -, rfl⟩ := List.mem_map.1 hx
    exact Nat.zero_and _

theorem gather_noFlags {α : Type} (refs : α → List TRef) (f : State → α → State) (us : List α) (r : State) :
    gather refs (fun s e => (f s e, 0)) us r = (us.foldl f r, (us.flatMap refs).map fun x => (x, 0)) := by
  have h : ∀ (us : List α) (a : State × List (TRef × Nat)), us.foldl (fun a e => (f a.1 e, a.2 ++ (refs e).map fun x => (x, 0))) a
      = (us.foldl f a.1, a.2 ++ (us.flatMap refs).map fun x => (x, 0)) := by
    intro us
    induction us with
    | nil => intro a; simp
    | cons e us ih => intro a; simp [ih]
  exact h us (r, [])

theorem mathThreads_eq (l : List TRef) (s : State) (f : State → TRef → State × Nat) :
    mathThreads l s f = raising s (gather (fun x => [x]) f l s).1 (gather (fun x => [x]) f l s).2 := rfl

/-- Threads that meet no cause are threads that raise no flag. -/
theorem perThread_ok (l : List TRef) (s : State) (f : State → TRef → State) :
    perThread l s (fun s x => .ok (f s x)) = mathThreads l s fun s x => (f s x, 0) := by
  have h1 : ∀ (l : List TRef) (s : State), l.foldl (fun (a : State × List Hit) t =>
      match (Except.ok (f a.1 t) : Except Hit State) with
        | .ok s' => (s', a.2)
        | .error h => (a.1, a.2 ++ [h])) (s, []) = (l.foldl f s, []) := by
    intro l
    induction l with
    | nil => exact fun _ => rfl
    | cons x l ih => exact fun s => ih (f s x)
  rw [mathThreads_eq, gather_noFlags, List.flatMap_singleton', raising_none]
  exact congrArg (fun q : State × List Hit => if q.2.isEmpty then Res.ok q.1 else .trap (firstHits q.2) []) (h1 l s)

/-- A word completes whose active threads have acted, none with an enabled flag. -/
theorem Runs.completeActed {s : State} {i : Instr} {b : Issue} (h : Runs s i b) (body : State → List TRef → Res)
    (hx : exec i s = runWord i body s) {fl : TRef → Nat}
    {l : List TRef} (hl : l.Perm (s.actives i b)) {t : State}
    (hb : body (s.prepared i b) (s.actives i b) = raising (s.prepared i b) t (l.map fun x => (x, fl x)))
    {F : TRef → Thread → Thread} (ha : Acted l F (s.prepared i b) t) (hF : RegsOnly F) (hd : ∀ x th, (F x th).draw = th.draw)
    {v : TRef → Nat → Word} {p : TRef → Nat → Bool} (hv : ∀ x k, t.vreg x k = v x k) (hp : ∀ x k, t.preg x k = p x k) :
    FpCompletes i b s v p fl fun _ => 0 := by
  intro _ hfl
  have hq := s.prepared_spec i b h.nodup
  obtain ⟨hs, hm, hf⟩ := ha.same.regs
  have hr : RegsAre t v p s.sreg s.mreg s.fpswOf := ⟨hv, hp, fun u r => (hs u r).trans (hq.regs.q u r),
    fun u k => (hm u k).trans (hq.regs.m u k), fun u => (hf u).trans (hq.regs.f u)⟩
  have he := ha.regEffect b (fun x hxl => (List.mem_filter.1 (hl.mem_iff.1 hxl)).1) hF
  obtain ⟨t', h1, h2, h3, h4, h5⟩ := h.completeRaising body hx hfl hl hb he hr
  refine ⟨t', h1, h2, h3, fun x => ?_, h5⟩
  rw [h4, ha.thread, ite_self, ← hq.draw x]
  split <;> simp [hd]

/-- Without flags a word that raises its flags leaves FPSW as it is. -/
theorem FpCompletes.completes {s : State} {i : Instr} {b : Issue} {v p} (h : FpCompletes i b s v p (fun _ => 0) fun _ => 0)
    (hr : Runs s i b) : Completes i b s v p s.sreg s.mreg s.fpswOf := by
  obtain ⟨t, h1, h2, h3, h4, h5⟩ := h hr fun x _ => Nat.zero_and _
  have h0 : ∀ u, s.flagsOf i b (fun _ => 0) u = 0 := fun u => foldl_id _ _ _ fun _ _ => Nat.zero_or _
  exact ⟨t, h1, h2, h3, fun x => by simpa using h4 x, h5.v, h5.p, h5.q, h5.m, fun u => by simpa [h0] using h5.f u⟩

/-! ## Predicates -/

/-- A thread with a predicate written (R52). -/
def Thread.withPred (th : Thread) (p : Nat) (c : Bool) : Thread :=
  if p ≥ 7 then th else { th with p := if c then th.p ||| BitVec.ofNat 7 (2 ^ p) else th.p &&& ~~~(BitVec.ofNat 7 (2 ^ p)) }

theorem Thread.withPred_eq (th : Thread) (p : Nat) (c : Bool) : th.withPred p c = { th with p := (th.withPred p c).p } := by
  unfold Thread.withPred; split <;> rfl

theorem Acted.setP (s : State) (x : TRef) (p : Nat) (c : Bool) : Acted [x] (fun _ th => th.withPred p c) s (s.setP x p c) := by
  unfold State.setP Thread.withPred
  by_cases hp : p ≥ 7
  · simp only [hp, if_true]
    exact ⟨SameBut.refl s, fun y => (ite_self _).symm⟩
  · simp only [hp, if_false]
    refine ⟨SameBut.modThread s x _, fun y => ?_⟩
    rw [State.thread_modThread]
    by_cases hy : y = x
    · subst hy; simp
    · simp [hy]

/-- A thread with the pair of predicates of a compare or a vote written, the second last (R91). -/
def putPair (d : BitVec 8) (pair : TRef → Bool × Bool) (x : TRef) (th : Thread) : Thread :=
  (th.withPred (d.extractLsb' 0 3).toNat (pair x).1).withPred (d.extractLsb' 3 3).toNat (pair x).2

theorem putPair_eq (d : BitVec 8) (pair : TRef → Bool × Bool) (x : TRef) (th : Thread) :
    putPair d pair x th = { th with p := (putPair d pair x th).p } := by
  unfold putPair
  rw [Thread.withPred_eq, Thread.withPred_eq th]

theorem Acted.pair (s : State) (x : TRef) (d : BitVec 8) (pair : TRef → Bool × Bool) :
    Acted [x] (putPair d pair) s
      ((s.setP x (d.extractLsb' 0 3).toNat (pair x).1).setP x (d.extractLsb' 3 3).toNat (pair x).2) := by
  refine ((Acted.setP s x _ _).comp (Acted.setP _ x _ _)).congr (fun _ => Iff.rfl) fun y hy => ?_
  rw [List.mem_singleton.1 hy]; rfl

/-- The pair by PM is written from the value that its second predicate had before (R91). -/
theorem Acted.setPair (s : State) (x : TRef) (d : BitVec 8) (pm : Nat) (r un : Bool) {pair : TRef → Bool × Bool}
    (h1 : (pair x).1 = r) (h2 : (pair x).2 = pmSecond pm r un (s.preg x (d.extractLsb' 3 3).toNat)) :
    Acted [x] (putPair d pair) s (s.setPair x d pm r un) := by
  have h := Acted.pair s x d pair
  rw [h1, h2] at h
  exact h

/-- The predicates of threads that have written a pair. -/
theorem Acted.preg_putPair {s t : State} {i : Instr} {b : Issue} {l : List TRef} {d : BitVec 8} {pair : TRef → Bool × Bool}
    (ha : Acted l (putPair d pair) (s.prepared i b) t) (hq : Prepared s (s.prepared i b) i b) (hl : ∀ x, x ∈ l ↔ x ∈ s.actives i b)
    (x : TRef) (k : Nat) : t.preg x k = s.pPair i b d pair x k := by
  have h0 : ∀ k, (s.prepared i b).preg x k = s.preg x k := hq.regs.p x
  by_cases hx : x ∈ s.actives i b
  · have e : t.thread x = (((s.prepared i b).setP x (d.extractLsb' 0 3).toNat (pair x).1).setP x (d.extractLsb' 3 3).toNat (pair x).2).thread x := by
      rw [ha.thread, if_pos ((hl x).2 hx), (Acted.pair _ x d pair).thread, if_pos (List.mem_singleton.2 rfl)]
    have e2 : t.preg x k = (((s.prepared i b).setP x (d.extractLsb' 0 3).toNat (pair x).1).setP x (d.extractLsb' 3 3).toNat (pair x).2).preg x k := by
      simp only [State.preg, e]
    rw [e2, State.preg_setP, State.preg_setP, h0]
    simp only [State.pPair, hx, true_and]
    grind
  · have e : t.preg x k = (s.prepared i b).preg x k := by
      simp only [State.preg, ha.thread, if_neg (fun h => hx ((hl x).1 h))]
    simp [State.pPair, hx, e, h0]

theorem Acted.vreg_putPair {s t : State} {i : Instr} {b : Issue} {l : List TRef} {d : BitVec 8} {pair : TRef → Bool × Bool}
    (ha : Acted l (putPair d pair) (s.prepared i b) t) (hq : Prepared s (s.prepared i b) i b)
    (x : TRef) (k : Nat) : t.vreg x k = s.vreg x k := by
  rw [← hq.regs.v x k, State.vreg, ha.thread, putPair_eq]
  split <;> rfl

/-- A word completes whose active threads have written pairs of predicates, none with an enabled flag. -/
theorem Runs.completePairs {s : State} {i : Instr} {b : Issue} (h : Runs s i b) (body : State → List TRef → Res)
    (hx : exec i s = runWord i body s) {fl : TRef → Nat}
    {l : List TRef} (hl : l.Perm (s.actives i b)) {t : State}
    (hb : body (s.prepared i b) (s.actives i b) = raising (s.prepared i b) t (l.map fun x => (x, fl x)))
    {d : BitVec 8} {pair : TRef → Bool × Bool} (ha : Acted l (putPair d pair) (s.prepared i b) t) :
    FpCompletes i b s s.vreg (s.pPair i b d pair) fl fun _ => 0 := by
  have hq := s.prepared_spec i b h.nodup
  exact h.completeActed body hx hl hb ha (fun x th => by rw [putPair_eq]) (fun x th => by rw [putPair_eq])
    (ha.vreg_putPair hq) (ha.preg_putPair hq fun _ => hl.mem_iff)

/-- A word whose active threads each write a pair of predicates from their own registers, and may raise flags. -/
theorem mathPairs {s : State} {i : Instr} {b : Issue} (body : State → List TRef → Res) (hx : exec i s = runWord i body s)
    (f : State → TRef → State × Nat) (hbody : ∀ r l, body r l = mathThreads l r f) {fl : TRef → Nat} {d : BitVec 8}
    {pair : TRef → Bool × Bool}
    (hf : ∀ r x, SeesSame s r x → Acted [x] (putPair d pair) r (f r x).1 ∧ (f r x).2 = fl x) :
    FpCompletes i b s s.vreg (s.pPair i b d pair) fl fun _ => 0 := by
  intro h hfl
  have hq := s.prepared_spec i b h.nodup
  have hn : ((s.actives i b).flatMap fun x => [x]).Nodup := by
    rw [List.flatMap_singleton']; exact h.nodup.sublist List.filter_sublist
  obtain ⟨h1, h2⟩ := gather_acted (fun x => [x]) f (s.actives i b) (s.prepared i b) fl (putPair d pair) hn fun r x hxa hsb he => by
    have hs : SeesSame s r x := (hq.sees x hxa).trans (hsb.sees (he x (List.mem_singleton.2 rfl)))
    exact ⟨(hf r x hs).1, fun y hy => by rw [List.mem_singleton.1 hy]; exact (hf r x hs).2⟩
  rw [List.flatMap_singleton'] at h1 h2
  refine h.completePairs body hx (List.Perm.refl _) ?_ h1 h hfl
  rw [hbody, mathThreads_eq, h2]

/-- A word whose active threads each write a pair of predicates from their own registers. -/
theorem eachPair {s : State} {i : Instr} {b : Issue} (f : State → TRef → State)
    (hx : exec i s = runWord i (fun r l => perThread l r fun r x => .ok (f r x)) s) {d : BitVec 8} {pair : TRef → Bool × Bool}
    (hf : ∀ r x, SeesSame s r x → Acted [x] (putPair d pair) r (f r x)) (h : Runs s i b) :
    GivesP i b s (s.pPair i b d pair) :=
  (mathPairs _ hx (fun r x => (f r x, 0)) (fun r l => perThread_ok l r f) fun r x hs => ⟨hf r x hs, rfl⟩).completes h

end Sys2Proof.Machine
end
section
/-! PROOF. Compares (R91, R134, R206, R207). -/

namespace Sys2Proof.Machine

/-- The test of a compare of integers, by CMP (R134). -/
theorem intCompare_eq (cmp : Nat) (a c : Int) (x y : Nat) : intCompare cmp a c x y = (match cmp with
    | 0 => decide (a = c) | 1 => decide (a ≠ c) | 2 => decide (a < c) | 3 => decide (a ≤ c) | 4 => decide (a > c)
    | 5 => decide (a ≥ c) | _ => decide (x &&& y ≠ 0)) := by
  match cmp with
  | 0 | 1 | 2 | 3 | 4 | 5 => rfl
  | _ + 6 => exact (decide_not ..).symm

/-- The bits of a word read as signed are its signed value. -/
theorem sext_toNat {n : Nat} (x : BitVec n) : sext x.toNat n = x.toInt := by
  have h := x.isLt
  rw [BitVec.toInt_eq_msb_cond, BitVec.msb_eq_getLsbD_last, BitVec.getLsbD, sext]
  norm_cast
  rw [Nat.mod_eq_of_lt h]

/-- The immediate of ICMPI, as a number of 32 bits (R54, R134). -/
theorem immOf_one (h : Hdr) (g : FmtI) (signed : Bool) : immOf h g signed 1 = (match h.imx with
    | some x => x.toNat
    | none => if signed then (g.imm.toInt % 2 ^ 32).toNat else g.imm.toNat) := by
  unfold immOf
  cases h.imx with
  | none => simp [sextTo, wrapWords, sext_toNat]
  | some x =>
    have hx : (x.toInt % 2 ^ 32).toNat = x.toNat := by
      exact_mod_cast (BitVec.toNat_ofInt x.toInt).symm.trans (congrArg BitVec.toNat BitVec.ofInt_toInt)
    cases signed
    · rfl
    · simpa [sextTo, wrapWords, sext_toNat] using hx

theorem fpTy_eq (f : FmtF) (dflt : Nat) : fpTy f dflt = if tyOf f.mod = 0 then dflt else tyOf f.mod := by
  simp [fpTy]

/-- FCMP and DCMP write their pair by PM (R206). -/
theorem fcmpWord_completes (s : State) (b : Issue) (h : Hdr) (f : FmtF) (i : Instr) (ty n : Nat)
    (hx : ∀ r, exec i r = runWord i (fcmpWord h f ty n) r) :
    let r := fun x => cmpCodes ty (tyBits ty) (f.mod.extractLsb' 4 3).toNat (s.srcNat x h f.a f.ua n) (s.srcNat x h f.b f.ub n)
      (f.mod.getLsbD 1) (f.mod.getLsbD 0)
    FpCompletes i b s s.vreg
      (s.pPair i b f.d fun x => ((r x).1,
        pmSecond (f.mod.extractLsb' 2 2).toNat (r x).1 (r x).2.1 (s.preg x (f.d.extractLsb' 3 3).toNat)))
      (fun x => (r x).2.2) fun _ => 0 := by
  refine mathPairs _ (hx s) _ (fun _ _ => rfl) fun q x hs => ?_
  simp only [hs.srcNat]
  exact ⟨Acted.setPair q x f.d _ _ _ rfl (by rw [hs.preg]), trivial⟩

/-- Settles O5: each compare is its threads' pairs written one after another, each from its thread's own registers. -/
theorem comparesWritePredicates : Obligations.ComparesWritePredicates := by
  unfold Obligations.ComparesWritePredicates
  refine ⟨fun s b h f g => ⟨?_, ?_⟩, fun s b h f => ⟨?_, ?_, ?_⟩⟩
  case refine_1 =>
    refine eachPair _ rfl fun q x hs => Acted.setPair q x f.d _ _ _ ?_ ?_
    · simp only [State.fa, State.fb, hs.srcNat]
      exact (intCompare_eq ..).symm
    · simp only [State.fa, State.fb, hs.srcNat, hs.preg, intCompare_eq]
      rfl
  case refine_2 =>
    refine eachPair _ rfl fun q x hs => Acted.setPair q x g.d _ _ _ ?_ ?_
    · simp only [hs.srcNat, immOf_one, beq_iff_eq]
      exact (intCompare_eq ..).symm
    · simp only [hs.srcNat, hs.preg, intCompare_eq, immOf_one, beq_iff_eq]
      rfl
  case refine_3 => exact fcmpWord_completes s b h f _ _ _ fun _ => by rw [← fpTy_eq]; rfl
  case refine_4 => exact fcmpWord_completes s b h f _ _ _ fun _ => rfl
  case refine_5 =>
    refine mathPairs _ rfl _ (fun _ _ => rfl) fun q x hs => ?_
    simp only [hs.srcNat, fpTy_eq, Nat.mul_zero, Nat.pow_zero, Nat.div_one, Nat.mul_one, Nat.reducePow]
    exact ⟨Acted.pair q x f.d _, trivial⟩

end Sys2Proof.Machine
end
section
/-! SUPPORT. Exchanges (R112, R113): the groups that carry an exchange out, and what a group does. -/

namespace Sys2Proof.Machine

/-! ## Threads in order -/

theorem insertBy_perm {α : Type} (key : α → Nat) (x : α) (l : List α) : (insertBy key x l).Perm (x :: l) := by
  induction l with
  | nil => exact List.Perm.refl _
  | cons y l ih =>
    unfold insertBy
    split
    · exact List.Perm.refl _
    · exact (ih.cons y).trans (List.Perm.swap ..)

theorem sortBy_perm {α : Type} (key : α → Nat) (l : List α) : (sortBy key l).Perm l := by
  have h : ∀ (l acc : List α), (l.foldl (fun acc x => insertBy key x acc) acc).Perm (acc ++ l) := by
    intro l
    induction l with
    | nil => intro acc; simp
    | cons x l ih =>
      intro acc
      exact (ih _).trans (((insertBy_perm key x acc).append_right l).trans List.perm_middle.symm)
  exact h l []

theorem mem_threadsOf {l : List TRef} {u j : Nat} : j ∈ threadsOf l u ↔ (⟨u, j⟩ : TRef) ∈ l := by
  simp only [threadsOf, (sortBy_perm id _).mem_iff, List.mem_map, List.mem_filter, beq_iff_eq]
  constructor
  · rintro ⟨⟨_, _⟩, ⟨h, rfl⟩, rfl⟩; exact h
  · exact fun h => ⟨_, ⟨h, rfl⟩, rfl⟩

theorem nodup_threadsOf {l : List TRef} (hl : l.Nodup) (u : Nat) : (threadsOf l u).Nodup := by
  refine (sortBy_perm id _).nodup_iff.2 (List.Nodup.map_on (fun x hx y hy h => ?_) (hl.filter _))
  have h1 : x.u = u := by simpa using (List.mem_filter.1 hx).2
  have h2 : y.u = u := by simpa using (List.mem_filter.1 hy).2
  exact TRef.ext_iff'.2 ⟨h1.trans h2.symm, h⟩

theorem nodup_wavesOf (l : List TRef) : (wavesOf l).Nodup := by
  have h : ∀ (m acc : List Nat), acc.Nodup → (m.foldl (fun acc x => if acc.contains x then acc else acc ++ [x]) acc).Nodup := by
    intro m
    induction m with
    | nil => exact fun _ h => h
    | cons a m ih =>
      intro acc hn
      refine ih _ ?_
      dsimp only
      split
      next => exact hn
      next hc =>
        refine List.nodup_append.2 ⟨hn, by simp, fun b hb c hc' e => ?_⟩
        rw [List.mem_singleton] at hc'
        subst e hc'
        exact hc (by simpa using hb)
  exact h _ [] List.nodup_nil

/-! ## Who takes part -/

/-- The waves have the same live threads. -/
def SameLive (s t : State) : Prop := ∀ u j, j ∈ (t.wave u).live ↔ j ∈ (s.wave u).live

theorem Wave.mem_live (w : Wave) (j : Nat) : j ∈ w.live ↔ ∃ th, (j, th) ∈ w.threads ∧ th.st ≠ .exited := by
  simp [Wave.live]

theorem mem_of_fget {α : Type} (m : FMap α) (k : Nat) (v : α) (h : fget m k = some v) : (k, v) ∈ m := by
  induction m with
  | nil => simp [fget] at h
  | cons e m ih =>
    obtain ⟨a, w⟩ := e
    simp only [fget] at h
    split at h
    next ha => subst ha; cases h; exact List.mem_cons_self ..
    next => exact List.mem_cons_of_mem _ (ih h)

/-- Where a key is listed, a test that its new value passes as its old one did finds the same keys. -/
theorem fput_keys {α : Type} (P : α → Prop) (m : FMap α) (k : Nat) (v w : α) (hg : fget m k = some v) (hP : P w ↔ P v) (j : Nat) :
    (∃ x, (j, x) ∈ fput m k w ∧ P x) ↔ ∃ x, (j, x) ∈ m ∧ P x := by
  induction m with
  | nil => simp [fget] at hg
  | cons e m ih =>
    obtain ⟨a, z⟩ := e
    have hm := mem_of_fget _ _ _ hg
    simp only [fput]
    split
    next h1 =>
      constructor
      · rintro ⟨x, hx, hp⟩
        rcases List.mem_cons.1 hx with e | hx
        · cases e; exact ⟨v, hm, hP.1 hp⟩
        · exact ⟨x, hx, hp⟩
      · exact fun ⟨x, hx, hp⟩ => ⟨x, List.mem_cons_of_mem _ hx, hp⟩
    next h1 =>
      split
      next h2 =>
        subst h2
        simp only [fget, if_true, Option.some.injEq] at hg
        subst hg
        simp only [List.mem_cons, Prod.mk.injEq]
        grind
      next h2 =>
        have := ih (by simpa [fget, Ne.symm h2] using hg)
        simp only [List.mem_cons, Prod.mk.injEq]
        grind

theorem SameLive.trans {s t q : State} (h1 : SameLive s t) (h2 : SameLive t q) : SameLive s q :=
  fun u j => (h2 u j).trans (h1 u j)

/-- The thread is in its wave's list. -/
def State.listed (s : State) (x : TRef) : Prop := (fget (s.wave x.u).threads x.i).isSome = true

theorem State.modThread_live (s : State) (x : TRef) (f : Thread → Thread) (hx : s.listed x) (hf : ∀ th, (f th).st = th.st) :
    SameLive s (s.modThread x f) := by
  intro u j
  rw [State.modThread, State.wave_setThread]
  split
  next e =>
    subst e
    obtain ⟨th, hth⟩ := Option.isSome_iff_exists.1 hx
    rw [Wave.mem_live, Wave.mem_live]
    refine fput_keys (fun th => th.st ≠ .exited) _ x.i th _ hth ?_ j
    have : s.thread x = th := by simp [State.thread, Wave.thread, fgetD, hth]
    rw [this, hf]
  next => exact Iff.rfl

theorem State.listed_modThread (s : State) (x y : TRef) (f : Thread → Thread) (hy : s.listed y) : (s.modThread x f).listed y := by
  unfold State.listed at *
  rw [State.modThread, State.wave_setThread]
  split
  next e =>
    simp only [Wave.setThread, fget_fput]
    split
    · rfl
    · rw [← e]; exact hy
  next => exact hy

theorem State.modAll_live (l : List TRef) (s : State) (F : TRef → Thread → Thread) (hl : ∀ x ∈ l, s.listed x)
    (hF : ∀ x th, (F x th).st = th.st) : SameLive s (s.modAll l F) ∧ ∀ x, s.listed x → (s.modAll l F).listed x := by
  induction l generalizing s with
  | nil => exact ⟨fun _ _ => Iff.rfl, fun _ h => h⟩
  | cons x l ih =>
    obtain ⟨h1, h2⟩ := ih (s.modThread x (F x)) fun y hy => s.listed_modThread x y _ (hl y (List.mem_cons_of_mem _ hy))
    exact ⟨(s.modThread_live x _ (hl x (List.mem_cons_self ..)) (hF x)).trans h1, fun y hy => h2 y (s.listed_modThread x y _ hy)⟩

/-- Before its entry acts a word makes no thread live or exited. -/
theorem State.prepared_live (s : State) (i : Instr) (b : Issue) (hl : ∀ x ∈ b.threads, s.listed x) : SameLive s (s.prepared i b) := by
  have hw : ∀ u, (s.openChain i b).wave u = s.wave u := fun u => by simp [State.wave, State.openChain_waves]
  have h0 : ∀ x ∈ b.threads, (s.openChain i b).listed x := fun x hx => by simpa [State.listed, hw] using hl x hx
  obtain ⟨h1, h2⟩ := State.modAll_live b.threads (s.openChain i b)
    (fun _ th => { th with pc := b.nextPc, readyAt := (s.openChain i b).steps, go := 0, at_ := b.unitPc, step := (s.openChain i b).steps })
    h0 fun _ _ => rfl
  have e := (s.openChain i b).advance_eq b
  rw [← e] at h1 h2
  have h3 : SameLive s ((s.openChain i b).advance b) := fun u j => (h1 u j).trans (by rw [hw])
  unfold State.prepared
  generalize (s.openChain i b).advance b = a at *
  rcases a.shiftIdle_eq i b with e | ⟨Y, e⟩
  · rw [e]; exact h3
  · rw [e]
    exact h3.trans (State.modAll_live _ a (fun x th => { th with y := Y x th.y })
      (fun x hx => h2 x (h0 x (List.mem_filter.1 hx).1)) fun _ _ => rfl).1

/-- A selector names the same threads in the state in which the entry acts, and those of the gang are the bundle's (R112, R113). -/
theorem Runs.takesPart {s : State} {i : Instr} {b : Issue} (h : Runs s i b) (sel : Nat) (x : TRef) :
    (s.prepared i b).takesPart sel x = s.isIn b sel x := by
  have hq := s.prepared_spec i b h.nodup
  have hl := s.prepared_live i b h.there
  have hi : (s.prepared i b).issue = some b := by rw [hq.only]; exact h.issue
  have hp : ((s.prepared i b).participants x.u sel).contains x.i = (s.participants x.u sel).contains x.i := by
    have e1 : ((s.prepared i b).wave x.u).isSprout = (s.wave x.u).isSprout := by rw [hq.wave x.u]; rfl
    have e2 : ((s.prepared i b).wave x.u).width = (s.wave x.u).width := by rw [hq.wave x.u]
    unfold State.participants
    simp only [e1, e2, hq.regs.m]
    split
    · rfl
    · split
      · rw [Bool.eq_iff_iff]; simpa using hl x.u x.i
      · rfl
  simp only [State.takesPart, State.isIn, hi, hp, Option.map_some, Option.getD_some]

/-! ## The groups -/

/-- The threads of a group. -/
def groupRefs (e : Nat × List Nat) : List TRef := e.2.map fun j => ⟨e.1, j⟩

theorem mem_groupRefs {e : Nat × List Nat} {x : TRef} : x ∈ groupRefs e ↔ x.u = e.1 ∧ x.i ∈ e.2 := by
  obtain ⟨u, j⟩ := x
  simp only [groupRefs, List.mem_map, TRef.mk.injEq]
  grind

/-- A wave's groups: its participants together, each other thread alone. -/
def State.waveGroups (s : State) (sel : Nat) (l : List TRef) (u : Nat) : List (Nat × List Nat) :=
  (if ((threadsOf l u).filter fun j => s.takesPart sel ⟨u, j⟩).isEmpty then []
    else [(u, (threadsOf l u).filter fun j => s.takesPart sel ⟨u, j⟩)])
  ++ ((threadsOf l u).filter fun j => !s.takesPart sel ⟨u, j⟩).map fun j => (u, [j])

theorem State.groups_eq (s : State) (sel : Nat) (l : List TRef) : s.groups sel l = (wavesOf l).flatMap (s.waveGroups sel l) := rfl

/-- The threads of a wave's groups are its threads. -/
theorem State.waveGroups_refs (s : State) (sel : Nat) (l : List TRef) (u : Nat) :
    ((s.waveGroups sel l u).flatMap groupRefs).Perm ((threadsOf l u).map fun j => ⟨u, j⟩) := by
  have h : (s.waveGroups sel l u).flatMap groupRefs = ((threadsOf l u).filter (fun j => s.takesPart sel ⟨u, j⟩)
      ++ (threadsOf l u).filter fun j => !s.takesPart sel ⟨u, j⟩).map fun j => (⟨u, j⟩ : TRef) := by
    unfold State.waveGroups
    rw [List.flatMap_append, List.map_append, List.flatMap_map]
    congr 1
    · split
      next he => rw [List.isEmpty_iff.1 he]; rfl
      next => simp [groupRefs]
    · exact (List.map_eq_flatMap ..).symm
  rw [h]
  exact (List.filter_append_perm ..).map _

/-- The groups' threads are the active threads, each in one group. -/
theorem State.groups_refs (s : State) (sel : Nat) (l : List TRef) (hl : l.Nodup) : ((s.groups sel l).flatMap groupRefs).Perm l := by
  rw [State.groups_eq, List.flatMap_assoc]
  refine (List.Perm.flatMap_left _ fun u _ => s.waveGroups_refs sel l u).trans ?_
  refine (List.perm_ext_iff_of_nodup (List.nodup_flatMap.2 ⟨fun u _ => ?_, ?_⟩) hl).2 fun x => ?_
  · exact (nodup_threadsOf hl u).map fun a c e => (TRef.mk.inj e).2
  · refine (nodup_wavesOf l).imp fun hne x h1 h2 => ?_
    obtain ⟨_, -, rfl⟩ := List.mem_map.1 h1
    obtain ⟨_, -, e⟩ := List.mem_map.1 h2
    exact hne (TRef.mk.inj e).1.symm
  · simp only [List.mem_flatMap, List.mem_map, mem_threadsOf]
    constructor
    · rintro ⟨u, -, j, hj, rfl⟩; exact hj
    · exact fun hx => ⟨x.u, wavesOf_mem hx, x.i, hx, rfl⟩

/-- A thread's group are those that carry the exchange out with it. -/
theorem Runs.group_mates {s : State} {i : Instr} {b : Issue} (h : Runs s i b) (sel : Nat) {e : Nat × List Nat}
    (he : e ∈ (s.prepared i b).groups sel (s.actives i b)) {j : Nat} (hj : j ∈ e.2) :
    (⟨e.1, j⟩ : TRef) ∈ s.actives i b ∧ s.mates i b sel ⟨e.1, j⟩ = e.2 := by
  rw [State.groups_eq] at he
  obtain ⟨u, -, he⟩ := List.mem_flatMap.1 he
  simp only [State.waveGroups, h.takesPart] at he
  rcases List.mem_append.1 he with he | he
  · split at he
    · exact absurd he List.not_mem_nil
    · obtain rfl := List.mem_singleton.1 he
      obtain ⟨h1, h2⟩ := List.mem_filter.1 hj
      exact ⟨mem_threadsOf.1 h1, by simp [State.mates, h2]⟩
  · obtain ⟨k, hk, rfl⟩ := List.mem_map.1 he
    obtain rfl := List.mem_singleton.1 hj
    obtain ⟨h1, h2⟩ := List.mem_filter.1 hk
    exact ⟨mem_threadsOf.1 h1, by simp [State.mates, by simpa using h2]⟩

theorem State.mates_nodup (s : State) (i : Instr) (b : Issue) (hn : b.threads.Nodup) (sel : Nat) (x : TRef) : (s.mates i b sel x).Nodup := by
  unfold State.mates
  split
  · exact (nodup_threadsOf (hn.filter _) x.u).filter _
  · simp

theorem State.mem_mates_active {s : State} {i : Instr} {b : Issue} {sel : Nat} {x : TRef} (hx : x ∈ s.actives i b) {j : Nat}
    (hj : j ∈ s.mates i b sel x) : (⟨x.u, j⟩ : TRef) ∈ s.actives i b := by
  unfold State.mates at hj
  split at hj
  · exact mem_threadsOf.1 (List.mem_filter.1 hj).1
  · rw [List.mem_singleton.1 hj]; exact hx

theorem State.self_mem_mates {s : State} {i : Instr} {b : Issue} {sel : Nat} {x : TRef} (hx : x ∈ s.actives i b) :
    x.i ∈ s.mates i b sel x := by
  unfold State.mates
  split
  next h => exact List.mem_filter.2 ⟨mem_threadsOf.2 hx, h⟩
  next => exact List.mem_singleton.2 rfl

end Sys2Proof.Machine
end
section
/-! SUPPORT. Exchanges (R113 to R120): an exchange completes with what its groups do, to threads or to their waves. -/

namespace Sys2Proof.Machine

/-! ## Threads of a group -/

theorem exchangeWord_eq (f : FmtF) (g : State → State → Nat → List Nat → State × Nat) (s : State) (l : List TRef) :
    exchangeWord f g s l = raising s (gather groupRefs (fun q e => g s q e.1 e.2) (s.groups f.c.toNat l) s).1
      (gather groupRefs (fun q e => g s q e.1 e.2) (s.groups f.c.toNat l) s).2 := by
  simp only [exchangeWord, raising, gather, groupRefs, List.map_map]
  rfl

/-- Threads of a group act one after another. -/
theorem Acted.ofGroup {F : TRef → Thread → Thread} (f : State → Nat → State) (u : Nat) (l : List Nat) (hn : l.Nodup)
    (hf : ∀ q, ∀ j ∈ l, Acted [⟨u, j⟩] F q (f q j)) (q : State) : Acted (groupRefs (u, l)) F q (l.foldl f q) := by
  induction l generalizing q with
  | nil => exact Acted.refl F q
  | cons j l ih =>
    obtain ⟨hj, hl⟩ := List.nodup_cons.1 hn
    refine (hf q j (List.mem_cons_self ..)).append (ih hl (fun q k hk => hf q k (List.mem_cons_of_mem _ hk)) _) fun x hx hm => ?_
    have hm := ((mem_groupRefs (e := (u, l))).1 hm).2
    rw [List.mem_singleton.1 hx] at hm
    exact hj hm

/-- An exchange whose groups act each on its threads. -/
theorem Runs.exchange_acted {s : State} {i : Instr} {b : Issue} (h : Runs s i b) (f : FmtF) (g : State → State → Nat → List Nat → State × Nat)
    (F : TRef → Thread → Thread) (fl : TRef → Nat)
    (hg : ∀ q u l, l.Nodup → (∀ j ∈ l, (⟨u, j⟩ : TRef) ∈ s.actives i b ∧ s.mates i b f.c.toNat ⟨u, j⟩ = l) →
      Acted (groupRefs (u, l)) F q (g (s.prepared i b) q u l).1 ∧ ∀ j ∈ l, (g (s.prepared i b) q u l).2 = fl ⟨u, j⟩) :
    ∃ T t, T.Perm (s.actives i b) ∧ Acted T F (s.prepared i b) t
      ∧ exchangeWord f g (s.prepared i b) (s.actives i b) = raising (s.prepared i b) t (T.map fun x => (x, fl x)) := by
  have hn : (s.actives i b).Nodup := h.nodup.filter _
  have hp := (s.prepared i b).groups_refs f.c.toNat (s.actives i b) hn
  obtain ⟨h1, h2⟩ := gather_acted groupRefs (fun q e => g (s.prepared i b) q e.1 e.2)
    ((s.prepared i b).groups f.c.toNat (s.actives i b)) (s.prepared i b) fl F (hp.nodup_iff.2 hn) fun q e he _ _ => by
      have hm := fun j (hj : j ∈ e.2) => h.group_mates f.c.toNat he hj
      have hnd : e.2.Nodup := by
        rcases e.2.eq_nil_or_concat with h0 | ⟨l, j, h0⟩
        · rw [h0]; exact List.nodup_nil
        · rw [← (hm j (by simp [h0])).2]
          exact s.mates_nodup i b h.nodup _ _
      obtain ⟨h1, h2⟩ := hg q e.1 e.2 hnd hm
      refine ⟨h1, fun x hx => ?_⟩
      obtain ⟨hu, hi⟩ := mem_groupRefs.1 hx
      rw [h2 x.i hi, ← hu]
  exact ⟨_, _, hp, h1, by rw [exchangeWord_eq, h2]⟩

/-! ## Results of threads -/

/-- A thread with a result of class 5: unless W, in its v registers from D on. -/
def putResult (d : BitVec 8) (w : Bool) (n : Nat) (val : TRef → Nat) (x : TRef) (th : Thread) : Thread :=
  { th with v := if w then th.v else putWords th.v d.toNat (toWords (val x) n) }

theorem Acted.setVs (x : TRef) (l : List Word) (q : State) (r : Nat) :
    Acted [x] (fun _ th => { th with v := putWords th.v r l }) q (q.setVs x r l) := by
  induction l generalizing q r with
  | nil => exact ⟨SameBut.refl q, fun y => (ite_self _).symm⟩
  | cons a l ih =>
    have h1 : Acted [x] (fun _ th => { th with v := fsetD th.v r a 0 }) q (q.setV x r a) :=
      ⟨SameBut.modThread q x _, fun y => by
        rw [State.setV, State.thread_modThread]
        simp only [List.mem_singleton]
        split
        next e => rw [e]
        next => rfl⟩
    exact h1.comp (ih _ _)

theorem Acted.putV (q : State) (x : TRef) (d : BitVec 8) (w : Bool) (n : Nat) (val : TRef → Nat) :
    Acted [x] (putResult d w n val) q (q.putV x d w n (val x)) := by
  unfold State.putV putResult
  cases w with
  | true => exact ⟨SameBut.refl q, fun y => (ite_self _).symm⟩
  | false =>
    refine (Acted.setVs x (toWords (val x) n) q d.toNat).congr (fun _ => Iff.rfl) fun y hy => ?_
    rw [List.mem_singleton.1 hy]; rfl

theorem Acted.putGroup (q : State) (u : Nat) (l : List Nat) (hn : l.Nodup) (f : FmtF) (n : Nat) (v : Nat → Nat) (val : TRef → Nat)
    (hv : ∀ j ∈ l, v j = val ⟨u, j⟩) : Acted (groupRefs (u, l)) (putResult f.d f.w n val) q (q.putGroup u l f n v) :=
  Acted.ofGroup _ u l hn (fun q j hj => by rw [hv j hj]; exact Acted.putV q _ f.d f.w n val) q

/-- The v registers of threads that have taken a result. -/
theorem Acted.vreg_putResult {s t : State} {i : Instr} {b : Issue} {l : List TRef} {d : BitVec 8} {w : Bool} {n : Nat} {val : TRef → Nat}
    (ha : Acted l (putResult d w n val) (s.prepared i b) t) (hq : Prepared s (s.prepared i b) i b) (hl : ∀ x, x ∈ l ↔ x ∈ s.actives i b)
    (x : TRef) (k : Nat) : t.vreg x k = s.vGiven i b d w n val x k := by
  have h0 : fgetD ((s.prepared i b).thread x).v k 0 = s.vreg x k := hq.regs.v x k
  unfold State.vGiven
  rw [State.vreg, ha.thread, if_congr (hl x) rfl rfl]
  by_cases hx : x ∈ s.actives i b
  · simp only [hx, if_true, true_and, putResult]
    cases w
    · simp only [Bool.false_eq_true, if_false, true_and, fgetD_putWords, length_toWords, h0]
      split
      next hr => exact getD_toWords _ _ _ (by omega)
      next => rfl
    · simpa using h0
  · simpa [hx] using h0

/-- An exchange that gives each thread of a group a result, by the group's threads. -/
theorem Runs.exchangeV {s : State} {i : Instr} {b : Issue} (h : Runs s i b) (f : FmtF) (n : Nat) (vf : State → Nat → List Nat → Nat → Nat)
    (ff : State → Nat → List Nat → Nat)
    (hx : exec i s = runWord i (exchangeWord f fun s0 q u l => (q.putGroup u l f n (vf s0 u l), ff s0 u l)) s)
    {val fl : TRef → Nat}
    (hv : ∀ x ∈ s.actives i b, vf (s.prepared i b) x.u (s.mates i b f.c.toNat x) x.i = val x)
    (hf : ∀ x ∈ s.actives i b, ff (s.prepared i b) x.u (s.mates i b f.c.toNat x) = fl x) :
    FpCompletes i b s (s.vGiven i b f.d f.w n val) s.preg fl fun _ => 0 := by
  have hq := s.prepared_spec i b h.nodup
  obtain ⟨T, t, hT, ha, hb⟩ := h.exchange_acted f (fun s0 q u l => (q.putGroup u l f n (vf s0 u l), ff s0 u l))
      (putResult f.d f.w n val) fl fun q u l hn hm =>
    ⟨Acted.putGroup q u l hn f n (vf (s.prepared i b) u l) val fun j hj => by
        obtain ⟨hj1, hj2⟩ := hm j hj
        rw [← hv _ hj1, hj2],
      fun j hj => by
        obtain ⟨hj1, hj2⟩ := hm j hj
        rw [← hf _ hj1, hj2]⟩
  refine h.completeActed _ hx hT hb ha (fun _ _ => rfl) (fun _ _ => rfl) (ha.vreg_putResult hq fun _ => hT.mem_iff) fun x k => ?_
  rw [← hq.regs.p x k, State.preg, ha.thread]
  split <;> rfl

/-! ## Writes of a wave's registers -/

/-- Only uniform and mask registers of waves differ. -/
structure WaveRegs (s t : State) : Prop where
  rest : t = { s with waves := t.waves }
  wave : ∀ u, t.wave u = { s.wave u with s := (t.wave u).s, m := (t.wave u).m }

theorem WaveRegs.refl (s : State) : WaveRegs s s := ⟨rfl, fun _ => rfl⟩

theorem WaveRegs.trans {s t q : State} (h1 : WaveRegs s t) (h2 : WaveRegs t q) : WaveRegs s q :=
  ⟨by rw [h2.rest, h1.rest], fun u => by rw [h2.wave u, h1.wave u]⟩

theorem WaveRegs.isSprout {s t : State} (h : WaveRegs s t) (u : Nat) : (t.wave u).isSprout = (s.wave u).isSprout := by
  rw [h.wave u]; rfl

theorem WaveRegs.width {s t : State} (h : WaveRegs s t) (u : Nat) : (t.wave u).width = (s.wave u).width := by
  rw [h.wave u]

theorem WaveRegs.thread {s t : State} (h : WaveRegs s t) (x : TRef) : t.thread x = s.thread x := by
  rw [State.thread, h.wave x.u]; rfl

theorem WaveRegs.regEffect {s t : State} (h : WaveRegs s t) (b : Issue) : RegEffect b s t := by
  refine ⟨?_, fun u => ?_, fun x _ => h.thread x, fun x _ => by rw [h.thread x], Chain.flags, ?_⟩
  · unfold OnlyWaves; rw [h.rest]
  · have e := h.wave u
    generalize t.wave u = w at *
    rw [e]
  · rw [h.rest]; cases s.chain <;> rfl

theorem WaveRegs.setWave (s : State) (u : Nat) (w : Wave) (hw : w = { s.wave u with s := w.s, m := w.m }) : WaveRegs s (s.setWave u w) := by
  refine ⟨rfl, fun v => ?_⟩
  rw [State.wave_setWave]
  split
  next e => subst e; exact hw
  next => rfl

theorem WaveRegs.setM (s : State) (u k : Nat) (x : Dword) : WaveRegs s (s.setM u k x) := by
  unfold State.setM
  dsimp only
  split
  · exact WaveRegs.refl s
  · exact WaveRegs.setWave s u _ rfl

theorem WaveRegs.setS (s : State) (u r : Nat) (x : Word) : WaveRegs s (s.setS u r x) := by
  unfold State.setS
  dsimp only
  split
  · exact WaveRegs.refl s
  · exact WaveRegs.setWave s u _ rfl

theorem WaveRegs.setSs (l : List Word) (s : State) (u r : Nat) : WaveRegs s (s.setSs u r l) := by
  induction l generalizing s r with
  | nil => exact WaveRegs.refl s
  | cons x l ih => exact (WaveRegs.setS s u r x).trans (ih _ _)

/-- A mask register after one is written (R92, R98). -/
theorem State.mreg_setM (s : State) (u k : Nat) (x : Dword) (v r : Nat) : (s.setM u k x).mreg v r =
    if v = u ∧ r = k ∧ (s.wave u).isSprout = false then x &&& widthMask (s.wave u).width else s.mreg v r := by
  unfold State.setM
  dsimp only
  by_cases hs : (s.wave u).isSprout = true
  · simp [hs]
  · rw [if_neg hs]
    unfold State.mreg
    by_cases hv : v = u
    · subst hv
      rw [State.wave_setWave_same]
      simp only [Wave.isSprout] at *
      simp [hs, fgetD_fsetD]
    · simp [State.wave_setWave, hv]

theorem State.sreg_setWave_m (s : State) (u : Nat) (m : FMap Dword) (v r : Nat) :
    (s.setWave u { s.wave u with m := m }).sreg v r = s.sreg v r := by
  rw [State.sreg, State.wave_setWave]
  split
  next e => subst e; rfl
  next => rfl

theorem State.mreg_setWave_s (s : State) (u : Nat) (q : FMap Word) (v k : Nat) :
    (s.setWave u { s.wave u with s := q }).mreg v k = s.mreg v k := by
  rw [State.mreg, State.wave_setWave]
  split
  next e => subst e; rfl
  next => rfl

theorem State.sreg_setM (s : State) (u k : Nat) (x : Dword) (v r : Nat) : (s.setM u k x).sreg v r = s.sreg v r := by
  unfold State.setM
  dsimp only
  split
  · rfl
  · exact s.sreg_setWave_m u _ v r

/-- A uniform register after one is written (R327). -/
theorem State.sreg_setS (s : State) (u r : Nat) (x : Word) (v k : Nat) : (s.setS u r x).sreg v k =
    if v = u ∧ k = r ∧ ((s.wave u).isSprout = true → 8 ≤ r ∧ r < 16) then x else s.sreg v k := by
  unfold State.setS
  dsimp only
  by_cases hs : ((s.wave u).isSprout && (decide (r < 8) || decide (r ≥ 16))) = true
  · simp only [Bool.and_eq_true, Bool.or_eq_true, decide_eq_true_eq] at hs
    rw [if_pos (by simpa using hs), if_neg]
    rintro ⟨-, -, h3⟩
    have := h3 hs.1
    omega
  · rw [if_neg hs]
    simp only [Bool.and_eq_true, Bool.or_eq_true, decide_eq_true_eq] at hs
    unfold State.sreg
    by_cases hv : v = u
    · subst hv
      rw [State.wave_setWave_same]
      simp only [Wave.isSprout] at *
      grind [fgetD_fsetD]
    · simp [State.wave_setWave, hv]

theorem State.mreg_setS (s : State) (u r : Nat) (x : Word) (v k : Nat) : (s.setS u r x).mreg v k = s.mreg v k := by
  unfold State.setS
  dsimp only
  split
  · rfl
  · exact s.mreg_setWave_s u _ v k

/-- Uniform registers after consecutive ones are written. -/
theorem State.regs_setSs (l : List Word) (s : State) (u r v k : Nat) : (s.setSs u r l).mreg v k = s.mreg v k ∧
    (s.setSs u r l).sreg v k = if v = u ∧ r ≤ k ∧ k < r + l.length ∧ ((s.wave u).isSprout = true → 8 ≤ k ∧ k < 16) then l.getD (k - r) 0
      else s.sreg v k := by
  induction l generalizing s r with
  | nil =>
    refine ⟨rfl, ?_⟩
    rw [if_neg]
    · rfl
    · simp only [List.length_nil]; omega
  | cons x l ih =>
    obtain ⟨h1, h2⟩ := ih (s.setS u r x) (r + 1)
    refine ⟨h1.trans (s.mreg_setS u r x v k), ?_⟩
    rw [State.setSs, h2, State.sreg_setS, (WaveRegs.setS s u r x).isSprout, List.length_cons]
    by_cases hk : k = r
    · subst hk
      simp
    · have hg : r + 1 ≤ k → (x :: l).getD (k - r) 0 = l.getD (k - (r + 1)) 0 := fun hr => by
        rw [show k - r = k - (r + 1) + 1 by omega]; rfl
      grind

/-- Writes of waves one after another, each of its own registers. -/
theorem foldl_waves {β : Type} (W : State → Nat → State) (rd : State → Nat → β) (G : Nat → β → β) (s : State)
    (hW : ∀ q u, WaveRegs q (W q u)) (hrd : ∀ q u v, WaveRegs s q → rd (W q u) v = if v = u then G u (rd q u) else rd q v)
    (us : List Nat) (hn : us.Nodup) :
    WaveRegs s (us.foldl W s) ∧ ∀ v, rd (us.foldl W s) v = if v ∈ us then G v (rd s v) else rd s v := by
  have key : ∀ (us : List Nat) (q : State), us.Nodup → WaveRegs s q →
      WaveRegs s (us.foldl W q) ∧ ∀ v, rd (us.foldl W q) v = if v ∈ us then G v (rd q v) else rd q v := by
    intro us
    induction us with
    | nil => exact fun q _ h => ⟨h, fun _ => rfl⟩
    | cons u us ih =>
      intro q hn h
      obtain ⟨hu, hn⟩ := List.nodup_cons.1 hn
      obtain ⟨h1, h2⟩ := ih (W q u) hn (h.trans (hW q u))
      refine ⟨h1, fun v => ?_⟩
      rw [List.foldl_cons, h2, hrd q u v h]
      grind
  exact key us s hn (WaveRegs.refl s)

/-- A mask register of each of some waves written. -/
theorem foldl_setM (us : List Nat) (hn : us.Nodup) (s : State) (k : Nat) (val : Nat → Dword) :
    let t := us.foldl (fun q u => q.setM u k (val u)) s
    WaveRegs s t ∧ (∀ v r, t.sreg v r = s.sreg v r) ∧ ∀ v r, t.mreg v r =
      if v ∈ us ∧ r = k ∧ (s.wave v).isSprout = false then val v &&& widthMask (s.wave v).width else s.mreg v r := by
  have hW : ∀ q u, WaveRegs q (State.setM q u k (val u)) := fun q u => WaveRegs.setM q u k _
  have hs := fun r => foldl_waves _ (fun q v => q.sreg v r) (fun _ x => x) s hW
    (fun q u v _ => by rw [State.sreg_setM]; split <;> simp_all) us hn
  have hm := fun r => foldl_waves _ (fun q v => q.mreg v r)
    (fun u x => if r = k ∧ (s.wave u).isSprout = false then val u &&& widthMask (s.wave u).width else x) s hW
    (fun q u v h => by rw [State.mreg_setM, h.isSprout, h.width]; grind) us hn
  refine ⟨(hs 0).1, fun v r => ((hs r).2 v).trans (ite_self _), fun v r => ((hm r).2 v).trans ?_⟩
  grind

/-- Consecutive uniform registers of each of some waves written (R327). -/
theorem foldl_setSs (us : List Nat) (hn : us.Nodup) (s : State) (d n : Nat) (val : Nat → Nat) :
    let t := us.foldl (fun q u => q.setSs u d (toWords (val u) n)) s
    WaveRegs s t ∧ (∀ v k, t.mreg v k = s.mreg v k) ∧ ∀ v r, t.sreg v r =
      if v ∈ us ∧ d ≤ r ∧ r < d + n ∧ ((s.wave v).isSprout = true → 8 ≤ r ∧ r < 16) then BitVec.ofNat 32 (val v >>> (32 * (r - d)))
      else s.sreg v r := by
  have hW : ∀ q u, WaveRegs q (State.setSs q u d (toWords (val u) n)) := fun q u => WaveRegs.setSs _ q u d
  have hm := fun k => foldl_waves _ (fun q v => q.mreg v k) (fun _ x => x) s hW
    (fun q u v _ => by rw [(State.regs_setSs _ q u d v k).1]; split <;> simp_all) us hn
  have hs := fun r => foldl_waves _ (fun q v => q.sreg v r) (fun u x => if d ≤ r ∧ r < d + n ∧ ((s.wave u).isSprout = true → 8 ≤ r ∧ r < 16)
      then BitVec.ofNat 32 (val u >>> (32 * (r - d))) else x) s hW
    (fun q u v h => by
      have hg : d ≤ r ∧ r < d + n → (toWords (val u) n).getD (r - d) 0 = BitVec.ofNat 32 (val u >>> (32 * (r - d))) :=
        fun hr => getD_toWords _ _ _ (by omega)
      rw [(State.regs_setSs _ q u d v r).2, length_toWords, h.isSprout]
      grind) us hn
  refine ⟨(hm 0).1, fun v k => ((hm k).2 v).trans (ite_self _), fun v r => ((hs r).2 v).trans ?_⟩
  grind

/-! ## Exchanges that write their wave's registers -/

theorem mem_wavesOf_actives {s : State} {i : Instr} {b : Issue} {u : Nat} : u ∈ wavesOf (s.actives i b) ↔ s.hasActive i b u = true := by
  simp only [State.hasActive, List.any_eq_true, beq_iff_eq]
  exact ⟨mem_wavesOf, fun ⟨x, hx, e⟩ => e ▸ wavesOf_mem hx⟩

theorem threadsOf_ne_nil {l : List TRef} {u : Nat} (hu : u ∈ wavesOf l) : threadsOf l u ≠ [] := by
  obtain ⟨x, hx, rfl⟩ := mem_wavesOf hu
  exact List.ne_nil_of_mem (mem_threadsOf.2 hx)

/-- Where every active thread is a participant each wave's are one group. -/
theorem Runs.groups_one {s : State} {i : Instr} {b : Issue} (h : Runs s i b) (sel : Nat)
    (hone : ∀ x ∈ s.actives i b, s.isIn b sel x = true) :
    (s.prepared i b).groups sel (s.actives i b) = (wavesOf (s.actives i b)).map fun u => (u, threadsOf (s.actives i b) u) := by
  rw [State.groups_eq, List.map_eq_flatMap]
  refine List.flatMap_congr fun u hu => ?_
  have hin : ∀ j ∈ threadsOf (s.actives i b) u, s.isIn b sel ⟨u, j⟩ = true := fun j hj => hone _ (mem_threadsOf.1 hj)
  have h1 : (threadsOf (s.actives i b) u).filter (fun j => s.isIn b sel ⟨u, j⟩) = threadsOf (s.actives i b) u :=
    List.filter_eq_self.2 hin
  have h2 : (threadsOf (s.actives i b) u).filter (fun j => !s.isIn b sel ⟨u, j⟩) = [] :=
    List.filter_eq_nil_iff.2 fun j hj => by simp [hin j hj]
  simp only [State.waveGroups, h.takesPart, h1, h2, List.isEmpty_iff, threadsOf_ne_nil hu, if_false, List.map_nil, List.append_nil]

/-- An exchange whose groups each write registers of their wave, where every active thread is a participant. -/
theorem Runs.exchangeWaves {s : State} {i : Instr} {b : Issue} (h : Runs s i b) (f : FmtF) (W : State → State → Nat → List Nat → State)
    (hx : exec i s = runWord i (exchangeWord f fun s0 q u l => (W s0 q u l, 0)) s)
    (hone : ∀ x ∈ s.actives i b, s.isIn b f.c.toNat x = true) {t : State}
    (ht : (wavesOf (s.actives i b)).foldl (fun q u => W (s.prepared i b) q u (threadsOf (s.actives i b) u)) (s.prepared i b) = t)
    (hw : WaveRegs (s.prepared i b) t) {q m} (hq : ∀ u r, t.sreg u r = q u r) (hm : ∀ u k, t.mreg u k = m u k) :
    Completes i b s s.vreg s.preg q m s.fpswOf := by
  have hp := s.prepared_spec i b h.nodup
  have hb : exchangeWord f (fun s0 q u l => (W s0 q u l, 0)) (s.prepared i b) (s.actives i b) = .ok t := by
    rw [exchangeWord_eq, gather_noFlags, raising_none, h.groups_one _ hone, List.foldl_map, ht]
  have hr : RegsAre t s.vreg s.preg q m s.fpswOf := by
    refine ⟨fun x k => ?_, fun x k => ?_, hq, hm, fun u => ?_⟩
    · rw [← hp.regs.v x k, State.vreg, hw.thread]; rfl
    · rw [← hp.regs.p x k, State.preg, hw.thread]; rfl
    · rw [← hp.regs.f u, hw.wave u]
  obtain ⟨t', h1, h2, h3, h4, h5⟩ := h.completeReg _ t hx hb (hw.regEffect b) hr
  exact ⟨t', h1, h2, h3, fun x => (h4 x).trans (by rw [hw.thread, hp.draw]), h5⟩

end Sys2Proof.Machine
end
section
/-! PROOF. Exchanges and folds among the participants of a wave (R112 to R120). -/

namespace Sys2Proof.Machine

/-! ## Threads as bits -/

/-- A number with a bit set that it does not have. -/
theorem add_two_pow_eq_or (a j : Nat) (h : a.testBit j = false) : a + 2 ^ j = a ||| 2 ^ j := by
  have hr : a % 2 ^ (j + 1) < 2 ^ j := by
    have h1 : a / 2 ^ j % 2 = 0 := by simpa [Nat.testBit_eq_decide_div_mod_eq] using h
    rw [Nat.mod_pow_succ, h1, Nat.mul_zero, Nat.add_zero]
    exact Nat.mod_lt _ (Nat.two_pow_pos j)
  have hlt : 2 ^ j * 1 + a % 2 ^ (j + 1) < 2 ^ (j + 1) := by have := Nat.pow_succ 2 j; omega
  have ha := Nat.div_add_mod a (2 ^ (j + 1))
  calc a + 2 ^ j = 2 ^ (j + 1) * (a / 2 ^ (j + 1)) + (2 ^ j * 1 + a % 2 ^ (j + 1)) := by omega
    _ = 2 ^ (j + 1) * (a / 2 ^ (j + 1)) ||| (2 ^ j ||| a % 2 ^ (j + 1)) := by
      rw [Nat.two_pow_add_eq_or_of_lt hlt, Nat.two_pow_add_eq_or_of_lt hr, Nat.mul_one]
    _ = a ||| 2 ^ j := by
      rw [Nat.or_comm (2 ^ j), ← Nat.or_assoc, ← Nat.two_pow_add_eq_or_of_lt (Nat.mod_lt _ (Nat.two_pow_pos _)), ha]

theorem testBit_foldl_or (l : List Nat) (m k : Nat) : (l.foldl (fun m j => m ||| 2 ^ j) m).testBit k = (m.testBit k || decide (k ∈ l)) := by
  induction l generalizing m with
  | nil => simp
  | cons j l ih =>
    rw [List.foldl_cons, ih, Nat.testBit_or, Nat.testBit_two_pow]
    by_cases hk : j = k
    · simp [hk]
    · simp [hk, Ne.symm hk]

theorem testBit_bitsOf (l : List Nat) (k : Nat) : (bitsOf l).testBit k = decide (k ∈ l) := by
  simp [bitsOf, testBit_foldl_or]

/-- Threads that pass a test as bits: the sum of their powers of 2. -/
theorem groupBits_eq_sum (l : List Nat) (hl : l.Nodup) (p : Nat → Bool) :
    groupBits l p = l.foldl (fun m j => m + if p j then 2 ^ j else 0) 0 := by
  have h : ∀ (l : List Nat) (m : Nat), l.Nodup → (∀ j ∈ l, m.testBit j = false) →
      (l.filter p).foldl (fun m j => m ||| 2 ^ j) m = l.foldl (fun m j => m + if p j then 2 ^ j else 0) m := by
    intro l
    induction l with
    | nil => exact fun _ _ _ => rfl
    | cons j l ih =>
      intro m hn hm
      obtain ⟨hj, hn⟩ := List.nodup_cons.1 hn
      rw [List.foldl_cons, List.filter_cons]
      split
      next hp =>
        rw [List.foldl_cons, add_two_pow_eq_or m j (hm j (List.mem_cons_self ..))]
        refine ih _ hn fun k hk => ?_
        have hne : j ≠ k := fun e => hj (e ▸ hk)
        simp [hm k (List.mem_cons_of_mem _ hk), hne]
      next hp => exact ih m hn fun k hk => hm k (List.mem_cons_of_mem _ hk)
  exact h l 0 hl fun j _ => Nat.zero_testBit j

theorem groupBits_congr {l : List Nat} {p q : Nat → Bool} (h : ∀ j ∈ l, p j = q j) : groupBits l p = groupBits l q :=
  congrArg bitsOf (List.filter_congr h)

/-- The bits below a wave's width of threads that pass a test. -/
theorem getLsbD_groupBits (l : List Nat) (p : Nat → Bool) (w j : Nat) (hj : j < 64) :
    (BitVec.ofNat 64 (groupBits l p) &&& widthMask w).getLsbD j = (decide (j < w) && (decide (j ∈ l) && p j)) := by
  simp only [BitVec.getLsbD_and, widthMask, BitVec.getLsbD_ofNat, hj, decide_true, Bool.true_and, groupBits, testBit_bitsOf,
    Nat.testBit_two_pow_sub_one, List.mem_filter, Bool.decide_and, Bool.decide_eq_true]
  rw [Bool.and_comm]

/-! ## Folds -/

/-- One more element of a left fold (R118). -/
theorem foldAll_concat (op ty x : Nat) (xs : List Nat) (y : Nat) : foldAll op ty (x :: (xs ++ [y])) =
    ((foldOp op ty (foldAll op ty (x :: xs)).1 y).1, (foldAll op ty (x :: xs)).2 ||| (foldOp op ty (foldAll op ty (x :: xs)).1 y).2) := by
  simp [foldAll, List.foldl_append]

/-- The folds up to each element, and the flags of all (R118, R119). -/
theorem foldsOf_eq (op ty : Nat) (l : List Nat) :
    foldsOf op ty l = ((List.range l.length).map fun k => (foldAll op ty (l.take (k + 1))).1, (foldAll op ty l).2) := by
  cases l with
  | nil => rfl
  | cons x xs =>
    have h : ∀ xs : List Nat, xs.foldl (fun (a : List Nat × Nat × Nat) y =>
        (a.1 ++ [(foldOp op ty a.2.1 y).1], (foldOp op ty a.2.1 y).1, a.2.2 ||| (foldOp op ty a.2.1 y).2)) ([x], x, 0)
        = ((List.range (x :: xs).length).map fun k => (foldAll op ty ((x :: xs).take (k + 1))).1, (foldAll op ty (x :: xs)).1,
          (foldAll op ty (x :: xs)).2) := by
      intro xs
      induction xs using List.reverseRecOn with
      | nil => rfl
      | append_singleton xs y ih =>
        have hr : (List.range (x :: xs).length).map (fun k => (foldAll op ty ((x :: (xs ++ [y])).take (k + 1))).1)
            = (List.range (x :: xs).length).map fun k => (foldAll op ty ((x :: xs).take (k + 1))).1 :=
          List.map_congr_left fun k hk => by
            rw [← List.cons_append, List.take_append_of_le_length (List.mem_range.1 hk)]
        have hl : (x :: (xs ++ [y])).length = (x :: xs).length + 1 := by simp
        have ht : (x :: (xs ++ [y])).take ((x :: xs).length + 1) = x :: (xs ++ [y]) := List.take_of_length_le hl.le
        rw [List.foldl_append, ih, hl, List.range_succ, List.map_append, hr, List.map_singleton, ht, foldAll_concat]
        rfl
    have e := h xs
    unfold foldsOf
    simp only [e]

/-- The last fold is that of the whole list. -/
theorem foldsOf_last (op ty : Nat) (l : List Nat) : (foldsOf op ty l).1.getLast?.getD 0 = (foldAll op ty l).1 := by
  rw [foldsOf_eq]
  cases l with
  | nil => rfl
  | cons x xs => simp [List.range_succ]

/-- An inclusive scan at a place of the list (R119). -/
theorem foldsOf_getD (op ty : Nat) (l : List Nat) (k : Nat) (hk : k < l.length) :
    (foldsOf op ty l).1.getD k 0 = (foldAll op ty (l.take (k + 1))).1 := by
  simp [foldsOf_eq, hk]

/-- An exclusive scan at a place of the list, from the identity (R119). -/
theorem foldsOf_exclusive (op ty id : Nat) (l : List Nat) (k : Nat) (hk : k < l.length) :
    (id :: (foldsOf op ty l.dropLast).1).getD k 0 = if k = 0 then id else (foldAll op ty (l.take k)).1 := by
  cases k with
  | zero => rfl
  | succ k =>
    have h1 : k < l.dropLast.length := by rw [List.length_dropLast]; omega
    rw [List.getD_cons_succ, foldsOf_getD _ _ _ _ h1, if_neg (Nat.succ_ne_zero k), List.dropLast_eq_take, List.take_take,
      Nat.min_eq_left (by omega)]

/-- The place of an element of a list. -/
theorem place_lt {l : List Nat} {j : Nat} (h : j ∈ l) : (l.takeWhile fun k => k != j).length < l.length := by
  induction l with
  | nil => exact absurd h List.not_mem_nil
  | cons a l ih =>
    rw [List.takeWhile_cons]
    split
    next hne =>
      have hj : j ∈ l := (List.mem_cons.1 h).resolve_left fun e => by simp [e] at hne
      simpa using ih hj
    next => simp

/-! ## What a group reads -/

theorem Runs.fa_prepared {s : State} {i : Instr} {b : Issue} (h : Runs s i b) {x : TRef} (hx : x ∈ s.actives i b) (hd : Hdr) (f : FmtF) :
    (s.prepared i b).fa x hd f = s.srcNat x hd f.a f.ua (tyWords (tyOf f.mod)) :=
  ((s.prepared_spec i b h.nodup).sees x hx).srcNat hd f.a f.ua _

theorem Runs.srcNat_prepared {s : State} {i : Instr} {b : Issue} (h : Runs s i b) {x : TRef} (hx : x ∈ s.actives i b) (hd : Hdr)
    (f : BitVec 8) (u : Bool) (n : Nat) : (s.prepared i b).srcNat x hd f u n = s.srcNat x hd f u n :=
  ((s.prepared_spec i b h.nodup).sees x hx).srcNat hd f u n

theorem Runs.votePred_prepared {s : State} {i : Instr} {b : Issue} (h : Runs s i b) (u j : Nat) (f : FmtF) :
    (s.prepared i b).votePred u j f = s.votePred u j f := by
  simp only [State.votePred, (s.prepared_spec i b h.nodup).regs.p]

/-- The values of A of those who carry the exchange out with a thread. -/
theorem Runs.map_fa_mates {s : State} {i : Instr} {b : Issue} (h : Runs s i b) {x : TRef} (hx : x ∈ s.actives i b) (sel : Nat) (hd : Hdr)
    (f : FmtF) : ((s.mates i b sel x).map fun j => (s.prepared i b).fa ⟨x.u, j⟩ hd f)
      = (s.mates i b sel x).map fun j => s.srcNat ⟨x.u, j⟩ hd f.a f.ua (tyWords (tyOf f.mod)) :=
  List.map_congr_left fun _ hj => h.fa_prepared (State.mem_mates_active hx hj) hd f

end Sys2Proof.Machine
end
section
/-! PROOF. The exchange instructions (R115 to R120). -/

namespace Sys2Proof.Machine

/-! ## Votes and ballots -/

/-- BALLOT gives each thread its group's votes as bits (R115). -/
theorem Runs.ballot {s : State} {b : Issue} {h : Hdr} {f : FmtF} (hr : Runs s (.ballot h f) b) (hX : x5 f.mod = false) :
    GivesV (.ballot h f) b s f.d f.w 2 fun x =>
      (s.mates (.ballot h f) b f.c.toNat x).foldl (fun m j => m + if s.votePred x.u j f then 2 ^ j else 0) 0 := by
  refine (hr.exchangeV f 2 (fun s0 u l _ => groupBits l fun j => s0.votePred u j f) (fun _ _ _ => 0) ?_ (fun x _ => ?_)
    fun _ _ => rfl).completes hr
  · show runWord _ (exchangeWord f _) s = _
    simp only [hX]
    rfl
  · simp only [hr.votePred_prepared, groupBits_eq_sum _ (s.mates_nodup _ b hr.nodup _ x)]

/-- BALLOT with X gives each wave's mask the votes of its active threads (R115). -/
theorem Runs.ballot_mask {s : State} {b : Issue} {h : Hdr} {f : FmtF} (hr : Runs s (.ballot h f) b) (hX : x5 f.mod = true)
    (hone : ∀ x ∈ s.actives (.ballot h f) b, s.isIn b f.c.toNat x = true) :
    GivesM (.ballot h f) b s f.d.toNat fun u j => s.isActive (.ballot h f) b u j && s.votePred u j f := by
  have hp := s.prepared_spec (.ballot h f) b hr.nodup
  obtain ⟨hw, hq, hm⟩ := foldl_setM (wavesOf (s.actives (.ballot h f) b)) (nodup_wavesOf _) (s.prepared (.ballot h f) b) f.d.toNat fun u =>
    BitVec.ofNat 64 (groupBits (threadsOf (s.actives (.ballot h f) b) u) fun j => (s.prepared (.ballot h f) b).votePred u j f)
  have e1 : ∀ u, ((s.prepared (.ballot h f) b).wave u).isSprout = (s.wave u).isSprout := fun u => by rw [hp.wave u]; rfl
  have e2 : ∀ u, ((s.prepared (.ballot h f) b).wave u).width = (s.wave u).width := fun u => by rw [hp.wave u]
  refine ⟨_, hr.exchangeWaves f (fun s0 q u l => q.setM u f.d.toNat (BitVec.ofNat 64 (groupBits l fun j => s0.votePred u j f))) ?_ hone rfl
    hw (fun u r => (hq u r).trans (hp.regs.q u r)) fun _ _ => rfl, fun u r j hj => ⟨fun hu => ?_, fun hu => ?_⟩⟩
  · show runWord _ (exchangeWord f _) s = _
    simp only [hX]
    rfl
  · rw [hm, if_pos (by rw [mem_wavesOf_actives, e1]; exact hu), getLsbD_groupBits _ _ _ _ hj, e2, hr.votePred_prepared]
    simp only [mem_threadsOf, State.isActive]
  · rw [hm, if_neg (by rw [mem_wavesOf_actives, e1]; exact hu), hp.regs.m]

/-- VOTE writes the answer of each group and its negation (R116). -/
theorem Runs.vote {s : State} {b : Issue} {h : Hdr} {f : FmtF} (hr : Runs s (.vote h f) b) :
    let ans := fun (x : TRef) => voteResult (op5 f.mod) ((s.mates (.vote h f) b f.c.toNat x).map fun j => s.votePred x.u j f)
    GivesP (.vote h f) b s (s.pPair (.vote h f) b f.d fun x => (ans x, !ans x)) := by
  intro ans
  obtain ⟨T, t, hT, ha, hb⟩ := hr.exchange_acted f (fun s0 q u l => (l.foldl (fun q j => q.setPair ⟨u, j⟩ f.d 0
      (voteResult (op5 f.mod) (l.map fun j => s0.votePred u j f)) false) q, 0)) (putPair f.d fun x => (ans x, !ans x)) (fun _ => 0)
    fun q u l hn hm => ⟨Acted.ofGroup _ u l hn (fun q j hj => by
      have e : voteResult (op5 f.mod) (l.map fun j => (s.prepared (.vote h f) b).votePred u j f) = ans ⟨u, j⟩ := by
        simp only [ans, (hm j hj).2, hr.votePred_prepared]
      rw [e]
      exact Acted.setPair q _ f.d 0 _ _ rfl rfl) q, fun _ _ => rfl⟩
  exact (hr.completePairs _ rfl hT hb ha).completes hr

/-! ## Values of other threads -/

/-- SHFL gives each thread A of the thread that it reads, its own where that is no contributor (R117). -/
theorem Runs.shfl {s : State} {b : Issue} {h : Hdr} {f : FmtF} (hr : Runs s (.shfl h f) b) :
    let A := fun (u j : Nat) => s.srcNat ⟨u, j⟩ h f.a f.ua (tyWords (tyOf f.mod))
    GivesV (.shfl h f) b s f.d f.w (tyWords (tyOf f.mod)) fun x =>
      match shflFrom (op5 f.mod) x.i (s.srcNat x h f.b f.ub 1 % 64) with
      | some j => if (s.mates (.shfl h f) b f.c.toNat x).contains j then A x.u j else A x.u x.i
      | none => A x.u x.i := by
  intro A
  refine (hr.exchangeV f (tyWords (tyOf f.mod)) _ _ rfl (fun x hx => ?_) fun _ _ => rfl).completes hr
  have hA : ∀ j ∈ s.mates (.shfl h f) b f.c.toNat x, (s.prepared (.shfl h f) b).fa ⟨x.u, j⟩ h f = A x.u j :=
    fun j hj => hr.fa_prepared (State.mem_mates_active hx hj) h f
  simp only [hr.srcNat_prepared hx]
  cases shflFrom (op5 f.mod) x.i (s.srcNat x h f.b f.ub 1 % 64) with
  | none => exact hA x.i (State.self_mem_mates hx)
  | some j =>
    dsimp only
    split
    next hj => exact hA j (by simpa using hj)
    next => exact hA x.i (State.self_mem_mates hx)

/-- What BCAST gives a thread of a group: A of the thread that its B names, where that is one of the group (R117). -/
def State.bcastOf (s : State) (h : Hdr) (f : FmtF) (u : Nat) (l : List Nat) (i : Nat) : Nat :=
  if l.contains (s.srcNat ⟨u, i⟩ h f.b f.ub 1 % 64) then s.fa ⟨u, s.srcNat ⟨u, i⟩ h f.b f.ub 1 % 64⟩ h f else 0

theorem Runs.bcastOf_prepared {s : State} {b : Issue} {h : Hdr} {f : FmtF} (hr : Runs s (.bcast h f) b) {x : TRef}
    (hx : x ∈ s.actives (.bcast h f) b) {l : List Nat} (hl : ∀ j ∈ l, (⟨x.u, j⟩ : TRef) ∈ s.actives (.bcast h f) b) :
    (s.prepared (.bcast h f) b).bcastOf h f x.u l x.i = s.bcastOf h f x.u l x.i := by
  unfold State.bcastOf
  rw [hr.srcNat_prepared hx]
  split
  next hj => exact hr.fa_prepared (hl _ (by simpa using hj)) h f
  next => rfl

/-- BCAST gives each thread A of the thread that its B names, 0 where that is no contributor (R117). -/
theorem Runs.bcast {s : State} {b : Issue} {h : Hdr} {f : FmtF} (hr : Runs s (.bcast h f) b) (hX : x5 f.mod = false) :
    let K := fun x => s.srcNat x h f.b f.ub 1 % 64
    GivesV (.bcast h f) b s f.d f.w (tyWords (tyOf f.mod)) fun x =>
      if (s.mates (.bcast h f) b f.c.toNat x).contains (K x) then s.srcNat ⟨x.u, K x⟩ h f.a f.ua (tyWords (tyOf f.mod)) else 0 := by
  intro K
  refine (hr.exchangeV f (tyWords (tyOf f.mod)) (fun s0 => s0.bcastOf h f) (fun _ _ _ => 0) ?_
    (fun x hx => hr.bcastOf_prepared hx fun _ hj => State.mem_mates_active hx hj) fun _ _ => rfl).completes hr
  show runWord _ (exchangeWord f _) s = _
  simp only [hX]
  rfl

/-- BCAST with X writes uniform registers of each wave, from the B of its lowest active thread (R117). -/
theorem Runs.bcast_uniform {s : State} {b : Issue} {h : Hdr} {f : FmtF} (hr : Runs s (.bcast h f) b) (hX : x5 f.mod = true)
    (hone : ∀ x ∈ s.actives (.bcast h f) b, s.isIn b f.c.toNat x = true) :
    let K := fun x => s.srcNat x h f.b f.ub 1 % 64
    Completes (.bcast h f) b s s.vreg s.preg (s.sGiven (.bcast h f) b f.d.toNat (tyWords (tyOf f.mod)) fun u =>
      let x : TRef := ⟨u, (threadsOf (s.actives (.bcast h f) b) u).headD 0⟩
      if (threadsOf (s.actives (.bcast h f) b) u).contains (K x) then s.srcNat ⟨u, K x⟩ h f.a f.ua (tyWords (tyOf f.mod)) else 0)
      s.mreg s.fpswOf := by
  intro K
  have hp := s.prepared_spec (.bcast h f) b hr.nodup
  obtain ⟨hw, hm, hq⟩ := foldl_setSs (wavesOf (s.actives (.bcast h f) b)) (nodup_wavesOf _) (s.prepared (.bcast h f) b) f.d.toNat
    (tyWords (tyOf f.mod)) fun u => (s.prepared (.bcast h f) b).bcastOf h f u (threadsOf (s.actives (.bcast h f) b) u)
      ((threadsOf (s.actives (.bcast h f) b) u).head?.getD 0)
  refine hr.exchangeWaves f (fun s0 q u l =>
      q.setSs u f.d.toNat (toWords (s0.bcastOf h f u l (l.head?.getD 0)) (tyWords (tyOf f.mod)))) ?_ hone rfl
    hw (fun u r => (hq u r).trans ?_) fun u k => (hm u k).trans (hp.regs.m u k)
  · show runWord _ (exchangeWord f _) s = _
    simp only [hX]
    rfl
  · have e1 : ((s.prepared (.bcast h f) b).wave u).isSprout = (s.wave u).isSprout := by rw [hp.wave u]; rfl
    refine ite_congr (by rw [mem_wavesOf_actives, e1]) (fun ⟨hu, _⟩ => ?_) fun _ => hp.regs.q u r
    have hl := threadsOf_ne_nil (mem_wavesOf_actives.2 hu)
    have hx : (⟨u, (threadsOf (s.actives (.bcast h f) b) u).headD 0⟩ : TRef) ∈ s.actives (.bcast h f) b :=
      mem_threadsOf.1 (by rw [List.headD_eq_head?_getD, List.head?_eq_some_head hl]; exact List.head_mem hl)
    rw [← List.headD_eq_head?_getD, hr.bcastOf_prepared hx fun _ hj => mem_threadsOf.1 hj]
    rfl

/-- MATCH gives each thread the threads of its group with the same value, as bits (R120). -/
theorem Runs.matchLanes {s : State} {b : Issue} {h : Hdr} {f : FmtF} (hr : Runs s (.matchLanes h f) b) :
    let A := fun (u j : Nat) => s.srcNat ⟨u, j⟩ h f.a f.ua (tyWords (tyOf f.mod))
    GivesV (.matchLanes h f) b s f.d f.w 2 fun x =>
      (s.mates (.matchLanes h f) b f.c.toNat x).foldl (fun m j => m + if A x.u j == A x.u x.i then 2 ^ j else 0) 0 := by
  intro A
  refine (hr.exchangeV f 2 _ _ rfl (fun x hx => ?_) fun _ _ => rfl).completes hr
  rw [← groupBits_eq_sum _ (s.mates_nodup _ b hr.nodup _ x)]
  refine groupBits_congr fun j hj => ?_
  rw [hr.fa_prepared (State.mem_mates_active hx hj), hr.fa_prepared hx]

/-! ## Folds -/

/-- RDX gives each thread its group's left fold (R118). -/
theorem rdx_completes (s : State) (b : Issue) (h : Hdr) (f : FmtF) :
    let xs := fun (x : TRef) => (s.mates (.rdx h f) b f.c.toNat x).map fun j => s.srcNat ⟨x.u, j⟩ h f.a f.ua (tyWords (tyOf f.mod))
    FpCompletes (.rdx h f) b s (s.vGiven (.rdx h f) b f.d f.w (tyWords (tyOf f.mod)) fun x => (foldAll (op5 f.mod) (tyOf f.mod) (xs x)).1)
      s.preg (fun x => (foldAll (op5 f.mod) (tyOf f.mod) (xs x)).2) fun _ => 0 := by
  intro xs hr
  refine hr.exchangeV f (tyWords (tyOf f.mod)) _ _ rfl (fun x hx => ?_) (fun x hx => ?_) hr
  · rw [hr.map_fa_mates hx, foldsOf_last]
  · rw [hr.map_fa_mates hx, foldsOf_eq]

/-- SCAN gives each thread the left fold up to itself, or with X up to the one before it, from the identity (R119). -/
theorem scan_completes (s : State) (b : Issue) (h : Hdr) (f : FmtF) :
    let xs := fun (x : TRef) => (s.mates (.scan h f) b f.c.toNat x).map fun j => s.srcNat ⟨x.u, j⟩ h f.a f.ua (tyWords (tyOf f.mod))
    let pos := fun (x : TRef) => ((s.mates (.scan h f) b f.c.toNat x).takeWhile fun j => j != x.i).length
    FpCompletes (.scan h f) b s (s.vGiven (.scan h f) b f.d f.w (tyWords (tyOf f.mod)) fun x =>
        if x5 f.mod then
          (if pos x = 0 then foldIdentity (op5 f.mod) (tyOf f.mod) else (foldAll (op5 f.mod) (tyOf f.mod) ((xs x).take (pos x))).1)
        else (foldAll (op5 f.mod) (tyOf f.mod) ((xs x).take (pos x + 1))).1)
      s.preg (fun x => (foldAll (op5 f.mod) (tyOf f.mod) (if x5 f.mod then (xs x).dropLast else xs x)).2) fun _ => 0 := by
  intro xs pos hr
  refine hr.exchangeV f (tyWords (tyOf f.mod)) _ _ rfl (fun x hx => ?_) (fun x hx => ?_) hr
  · have hlt : pos x < (xs x).length := by
      rw [List.length_map]; exact place_lt (State.self_mem_mates hx)
    simp only [hr.map_fa_mates hx]
    cases x5 f.mod
    · exact foldsOf_getD _ _ _ _ hlt
    · exact foldsOf_exclusive _ _ _ _ _ hlt
  · rw [hr.map_fa_mates hx, foldsOf_eq]

/-- Settles O13: each exchange is what its groups do, each from inputs of before any wrote. -/
theorem exchangesAndFolds : Obligations.ExchangesAndFolds :=
  ⟨fun _ _ _ _ => ⟨fun hr => hr.ballot, fun hr => hr.ballot_mask, fun hr => hr.vote, fun hr => hr.shfl, fun hr => hr.bcast,
    fun hr => hr.bcast_uniform, fun hr => hr.matchLanes⟩, fun s b h f => ⟨rdx_completes s b h f, scan_completes s b h f⟩⟩

end Sys2Proof.Machine
end
section
/-! SUPPORT. Results of threads in v registers and latches (R52, R59, R89), alone or with a predicate. -/

namespace Sys2Proof.Machine

/-! ## Threads that act each from its own registers -/

/-- Active threads that each act on themselves from their own registers have all acted, and none meets a cause. -/
theorem Runs.acted_each {s : State} {i : Instr} {b : Issue} (h : Runs s i b) (f : State → TRef → State) {F : TRef → Thread → Thread}
    (hf : ∀ r x, SeesSame s r x → Acted [x] F r (f r x)) :
    ∃ t, Acted (s.actives i b) F (s.prepared i b) t
      ∧ perThread (s.actives i b) (s.prepared i b) (fun r x => .ok (f r x)) = .ok t := by
  have hq := s.prepared_spec i b h.nodup
  have hn : ((s.actives i b).flatMap fun x => [x]).Nodup := by
    rw [List.flatMap_singleton']; exact h.nodup.filter _
  obtain ⟨h1, h2⟩ := gather_acted (fun x => [x]) (fun r x => (f r x, 0)) (s.actives i b) (s.prepared i b) (fun _ => 0) F hn
    fun r x hxa hsb he => ⟨hf r x ((hq.sees x hxa).trans (hsb.sees (he x (List.mem_singleton.2 rfl)))), fun _ _ => rfl⟩
  rw [List.flatMap_singleton'] at h1 h2
  exact ⟨_, h1, by rw [perThread_ok, mathThreads_eq, h2, raising_none]⟩

theorem Acted.modAll {l : List TRef} (hl : l.Nodup) (F : TRef → Thread → Thread) (s : State) : Acted l F s (s.modAll l F) :=
  ⟨State.sameBut_modAll l s F, State.thread_modAll l s F hl⟩

/-- Within a chain, the threads stand after the word with the registers and latches that its entry gave them. -/
theorem Runs.thread_inChain {s : State} {i : Instr} {b : Issue} (h : Runs s i b) (body : State → List TRef → Res)
    (hx : exec i s = runWord i body s) {t : State} (hb : body (s.prepared i b) (s.actives i b) = .ok t)
    {F : TRef → Thread → Thread} (ha : Acted (s.actives i b) F (s.prepared i b) t) (hF : RegsOnly F) (hc : chainBit i = true) :
    ∃ t', exec i s = .next t' ∧ ∀ x, t'.thread x = t.thread x := by
  have hq := s.prepared_spec i b h.nodup
  have he := ha.regEffect b (fun x hxa => (List.mem_filter.1 hxa).1) hF
  have hp : ∀ u ∈ wavesOf b.threads, t.plainWave u := fun u hu => he.plainWave u (hq.plainWave u (h.plainWave u hu))
  refine ⟨t.endUnit i b, hx.trans (h.exec_ok body hb hp), fun x => ?_⟩
  rw [(t.endUnit_spec i b h.nodup hp).2.1, if_neg (fun e => by simp [hc] at e)]

/-! ## A result and the latches -/

theorem upto_eq_range' (a n : Nat) : upto a n = List.range' a n := by
  induction n generalizing a with
  | zero => rfl
  | succ n ih => exact congrArg (a :: ·) (ih (a + 1))

theorem upto_zero (n : Nat) : upto 0 n = List.range n := by
  rw [upto_eq_range', List.range_eq_range']

theorem toWords_eq_map (v n : Nat) : toWords v n = (List.range n).map fun k => BitVec.ofNat 32 (v >>> (32 * k)) := by
  rw [toWords, upto_zero]

/-- A thread with a result: in its v registers unless W, and shifted into its latches (R52, R59). -/
def takeResult (d : BitVec 8) (w : Bool) (n : Nat) (val : TRef → Nat) (x : TRef) (th : Thread) : Thread :=
  { putResult d w n val x th with y := ((toWords (val x) n).reverse ++ th.y).take 4 }

theorem Acted.result (q : State) (x : TRef) (d : BitVec 8) (w : Bool) (n : Nat) (val : TRef → Nat) :
    Acted [x] (takeResult d w n val) q (q.result x d w n (val x)) := by
  rw [State.result_eq]
  refine ⟨SameBut.modThread q x _, fun y => ?_⟩
  rw [State.thread_modThread]
  simp only [List.mem_singleton, List.foldl_flip_cons_eq_append']
  split
  next e => subst e; rfl
  next => rfl

/-- The idle threads of a result-producing word shift its unchanged destination (R89). -/
theorem State.shiftIdle_result (s : State) {i : Instr} (b : Issue) {d : BitVec 8} {w : Bool} {n : Nat} (hp : producesResult i = true)
    (hu : ∃ us, usesOf i = .dst d w n :: us) :
    s.shiftIdle i b = s.modAll (b.threads.filter fun t => !s.active i t) fun x th =>
      { th with y := (((List.range n).map fun k => s.vreg x (d.toNat + k)).reverse ++ th.y).take 4 } := by
  obtain ⟨us, hu⟩ := hu
  unfold State.shiftIdle
  split
  · cases hu
  · simp only [hp, if_true, hu, List.find?_cons_of_pos, upto_zero, State.shift, List.foldl_flip_cons_eq_append']
    rfl

/-- The latches of the bundle's threads before the entry acts: those of idle threads have shifted (R89). -/
theorem State.prepared_latches (s : State) {i : Instr} {b : Issue} (hn : b.threads.Nodup) {d : BitVec 8} {w : Bool} {n : Nat}
    (hp : producesResult i = true) (hu : ∃ us, usesOf i = .dst d w n :: us) {x : TRef} (hx : x ∈ b.threads)
    (hi : s.active i x = false) :
    ((s.prepared i b).thread x).y = (((List.range n).map fun k => s.vreg x (d.toNat + k)).reverse ++ (s.thread x).y).take 4 := by
  have hth : (s.openChain i b).thread x = s.thread x := by simp only [State.thread, State.wave, State.openChain_waves]
  have hadv : ∃ pc r a st, ((s.openChain i b).advance b).thread x
      = { s.thread x with pc := pc, readyAt := r, go := 0, at_ := a, step := st } := by
    rw [State.advance_eq, State.thread_modAll _ _ _ hn, if_pos hx, hth]
    exact ⟨_, _, _, _, rfl⟩
  obtain ⟨pc, r, a, st, hadv⟩ := hadv
  have hidle : ((s.openChain i b).advance b).active i x = false :=
    (State.active_congr (s := s) i x (by rw [hadv])).trans hi
  rw [State.prepared, State.shiftIdle_result _ b hp hu, State.thread_modAll _ _ _ (hn.filter _),
    if_pos (List.mem_filter.2 ⟨hx, by simp [hidle]⟩)]
  simp only [State.vreg, hadv]

/-- A word that gives each active thread a result gives it to the latches too, where the chain goes on (R52, R59, R89). -/
theorem Runs.givesR {s : State} {i : Instr} {b : Issue} (h : Runs s i b) (d : BitVec 8) (w : Bool) (n : Nat)
    (g : State → TRef → Nat) (hx : ∀ r, exec i r = runWord i (eachResult d w n g) r) (hg : ReadsOwn g)
    (hp : producesResult i = true) (hu : ∃ us, usesOf i = .dst d w n :: us) : GivesR i b s d w n (g s) := by
  refine ⟨h.givesV d w n g hx hg, fun hc => ?_⟩
  obtain ⟨t, ha, hb⟩ := h.acted_each (fun r x => r.result x d w n (g r x)) (F := takeResult d w n (g s)) fun r x hs => by
    rw [hg s r x hs]; exact Acted.result r x d w n (g s)
  obtain ⟨t', ht', hth⟩ := h.thread_inChain (eachResult d w n g) (hx s) hb ha (fun _ _ => rfl) hc
  refine ⟨t', ht', fun x hxb => ?_⟩
  rw [hth, ha.thread]
  by_cases hxa : x ∈ s.actives i b
  · have hy : ((s.prepared i b).thread x).y = (s.thread x).y := ((s.prepared_spec i b h.nodup).sees x hxa).y
    simp only [if_pos hxa, State.shifted, takeResult, putResult, toWords_eq_map, hy]
  · have hi : s.active i x = false := by simpa [State.actives, hxb] using hxa
    simp only [if_neg hxa, State.shifted, s.prepared_latches h.nodup hp hu hxb hi]

/-! ## A result and a predicate -/

/-- Two effects that write the same v registers leave the same v registers. -/
theorem Acted.vreg_congr {l : List TRef} {F G : TRef → Thread → Thread} {s t q : State} (h1 : Acted l F s t) (h2 : Acted l G s q)
    (hFG : ∀ x th, (F x th).v = (G x th).v) (x : TRef) (k : Nat) : t.vreg x k = q.vreg x k := by
  simp only [State.vreg, h1.thread, h2.thread]
  split
  · rw [hFG]
  · rfl

/-- A thread with a result and a predicate written after it. -/
def takeResultPred (d : BitVec 8) (w : Bool) (n p : Nat) (val : TRef → Nat) (c : TRef → Bool) (x : TRef) (th : Thread) : Thread :=
  (takeResult d w n val x th).withPred p (c x)

theorem takeResultPred_eq (d : BitVec 8) (w : Bool) (n p : Nat) (val : TRef → Nat) (c : TRef → Bool) (x : TRef) (th : Thread) :
    takeResultPred d w n p val c x th
      = { takeResult d w n val x th with p := (th.withPred p (c x)).p } := by
  unfold takeResultPred Thread.withPred; split <;> rfl

/-- The predicates of threads that have written one. -/
theorem Acted.preg_withPred {s t : State} {i : Instr} {b : Issue} {F : TRef → Thread → Thread} {p : Nat} {c : TRef → Bool}
    (ha : Acted (s.actives i b) F (s.prepared i b) t) (hq : Prepared s (s.prepared i b) i b)
    (hF : ∀ x th, (F x th).p = (th.withPred p (c x)).p) (x : TRef) (k : Nat) :
    t.preg x k = if x ∈ s.actives i b ∧ k = p ∧ p < 7 then c x else s.preg x k := by
  rw [← hq.regs.p x k]
  by_cases hx : x ∈ s.actives i b
  · have e : (t.thread x).p = (((s.prepared i b).setP x p (c x)).thread x).p := by
      rw [ha.thread, if_pos hx, hF, (Acted.setP _ x p (c x)).thread, if_pos (List.mem_singleton.2 rfl)]
    have e2 : t.preg x k = ((s.prepared i b).setP x p (c x)).preg x k := by simp only [State.preg, e]
    rw [e2, State.preg_setP]
    simp only [hx, true_and]
  · simp [State.preg, ha.thread, hx]

/-- A word whose active threads each take a result and write a predicate, from their own registers. -/
theorem Runs.givesVP {s : State} {i : Instr} {b : Issue} (h : Runs s i b) (d : BitVec 8) (w : Bool) (n p : Nat)
    (g : State → TRef → Nat) (c : State → TRef → Bool)
    (hx : exec i s = runWord i (fun r l => perThread l r fun r x => .ok ((r.result x d w n (g r x)).setP x p (c r x))) s)
    (hg : ReadsOwn g) (hc : ReadsOwn c) :
    Completes i b s (s.vGiven i b d w n (g s)) (fun x k => if x ∈ s.actives i b ∧ k = p ∧ p < 7 then c s x else s.preg x k)
      s.sreg s.mreg s.fpswOf := by
  have hq := s.prepared_spec i b h.nodup
  have hF := takeResultPred_eq d w n p (g s) (c s)
  obtain ⟨t, ha, hb⟩ := h.acted_each (fun r x => (r.result x d w n (g r x)).setP x p (c r x))
    (F := takeResultPred d w n p (g s) (c s)) fun r x hs => by
      rw [hg s r x hs, hc s r x hs]
      refine ((Acted.result r x d w n (g s)).comp (Acted.setP _ x p (c s x))).congr (fun _ => Iff.rfl) fun y hy => ?_
      rw [List.mem_singleton.1 hy]; rfl
  have hv := Acted.modAll (h.nodup.filter (s.active i)) (putResult d w n (g s)) (s.prepared i b)
  refine (h.completeActed _ hx (List.Perm.refl _) (hb.trans (raising_none _ t _).symm) ha
    (fun x th => by rw [hF]; rfl) (fun x th => by rw [hF]; rfl) (fun x k => ?_)
    (ha.preg_withPred hq fun x th => by rw [hF])).completes h
  rw [ha.vreg_congr hv (fun x th => by rw [hF]; rfl), hv.vreg_putResult hq fun _ => Iff.rfl]

end Sys2Proof.Machine
end
section
/-! PROOF. Integer arithmetic with saturation, and carries (R126, R132, R133, R141). -/

namespace Sys2Proof.Machine

/-! ## What sources read -/

theorem State.srcNat_lt (s : State) (x : TRef) (h : Hdr) (f : BitVec 8) (u : Bool) (ty : Nat) :
    s.srcNat x h f u (tyWords ty) < 2 ^ (32 * tyWords ty) := by
  unfold State.srcNat tyWords
  split
  · exact (s.src64 x h f u).isLt
  · exact (s.src x h f u).isLt

theorem SeesSame.fa {s r : State} {x : TRef} (hs : SeesSame s r x) (h : Hdr) (f : FmtF) : r.fa x h f = s.fa x h f := hs.srcNat ..
theorem SeesSame.fb {s r : State} {x : TRef} (hs : SeesSame s r x) (h : Hdr) (f : FmtF) : r.fb x h f = s.fb x h f := hs.srcNat ..
theorem SeesSame.fc {s r : State} {x : TRef} (hs : SeesSame s r x) (h : Hdr) (f : FmtF) : r.fc x h f = s.fc x h f := hs.srcNat ..

theorem SeesSame.carryIn {s r : State} {x : TRef} (hs : SeesSame s r x) (f : FmtF) : r.carryIn x f = s.carryIn x f := by
  simp only [State.carryIn, hs.preg]

/-! ## Exact results -/

/-- A word of two integer sources gives its exact result, saturated where SAT asks and wrapped (R126, R132). -/
theorem Runs.intWord {s : State} {i : Instr} {b : Issue} (h : Runs s i b) (hd : Hdr) (f : FmtF) (g : Int → Int → Int)
    (hx : ∀ r, exec i r = runWord i (Machine.intWord hd f g) r) (hp : producesResult i = true)
    (hu : ∃ us, usesOf i = .dst f.d f.w (tyWords (tyOf f.mod)) :: us) :
    GivesR i b s f.d f.w (tyWords (tyOf f.mod)) fun x =>
      satWrap (tyOf f.mod) (satOf f.mod) (g (intRead (tyOf f.mod) (s.fa x hd f)) (intRead (tyOf f.mod) (s.fb x hd f))) :=
  h.givesR f.d f.w _ _ hx (fun _ _ _ hs => by simp only [hs.fa, hs.fb]) hp hu

theorem natAbs_eq_ite (a : Int) : (if a < 0 then -a else a) = (a.natAbs : Int) := by
  split <;> omega

theorem max_eq_ite : (fun a b : Int => if a ≥ b then a else b) = max := by
  funext a b; exact (max_def' a b).symm

/-! ## Carries (R133) -/

theorem cast_ge_two_pow (k m : Nat) : ((m : Int) ≥ 2 ^ k) = (2 ^ k ≤ m) := by
  rw [eq_iff_iff]; exact_mod_cast Iff.rfl

theorem sub_sub_neg_eq (a b c : Nat) : ((a : Int) - b - c < 0) = (a < b + c) := by
  rw [eq_iff_iff]; omega

theorem wrapWords_natCast (m n : Nat) : wrapWords m n = m % 2 ^ (32 * n) := by
  unfold wrapWords; exact_mod_cast Int.toNat_natCast _

theorem State.carryIn_eq (s : State) (x : TRef) (f : FmtF) :
    s.carryIn x f = ((if s.preg x (f.c.extractLsb' 0 3).toNat != f.c.getLsbD 3 then 1 else 0 : Nat) : Int) := by
  unfold State.carryIn; split <;> rfl

/-- A difference that may be negative wraps as itself with twice the modulus added. -/
theorem wrapWords_sub (a b c n : Nat) (h : b + c ≤ 2 ^ (32 * n + 1)) :
    wrapWords ((a : Int) - b - c) n = (a + 2 ^ (32 * n + 1) - b - c) % 2 ^ (32 * n) := by
  rw [← wrapWords_natCast]
  have e : ((a + 2 ^ (32 * n + 1) - b - c : Nat) : Int) = (a - b - c) + 2 ^ (32 * n) * 2 := by
    rw [pow_succ] at *
    push_cast [show c ≤ a + 2 ^ (32 * n) * 2 - b by omega, show b ≤ a + 2 ^ (32 * n) * 2 by omega]
    ring
  rw [e, wrapWords, wrapWords, Int.add_mul_emod_self_left]

/-- A word with a carry gives the exact result wrapped, and its carry (R133). -/
theorem Runs.carryWord {s : State} {i : Instr} {b : Issue} (h : Runs s i b) (hd : Hdr) (f : FmtF) (g : Int → Int → Int → Int)
    (co : Int → Nat → Bool) (hx : exec i s = runWord i (Machine.carryWord hd f g co) s) :
    let n := tyWords (tyOf f.mod)
    let r := fun x => g (s.fa x hd f) (s.fb x hd f) (s.carryIn x f)
    Completes i b s (s.vGiven i b f.d f.w n fun x => wrapWords (r x) n)
      (fun x k => if x ∈ s.actives i b ∧ k = (f.c.extractLsb' 4 3).toNat ∧ (f.c.extractLsb' 4 3).toNat < 7 then co (r x) n
        else s.preg x k) s.sreg s.mreg s.fpswOf :=
  h.givesVP f.d f.w (tyWords (tyOf f.mod)) (f.c.extractLsb' 4 3).toNat
    (fun s x => wrapWords (g (s.fa x hd f) (s.fb x hd f) (s.carryIn x f)) (tyWords (tyOf f.mod)))
    (fun s x => co (g (s.fa x hd f) (s.fb x hd f) (s.carryIn x f)) (tyWords (tyOf f.mod)))
    hx (fun _ _ _ hs => by simp only [hs.fa, hs.fb, hs.carryIn])
    fun _ _ _ hs => by simp only [hs.fa, hs.fb, hs.carryIn]

/-- Settles O1: each word gives what its threads' sources give, exact, saturated and wrapped; carries wrap as natural numbers. -/
theorem integerArithmeticAndCarryChains : Obligations.IntegerArithmeticAndCarryChains := by
  unfold Obligations.IntegerArithmeticAndCarryChains
  refine ⟨fun s b h f => ⟨?iadd, ?isub, ?imul, ?imin, ?imax, ?iabs, ?imad, ?imulh, ?imadw⟩, fun s b h f => ⟨?iaddc, ?isubb⟩⟩
  case iadd => exact fun hr => hr.intWord h f (fun a b => a + b) (fun _ => rfl) rfl ⟨_, rfl⟩
  case isub => exact fun hr => hr.intWord h f (fun a b => a - b) (fun _ => rfl) rfl ⟨_, rfl⟩
  case imul => exact fun hr => hr.intWord h f (fun a b => a * b) (fun _ => rfl) rfl ⟨_, rfl⟩
  case imulh => exact fun hr => hr.intWord h f (fun a b => a * b / 2 ^ (32 * tyWords (tyOf f.mod))) (fun _ => rfl) rfl ⟨_, rfl⟩
  case imin => exact fun hr => hr.intWord h f min (fun _ => rfl) rfl ⟨_, rfl⟩
  case imax => exact fun hr => hr.intWord h f max (fun _ => by rw [← max_eq_ite]; rfl) rfl ⟨_, rfl⟩
  case iabs =>
    exact fun hr => hr.givesR f.d f.w (tyWords (tyOf f.mod))
      (fun s x => satWrap (tyOf f.mod) (satOf f.mod) (intRead (tyOf f.mod) (s.fa x h f)).natAbs)
      (fun _ => by simp only [← natAbs_eq_ite]; rfl) (fun _ _ _ hs => by simp only [hs.fa]) rfl ⟨_, rfl⟩
  case imad =>
    exact fun hr => hr.givesR f.d f.w (tyWords (tyOf f.mod))
      (fun s x => satWrap (tyOf f.mod) (satOf f.mod)
        (intRead (tyOf f.mod) (s.fa x h f) * intRead (tyOf f.mod) (s.fb x h f) + intRead (tyOf f.mod) (s.fc x h f)))
      (fun _ => rfl) (fun _ _ _ hs => by simp only [hs.fa, hs.fb, hs.fc]) rfl ⟨_, rfl⟩
  case imadw =>
    exact fun hr => hr.givesR f.d f.w 2
      (fun s x => wrapWords (intRead (tyOf f.mod) (s.srcNat x h f.a f.ua 1) * intRead (tyOf f.mod) (s.srcNat x h f.b f.ub 1)
        + intRead (tyOf f.mod + 2) (s.srcNat x h f.c f.uc 2)) 2)
      (fun _ => rfl) (fun _ _ _ hs => by simp only [hs.srcNat]) rfl ⟨_, rfl⟩
  case iaddc =>
    intro hr
    have e := hr.carryWord h f (fun a b c => a + b + c) (fun x n => decide (x ≥ 2 ^ (32 * n))) rfl
    simp only [State.carryIn_eq, ← Nat.cast_add, wrapWords_natCast, cast_ge_two_pow] at e
    exact e
  case isubb =>
    intro hr
    have e := hr.carryWord h f (fun a b c => a - b - c) (fun x _ => decide (x < 0)) rfl
    have hle : ∀ x, s.fb x h f + (if s.preg x (f.c.extractLsb' 0 3).toNat != f.c.getLsbD 3 then 1 else 0)
        ≤ 2 ^ (32 * tyWords (tyOf f.mod) + 1) := fun x => by
      have hb := s.srcNat_lt x h f.b f.ub (tyOf f.mod)
      rw [pow_succ, State.fb]
      split <;> omega
    simp only [State.carryIn_eq, wrapWords_sub _ _ _ _ (hle _), sub_sub_neg_eq] at e
    exact e

end Sys2Proof.Machine
end
section
/-! PROOF. Division (R142). -/

namespace Sys2Proof.Machine

/-- The one quotient that leaves the range of a signed TYPE: of its least value by -1. -/
abbrev DivOverflows (ty : Nat) (a b : Int) : Prop := (ty = 0 ∨ ty = 2) ∧ a = -(2 ^ (32 * tyWords ty - 1)) ∧ b = -1

theorem divide_overflow {ty : Nat} {a b : Int} (h : DivOverflows ty a b) : divide ty a b = (a, 0, true) := by
  obtain ⟨hty, rfl, rfl⟩ := h
  simp [divide, hty]

theorem divide_exact {ty : Nat} {a b : Int} (h0 : b ≠ 0) (h : ¬ DivOverflows ty a b) :
    divide ty a b = (a.tdiv b, a.tmod b, false) := by
  simp only [divide, if_neg h0]
  rw [if_neg (by simpa [DivOverflows] using h)]

/-- Quotient, remainder and exception by the three cases of R142. -/
theorem divide_eq (ty : Nat) (a b : Int) : divide ty a b =
    (if b = 0 then 2 ^ (32 * tyWords ty) - 1 else if DivOverflows ty a b then a else a.tdiv b,
      if b = 0 then a else if DivOverflows ty a b then 0 else a.tmod b, decide (b = 0 ∨ DivOverflows ty a b)) := by
  by_cases h0 : b = 0
  · subst h0; simp [divide]
  · by_cases ho : DivOverflows ty a b
    · rw [divide_overflow ho, if_neg h0, if_pos ho, if_neg h0, if_pos ho, decide_eq_true (Or.inr ho)]
    · rw [divide_exact h0 ho, if_neg h0, if_neg ho, if_neg h0, if_neg ho, decide_eq_false (not_or.2 ⟨h0, ho⟩)]

/-- C of a legal IDIV or IREM names a predicate and nothing else (R142). -/
theorem usesDiv_legal {f : FmtF} {imx : Bool} (h : (usesDiv f).all (Use.legal imx) = true) : f.c.toNat < 8 ∧ f.uc = false := by
  simp only [usesDiv, List.cons_append, List.all_cons, Use.legal, Bool.and_eq_true, Bool.not_eq_true', beq_iff_eq] at h
  obtain ⟨-, -, -, huc, hc, -⟩ := h
  have h0 : f.c.toNat / 2 ^ 3 % 2 ^ 5 = 0 := by
    rw [← Nat.shiftRight_eq_div_pow, ← BitVec.extractLsb'_toNat, hc]; rfl
  exact ⟨by omega, huc⟩

/-- A divide word gives the part of the quotient and remainder that it asks for, and the exception (R142). -/
theorem Runs.divWord {s : State} {i : Instr} {b : Issue} (h : Runs s i b) (hd : Hdr) (f : FmtF) (g : Int × Int × Bool → Int)
    (hx : exec i s = runWord i (Machine.divWord hd f g) s) :
    let ty := tyOf f.mod
    let n := tyWords ty
    let r := fun x => divide ty (intRead ty (s.fa x hd f)) (intRead ty (s.fb x hd f))
    Completes i b s (s.vGiven i b f.d f.w n fun x => wrapWords (g (r x)) n)
      (fun x k => if x ∈ s.actives i b ∧ k = (f.c.extractLsb' 0 3).toNat ∧ k < 7 then (r x).2.2
        else s.preg x k) s.sreg s.mreg s.fpswOf := by
  intro ty n r
  have hk : ∀ k, (k = (f.c.extractLsb' 0 3).toNat ∧ k < 7) = (k = (f.c.extractLsb' 0 3).toNat ∧ (f.c.extractLsb' 0 3).toNat < 7) :=
    fun k => by rw [eq_iff_iff]; exact and_congr_right fun e => by rw [e]
  simp only [hk]
  exact h.givesVP f.d f.w (tyWords (tyOf f.mod)) (f.c.extractLsb' 0 3).toNat
    (fun s x => wrapWords (g (divide (tyOf f.mod) (intRead (tyOf f.mod) (s.fa x hd f)) (intRead (tyOf f.mod) (s.fb x hd f))))
      (tyWords (tyOf f.mod)))
    (fun s x => (divide (tyOf f.mod) (intRead (tyOf f.mod) (s.fa x hd f)) (intRead (tyOf f.mod) (s.fb x hd f))).2.2)
    hx (fun _ _ _ hs => by simp only [hs.fa, hs.fb]) fun _ _ _ hs => by simp only [hs.fa, hs.fb]

/-- Settles O2: both words give the part of the exact division that they ask for, by the cases of R142, with its exception. -/
theorem divisionNeverTraps : Obligations.DivisionNeverTraps := by
  unfold Obligations.DivisionNeverTraps
  intro s b h f ty n N A B ovf puts
  refine ⟨?legal, ?quotient, ?remainder⟩
  case legal =>
    rintro (hw | hw)
    · exact usesDiv_legal (Bool.and_eq_true_iff.1 hw).2
    · exact usesDiv_legal (Bool.and_eq_true_iff.1 hw).2
  case quotient =>
    intro hr
    have e := hr.divWord h f (fun r => r.1) rfl
    simp only [divide_eq] at e
    exact e
  case remainder =>
    intro hr
    have e := hr.divWord h f (fun r => r.2.1) rfl
    simp only [divide_eq] at e
    exact e

end Sys2Proof.Machine
end
section
/-! PROOF. Integer atomics (R268, R269). -/

namespace Sys2Proof.Machine

/-- A word as min and max compare it: signed for the types i32 and i64 (R264, R268). -/
def atomVal (sz v : Nat) : Int := if sz = 0 ∨ sz = 2 then sext v (8 * atomBytes sz) else (v : Int)

/-- Words of n bits that read the same as signed are the same. -/
theorem sext_inj {n v w : Nat} (hv : v < 2 ^ n) (hw : w < 2 ^ n) (h : sext v n = sext w n) : v = w := by
  obtain ⟨x, rfl⟩ : ∃ x : BitVec n, x.toNat = v := ⟨.ofNatLT v hv, rfl⟩
  obtain ⟨y, rfl⟩ : ∃ y : BitVec n, y.toNat = w := ⟨.ofNatLT w hw, rfl⟩
  rw [sext_toNat, sext_toNat, BitVec.toInt_inj] at h
  rw [h]

theorem atomVal_inj {sz v w : Nat} (hv : v < 2 ^ (8 * atomBytes sz)) (hw : w < 2 ^ (8 * atomBytes sz))
    (h : atomVal sz v = atomVal sz w) : v = w := by
  unfold atomVal at h
  split at h
  · exact sext_inj hv hw h
  · exact Int.ofNat_inj.1 h

/-- The pick is by the value, for either signedness. -/
theorem atomPick_eq (sz old v : Nat) (great : Bool) :
    atomPick sz old v great = if decide (atomVal sz old ≤ atomVal sz v) != great then old else v := by
  by_cases hs : sz = 0 ∨ sz = 2 <;> simp [atomPick, atomVal, hs]

theorem atomPick_least (sz old v : Nat) :
    atomPick sz old v false = if atomVal sz old ≤ atomVal sz v then old else v := by
  simp [atomPick_eq]

/-- The model takes the operand on a tie, which is the old value by `atomVal_inj`. -/
theorem atomPick_greatest {sz old v : Nat} (ho : old < 2 ^ (8 * atomBytes sz)) (hv : v < 2 ^ (8 * atomBytes sz)) :
    atomPick sz old v true = if atomVal sz old ≥ atomVal sz v then old else v := by
  rw [atomPick_eq]
  obtain hlt | heq | hgt := lt_trichotomy (atomVal sz old) (atomVal sz v)
  · simp [hlt.le, hlt.not_ge]
  · simp [atomVal_inj ho hv heq]
  · simp [hgt.le, hgt.not_ge]

/-- A compare-and-swap stores an operand of the type's width where the old value is the expected one (R271). -/
theorem atomApply_cas {sz d : Nat} (old e : Nat) (hd : d < 2 ^ (8 * atomBytes sz)) :
    atomApply .cas sz old d e = if old = e then (d, true, false) else (old, false, true) := by
  rw [atomApply, Nat.mod_eq_of_lt hd]

/-- Settles O16: each operation is its equation in `atomApply`, but for min and max, which pick by the value, and for
xchg and cas, whose operand fits the width. -/
theorem atomicArithmetic : Obligations.AtomicArithmetic := by
  unfold Obligations.AtomicArithmetic
  intro ty old a c _ hold ha _ M val
  refine ⟨rfl, rfl, rfl, rfl, ?xchg, ?min, ?max, rfl, rfl, ?casWrites, ?casStores⟩
  case xchg => rw [atomApply, Nat.mod_eq_of_lt ha]
  case min => rw [atomApply, atomPick_least]; rfl
  case max => rw [atomApply, atomPick_greatest hold ha]; rfl
  case casWrites =>
    rw [atomApply_cas old c ha]
    by_cases h : old = c <;> simp [h]
  case casStores =>
    intro h
    rw [atomApply_cas old c ha, if_pos h]

end Sys2Proof.Machine
end
